-- ==== Sys2Proof/Word.lean ====
section
/-! DEFINITION. The word types of the BX-2048 (spec 00, R9) and their plainest arithmetic. -/

namespace Sys2Proof

/-- A byte, the unit of every memory (R8, R9). -/
abbrev Byte := BitVec 8
/-- A doubleword: a g, p, e or b register, a special register, a constant word (R9, R209). -/
abbrev Word := BitVec 64
/-- A vector register (R209). -/
abbrev VReg := BitVec 2048
/-- A core number (R15). -/
abbrev CoreNo := BitVec 11

end Sys2Proof
end

