-- ==== Sys2Proof/Machine/Bits.lean ====
section
/-! DEFINITION. Bit fields, sign extension and byte order (spec 00, R7, R8; spec 09, R199). -/

namespace Sys2Proof

/-- The field of n bits of the number w whose lowest bit is bit lo (R7). -/
def fld (w lo n : Nat) : Nat := w / 2 ^ lo % 2 ^ n

/-- Field [lo + n - 1 : lo] of a doubleword, as a number. -/
def wfld (w : Word) (lo n : Nat) : Nat := fld w.toNat lo n

/-- Bit k of a doubleword. -/
def wbit (w : Word) (k : Nat) : Bool := w.toNat / 2 ^ k % 2 == 1

/-- The number w with its field of n bits from bit lo replaced by x. -/
def putFld (w lo n x : Nat) : Nat := w - fld w lo n * 2 ^ lo + x % 2 ^ n * 2 ^ lo

/-- A doubleword with field [lo + n - 1 : lo] replaced by x. -/
def setFld (w : Word) (lo n x : Nat) : Word := .ofNat 64 (putFld w.toNat lo n x)

/-- The n-bit number x read as a signed integer. -/
def sgn (n x : Nat) : Int := if x % 2 ^ n < 2 ^ (n - 1) then (x % 2 ^ n : Nat) else (x % 2 ^ n : Nat) - (2 ^ n : Nat)

/-- SignExtend(x, n) to a doubleword (R221). -/
def sext (n x : Nat) : Word := .ofInt 64 (sgn n x)

/-- The number that little-endian bytes hold (R8). -/
def leNat : List Byte → Nat
  | [] => 0
  | b :: bs => b.toNat + 256 * leNat bs

/-- The n bytes of the number x, least significant first (R8). -/
def leBytes : Nat → Nat → List Byte
  | 0, _ => []
  | n + 1, x => .ofNat 8 x :: leBytes n (x / 256)

/-- At most n little-endian doublewords of a byte string, the last padded with zeros. -/
def dwordsUpTo : Nat → List Byte → List Word
  | 0, _ => []
  | _, [] => []
  | n + 1, b :: bs => .ofNat 64 (leNat ((b :: bs).take 8)) :: dwordsUpTo n ((b :: bs).drop 8)

/-- Bytes as little-endian doublewords, the last padded with zeros. -/
def dwords (bs : List Byte) : List Word := dwordsUpTo bs.length bs

/-- ceil (a / b). -/
def ceilDiv (a b : Nat) : Nat := (a + b - 1) / b

/-- x rounded down to a multiple of n. -/
def alignDown (x n : Nat) : Nat := x / n * n

/-- Ranges [a, a + n) and [b, b + m) share a number. -/
def overlaps (a n b m : Nat) : Bool := 0 < n && 0 < m && a < b + m && b < a + n

/-- First byte and number of bytes of the field of n bits at bit address a (R53). -/
def bitSpan (a n : Nat) : Nat × Nat := (a / 8, (a + n + 7) / 8 - a / 8)

/-- The positions of the one bits of x below n, ascending. -/
def ones (x n : Nat) : List Nat := (List.range n).filter fun k => x / 2 ^ k % 2 == 1

/-- Indices k to k + n - 1. -/
def span (k n : Nat) : List Nat := (List.range n).map (k + ·)

end Sys2Proof
end

