-- ==== Sys2Proof/Machine/Crypto.lean ====
section
/-! DEFINITION. What the boot ROM and the firmware compute to verify and to attest (spec 21, R414, R418, R419): SHA-384, and
ECDSA over brainpoolP384r1 with the per-signature value of RFC 6979. The rules name these functions; their definitions are
those of FIPS 180-4, RFC 5639 and RFC 6979 (PRESUMED, log entry 12). -/

namespace Sys2Proof

/-- The number that big-endian bytes hold. -/
def beNat (bs : List Byte) : Nat := bs.foldl (fun a b => a * 256 + b.toNat) 0
/-- The n bytes of the number x, most significant first. -/
def beBytes (n x : Nat) : List Byte := (leBytes n x).reverse

namespace Machine

/-! ### SHA-384 -/

/-- Constants of rounds 0 to 39 and 40 to 79. -/
def shaLow : List Nat :=
  [0x428A2F98D728AE22, 0x7137449123EF65CD, 0xB5C0FBCFEC4D3B2F, 0xE9B5DBA58189DBBC, 0x3956C25BF348B538,
   0x59F111F1B605D019, 0x923F82A4AF194F9B, 0xAB1C5ED5DA6D8118, 0xD807AA98A3030242, 0x12835B0145706FBE,
   0x243185BE4EE4B28C, 0x550C7DC3D5FFB4E2, 0x72BE5D74F27B896F, 0x80DEB1FE3B1696B1, 0x9BDC06A725C71235,
   0xC19BF174CF692694, 0xE49B69C19EF14AD2, 0xEFBE4786384F25E3, 0x0FC19DC68B8CD5B5, 0x240CA1CC77AC9C65,
   0x2DE92C6F592B0275, 0x4A7484AA6EA6E483, 0x5CB0A9DCBD41FBD4, 0x76F988DA831153B5, 0x983E5152EE66DFAB,
   0xA831C66D2DB43210, 0xB00327C898FB213F, 0xBF597FC7BEEF0EE4, 0xC6E00BF33DA88FC2, 0xD5A79147930AA725,
   0x06CA6351E003826F, 0x142929670A0E6E70, 0x27B70A8546D22FFC, 0x2E1B21385C26C926, 0x4D2C6DFC5AC42AED,
   0x53380D139D95B3DF, 0x650A73548BAF63DE, 0x766A0ABB3C77B2A8, 0x81C2C92E47EDAEE6, 0x92722C851482353B]
def shaHigh : List Nat :=
  [0xA2BFE8A14CF10364, 0xA81A664BBC423001, 0xC24B8B70D0F89791, 0xC76C51A30654BE30, 0xD192E819D6EF5218,
   0xD69906245565A910, 0xF40E35855771202A, 0x106AA07032BBD1B8, 0x19A4C116B8D2D0C8, 0x1E376C085141AB53,
   0x2748774CDF8EEB99, 0x34B0BCB5E19B48A8, 0x391C0CB3C5C95A63, 0x4ED8AA4AE3418ACB, 0x5B9CCA4F7763E373,
   0x682E6FF3D6B2B8A3, 0x748F82EE5DEFB2FC, 0x78A5636F43172F60, 0x84C87814A1F0AB72, 0x8CC702081A6439EC,
   0x90BEFFFA23631E28, 0xA4506CEBDE82BDE9, 0xBEF9A3F7B2C67915, 0xC67178F2E372532B, 0xCA273ECEEA26619C,
   0xD186B8C721C0C207, 0xEADA7DD6CDE0EB1E, 0xF57D4F7FEE6ED178, 0x06F067AA72176FBA, 0x0A637DC5A2C898A6,
   0x113F9804BEF90DAE, 0x1B710B35131C471B, 0x28DB77F523047D84, 0x32CAAB7B40C72493, 0x3C9EBE0A15C9BEBC,
   0x431D67C49C100D4C, 0x4CC5D4BECB3E42B6, 0x597F299CFC657E2A, 0x5FCB6FAB3AD6FAEC, 0x6C44198C4A475817]

/-- The eight working words. -/
structure ShaState where
  a : Nat
  b : Nat
  c : Nat
  d : Nat
  e : Nat
  f : Nat
  g : Nat
  h : Nat
  deriving DecidableEq, Repr

/-- The initial hash value of SHA-384. -/
def shaInit : ShaState :=
  ⟨0xCBBB9D5DC1059ED8, 0x629A292A367CD507, 0x9159015A3070DD17, 0x152FECD8F70E5939,
   0x67332667FFC00B31, 0x8EB44A8768581511, 0xDB0C2E0D64F98FA7, 0x47B5481DBEFA4FA4⟩

/-- A 64-bit word rotated right. -/
def rotr (x n : Nat) : Nat := x / 2 ^ n + x % 2 ^ n * 2 ^ (64 - n)

/-- The message schedule of a block, latest word first, extended by n words. -/
def shaSchedule : Nat → List Nat → List Nat
  | 0, ws => ws
  | n + 1, ws =>
    let s0 (x : Nat) : Nat := rotr x 1 ^^^ rotr x 8 ^^^ x / 2 ^ 7
    let s1 (x : Nat) : Nat := rotr x 19 ^^^ rotr x 61 ^^^ x / 2 ^ 6
    shaSchedule n ((s1 (ws.getD 1 0) + ws.getD 6 0 + s0 (ws.getD 14 0) + ws.getD 15 0) % 2 ^ 64 :: ws)

/-- One round with its constant and schedule word together. -/
def ShaState.round (s : ShaState) (kw : Nat) : ShaState :=
  let big0 := rotr s.a 28 ^^^ rotr s.a 34 ^^^ rotr s.a 39
  let big1 := rotr s.e 14 ^^^ rotr s.e 18 ^^^ rotr s.e 41
  let ch := (s.e &&& s.f) ^^^ ((2 ^ 64 - 1 - s.e) &&& s.g)
  let maj := (s.a &&& s.b) ^^^ (s.a &&& s.c) ^^^ (s.b &&& s.c)
  let t1 := s.h + big1 + ch + kw
  ⟨(t1 + big0 + maj) % 2 ^ 64, s.a, s.b, s.c, (s.d + t1) % 2 ^ 64, s.e, s.f, s.g⟩

/-- The hash value after a block of 128 bytes. -/
def ShaState.block (s : ShaState) (bs : List Byte) : ShaState :=
  let first := (List.range 16).map fun i => beNat ((bs.drop (8 * i)).take 8)
  let ws := (shaSchedule 64 first.reverse).reverse
  let t := ((shaLow ++ shaHigh).zip ws).foldl (fun t kw => t.round (kw.1 + kw.2)) s
  let add (x y : Nat) : Nat := (x + y) % 2 ^ 64
  ⟨add s.a t.a, add s.b t.b, add s.c t.c, add s.d t.d, add s.e t.e, add s.f t.f, add s.g t.g, add s.h t.h⟩

/-- The padded message: a one bit, zeros, and the length in bits as 16 bytes. -/
def shaPadded (bs : List Byte) : List Byte :=
  let n := bs.length
  bs ++ 0x80 :: List.replicate ((128 - (n + 17) % 128) % 128) 0 ++ beBytes 16 (8 * n)

/-- At most n blocks hashed. -/
def ShaState.blocks (s : ShaState) : Nat → List Byte → ShaState
  | 0, _ => s
  | n + 1, bs => if bs.isEmpty then s else (s.block (bs.take 128)).blocks n (bs.drop 128)

/-- SHA-384, 48 bytes. -/
def sha384 (bs : List Byte) : List Byte :=
  let p := shaPadded bs
  let t := shaInit.blocks (p.length / 128) p
  [t.a, t.b, t.c, t.d, t.e, t.f].flatMap (beBytes 8)

/-- HMAC with SHA-384, for a key of at most 128 bytes. -/
def hmac (key bs : List Byte) : List Byte :=
  let k := (key ++ List.replicate 128 0).take 128
  sha384 (k.map (· ^^^ 0x5C) ++ sha384 (k.map (· ^^^ 0x36) ++ bs))

/-! ### brainpoolP384r1 -/

/-- The field, the curve's coefficients, the base point and its order. -/
def curveP : Nat := 0x8CB91E82A3386D280F5D6F7E50E641DF152F7109ED5456B412B1DA197FB71123ACD3A729901D1A71874700133107EC53
def curveA : Nat := 0x7BC382C63D8C150C3C72080ACE05AFA0C2BEA28E4FB22787139165EFBA91F90F8AA5814A503AD4EB04A8C7DD22CE2826
def curveB : Nat := 0x04A8C7DD22CE28268B39B55416F0447C2FB77DE107DCD2A62E880EA53EEB62D57CB4390295DBC9943AB78696FA504C11
def curveX : Nat := 0x1D1C64F068CF45FFA2A63A81B7C13F6B8847A3E77EF14FE3DB7FCAFE0CBD10E8E826E03436D646AAEF87B2E247D4AF1E
def curveY : Nat := 0x8ABE1D7520F9C2A45CB1EB8E95CFD55262B70B29FEEC5864E19C054FF99129280E4646217791811142820341263C5315
def curveN : Nat := 0x8CB91E82A3386D280F5D6F7E50E641DF152F7109ED5456B31F166E6CAC0425A7CF3AB6AF6B7FC3103B883202E9046565

/-- x ^ e modulo m, for an exponent of 384 bits. -/
def powMod (m x e : Nat) : Nat :=
  (List.range 384).reverse.foldl (fun a i => let b := a * a % m; if e.testBit i then b * x % m else b) 1
/-- The inverse modulo a prime m. -/
def invMod (m x : Nat) : Nat := powMod m x (m - 2)
/-- a - b modulo m, for b below m. -/
def subMod (m a b : Nat) : Nat := (a + m - b) % m

/-- A point of the curve; none is the point at infinity. -/
abbrev Point := Option (Nat × Nat)

/-- The sum of two points. -/
def Point.add (p q : Point) : Point :=
  match p, q with
  | none, _ => q
  | _, none => p
  | some (x1, y1), some (x2, y2) =>
    let on (l : Nat) : Point :=
      let x := subMod curveP (subMod curveP (l * l % curveP) x1) x2
      some (x, subMod curveP (l * subMod curveP x1 x % curveP) y1)
    if x1 = x2 then
      if (y1 + y2) % curveP = 0 then none
      else on ((3 * x1 * x1 + curveA) * invMod curveP (2 * y1 % curveP) % curveP)
    else on (subMod curveP y2 y1 * invMod curveP (subMod curveP x2 x1) % curveP)

/-- k times a point, for a k of 384 bits. -/
def Point.mul (k : Nat) (p : Point) : Point :=
  (List.range 384).reverse.foldl (fun a i => let b := Point.add a a; if k.testBit i then Point.add b p else b) none

/-- The base point. -/
def basePoint : Point := some (curveX, curveY)

/-- An uncompressed point: 0x04, x, y. -/
def Point.bytes (p : Point) : List Byte :=
  match p with
  | some (x, y) => 0x04 :: beBytes 48 x ++ beBytes 48 y
  | none => []

/-- The point that 97 bytes name, if it lies on the curve. -/
def readPoint (bs : List Byte) : Point :=
  let x := beNat ((bs.drop 1).take 48)
  let y := beNat ((bs.drop 49).take 48)
  if bs.length == 97 && bs.head? == some 0x04 && decide (x < curveP) && decide (y < curveP) &&
    y * y % curveP == (x * x * x + curveA * x + curveB) % curveP then some (x, y) else none

/-! ### ECDSA with SHA-384 -/

/-- A signature, r then s, of 48 bytes each, on some bytes is valid under a public key. -/
def ecdsaVerify (key bs sig : List Byte) : Bool :=
  let r := beNat (sig.take 48)
  let s := beNat ((sig.drop 48).take 48)
  let e := beNat (sha384 bs)
  let w := invMod curveN s
  sig.length == 96 && (readPoint key).isSome && decide (0 < r) && decide (r < curveN) && decide (0 < s) && decide (s < curveN) &&
  match Point.add (Point.mul (e * w % curveN) basePoint) (Point.mul (r * w % curveN) (readPoint key)) with
  | some (x, _) => x % curveN == r
  | none => false

/-- r and s of a hash e under the private key d with the per-signature value k, unless one of them is 0. -/
def ecdsaWith (d e k : Nat) : Option (Nat × Nat) :=
  match Point.mul k basePoint with
  | none => none
  | some (x, _) =>
    let r := x % curveN
    let s := invMod curveN k * ((e + r * d) % curveN) % curveN
    if r = 0 ∨ s = 0 then none else some (r, s)

/-- The search of RFC 6979 for a suitable k, at most n candidates. -/
def ecdsaSearch (d e : Nat) : Nat → List Byte → List Byte → Option (Nat × Nat)
  | 0, _, _ => none
  | n + 1, key, v =>
    let v := hmac key v
    let k := beNat v
    match if 0 < k ∧ k < curveN then ecdsaWith d e k else none with
    | some rs => some rs
    | none =>
      let key := hmac key (v ++ [0x00])
      ecdsaSearch d e n key (hmac key v)

/-- The signature on some bytes under the private key d. -/
def ecdsaSign (d : Nat) (bs : List Byte) : List Byte :=
  let h := sha384 bs
  let seed := beBytes 48 d ++ beBytes 48 (beNat h % curveN)
  let k0 := hmac (List.replicate 48 0x00) (List.replicate 48 0x01 ++ 0x00 :: seed)
  let v0 := hmac k0 (List.replicate 48 0x01)
  let k1 := hmac k0 (v0 ++ 0x01 :: seed)
  match ecdsaSearch d (beNat h) 64 k1 (hmac k1 v0) with
  | some (r, s) => beBytes 48 r ++ beBytes 48 s
  | none => List.replicate 96 0

end Machine

end Sys2Proof
end

