-- ==== Sys2Proof/Machine/Float.lean ====
section
/-! DEFINITION. Number formats, exact values and the one rounding (spec 03, R70 to R88), conversions between scalar
formats, and the mixer (R90). -/

namespace Sys2Proof.Machine

/-- A decoded value (R72): ± man × 2 ^ exp when finite. -/
inductive Val where
  | nan (signalling : Bool)
  | inf (neg : Bool)
  | fin (neg : Bool) (man : Nat) (exp : Int)
  deriving DecidableEq, Repr

/-- Parameters of a floating-point format (R71). -/
structure Fmt where
  eb : Nat
  bias : Nat
  mb : Nat
  hasInf : Bool
  hasNan : Bool
  /-- Code of the largest finite magnitude. -/
  maxCode : Nat
  /-- Canonical NaN (R87). -/
  nan : Nat
  deriving DecidableEq, Repr

/-- E2M1 has no code of its own in R70; 16 stands for it here. -/
def e2m1 : Nat := 16

/-- The format of a code of R70. -/
def fmtOf : Nat → Fmt
  | 1 => ⟨11, 1023, 52, true, true, 0x7FEFFFFFFFFFFFFF, 0x7FF8000000000000⟩
  | 2 => ⟨8, 127, 23, true, true, 0x7F7FFFFF, 0x7FC00000⟩
  | 3 => ⟨5, 15, 10, true, true, 0x7BFF, 0x7E00⟩
  | 4 => ⟨8, 127, 7, true, true, 0x7F7F, 0x7FC0⟩
  | 5 => ⟨4, 7, 3, false, true, 0x7E, 0x7F⟩
  | 6 => ⟨5, 15, 2, true, true, 0x7B, 0x7E⟩
  | 7 => ⟨3, 3, 2, false, false, 0x1F, 0⟩
  | 8 => ⟨2, 1, 3, false, false, 0x1F, 0⟩
  | _ => ⟨2, 1, 1, false, false, 0x7, 0⟩

/-- Bits of an element of a format code (R70); 4 for B4X elements. -/
def fmtBits : Nat → Nat
  | 1 => 64 | 2 => 32 | 3 => 16 | 4 => 16 | 5 => 8 | 6 => 8 | 7 => 6 | 8 => 6 | 9 => 4
  | 10 => 8 | 11 => 16 | 12 => 32 | 13 => 8 | 14 => 16 | 15 => 32 | _ => 4

/-- Group count and group size in bytes (R70). -/
def fmtGroup : Nat → Nat × Nat
  | 7 => (4, 3) | 8 => (4, 3) | 9 => (32, 16) | f => (1, fmtBits f / 8)

/-- A code names a floating-point scalar format. -/
def isFloat (f : Nat) : Bool := decide (1 ≤ f) && decide (f ≤ 8)
/-- A code names an integer format (R70). -/
def isInt (f : Nat) : Bool := decide (10 ≤ f) && decide (f ≤ 15)
/-- An integer code is signed. -/
def isSigned (f : Nat) : Bool := decide (f ≤ 12)

/-- Bits of a floating-point code of a format. -/
def Fmt.width (f : Fmt) : Nat := 1 + f.eb + f.mb
/-- The sign bit of a code. -/
def Fmt.sign (f : Fmt) (neg : Bool) : Nat := if neg then 2 ^ (f.eb + f.mb) else 0
/-- The code of an infinity. -/
def Fmt.inf (f : Fmt) (neg : Bool) : Nat := f.sign neg + (2 ^ f.eb - 1) * 2 ^ f.mb
/-- The code of the largest finite value. -/
def Fmt.max (f : Fmt) (neg : Bool) : Nat := f.sign neg + f.maxCode

/-- Decode(f, x) (R72, R221). -/
def decodeF (f : Fmt) (x : Nat) : Val :=
  let s := fld x (f.eb + f.mb) 1 == 1
  let e := fld x f.mb f.eb
  let m := fld x 0 f.mb
  let top := 2 ^ f.eb - 1
  if e = 0 then .fin s m (1 - (f.bias : Int) - f.mb)
  else if e = top && f.hasInf then if m = 0 then .inf s else .nan (m < 2 ^ (f.mb - 1))
  else if e = top && f.hasNan && m = 2 ^ f.mb - 1 then .nan false
  else .fin s (2 ^ f.mb + m) ((e : Int) - f.bias - f.mb)

/-- Decode of a format code. -/
def decode (f x : Nat) : Val := decodeF (fmtOf f) x

/-- Flags of R88 as STAT places them (R212). -/
def fNV : Nat := 1
def fDZ : Nat := 2
def fOF : Nat := 4
def fUF : Nat := 8
def fNX : Nat := 16
def fSAT : Nat := 32

/-- The union of flag sets: each flag is one bit. -/
def orFlags (a b : Nat) : Nat := a ||| b

/-- An exact magnitude: man × 2 ^ exp, and a little more where sticky. -/
structure Mag where
  man : Nat
  exp : Int
  sticky : Bool := false
  deriving DecidableEq, Repr

/-- The exponent of a magnitude, floor (log2), for man ≠ 0. -/
def Mag.log2 (x : Mag) : Int := (Nat.log2 x.man : Int) + x.exp

/-- The multiple of 2 ^ q that a magnitude rounds to, in units of 2 ^ q, with whether it was inexact (R79, R81). -/
def Mag.roundAt (x : Mag) (neg : Bool) (q : Int) (mode draw : Nat) : Nat × Bool :=
  if q ≤ x.exp then (x.man * 2 ^ (x.exp - q).toNat, x.sticky)
  else
    let sh := (q - x.exp).toNat
    let n := x.man / 2 ^ sh
    let r := x.man % 2 ^ sh
    let inexact := r != 0 || x.sticky
    let half := 2 ^ (sh - 1)
    let up := match mode with
      | 0 => decide (half < r) || (r == half && (x.sticky || n % 2 == 1))
      | 1 => false
      | 2 => neg && inexact
      | 3 => !neg && inexact
      | 4 => decide (half ≤ r)
      | _ => decide (2 ^ 32 ≤ draw + r * 2 ^ 32 / 2 ^ sh)
    (if up then n + 1 else n, inexact)

/-- RoundTo(f, v, m) of a non-zero exact magnitude, with the flags of R88 (R79 to R81, R86). -/
def roundMag (f : Fmt) (neg : Bool) (x : Mag) (mode draw : Nat) : Nat × Nat :=
  let emin : Int := 1 - (f.bias : Int)
  let ev := x.log2
  let q := max ev emin - f.mb
  let (n, inexact) := x.roundAt neg q mode draw
  let code := if n < 2 ^ f.mb then n else
    let (n, q) := if n = 2 ^ (f.mb + 1) then (2 ^ f.mb, q + 1) else (n, q)
    ((q + f.mb + f.bias).toNat) * 2 ^ f.mb + (n - 2 ^ f.mb)
  let sr := decide (5 ≤ mode)
  let trunc := (x.roundAt neg q 1 0).1
  let beyond := sr && !f.hasInf && (decide (emin + 2 ^ f.eb ≤ ev) ||
    (let e := (q + f.mb + f.bias).toNat
     let c := if trunc < 2 ^ f.mb then trunc else e * 2 ^ f.mb + (trunc - 2 ^ f.mb)
     decide (f.maxCode < c) || (c == f.maxCode && inexact)))
  if beyond then (f.max neg, fSAT + fNX)
  else if f.maxCode < code then
    if f.hasInf then
      let toInf := mode == 0 || mode == 4 || sr || (mode == 3 && !neg) || (mode == 2 && neg)
      (if toInf then f.inf neg else f.max neg, fOF + fNX)
    else (f.max neg, fSAT + fNX)
  else
    let tiny := decide (ev < emin) && decide ((x.roundAt neg (ev - f.mb) mode draw).1 < 2 ^ (emin - (ev - f.mb)).toNat)
    (f.sign neg + code, if inexact then (if tiny then fNX + fUF else fNX) else 0)

/-- RoundTo of a value, with the conversions of R86 for zeros, infinities and NaNs. -/
def roundF (f : Fmt) (v : Val) (mode draw : Nat) : Nat × Nat :=
  match v with
  | .nan sg => if f.hasNan then (f.nan, if sg then fNV else 0) else (0, fNV)
  | .inf neg => if f.hasInf then (f.inf neg, 0) else (f.max neg, fSAT)
  | .fin neg man exp => if man = 0 then (f.sign neg, 0) else roundMag f neg ⟨man, exp, false⟩ mode draw

/-- RoundTo with a format code. -/
def roundTo (f : Nat) (v : Val) (mode draw : Nat) : Nat × Nat := roundF (fmtOf f) v mode draw

/-- A finite value as an integer multiple of 2 ^ e, for e at most its exponent. -/
def scaled (neg : Bool) (man : Nat) (exp e : Int) : Int :=
  let m : Int := (man * 2 ^ (exp - e).toNat : Nat)
  if neg then -m else m

/-- The exact sum of two finite values; an exact zero from operands of opposite sign is +0, or -0 in RDN (R80). -/
def addFin (n1 : Bool) (m1 : Nat) (e1 : Int) (n2 : Bool) (m2 : Nat) (e2 : Int) (mode : Nat) : Val :=
  let e := min e1 e2
  let t := scaled n1 m1 e1 e + scaled n2 m2 e2 e
  if t = 0 then .fin (if n1 == n2 then n1 else mode == 2) 0 e
  else .fin (decide (t < 0)) t.natAbs e

/-- x + y with the flags that the operands raise: NV for a signalling NaN or for infinities of opposite sign. -/
def addV (x y : Val) (mode : Nat) : Val × Nat :=
  match x, y with
  | .nan a, .nan b => (.nan false, if a || b then fNV else 0)
  | .nan a, _ => (.nan false, if a then fNV else 0)
  | _, .nan b => (.nan false, if b then fNV else 0)
  | .inf a, .inf b => if a == b then (.inf a, 0) else (.nan false, fNV)
  | .inf a, _ => (.inf a, 0)
  | _, .inf b => (.inf b, 0)
  | .fin n1 m1 e1, .fin n2 m2 e2 => (addFin n1 m1 e1 n2 m2 e2 mode, 0)

/-- -x. -/
def negV : Val → Val
  | .nan s => .nan s
  | .inf n => .inf !n
  | .fin n m e => .fin (!n) m e

/-- |x|. -/
def absV : Val → Val
  | .nan s => .nan s
  | .inf _ => .inf false
  | .fin _ m e => .fin false m e

/-- The exact product, with the flags that the operands raise. -/
def mulV (x y : Val) : Val × Nat :=
  match x, y with
  | .nan a, .nan b => (.nan false, if a || b then fNV else 0)
  | .nan a, _ => (.nan false, if a then fNV else 0)
  | _, .nan b => (.nan false, if b then fNV else 0)
  | .inf a, .inf b => (.inf (a != b), 0)
  | .inf a, .fin n m _ => if m = 0 then (.nan false, fNV) else (.inf (a != n), 0)
  | .fin n m _, .inf b => if m = 0 then (.nan false, fNV) else (.inf (n != b), 0)
  | .fin n1 m1 e1, .fin n2 m2 e2 => (.fin (n1 != n2) (m1 * m2) (e1 + e2), 0)

/-- The value multiplied by 2 ^ k. -/
def scaleV (v : Val) (k : Int) : Val :=
  match v with
  | .fin n m e => .fin n m (e + k)
  | v => v

def isNan : Val → Bool
  | .nan _ => true
  | _ => false
def isInfV : Val → Bool
  | .inf _ => true
  | _ => false
def isSnan : Val → Bool
  | .nan s => s
  | _ => false

/-- Order of two finite magnitudes: m1 × 2 ^ e1 < m2 × 2 ^ e2. -/
def magLt (m1 : Nat) (e1 : Int) (m2 : Nat) (e2 : Int) : Bool :=
  let e := min e1 e2
  decide (m1 * 2 ^ (e1 - e).toNat < m2 * 2 ^ (e2 - e).toNat)

/-- x < y for values that are not NaN; zeros of either sign are equal. -/
def ltV (x y : Val) : Bool :=
  match x, y with
  | .inf a, .inf b => a && !b
  | .inf a, .fin .. => a
  | .fin .., .inf b => !b
  | .fin n1 m1 e1, .fin n2 m2 e2 =>
    let e := min e1 e2
    decide (scaled n1 m1 e1 e < scaled n2 m2 e2 e)
  | _, _ => false

/-- x = y for values that are not NaN. -/
def eqV (x y : Val) : Bool :=
  match x, y with
  | .inf a, .inf b => a == b
  | .fin n1 m1 e1, .fin n2 m2 e2 =>
    let e := min e1 e2
    decide (scaled n1 m1 e1 e = scaled n2 m2 e2 e)
  | _, _ => false

/-- Rounding the exact quotient of two non-zero magnitudes needs this many bits of it. -/
def quotMag (m1 : Nat) (e1 : Int) (m2 : Nat) (e2 : Int) : Mag :=
  let k := 128 + Nat.log2 m2 - Nat.log2 m1
  let n := m1 * 2 ^ k
  ⟨n / m2, e1 - e2 - k, n % m2 != 0⟩

/-- Bits of the integer square root of n below bit k, given the bits found so far. -/
def isqrtBits (n : Nat) : Nat → Nat → Nat
  | 0, r => r
  | k + 1, r => let t := r + 2 ^ k; isqrtBits n k (if t * t ≤ n then t else r)

/-- floor (sqrt n) for n below 2 ^ 512. -/
def isqrt (n : Nat) : Nat := isqrtBits n (Nat.log2 n / 2 + 1) 0

/-- The square root of a non-zero magnitude, to at least 120 bits. -/
def sqrtMag (m : Nat) (e : Int) : Mag :=
  let k := 256 - Nat.log2 m
  let k := if (e - k) % 2 = 0 then k else k + 1
  let n := m * 2 ^ k
  let r := isqrt n
  ⟨r, (e - k) / 2, r * r != n⟩

/-- Rounding a value to an integer of a signed or unsigned range [lo, hi] (R86, float to integer): result and flags. -/
def roundInt (v : Val) (lo hi : Int) (mode draw : Nat) : Int × Nat :=
  match v with
  | .nan _ => (0, fNV)
  | .inf n => (if n then lo else hi, fNV)
  | .fin n m e =>
    let (k, inexact) := Mag.roundAt ⟨m, e, false⟩ n 0 mode draw
    let r : Int := if n then -k else k
    if r < lo then (lo, fNV) else if hi < r then (hi, fNV) else (r, if inexact then fNX else 0)

/-- The range of an integer of w bits. -/
def intLo (w : Nat) (signed : Bool) : Int := if signed then -(2 ^ (w - 1) : Nat) else 0
def intHi (w : Nat) (signed : Bool) : Int := if signed then (2 ^ (w - 1) : Nat) - 1 else (2 ^ w : Nat) - 1

/-- x limited to [lo, hi]. -/
def clampInt (x lo hi : Int) : Int := if x < lo then lo else if hi < x then hi else x

/-- The w-bit code of an integer. -/
def intCode (w : Nat) (x : Int) : Nat := (x % (2 ^ w : Nat)).toNat

/-- The integer that a w-bit code stands for. -/
def intOf (w : Nat) (signed : Bool) (x : Nat) : Int := if signed then sgn w x else (x % 2 ^ w : Nat)

/-- An integer as an exact value. -/
def valOfInt (x : Int) : Val := .fin (decide (x < 0)) x.natAbs 0

/-- Conversion of one code of format sf to one of format df, both scalar (R86, R89): code and flags. -/
def convert (sf df x mode draw : Nat) : Nat × Nat :=
  if isInt sf then
    let n := intOf (fmtBits sf) (isSigned sf) x
    if isInt df then
      (intCode (fmtBits df) (clampInt n (intLo (fmtBits df) (isSigned df)) (intHi (fmtBits df) (isSigned df))), 0)
    else roundTo df (valOfInt n) mode draw
  else if isInt df then
    let (r, fl) := roundInt (decode sf x) (intLo (fmtBits df) (isSigned df)) (intHi (fmtBits df) (isSigned df)) mode draw
    (intCode (fmtBits df) r, fl)
  else roundTo df (decode sf x) mode draw

/-! ### The mixer (R90) -/

/-- Round constants of R90. -/
def mixRC : List Nat :=
  [0x243F6A8885A308D3, 0x13198A2E03707344, 0xA4093822299F31D0, 0x082EFA98EC4E6C89,
   0x452821E638D01377, 0xBE5466CF34E90C6C, 0xC0AC29B7C97C50DD, 0x3F84D5B5B5470917]

/-- One round of the mixer. -/
def mixRound (k x rc : Nat) : Nat :=
  let p := x * 0x0000100001000001
  ((p / 2 ^ 64 % 2 ^ 64) ^^^ (p % 2 ^ 64)) + (k ^^^ rc)

/-- Mixer(k, c). -/
def mixer (k c : Nat) : Nat := mixRC.foldl (fun x rc => mixRound k x rc % 2 ^ 64) ((c ^^^ k) % 2 ^ 64)

/-- The draw u of element e (R82): seed snapshot, core, stream, RNDCTR. -/
def mixerBits (seed cn stream rnd e : Nat) : Nat :=
  let kop := mixer seed (cn * 2 ^ 53 + stream * 2 ^ 49 + rnd % 2 ^ 49)
  let w := mixer kop (e / 2)
  if e % 2 = 0 then w % 2 ^ 32 else w / 2 ^ 32

end Sys2Proof.Machine
end

