-- ==== Sys2Proof/Config.lean ====
section
/-! DEFINITION. What an implementation fixes: the implementation parameters of R4 as the BX-2048 publishes them (log
entry 15), and the functions that the spec leaves to outside data (log entries 6 and 12), which have no body. -/

namespace Sys2Proof.Config

/-- A choice that the spec leaves to the implementation, the n-th one made (log entry 6). -/
opaque freeChoice : Nat → Nat

/-- The entry of the trap handler that the launch sequencer writes to TVEC of a member core (R349; log entry 76), the n-th
launch; an ENTRY is even. -/
opaque launchTvec : Nat → BitVec 22

/-- How many open parts a home accepts beyond the four that R145 grants, by the home's number (log entry 6). -/
opaque extraParts : Nat → Nat

/-- The physical address at which the runtime keeps a save block of a sequence's part that the launch's own save block has no room for,
the n-th choice (R156; log entry 56). -/
opaque spillAt : Nat → Nat

/-- The power-up state of the identity SRAM, corrected with the helper data of the boot flash (R418). -/
opaque identitySram : List Byte
/-- The vendor key held in the mask ROM, a public key of 97 bytes (R413). -/
opaque vendorKey : List Byte
/-- The key that a firmware image's key table gives for an index (R413, R414). -/
opaque imageKey : List Byte → Nat → List Byte
/-- The boot flash of I/O die 0: firmware image, then configuration record (R413). -/
opaque bootFlash : List Byte × List Byte

/-- What the firmware's tests find good (R416; log entry 12): physical rows of compute die d at d, channels of stack s at
8 + s, Sutre ports at 16, Ethernet ports at 17 as masks, and second-tier DRAM in MiB at 18. -/
opaque testsPass : Nat → Nat

/-- Logical columns (R4). -/
def cols : Nat := 64
/-- IP.ID: part 0x2048, source 1, revision 0x01 (R4; log entry 15). -/
def ipId : Word := 0x0000204801010000
/-- IP.CLK in kHz. -/
def ipClk : Word := 2500000
/-- IP.TWIN, the ticket window. -/
def twin : Nat := 32
/-- IP.INBUF, flits of the input buffer. -/
def inbuf : Nat := 128
/-- IP.ISSB. -/
def issb : Nat := 11
/-- IP.SWIN, the most inputs of a switch. -/
def swin : Nat := 5
/-- IP.XCACHE, entries of a core's translation cache. -/
def xcache : Nat := 64
/-- IP.WALKS. -/
def walks : Nat := 512
/-- IP.CAPS (R140). -/
def caps : Word := 0x3FFF
/-- IP.SUTREMAP of a fully configured package (R4). -/
def sutreMap : Word := 0x0000000FFFFFFFFF
/-- IP.ENETMAP of a fully configured package (R4). -/
def enetMap : Word := 0xFFFF
/-- IP.HBMMAP0 and IP.HBMMAP1 of a fully configured package (R4). -/
def hbmMap : Word := 0xFFFFFFFFFFFFFFFF
/-- IP.TIERSZ in MiB: 1 TiB as fitted (R2, R4; log entry 15). -/
def tierSz : Nat := 1048576
/-- Logical rows (R4). -/
def rows : Nat := 32
/-- The number of cores of the mesh. -/
def coreCount : Nat := cols * rows
/-- The number of bytes of local SRAM (R48). -/
def localTop : Nat := 0x300000

end Sys2Proof.Config
end

