-- ==== Sys2Proof/Machine/Map.lean ====
section
/-! DEFINITION. Sparse maps: register files, cores and contexts as lists of (number, value) pairs with keys strictly
rising, and byte memories in one canonical form (no entry equal to zero, which an unlisted address reads as: log
entries 2 and 3). -/

namespace Sys2Proof.Machine

/-- A sparse map: what an unlisted key holds is said where the map is read. -/
abbrev SMap (α : Type) := List (Nat × α)

/-- The value at key k, or d where k is not listed. -/
def SMap.get {α : Type} (d : α) (m : SMap α) (k : Nat) : α :=
  match m with
  | [] => d
  | (j, x) :: m => if j = k then x else SMap.get d m k

/-- The map with key k holding x; keys stay strictly rising. -/
def SMap.put {α : Type} (m : SMap α) (k : Nat) (x : α) : SMap α :=
  match m with
  | [] => [(k, x)]
  | (j, y) :: m => if j < k then (j, y) :: SMap.put m k x else if j = k then (k, x) :: m else (k, x) :: (j, y) :: m

/-- The map without key k. -/
def SMap.del {α : Type} (m : SMap α) (k : Nat) : SMap α := m.filter fun e => e.1 != k

/-- Whether key k is listed. -/
def SMap.has {α : Type} (m : SMap α) (k : Nat) : Bool := m.any fun e => e.1 == k

/-- The keys rise strictly from one entry to the next. -/
def SMap.rising {α : Type} : SMap α → Bool
  | [] => true
  | [_] => true
  | (j, _) :: (k, y) :: m => decide (j < k) && SMap.rising ((k, y) :: m)

/-- A byte memory (Host.Cell list): an unlisted address reads zero. -/
abbrev Memory := List (Nat × BitVec 8)

/-- The canonical form: addresses strictly rising and no entry zero. -/
def Memory.wf (m : Memory) : Bool := SMap.rising m && m.all fun e => e.2 != 0

/-- The byte at address a. -/
def Memory.byte (m : Memory) (a : Nat) : Byte := SMap.get 0 m a

/-- The memory with byte b at address a. -/
def Memory.setByte (m : Memory) (a : Nat) (b : Byte) : Memory :=
  if b = 0 then SMap.del m a else SMap.put m a b

/-- The n bytes at a, at ascending addresses. -/
def Memory.read (m : Memory) (a : Nat) : Nat → List Byte
  | 0 => []
  | n + 1 => Memory.byte m a :: Memory.read m (a + 1) n

/-- The memory with the bytes bs at a, at ascending addresses. -/
def Memory.write (m : Memory) (a : Nat) : List Byte → Memory
  | [] => m
  | b :: bs => Memory.write (Memory.setByte m a b) (a + 1) bs

/-- The little-endian number of n bytes at a (R8). -/
def Memory.num (m : Memory) (a n : Nat) : Nat := leNat (Memory.read m a n)

/-- The doubleword at a. -/
def Memory.dword (m : Memory) (a : Nat) : Word := .ofNat 64 (Memory.num m a 8)

/-- The memory with the n-byte number x at a. -/
def Memory.setNum (m : Memory) (a n x : Nat) : Memory := Memory.write m a (leBytes n x)

end Sys2Proof.Machine
end

