-- ==== Sys2Proof/Syntax.lean ====
section
/-! DEFINITION. The instructions and events of the BX-2048, one constructor for each row of the opcode table
(spec 09, R202, R219, R220; spec 17, R356; spec 95). An encoded instruction carries its fields as the format of
R198 places them: s is the stall count STL, d the rd field, a the ra field, b the rb field; other letters are
named in R199 and in the instruction's entry. An event carries what names the thing it happens to. -/

namespace Sys2Proof

/-- The destination key of a congestion window (R136). -/
inductive DestKey where
  | core (cn : CoreNo)
  | channel (tier : Bool) (stack : BitVec 3) (ch : BitVec 4)
  | rank (r : BitVec 32)
  deriving DecidableEq, Repr

/-- The 32-byte header of a Sutre packet, four doublewords (R401). -/
structure SutreHeader where
  dw0 : Word
  dw1 : Word
  dw2 : Word
  dw3 : Word
  deriving DecidableEq, Repr

/-- One region image of an immigrant genome (R193, R194). -/
structure RegionImage where
  index : BitVec 3
  len : BitVec 22
  fmt : BitVec 4
  bytes : List Byte
  deriving DecidableEq, Repr

/-- One immigrant genome with what it carries (R193). -/
structure Immigrant where
  fit : BitVec 32
  cn : CoreNo
  position : Nat
  regions : List RegionImage
  deriving DecidableEq, Repr

/-- An arriving batch of immigrants (R193, R194). -/
structure Batch where
  group : BitVec 6
  srank : BitVec 32
  sgroup : BitVec 6
  sgen : BitVec 32
  members : List Immigrant
  deriving DecidableEq, Repr

/-- The rows of the opcode table. -/
inductive Instr where
  | add (s : BitVec 3) (d : BitVec 5) (a : BitVec 5) (b : BitVec 5)
  | sub (s : BitVec 3) (d : BitVec 5) (a : BitVec 5) (b : BitVec 5)
  | and (s : BitVec 3) (d : BitVec 5) (a : BitVec 5) (b : BitVec 5)
  | or (s : BitVec 3) (d : BitVec 5) (a : BitVec 5) (b : BitVec 5)
  | xor (s : BitVec 3) (d : BitVec 5) (a : BitVec 5) (b : BitVec 5)
  | andn (s : BitVec 3) (d : BitVec 5) (a : BitVec 5) (b : BitVec 5)
  | sll (s : BitVec 3) (d : BitVec 5) (a : BitVec 5) (b : BitVec 5)
  | srl (s : BitVec 3) (d : BitVec 5) (a : BitVec 5) (b : BitVec 5)
  | sra (s : BitVec 3) (d : BitVec 5) (a : BitVec 5) (b : BitVec 5)
  | rol (s : BitVec 3) (d : BitVec 5) (a : BitVec 5) (b : BitVec 5)
  | ror (s : BitVec 3) (d : BitVec 5) (a : BitVec 5) (b : BitVec 5)
  | slt (s : BitVec 3) (d : BitVec 5) (a : BitVec 5) (b : BitVec 5)
  | sltu (s : BitVec 3) (d : BitVec 5) (a : BitVec 5) (b : BitVec 5)
  | seq (s : BitVec 3) (d : BitVec 5) (a : BitVec 5) (b : BitVec 5)
  | min (s : BitVec 3) (d : BitVec 5) (a : BitVec 5) (b : BitVec 5)
  | max (s : BitVec 3) (d : BitVec 5) (a : BitVec 5) (b : BitVec 5)
  | minu (s : BitVec 3) (d : BitVec 5) (a : BitVec 5) (b : BitVec 5)
  | maxu (s : BitVec 3) (d : BitVec 5) (a : BitVec 5) (b : BitVec 5)
  | mul (s : BitVec 3) (d : BitVec 5) (a : BitVec 5) (b : BitVec 5)
  | mulh (s : BitVec 3) (d : BitVec 5) (a : BitVec 5) (b : BitVec 5)
  | mulhu (s : BitVec 3) (d : BitVec 5) (a : BitVec 5) (b : BitVec 5)
  | div (s : BitVec 3) (d : BitVec 5) (a : BitVec 5) (b : BitVec 5)
  | divu (s : BitVec 3) (d : BitVec 5) (a : BitVec 5) (b : BitVec 5)
  | rem (s : BitVec 3) (d : BitVec 5) (a : BitVec 5) (b : BitVec 5)
  | remu (s : BitVec 3) (d : BitVec 5) (a : BitVec 5) (b : BitVec 5)
  | clz (s : BitVec 3) (d : BitVec 5) (a : BitVec 5)
  | ctz (s : BitVec 3) (d : BitVec 5) (a : BitVec 5)
  | popc (s : BitVec 3) (d : BitVec 5) (a : BitVec 5)
  | bext (s : BitVec 3) (d : BitVec 5) (a : BitVec 5) (b : BitVec 5)
  | bins (s : BitVec 3) (d : BitVec 5) (a : BitVec 5) (b : BitVec 5)
  | bswap (s : BitVec 3) (d : BitVec 5) (a : BitVec 5)
  | sext (s : BitVec 3) (d : BitVec 5) (a : BitVec 5) (b : BitVec 5)
  | addi (s : BitVec 3) (d : BitVec 5) (a : BitVec 5) (i : BitVec 12)
  | andi (s : BitVec 3) (d : BitVec 5) (a : BitVec 5) (i : BitVec 12)
  | ori (s : BitVec 3) (d : BitVec 5) (a : BitVec 5) (i : BitVec 12)
  | xori (s : BitVec 3) (d : BitVec 5) (a : BitVec 5) (i : BitVec 12)
  | slti (s : BitVec 3) (d : BitVec 5) (a : BitVec 5) (i : BitVec 12)
  | slli (s : BitVec 3) (d : BitVec 5) (a : BitVec 5) (h : BitVec 6)
  | srli (s : BitVec 3) (d : BitVec 5) (a : BitVec 5) (h : BitVec 6)
  | srai (s : BitVec 3) (d : BitVec 5) (a : BitVec 5) (h : BitVec 6)
  | rori (s : BitVec 3) (d : BitVec 5) (a : BitVec 5) (h : BitVec 6)
  | lih (s : BitVec 3) (d : BitVec 5) (a : BitVec 5) (i : BitVec 12)
  | adpc (s : BitVec 3) (d : BitVec 5) (i : BitVec 12)
  | ldc (s : BitVec 3) (d : BitVec 5) (c : BitVec 8)
  | ldcx (s : BitVec 3) (d : BitVec 5) (a : BitVec 5) (c : BitVec 8)
  | addc (s : BitVec 3) (d : BitVec 5) (a : BitVec 5) (c : BitVec 8)
  | eldc (s : BitVec 3) (d : BitVec 3) (c : BitVec 8)
  | vldc (s : BitVec 3) (d : BitVec 5) (c : BitVec 8)
  | beqz (s : BitVec 3) (a : BitVec 5) (o : BitVec 14)
  | bnez (s : BitVec 3) (a : BitVec 5) (o : BitVec 14)
  | bltz (s : BitVec 3) (a : BitVec 5) (o : BitVec 14)
  | bgez (s : BitVec 3) (a : BitVec 5) (o : BitVec 14)
  | bgtz (s : BitVec 3) (a : BitVec 5) (o : BitVec 14)
  | blez (s : BitVec 3) (a : BitVec 5) (o : BitVec 14)
  | bpany (s : BitVec 3) (a : BitVec 3) (o : BitVec 14)
  | bpnone (s : BitVec 3) (a : BitVec 3) (o : BitVec 14)
  | br (s : BitVec 3) (o : BitVec 22)
  | call (s : BitVec 3) (o : BitVec 22)
  | jr (s : BitVec 3) (a : BitVec 5)
  | callr (s : BitVec 3) (a : BitVec 5)
  | ret (s : BitVec 3)
  | exit (s : BitVec 3)
  | start (s : BitVec 3) (d : BitVec 5) (a : BitVec 5) (b : BitVec 5)
  | park (s : BitVec 3) (d : BitVec 5) (a : BitVec 5)
  | yield (s : BitVec 3)
  | setpri (s : BitVec 3) (a : BitVec 5) (b : BitVec 5)
  | chmset (s : BitVec 3) (d : BitVec 5) (a : BitVec 5)
  | chmclr (s : BitVec 3) (d : BitVec 5) (a : BitVec 5)
  | qrd (s : BitVec 3) (d : BitVec 5) (q : BitVec 2)
  | qwr (s : BitVec 3) (q : BitVec 2) (a : BitVec 5)
  | recvany (s : BitVec 3) (d : BitVec 5) (a : BitVec 5) (b : BitVec 5)
  | recvanyT (s : BitVec 3) (d : BitVec 5) (a : BitVec 5) (b : BitVec 5)
  | ewr (s : BitVec 3) (d : BitVec 3) (a : BitVec 5)
  | erd (s : BitVec 3) (d : BitVec 5) (a : BitVec 3)
  | rds (s : BitVec 3) (d : BitVec 5) (n : BitVec 12)
  | wrs (s : BitVec 3) (a : BitVec 5) (n : BitVec 12)
  | copyGo (s : BitVec 3) (d : BitVec 5)
  | pfx (s : BitVec 3) (f : BitVec 4) (p : BitVec 1) (g : BitVec 4) (q : BitVec 1) (r : BitVec 3) (t : BitVec 1)
  | nop (s : BitVec 3) (h : BitVec 22)
  | ldb (s : BitVec 3) (d : BitVec 5) (a : BitVec 5) (i : BitVec 12)
  | ldbu (s : BitVec 3) (d : BitVec 5) (a : BitVec 5) (i : BitVec 12)
  | ldh (s : BitVec 3) (d : BitVec 5) (a : BitVec 5) (i : BitVec 12)
  | ldhu (s : BitVec 3) (d : BitVec 5) (a : BitVec 5) (i : BitVec 12)
  | ldw (s : BitVec 3) (d : BitVec 5) (a : BitVec 5) (i : BitVec 12)
  | ldwu (s : BitVec 3) (d : BitVec 5) (a : BitVec 5) (i : BitVec 12)
  | ldd (s : BitVec 3) (d : BitVec 5) (a : BitVec 5) (i : BitVec 12)
  | stb (s : BitVec 3) (d : BitVec 5) (a : BitVec 5) (i : BitVec 12)
  | sth (s : BitVec 3) (d : BitVec 5) (a : BitVec 5) (i : BitVec 12)
  | stw (s : BitVec 3) (d : BitVec 5) (a : BitVec 5) (i : BitVec 12)
  | std (s : BitVec 3) (d : BitVec 5) (a : BitVec 5) (i : BitVec 12)
  | ldxb (s : BitVec 3) (d : BitVec 5) (a : BitVec 5) (b : BitVec 5)
  | ldxbu (s : BitVec 3) (d : BitVec 5) (a : BitVec 5) (b : BitVec 5)
  | ldxh (s : BitVec 3) (d : BitVec 5) (a : BitVec 5) (b : BitVec 5)
  | ldxhu (s : BitVec 3) (d : BitVec 5) (a : BitVec 5) (b : BitVec 5)
  | ldxw (s : BitVec 3) (d : BitVec 5) (a : BitVec 5) (b : BitVec 5)
  | ldxwu (s : BitVec 3) (d : BitVec 5) (a : BitVec 5) (b : BitVec 5)
  | ldxd (s : BitVec 3) (d : BitVec 5) (a : BitVec 5) (b : BitVec 5)
  | stxb (s : BitVec 3) (d : BitVec 5) (a : BitVec 5) (b : BitVec 5)
  | stxh (s : BitVec 3) (d : BitVec 5) (a : BitVec 5) (b : BitVec 5)
  | stxw (s : BitVec 3) (d : BitVec 5) (a : BitVec 5) (b : BitVec 5)
  | stxd (s : BitVec 3) (d : BitVec 5) (a : BitVec 5) (b : BitVec 5)
  | bld (s : BitVec 3) (d : BitVec 5) (n : BitVec 2) (b : BitVec 5)
  | bst (s : BitVec 3) (d : BitVec 5) (n : BitVec 2) (b : BitVec 5)
  | bldI (s : BitVec 3) (d : BitVec 5) (n : BitVec 2) (w : BitVec 5)
  | bstI (s : BitVec 3) (d : BitVec 5) (n : BitVec 2) (w : BitVec 5)
  | bpset (s : BitVec 3) (n : BitVec 2) (a : BitVec 5)
  | bprd (s : BitVec 3) (d : BitVec 5) (n : BitVec 2)
  | bpadd (s : BitVec 3) (n : BitVec 2) (a : BitVec 5)
  | gldb (s : BitVec 3) (d : BitVec 5) (a : BitVec 5) (b : BitVec 5)
  | gldh (s : BitVec 3) (d : BitVec 5) (a : BitVec 5) (b : BitVec 5)
  | gldw (s : BitVec 3) (d : BitVec 5) (a : BitVec 5) (b : BitVec 5)
  | gldd (s : BitVec 3) (d : BitVec 5) (a : BitVec 5) (b : BitVec 5)
  | gstb (s : BitVec 3) (d : BitVec 5) (a : BitVec 5) (b : BitVec 5)
  | gsth (s : BitVec 3) (d : BitVec 5) (a : BitVec 5) (b : BitVec 5)
  | gstw (s : BitVec 3) (d : BitVec 5) (a : BitVec 5) (b : BitVec 5)
  | gstd (s : BitVec 3) (d : BitVec 5) (a : BitVec 5) (b : BitVec 5)
  | sptst (s : BitVec 3) (d : BitVec 5) (a : BitVec 5)
  | spcst (s : BitVec 3) (d : BitVec 5) (a : BitVec 5) (c : BitVec 3)
  | spmk (s : BitVec 3) (d : BitVec 5) (a : BitVec 5) (b : BitVec 5)
  | iflush (s : BitVec 3) (a : BitVec 5) (b : BitVec 5)
  | vld (s : BitVec 3) (d : BitVec 5) (a : BitVec 5) (p : BitVec 3) (z : BitVec 1)
  | vst (s : BitVec 3) (d : BitVec 5) (a : BitVec 5) (p : BitVec 3)
  | vlds (s : BitVec 3) (d : BitVec 5) (a : BitVec 5) (b : BitVec 5) (p : BitVec 3) (z : BitVec 1)
  | vsts (s : BitVec 3) (d : BitVec 5) (a : BitVec 5) (b : BitVec 5) (p : BitVec 3)
  | vldg (s : BitVec 3) (d : BitVec 5) (a : BitVec 5) (b : BitVec 5) (p : BitVec 3) (z : BitVec 1)
  | vstsc (s : BitVec 3) (d : BitVec 5) (a : BitVec 5) (b : BitVec 5) (p : BitVec 3)
  | vadd (s : BitVec 3) (d : BitVec 5) (a : BitVec 5) (b : BitVec 5) (p : BitVec 3) (z : BitVec 1)
  | vsub (s : BitVec 3) (d : BitVec 5) (a : BitVec 5) (b : BitVec 5) (p : BitVec 3) (z : BitVec 1)
  | vmul (s : BitVec 3) (d : BitVec 5) (a : BitVec 5) (b : BitVec 5) (p : BitVec 3) (z : BitVec 1)
  | vfma (s : BitVec 3) (d : BitVec 5) (a : BitVec 5) (b : BitVec 5) (p : BitVec 3) (z : BitVec 1)
  | vfms (s : BitVec 3) (d : BitVec 5) (a : BitVec 5) (b : BitVec 5) (p : BitVec 3) (z : BitVec 1)
  | vfnma (s : BitVec 3) (d : BitVec 5) (a : BitVec 5) (b : BitVec 5) (p : BitVec 3) (z : BitVec 1)
  | vmin (s : BitVec 3) (d : BitVec 5) (a : BitVec 5) (b : BitVec 5) (p : BitVec 3) (z : BitVec 1)
  | vmax (s : BitVec 3) (d : BitVec 5) (a : BitVec 5) (b : BitVec 5) (p : BitVec 3) (z : BitVec 1)
  | vdiv (s : BitVec 3) (d : BitVec 5) (a : BitVec 5) (b : BitVec 5) (p : BitVec 3) (z : BitVec 1)
  | vsqrt (s : BitVec 3) (d : BitVec 5) (a : BitVec 5) (p : BitVec 3) (z : BitVec 1)
  | vexp2 (s : BitVec 3) (d : BitVec 5) (a : BitVec 5) (p : BitVec 3) (z : BitVec 1)
  | vlog2 (s : BitVec 3) (d : BitVec 5) (a : BitVec 5) (p : BitVec 3) (z : BitVec 1)
  | vrcpe (s : BitVec 3) (d : BitVec 5) (a : BitVec 5) (p : BitVec 3) (z : BitVec 1)
  | vrsqe (s : BitVec 3) (d : BitVec 5) (a : BitVec 5) (p : BitVec 3) (z : BitVec 1)
  | vabs (s : BitVec 3) (d : BitVec 5) (a : BitVec 5) (p : BitVec 3) (z : BitVec 1)
  | vneg (s : BitVec 3) (d : BitVec 5) (a : BitVec 5) (p : BitVec 3) (z : BitVec 1)
  | vcmpeq (s : BitVec 3) (d : BitVec 3) (a : BitVec 5) (b : BitVec 5) (p : BitVec 3) (z : BitVec 1)
  | vcmpne (s : BitVec 3) (d : BitVec 3) (a : BitVec 5) (b : BitVec 5) (p : BitVec 3) (z : BitVec 1)
  | vcmplt (s : BitVec 3) (d : BitVec 3) (a : BitVec 5) (b : BitVec 5) (p : BitVec 3) (z : BitVec 1)
  | vcmple (s : BitVec 3) (d : BitVec 3) (a : BitVec 5) (b : BitVec 5) (p : BitVec 3) (z : BitVec 1)
  | vcmpun (s : BitVec 3) (d : BitVec 3) (a : BitVec 5) (b : BitVec 5) (p : BitVec 3) (z : BitVec 1)
  | vsel (s : BitVec 3) (d : BitVec 5) (a : BitVec 5) (b : BitVec 5) (p : BitVec 3)
  | vcpsgn (s : BitVec 3) (d : BitVec 5) (a : BitVec 5) (b : BitVec 5) (p : BitVec 3) (z : BitVec 1)
  | vrint (s : BitVec 3) (d : BitVec 5) (a : BitVec 5) (p : BitVec 3) (z : BitVec 1)
  | viadd (s : BitVec 3) (d : BitVec 5) (a : BitVec 5) (b : BitVec 5) (p : BitVec 3) (z : BitVec 1)
  | visub (s : BitVec 3) (d : BitVec 5) (a : BitVec 5) (b : BitVec 5) (p : BitVec 3) (z : BitVec 1)
  | vimul (s : BitVec 3) (d : BitVec 5) (a : BitVec 5) (b : BitVec 5) (p : BitVec 3) (z : BitVec 1)
  | vimin (s : BitVec 3) (d : BitVec 5) (a : BitVec 5) (b : BitVec 5) (p : BitVec 3) (z : BitVec 1)
  | vimax (s : BitVec 3) (d : BitVec 5) (a : BitVec 5) (b : BitVec 5) (p : BitVec 3) (z : BitVec 1)
  | viminu (s : BitVec 3) (d : BitVec 5) (a : BitVec 5) (b : BitVec 5) (p : BitVec 3) (z : BitVec 1)
  | vimaxu (s : BitVec 3) (d : BitVec 5) (a : BitVec 5) (b : BitVec 5) (p : BitVec 3) (z : BitVec 1)
  | viabs (s : BitVec 3) (d : BitVec 5) (a : BitVec 5) (p : BitVec 3) (z : BitVec 1)
  | vand (s : BitVec 3) (d : BitVec 5) (a : BitVec 5) (b : BitVec 5) (p : BitVec 3) (z : BitVec 1)
  | vor (s : BitVec 3) (d : BitVec 5) (a : BitVec 5) (b : BitVec 5) (p : BitVec 3) (z : BitVec 1)
  | vxor (s : BitVec 3) (d : BitVec 5) (a : BitVec 5) (b : BitVec 5) (p : BitVec 3) (z : BitVec 1)
  | vandn (s : BitVec 3) (d : BitVec 5) (a : BitVec 5) (b : BitVec 5) (p : BitVec 3) (z : BitVec 1)
  | vshl (s : BitVec 3) (d : BitVec 5) (a : BitVec 5) (b : BitVec 5) (p : BitVec 3) (z : BitVec 1)
  | vshr (s : BitVec 3) (d : BitVec 5) (a : BitVec 5) (b : BitVec 5) (p : BitVec 3) (z : BitVec 1)
  | vsar (s : BitVec 3) (d : BitVec 5) (a : BitVec 5) (b : BitVec 5) (p : BitVec 3) (z : BitVec 1)
  | viaddsat (s : BitVec 3) (d : BitVec 5) (a : BitVec 5) (b : BitVec 5) (p : BitVec 3) (z : BitVec 1)
  | vicmpeq (s : BitVec 3) (d : BitVec 3) (a : BitVec 5) (b : BitVec 5) (p : BitVec 3) (z : BitVec 1)
  | vicmpne (s : BitVec 3) (d : BitVec 3) (a : BitVec 5) (b : BitVec 5) (p : BitVec 3) (z : BitVec 1)
  | vicmplt (s : BitVec 3) (d : BitVec 3) (a : BitVec 5) (b : BitVec 5) (p : BitVec 3) (z : BitVec 1)
  | vicmpltu (s : BitVec 3) (d : BitVec 3) (a : BitVec 5) (b : BitVec 5) (p : BitVec 3) (z : BitVec 1)
  | vicmple (s : BitVec 3) (d : BitVec 3) (a : BitVec 5) (b : BitVec 5) (p : BitVec 3) (z : BitVec 1)
  | vicmpleu (s : BitVec 3) (d : BitVec 3) (a : BitVec 5) (b : BitVec 5) (p : BitVec 3) (z : BitVec 1)
  | vimulh (s : BitVec 3) (d : BitVec 5) (a : BitVec 5) (b : BitVec 5) (p : BitVec 3) (z : BitVec 1)
  | vimulhu (s : BitVec 3) (d : BitVec 5) (a : BitVec 5) (b : BitVec 5) (p : BitVec 3) (z : BitVec 1)
  | vperm (s : BitVec 3) (d : BitVec 5) (a : BitVec 5) (b : BitVec 5) (p : BitVec 3) (z : BitVec 1)
  | vslideup (s : BitVec 3) (d : BitVec 5) (a : BitVec 5) (b : BitVec 5) (p : BitVec 3) (z : BitVec 1)
  | vslidedn (s : BitVec 3) (d : BitVec 5) (a : BitVec 5) (b : BitVec 5) (p : BitVec 3) (z : BitVec 1)
  | vbcast (s : BitVec 3) (d : BitVec 5) (a : BitVec 5) (p : BitVec 3) (z : BitVec 1)
  | vext (s : BitVec 3) (d : BitVec 5) (a : BitVec 5) (b : BitVec 5)
  | vins (s : BitVec 3) (d : BitVec 5) (a : BitVec 5) (b : BitVec 5)
  | vzip (s : BitVec 3) (d : BitVec 5) (a : BitVec 5) (b : BitVec 5) (p : BitVec 3) (z : BitVec 1)
  | vunzip (s : BitVec 3) (d : BitVec 5) (a : BitVec 5) (b : BitVec 5) (p : BitVec 3) (z : BitVec 1)
  | vredadd (s : BitVec 3) (d : BitVec 5) (a : BitVec 5) (p : BitVec 3)
  | vredmax (s : BitVec 3) (d : BitVec 5) (a : BitVec 5) (p : BitVec 3)
  | vredmin (s : BitVec 3) (d : BitVec 5) (a : BitVec 5) (p : BitVec 3)
  | viredadd (s : BitVec 3) (d : BitVec 5) (a : BitVec 5) (p : BitVec 3)
  | viredmax (s : BitVec 3) (d : BitVec 5) (a : BitVec 5) (p : BitVec 3)
  | viredmin (s : BitVec 3) (d : BitVec 5) (a : BitVec 5) (p : BitVec 3)
  | vredand (s : BitVec 3) (d : BitVec 5) (a : BitVec 5) (p : BitVec 3)
  | vredor (s : BitVec 3) (d : BitVec 5) (a : BitVec 5) (p : BitVec 3)
  | vcvt (s : BitVec 3) (d : BitVec 5) (a : BitVec 5) (p : BitVec 3) (z : BitVec 1)
  | vcvtfi (s : BitVec 3) (d : BitVec 5) (a : BitVec 5) (p : BitVec 3) (z : BitVec 1)
  | vcvtif (s : BitVec 3) (d : BitVec 5) (a : BitVec 5) (p : BitVec 3) (z : BitVec 1)
  | vnarrow (s : BitVec 3) (d : BitVec 5) (a : BitVec 5) (p : BitVec 3) (z : BitVec 1)
  | vwiden (s : BitVec 3) (d : BitVec 5) (a : BitVec 5) (p : BitVec 3) (z : BitVec 1)
  | vrand (s : BitVec 3) (d : BitVec 5) (a : BitVec 5) (p : BitVec 3) (z : BitVec 1)
  | dmask (s : BitVec 3) (d : BitVec 3) (a : BitVec 5) (b : BitVec 5) (p : BitVec 3) (z : BitVec 1)
  | vmov (s : BitVec 3) (d : BitVec 5) (a : BitVec 5) (p : BitVec 3) (z : BitVec 1)
  | pand (s : BitVec 3) (d : BitVec 3) (a : BitVec 3) (b : BitVec 3)
  | por (s : BitVec 3) (d : BitVec 3) (a : BitVec 3) (b : BitVec 3)
  | pxor (s : BitVec 3) (d : BitVec 3) (a : BitVec 3) (b : BitVec 3)
  | pandn (s : BitVec 3) (d : BitVec 3) (a : BitVec 3) (b : BitVec 3)
  | pnot (s : BitVec 3) (d : BitVec 3) (a : BitVec 3)
  | pmov (s : BitVec 3) (d : BitVec 3) (a : BitVec 5)
  | pget (s : BitVec 3) (d : BitVec 5) (a : BitVec 3)
  | pcnt (s : BitVec 3) (d : BitVec 5) (a : BitVec 3)
  | pfirst (s : BitVec 3) (d : BitVec 5) (a : BitVec 3)
  | rand (s : BitVec 3) (d : BitVec 5) (a : BitVec 5)
  | qnt (s : BitVec 3) (d : BitVec 5) (a : BitVec 5) (e : BitVec 3)
  | qntb (s : BitVec 3) (d : BitVec 5) (a : BitVec 5) (e : BitVec 3)
  | dqnt (s : BitVec 3) (d : BitVec 5) (a : BitVec 5) (e : BitVec 3)
  | strd (s : BitVec 3) (d : BitVec 5) (e : BitVec 3)
  | stclr (s : BitVec 3) (e : BitVec 3)
  | stfrz (s : BitVec 3) (e : BitVec 3)
  | stsync (s : BitVec 3) (c : BitVec 3)
  | vstS (s : BitVec 3) (d : BitVec 5) (a : BitVec 5) (e : BitVec 3)
  | vstsS (s : BitVec 3) (d : BitVec 5) (a : BitVec 5) (b : BitVec 5) (e : BitVec 3)
  | vstscS (s : BitVec 3) (d : BitVec 5) (a : BitVec 5) (b : BitVec 5) (e : BitVec 3)
  | oclm (s : BitVec 3) (d : BitVec 5) (a : BitVec 5)
  | orel (s : BitVec 3) (a : BitVec 5)
  | old (s : BitVec 3) (o : BitVec 4) (a : BitVec 5) (b : BitVec 5) (e : BitVec 3)
  | mma (s : BitVec 3) (d : BitVec 5) (o : BitVec 4) (q : BitVec 4) (e : BitVec 3)
  | mmaZ (s : BitVec 3) (d : BitVec 5) (o : BitVec 4) (q : BitVec 4) (e : BitVec 3)
  | ard (s : BitVec 3) (d : BitVec 5) (a : BitVec 5) (b : BitVec 5)
  | asto (s : BitVec 3) (d : BitVec 5) (a : BitVec 5) (b : BitVec 5) (e : BitVec 3)
  | arel (s : BitVec 3) (a : BitVec 5)
  | send (s : BitVec 3) (d : BitVec 5) (a : BitVec 5) (b : BitVec 5) (c : BitVec 2)
  | sendhost (s : BitVec 3) (d : BitVec 5) (a : BitVec 5) (b : BitVec 5) (c : BitVec 2)
  | put (s : BitVec 3) (d : BitVec 5) (a : BitVec 5) (b : BitVec 5) (c : BitVec 2)
  | rfadd (s : BitVec 3) (d : BitVec 5) (a : BitVec 5) (b : BitVec 5) (c : BitVec 2)
  | rfaddT (s : BitVec 3) (d : BitVec 5) (a : BitVec 5) (b : BitVec 5) (c : BitVec 2)
  | vfaddT (s : BitVec 3) (d : BitVec 5) (a : BitVec 5) (b : BitVec 5) (c : BitVec 2)
  | tsopen (s : BitVec 3) (d : BitVec 5) (a : BitVec 5) (c : BitVec 2)
  | tsclose (s : BitVec 3) (d : BitVec 5) (a : BitVec 5) (c : BitVec 2)
  | tskip (s : BitVec 3) (d : BitVec 5) (a : BitVec 5) (b : BitVec 5) (c : BitVec 2)
  | tdrain (s : BitVec 3) (a : BitVec 5) (c : BitVec 2)
  | halo (s : BitVec 3) (d : BitVec 5) (a : BitVec 5) (b : BitVec 5) (c : BitVec 2)
  | zwatch (s : BitVec 3) (d : BitVec 5) (a : BitVec 5) (b : BitVec 5)
  | aaddW (s : BitVec 3) (d : BitVec 5) (a : BitVec 5) (b : BitVec 5) (c : BitVec 2)
  | aaddfW (s : BitVec 3) (d : BitVec 5) (a : BitVec 5) (b : BitVec 5) (c : BitVec 2)
  | asminW (s : BitVec 3) (d : BitVec 5) (a : BitVec 5) (b : BitVec 5) (c : BitVec 2)
  | asminfW (s : BitVec 3) (d : BitVec 5) (a : BitVec 5) (b : BitVec 5) (c : BitVec 2)
  | asmaxW (s : BitVec 3) (d : BitVec 5) (a : BitVec 5) (b : BitVec 5) (c : BitVec 2)
  | asmaxfW (s : BitVec 3) (d : BitVec 5) (a : BitVec 5) (b : BitVec 5) (c : BitVec 2)
  | auminW (s : BitVec 3) (d : BitVec 5) (a : BitVec 5) (b : BitVec 5) (c : BitVec 2)
  | auminfW (s : BitVec 3) (d : BitVec 5) (a : BitVec 5) (b : BitVec 5) (c : BitVec 2)
  | aumaxW (s : BitVec 3) (d : BitVec 5) (a : BitVec 5) (b : BitVec 5) (c : BitVec 2)
  | aumaxfW (s : BitVec 3) (d : BitVec 5) (a : BitVec 5) (b : BitVec 5) (c : BitVec 2)
  | aandW (s : BitVec 3) (d : BitVec 5) (a : BitVec 5) (b : BitVec 5) (c : BitVec 2)
  | aandfW (s : BitVec 3) (d : BitVec 5) (a : BitVec 5) (b : BitVec 5) (c : BitVec 2)
  | aorW (s : BitVec 3) (d : BitVec 5) (a : BitVec 5) (b : BitVec 5) (c : BitVec 2)
  | aorfW (s : BitVec 3) (d : BitVec 5) (a : BitVec 5) (b : BitVec 5) (c : BitVec 2)
  | axorW (s : BitVec 3) (d : BitVec 5) (a : BitVec 5) (b : BitVec 5) (c : BitVec 2)
  | axorfW (s : BitVec 3) (d : BitVec 5) (a : BitVec 5) (b : BitVec 5) (c : BitVec 2)
  | aswapW (s : BitVec 3) (d : BitVec 5) (a : BitVec 5) (b : BitVec 5) (c : BitVec 2)
  | acasW (s : BitVec 3) (d : BitVec 5) (a : BitVec 5) (b : BitVec 5) (c : BitVec 2)
  | aaddD (s : BitVec 3) (d : BitVec 5) (a : BitVec 5) (b : BitVec 5) (c : BitVec 2)
  | aaddfD (s : BitVec 3) (d : BitVec 5) (a : BitVec 5) (b : BitVec 5) (c : BitVec 2)
  | asminD (s : BitVec 3) (d : BitVec 5) (a : BitVec 5) (b : BitVec 5) (c : BitVec 2)
  | asminfD (s : BitVec 3) (d : BitVec 5) (a : BitVec 5) (b : BitVec 5) (c : BitVec 2)
  | asmaxD (s : BitVec 3) (d : BitVec 5) (a : BitVec 5) (b : BitVec 5) (c : BitVec 2)
  | asmaxfD (s : BitVec 3) (d : BitVec 5) (a : BitVec 5) (b : BitVec 5) (c : BitVec 2)
  | auminD (s : BitVec 3) (d : BitVec 5) (a : BitVec 5) (b : BitVec 5) (c : BitVec 2)
  | auminfD (s : BitVec 3) (d : BitVec 5) (a : BitVec 5) (b : BitVec 5) (c : BitVec 2)
  | aumaxD (s : BitVec 3) (d : BitVec 5) (a : BitVec 5) (b : BitVec 5) (c : BitVec 2)
  | aumaxfD (s : BitVec 3) (d : BitVec 5) (a : BitVec 5) (b : BitVec 5) (c : BitVec 2)
  | aandD (s : BitVec 3) (d : BitVec 5) (a : BitVec 5) (b : BitVec 5) (c : BitVec 2)
  | aandfD (s : BitVec 3) (d : BitVec 5) (a : BitVec 5) (b : BitVec 5) (c : BitVec 2)
  | aorD (s : BitVec 3) (d : BitVec 5) (a : BitVec 5) (b : BitVec 5) (c : BitVec 2)
  | aorfD (s : BitVec 3) (d : BitVec 5) (a : BitVec 5) (b : BitVec 5) (c : BitVec 2)
  | axorD (s : BitVec 3) (d : BitVec 5) (a : BitVec 5) (b : BitVec 5) (c : BitVec 2)
  | axorfD (s : BitVec 3) (d : BitVec 5) (a : BitVec 5) (b : BitVec 5) (c : BitVec 2)
  | aswapD (s : BitVec 3) (d : BitVec 5) (a : BitVec 5) (b : BitVec 5) (c : BitVec 2)
  | acasD (s : BitVec 3) (d : BitVec 5) (a : BitVec 5) (b : BitVec 5) (c : BitVec 2)
  | arrive (s : BitVec 3) (n : BitVec 3)
  | wait (s : BitVec 3) (d : BitVec 5) (n : BitVec 3)
  | arvdrop (s : BitVec 3) (n : BitVec 3)
  | fence (s : BitVec 3) (c : BitVec 3)
  | fenceAcq (s : BitVec 3) (c : BitVec 3)
  | fenceRel (s : BitVec 3) (c : BitVec 3)
  | fenceSc (s : BitVec 3) (c : BitVec 3)
  | genend (s : BitVec 3)
  | genq (s : BitVec 3) (d : BitVec 5) (q : BitVec 5)
  | migrate (s : BitVec 3) (d : BitVec 5) (a : BitVec 5)
  | tret (s : BitVec 3) (a : BitVec 5)
  | xrd (s : BitVec 3) (d : BitVec 5) (a : BitVec 5) (b : BitVec 5)
  | xwr (s : BitVec 3) (d : BitVec 5) (a : BitVec 5) (b : BitVec 5)
  | eresume (s : BitVec 3) (a : BitVec 5)
  | eabort (s : BitVec 3) (a : BitVec 5)
  | xinv (s : BitVec 3) (a : BitVec 5) (b : BitVec 5)
  | cMv (d : BitVec 5) (a : BitVec 5)
  | cAdd (d : BitVec 5) (a : BitVec 5)
  | cSub (d : BitVec 5) (a : BitVec 5)
  | cAnd (d : BitVec 5) (a : BitVec 5)
  | cOr (d : BitVec 5) (a : BitVec 5)
  | cXor (d : BitVec 5) (a : BitVec 5)
  | cAddi (d : BitVec 5) (i : BitVec 5)
  | cLi (d : BitVec 5) (i : BitVec 5)
  | cSlli (d : BitVec 5) (h : BitVec 5)
  | cSrli (d : BitVec 5) (h : BitVec 5)
  | cSrai (d : BitVec 5) (h : BitVec 5)
  | cLd (d : BitVec 5) (a : BitVec 5)
  | cSd (d : BitVec 5) (a : BitVec 5)
  | cBeqz (d : BitVec 5) (o : BitVec 5)
  | cBnez (d : BitVec 5) (o : BitVec 5)
  | cJ (o : BitVec 10)
  | cJr (a : BitVec 5)
  | cExit
  | cHint (h : BitVec 10)
  | launchRecord (p : BitVec 4)
  | wakeArrival (cn : CoreNo)
  | selection (cn : CoreNo)
  | messageArrival (i : Nat)
  | heldMessagePlacement (cn : CoreNo) (c : BitVec 6)
  | corePartEnd (cn : CoreNo)
  | completionReport (i : Nat)
  | launchCompletion (p : BitVec 4) (lid : BitVec 32)
  | rectangleRelease (p : BitVec 4) (lid : BitVec 32)
  | stopCmd (p : BitVec 4)
  | resumeCmd (p : BitVec 4)
  | launchResumption (p : BitVec 4) (lid : BitVec 32)
  | endCmd (p : BitVec 4)
  | commandMalformed (p : BitVec 4)
  | transactionCompletion (i : Nat)
  | replyArrival (i : Nat)
  | retryResend (i : Nat)
  | putAtTarget (i : Nat)
  | atomicAtHome (i : Nat)
  | fpUpdateAtHome (i : Nat)
  | ticketedUpdateArrival (i : Nat)
  | copyBlockWrite (cn : CoreNo) (id : BitVec 16)
  | copyCompletion (cn : CoreNo) (id : BitVec 16)
  | haloArrival (i : Nat)
  | haloAcknowledgement (i : Nat)
  | arbitrationRound (o : Nat) (joins : List (Nat × Nat))
  | exhaustionNotice (i : Nat)
  | congestionNotice (cn : CoreNo) (key : DestKey)
  | retransmission (i : Nat)
  | sutrePacketArrival (h : SutreHeader) (payload : List Word)
  | accumulatorFlush (owner : Option CoreNo) (n : Nat)
  | flushMerge (i : Nat)
  | barrierPhaseCompletion (p : BitVec 4) (lid : BitVec 32) (n : BitVec 3)
  | deadlock (p : BitVec 4) (lid : BitVec 32)
  | generationBoundary (g : BitVec 6)
  | generationResumption (g : BitVec 6)
  | immigrantBatch (b : Batch)
  | trapEntry (cn : CoreNo)
  | hostWake (cn : CoreNo)
  | pageWalk (cn : CoreNo) (va : BitVec 48)
  | invalidatePage (p : BitVec 4)
  | invalidateAsid (p : BitVec 4)
  | invalidateMalformed (p : BitVec 4)
  | portRetryExhausted (eth : Bool) (port : BitVec 6)
  | packageLost (pkg : BitVec 16)
  | meshLinkError (a b : CoreNo)
  | machineCheck (cn : CoreNo)
  | coreHalt (cn : CoreNo)
  | haltRelease (cn : CoreNo)
  | matrixEnginePowerDown (cn : CoreNo)
  | matrixEngineReady (cn : CoreNo)
  | packageReset
  | unitStart
  | recoveryLoad
  | attestation
  | mailboxUnknownCommand
  | hsemRead (reads : List (BitVec 2 × BitVec 5))
  | hsemWrite (port : BitVec 2) (n : BitVec 5) (w : Word)
  | hostLinkReset (port : BitVec 1)
  | dstopWrite (p : BitVec 4) (lid : BitVec 32)
  | debugStop (cn : CoreNo)
  | drelWrite (p : BitVec 4) (lid : BitVec 32)
  | recordHomeOperation (i : Nat)
  | sequencePartQuery (i : Nat)
  | fenceScOrderFixed (cn : CoreNo) (k : BitVec 4)
  | partitionDescriptorWrite (p : BitVec 4) (dws : List Word)
  deriving DecidableEq, Repr

end Sys2Proof
end

