-- ==== Sys2Proof/Machine/State.lean ====
section
/-! DEFINITION. The state of one BX-2048 package as plain data, the reasons a step can stop, and the state after
package reset. Reset values that the spec does not give are named in log entry 1 (registers and fields: zero or
empty), log entries 2 and 3 (memory bytes: zero), log entry 5 (moves) and log entry 6 (free choices). -/

namespace Sys2Proof.Machine

/-- Reasons a step stops with a fault. -/
inductive Fault where
  /-- Raised by step for a move that names a core outside the logical mesh (R15): no such core exists. Safe. -/
  | noSuchCore
  /-- Raised by exit and c.exit executed in CT: R26 says that the chapter on traps describes the effect, and that chapter
  gives none (log entry 17). Safe. -/
  | exitInTrapContext
  deriving DecidableEq, Repr

/-- Reasons a step is refused. -/
inductive Refusal where
  /-- Raised by exec's arm of a row that has no meaning yet, with the row's mnemonic. Safe. -/
  | notModelled (mnemonic : String)
  /-- Raised by the meaning of an event whose conditions in the spec do not hold in the state, so that the event
  cannot come about there (log entry 8). Safe. -/
  | notEnabled
  deriving DecidableEq, Repr

/-- What the outside of a core does to it, or the host, firmware and M to the package, beside the events of the opcode
table (log entry 64). -/
inductive Outside where
  /-- A corrected error of a core (R355). -/
  | corrected (cn : CoreNo)
  /-- A core's mesh router refuses a first packet, or takes packets again (R310). -/
  | router (cn : CoreNo) (refuses : Bool)
  /-- A switch output has, or has not, downstream credit for a class (R130); a switch sends a congestion notice about the
  request packet with a number (R135). -/
  | credit (output : Nat) (cls : BitVec 2) (has : Bool)
  | congest (pkt : Nat)
  /-- An Ethernet frame arrives, with its CE mark (R402, R404). -/
  | frame (ce : Bool) (header : SutreHeader) (payload : List Word)
  /-- M reads or writes a register of a halted core, by context and selector of R359, or bytes of its local SRAM (R340,
  R422). -/
  | readReg (cn : CoreNo) (k : BitVec 4) (sel : BitVec 19)
  | writeReg (cn : CoreNo) (k : BitVec 4) (sel : BitVec 19) (w : Word)
  | readSram (cn : CoreNo) (a : BitVec 22) (n : BitVec 12)
  | writeSram (cn : CoreNo) (a : BitVec 22) (bytes : List Byte)
  /-- A host port, or M as 2, reads or writes n bytes of the management window at an offset (R384, R412, R424). -/
  | readWindow (port : BitVec 2) (off : BitVec 24) (n : BitVec 12)
  | writeWindow (port : BitVec 2) (off : BitVec 24) (bytes : List Byte)
  /-- The host or level S writes bytes of device memory (R362, R366, R377, R392, R396). -/
  | writeMemory (pa : BitVec 48) (bytes : List Byte)
  /-- An issuer confirms the receipt of a reply, which the duplicate filter then drops: partition, package, job rank, core,
  sequence (R138). -/
  | confirm (part : BitVec 4) (pkg : BitVec 16) (rank : BitVec 32) (cn : CoreNo) (seq : BitVec 32)
  /-- A core performs the j-th of the stores, or the j-th of the loads, that context k has left for later; it reads n bytes for
  context k ahead of the load that will use them (R167, R172). -/
  | perform (cn : CoreNo) (k : BitVec 4) (j : Nat)
  | readLate (cn : CoreNo) (k : BitVec 4) (j : Nat)
  | readEarly (cn : CoreNo) (k : BitVec 4) (a : BitVec 22) (n : BitVec 8)
  /-- A ticketed update, packet pkt, is handled at its home, which leaves its applications for later; the home performs the next
  one that is due on a line of the sequence in a slot of a launch (R146, R176). -/
  | updateLate (pkt : Nat)
  | apply (part : BitVec 4) (lid : BitVec 32) (slot line : Nat)
  /-- A core of another package starts a launch or goes on with one: its next message to a core here bears a FLOWSEQ (R400). -/
  | flow (pkg : BitVec 16) (scn dcn : CoreNo) (next : BitVec 16)
  deriving DecidableEq, Repr

/-- What moves next: one issue slot of a core, whose store or load may be left to be performed later (R167), an event of the opcode
table, or what the outside does (log entry 5). -/
inductive Move where
  | slot (cn : CoreNo)
  | slotLate (cn : CoreNo)
  | event (i : Instr)
  | outside (o : Outside)
  deriving DecidableEq, Repr

/-- An inbox slot of a channel held by an activation or a reception (R33, R243). -/
structure InboxSlot where
  chan : Nat
  addr : Nat
  size : Nat
  deriving DecidableEq, Repr

/-- What a context waits for (R38); the first four kinds are parked under R41. -/
inductive Wait where
  /-- Not waiting. -/
  | none
  /-- PARK with its event set (R40). -/
  | park (mask : Nat)
  /-- WAIT on a barrier slot (R325). -/
  | barrier (n : Nat)
  /-- QRD of an empty queue (R241). -/
  | queue (q : Nat)
  /-- RECVANY or RECVANY.T with its channel set and the wakes it arms (R243). -/
  | channels (set : Nat) (remote host : Bool)
  /-- QWR or a fetching form on a full queue (R122, R242). -/
  | room (q : Nat)
  /-- The limit of 32 copies (R63). -/
  | copies
  /-- A release at a scope waits for earlier transactions (R311). -/
  | release (scope : Nat)
  /-- FENCE.ACQ waits for its fetching transactions (R170). -/
  | replies
  /-- A congestion window is full (R136). -/
  | window (key : DestKey)
  /-- The core's mesh router refuses the first packet (R310). -/
  | router
  /-- A context that START has started waits for the earlier transactions that START orders before it (R173). -/
  | fork (seqs : List Nat)
  /-- The activation that its instruction would start differs from the replay log: the core stops first (R426). -/
  | diverged
  /-- The limit of 16 halo transfers (R321): the most that may be outstanding. -/
  | halos (most : Nat)
  /-- A host ring is full (R127). -/
  | ring (h : Nat)
  /-- The matrix engine is powered down (R421). -/
  | engine
  /-- A home operation has not answered: 2 × its packet's number, or 2 × its transaction's sequence + 1. -/
  | sent (id : Nat)
  /-- The answer: a status and data. -/
  | got (status : Nat) (data : List Word)
  /-- FENCE.SC waits for its place in the order (R171). -/
  | order
  /-- The place is fixed. -/
  | ordered
  /-- GENEND waits for transactions and engine operations (R183). -/
  | quiet
  /-- The statistics flushes of the core (STSYNC, GENEND) are not merged (R106). -/
  | merges
  /-- A statistics flush of one record is not merged (R293, R294). -/
  | merge (recid : Nat)
  /-- GENEND has arrived at the Shawm (R183). -/
  | shawm
  /-- TSCLOSE waits for the context's updates (R154). -/
  | updates (handle : Word)
  /-- TSKIP holds the update of a line: the window toward it is full, or the router refuses it (R136, R310, R318). -/
  | line (at_ : Word) (key : DestKey) (first : Nat) (via : Option (Nat × Nat))
  deriving DecidableEq, Repr

/-- What an instruction found in its issue slot: FMT, the SLK registers, the pending prefix with STAT.PP, and RNDCTR (R85, R288,
R310). -/
structure Snapshot where
  fmt : BitVec 24
  slk : SMap Word
  pfx : BitVec 14
  pp : Bool
  rndctr : Word
  deriving DecidableEq, Repr

/-- A load that has retired with the value that it found at its issue, and may still be performed later than what follows it (R167):
its instruction, what it found in its issue slot, its context's registers, the bytes that it reads, and the keys of the registers that it
writes. -/
structure Deferred where
  instr : Instr
  snap : Snapshot
  g : SMap Word
  v : SMap VReg
  p : SMap Word
  e : SMap Word
  b : SMap Word
  bytes : List (Nat × Nat)
  writes : List Nat
  deriving DecidableEq, Repr

/-- One hardware context (R22). -/
structure Ctx where
  live : Bool := false
  /-- C0 in the finishing state (R27). -/
  finishing : Bool := false
  /-- Held at an instruction by a precise record (R343), or by tret with HOLD (R357). -/
  held : Bool := false
  g : SMap Word := []
  v : SMap VReg := []
  p : SMap Word := []
  e : SMap Word := []
  b : SMap Word := []
  pc : Word := 0
  stat : Word := 0
  /-- The pending prefix, bits 21 to 8 of PFX (R216). -/
  pfx : BitVec 14 := 0
  rndctr : Word := 0
  kind : BitVec 2 := 0
  pri : BitVec 2 := 0
  chan : BitVec 6 := 0
  /-- Latched park events, by bit number of R40. -/
  latched : BitVec 8 := 0
  q1 : List Word := []
  /-- The inbox slot of a message activation, and the reception slot (R33, R243). -/
  slot : Option InboxSlot := none
  rslot : Option InboxSlot := none
  cpSrc : Word := 0
  cpDst : Word := 0
  cpLen : BitVec 32 := 0
  cpShape : Word := 0
  cpPblk : BitVec 22 := 0
  wait : Wait := .none
  /-- The instruction that issued last: the one that a waiting context waits at. -/
  cur : Option Instr := none
  /-- What a blocked instruction found in its issue slot (R85, R288, R310). -/
  snap : Option Snapshot := none
  /-- Issue slots left before the next issue (R204). -/
  stl : Nat := 0
  /-- The guaranteed-distance clock (R204) and when each register satisfies R205. -/
  clock : Nat := 0
  ready : SMap Nat := []
  /-- Stores that have retired and are not performed yet, oldest first, in their parts of one doubleword: bit address, width in bits and
  value (R54, R167, R172). -/
  late : List (Nat × Nat × Nat) := []
  /-- Bytes of local SRAM read ahead of the load that will use them, by address (R167); the registers whose values may come
  from a read made since; whether a read has been made since. -/
  early : List (Nat × List Byte) := []
  taint : List Nat := []
  reads : Bool := false
  /-- Loads that may still be performed later (R167). -/
  deferred : List Deferred := []
  /-- Contexts that issue first after a YIELD (R238). -/
  yielded : List Nat := []
  /-- Register doublewords with an uncorrectable error (R355): register key * 32 + doubleword. -/
  bad : List Nat := []
  /-- ISSUE, BLOCKED, ACTS, LDST, TRANS, ENG (R425). -/
  perf : SMap Word := []
  deriving DecidableEq, Repr

/-- The issuer of a request from another package: the partition and this package's number as its header names them; its
package, job rank, core and sequence (R138, R401). -/
structure Issuer where
  part : Nat
  own : Nat
  pkg : Nat
  rank : Nat
  cn : Nat
  seq : Nat
  deriving DecidableEq, Repr

/-- A message on its way or placed (R33, R114). -/
structure Msg where
  chan : Nat
  tag : Nat
  bytes : List Byte
  src : Word
  /-- Its number among the messages that have arrived at the core (R34, R243). -/
  arrival : Nat := 0
  /-- The transaction of its sender, completed when the message is placed: core and sequence (R170). -/
  tx : Option (Nat × Nat) := none
  /-- The copy whose completion it reports, of the receiving core (R66). -/
  copy : Option Nat := none
  /-- The message of another package to acknowledge: its issuer, and the slack of the acknowledgement (R115, R132). -/
  ack : Option (Issuer × Nat) := none
  /-- The notice that delivers an indeterminate status to the core that issued the transaction (R121, R133). -/
  status : Bool := false
  deriving DecidableEq, Repr

/-- A fault record (R350). -/
structure FaultRec where
  cause : Nat := 0
  ctx : Nat := 15
  async : Bool := false
  eng : Bool := false
  w32 : Bool := false
  pp : Bool := false
  cn : Nat := 0
  pc : Nat := 0
  lid : Nat := 0
  word : Nat := 0
  addr : Word := 0
  info0 : Nat := 0
  info1 : Nat := 0
  info2 : Nat := 0
  opkind : Nat := 15
  opid : Nat := 0
  detail0 : Word := 0
  detail1 : Word := 0
  deriving DecidableEq, Repr

/-- A reply slot of q3 (R122). -/
structure Reply where
  tx : Option Nat
  owner : Nat
  orphan : Bool
  answer : Option (Nat × Word)
  /-- What a record of its status names: the issuing instruction, KIND, DEST and target (R121, R351). -/
  report : FaultRec := {}
  /-- Slack class and snapshot of the transaction, for a notice (R133). -/
  cls : Nat := 0
  slk : Nat := 0
  deriving DecidableEq, Repr

/-- An armed zero-watch entry (R124). -/
structure ZWatch where
  addr : Nat
  w8 : Bool
  chan : Nat
  tag : Nat
  deriving DecidableEq, Repr

/-- The merge fields of a statistics record, as a record or a delta (R96). -/
structure StatSum where
  amax : Nat := 0
  nan : Nat := 0
  inf : Nat := 0
  updates : Nat := 0
  hist : List Nat := []
  ovf : Bool := false
  deriving DecidableEq, Repr

/-- An entry of a statistics accumulator (R103). -/
structure StatEntry where
  recid : Nat
  sum : StatSum
  scale : Nat
  anchor : Nat
  tgt : Nat
  flags : Nat
  deriving DecidableEq, Repr

/-- A home (R117, R385). -/
inductive Home where
  | core (cn : Nat)
  | hbm (stack chan : Nat)
  | tier (chan : Nat)
  | host (port : Nat)
  /-- Another package, by job rank. -/
  | remote (rank : Nat)
  deriving DecidableEq, Repr

/-- The operation of a remote integer atomic (R120). -/
inductive AtomicOp where
  | add | smin | smax | umin | umax | and | or | xor | swap | cas
  deriving DecidableEq, Repr

/-- What a request, reply or notice carries (R110, R401). -/
inductive Body where
  | message (m : Msg)
  | put (bytes : List Byte)
  | atomic (op : AtomicOp) (w : Nat) (a c : Word) (fetch : Bool)
  | fpUpdate (fmt rm : Nat) (value : Nat)
  /-- A ticketed update: format, ticket, and (element, code) pairs (R146). -/
  | ticket (fmt t : Nat) (lanes : List (Nat × Nat))
  /-- A halo block for the side counter of its receiver: 0 north, 1 east, 2 south, 3 west. -/
  | halo (side : Nat) (bytes : List Byte)
  | haloAck (status : Nat)
  /-- A reply with its status and data; 6 stands for RETRY (R150). -/
  | reply (status : Nat) (data : List Word)
  | exhausted
  /-- A congestion notice with its key (R135). -/
  | congestion (key : DestKey)
  /-- A host message: ring, tag, payload (R126). -/
  | hostMsg (ring tag : Nat) (bytes : List Byte)
  /-- The requests of a copy: for the line of source bytes that a byte lies in, and for the write of its next destination block
  or the block's side bytes (R65, R110, R391). -/
  | copyRead (id byte : Nat)
  | copyBlock (id : Nat)
  /-- A statistics flush (R105). -/
  | flush (recid : Nat) (sum : StatSum)
  /-- A read of a record (R105). -/
  | recRead (recid : Nat)
  /-- STCLR: anchor and target. -/
  | recClear (recid anchor tgt : Nat)
  /-- STFRZ: FMODE, RSTRAP and scale. -/
  | recFreeze (recid mode rstrap scale : Nat)
  /-- The request of TSOPEN, of TSCLOSE and of TDRAIN to one part of a sequence (R145, R153, R154). -/
  | seqOpen (slot part : Nat)
  | seqQuery (slot part : Nat)
  | seqDrain (slot part : Nat)
  /-- Part k of n of a batch of immigrants sent by MIGRATE, whose first request has a sequence (R193, R401). -/
  | immigrants (first k n : Nat) (words : List Word)
  deriving DecidableEq, Repr

/-- A transaction of a core that has not completed (R110, R170). -/
structure Tx where
  seq : Nat
  ctx : Nat
  /-- What a record of its status names: the issuing instruction, KIND, DEST and target (R121, R351). -/
  report : FaultRec := {}
  /-- KIND of R133. -/
  kind : Nat
  /-- Slack class and snapshot of its SLK register. -/
  cls : Nat
  slk : Nat
  dest : Word
  addr : Word
  home : Home
  key : DestKey
  fetch : Bool := false
  /-- A ticketed update, whose instruction waits for the status (R151); RETRY has answered it (R150). -/
  ticketed : Bool := false
  retried : Bool := false
  /-- A copy's id, for a request that a copy sends (R320). -/
  copy : Option Nat := none
  /-- Another request of its transaction has ended in a status other than 0 (R319). -/
  failed : Bool := false
  /-- The transaction that it is a part of: the sequence of its first request; and its one reading of the rank table entry:
  package, and partition there (R110, R407). -/
  first : Nat
  via : Option (Nat × Nat) := none
  body : Body
  deriving DecidableEq, Repr

/-- A packet in flight. -/
structure Packet where
  /-- The transaction that it belongs to: issuing core, sequence. -/
  cn : Nat
  seq : Nat
  ctx : Nat
  pc : Nat
  kind : Nat
  part : Nat
  lid : Nat
  /-- Where it is performed or taken. -/
  home : Home
  /-- Target local address, or virtual address. -/
  addr : Nat
  slack : Nat
  rallow : Nat
  cls : Nat
  /-- The SLK snapshot of its transaction, the transaction's number, and the copy it serves (R111, R133). -/
  slk : Nat := 0
  first : Nat := 0
  xfer : Option Nat := none
  /-- What a record about a statistics flush or record operation names: the issuing instruction (R350). -/
  report : FaultRec := {}
  marked : Bool := false
  reply : Bool := false
  /-- For a packet from another package, the issuer's job rank and package number; for one to another package, those of the
  target, with the partition there, the destination core and this package's number (R396, R401). -/
  remote : Option (Nat × Nat) := none
  dpart : Nat := 0
  dcn : Nat := 0
  own : Nat := 0
  flowSeq : Nat := 0
  /-- The port it left by, for a packet to another package (R399, R402). -/
  port : Option Nat := none
  body : Body
  deriving DecidableEq, Repr

/-- Where a copy stands. -/
inductive CopyPhase where
  | running
  /-- An update of the block waits for its status (R151). -/
  | waiting (seq : Nat)
  /-- The status has come, with its data. -/
  | answered (status : Nat) (data : List Word)
  | suspended
  /-- Every block is done or the copy has stopped, with its STATUS (R66). -/
  | stopped (status : Nat)
  /-- The completion message is on its way or held, or the id waits for room in q0. -/
  | delivering (q0 msg : Bool)
  deriving DecidableEq, Repr

/-- A copy with its snapshots (R63) and progress (R65). -/
structure CopyOp where
  id : Nat
  ctx : Nat
  /-- What its records name: the issuing instruction, OPKIND and OPID (R350). -/
  report : FaultRec
  /-- CP.SRC, CP.DST, CP.LEN, CP.SHAPE; doublewords 0, 1 and the ticket of the parameter block. -/
  src : Word
  dst : Word
  len : Nat
  shape : Word
  pblk : Word
  side : Word
  ticket : Nat
  /-- Rounding mode, SLK register, stream and counter of stochastic rounding (R84, R85). -/
  rm : Nat
  slk : Nat
  stream : Nat
  rndctr : Word
  /-- Window table and scratch doubleword, which the pointers were resolved with. -/
  table : List Word
  /-- Next row and next byte within the destination row, the block's index, bytes written, and the row's last bytes that
  make up no 4-byte unit yet (R101). -/
  row : Nat := 0
  off : Nat := 0
  block : Nat := 0
  bytes : Nat := 0
  tail : List Byte := []
  ovf : Bool := false
  /-- The translations of the part under way, once it has begun: page frames by CopyOp.pageKey (R391). -/
  pages : Option (SMap Nat) := none
  /-- The 64-byte lines of other homes that the part has read, by line number of CopyOp.far; none is a byte of a doubleword with an
  uncorrectable error. -/
  lines : SMap (List (Option Byte)) := []
  /-- The lines of records that earlier parts have read: the copy reads each record once (R100, R105). -/
  kept : SMap (List (Option Byte)) := []
  /-- The sequence of its first request, once it has sent one (R110). -/
  first : Option Nat := none
  phase : CopyPhase := .running
  deriving DecidableEq, Repr

/-- One core's part of its launch (R27). -/
inductive PartState where
  | none | prepared | running | ended
  deriving DecidableEq, Repr

/-- The matrix engine of a core (R297). -/
structure Matrix where
  /-- Operand slots o0 to o15, 4096 bytes each as one number, and their SSC (127 when not listed). -/
  operand : SMap (BitVec 32768) := []
  ssc : SMap Byte := []
  acc : SMap (BitVec 32768) := []
  /-- Owners: operand slot n at n, accumulator slot n at 16 + n; an unlisted slot is free. -/
  owner : SMap Nat := []
  powered : Bool := true
  /-- Slot doublewords with an uncorrectable error: slot key * 512 + doubleword. -/
  bad : List Nat := []
  deriving DecidableEq, Repr

/-- The privileged registers and record queues of a core (R343, R345, R349). -/
structure Trap where
  tcause : Word := 0
  tpc : BitVec 22 := 0
  tvec : BitVec 22 := 0
  tsave0 : Word := 0
  tsave1 : Word := 0
  lost : BitVec 16 := 0
  /-- FREC0 to FREC7, the current record. -/
  frec : SMap Word := []
  hwUnc : BitVec 32 := 0
  hwCor : BitVec 32 := 0
  wpa : SMap Word := []
  wpc : SMap Word := []
  /-- Precise records ready, in order of detection, and the queue of asynchronous records. -/
  precise : List FaultRec := []
  queue : List FaultRec := []
  /-- Records of suspended operations that wait for room in the queue (R345). -/
  late : List FaultRec := []
  /-- CT handles a record. -/
  busy : Bool := false
  deriving DecidableEq, Repr

/-- What stops or watches a core from outside (R379, R422 to R427). -/
structure Control where
  /-- Halted by M, by DOUBLE_TRAP or by a machine check. -/
  halted : Bool := false
  /-- Issue and selection stopped by STOP_REQUEST (R379). -/
  stopped : Bool := false
  /-- The core stops as R427 gives; the stop has landed; DSTOP asked for it, which DEBUG_STOP reports. -/
  dstop : Bool := false
  dlanded : Bool := false
  dreq : Bool := false
  /-- Selection suspended by GENEND (R183). -/
  selOff : Bool := false
  /-- A selection has been made in this issue slot (R37). -/
  chosen : Bool := false
  /-- Last traced state, trace and replay counts (R423, R426). -/
  traced : Nat := 3
  acts : Nat := 0
  replay : Nat := 0
  freeRun : Bool := false
  diverged : Bool := false
  deriving DecidableEq, Repr

/-- An entry of a translation cache (R389): identifier, number and log2 of the page or of the range that a table entry maps,
the entry. -/
structure XEntry where
  asid : Nat
  page : Nat
  log2 : Nat
  pte : Word
  deriving DecidableEq, Repr

/-- A suspended flush or record operation (R393): operation id, packet number. -/
structure Suspended where
  opkind : Nat
  opid : Nat
  pkt : Nat
  deriving DecidableEq, Repr

/-- One logical core (R22). -/
structure Core where
  mem : Memory := []
  /-- Doublewords of local SRAM with an uncorrectable error (R68). -/
  bad : List Nat := []
  /-- Contexts 0 to 10 and CT at 11. -/
  ctx : SMap Ctx := []
  rorg : BitVec 16 := 0
  rsize : BitVec 16 := 0
  fmt : BitVec 24 := 0x330010
  seed : Word := 0
  fit : BitVec 32 := 0
  gen : Word := 0
  slk : SMap Word := []
  slkx : BitVec 32 := 0
  congc : BitVec 32 := 0
  /-- HXN, HXE, HXS, HXW at 0 to 3. -/
  hx : SMap Word := []
  q0 : List Word := []
  q2 : List Word := []
  q3 : List Reply := []
  nextId : BitVec 16 := 0
  txSeq : BitVec 32 := 0
  /-- FLOWSEQ of each pair (destination package * 2048 + destination core), R400. -/
  flowSeq : SMap (BitVec 16) := []
  /-- Selection pointers by priority, and the issue pointer (R37, R38). -/
  ptr : SMap Nat := []
  issuePtr : Nat := 0
  /-- Messages placed and pending, in arrival order, with their addresses. -/
  placed : List (Nat × Msg) := []
  /-- Input buffer, in arrival order (R34). -/
  inbuf : List Msg := []
  /-- Messages that have arrived. -/
  arrivals : Nat := 0
  zwatch : SMap ZWatch := []
  stats : List StatEntry := []
  /-- STSYNC instructions executed: a fill from a record read before the last one is stale (R108). -/
  syncs : Nat := 0
  /-- Statistics flushes sent and not merged (R106). -/
  flushes : Nat := 0
  windows : List (DestKey × Nat) := []
  /-- ARR, LAST, EVER of barrier slots (R323). -/
  arr : SMap Bool := []
  last : SMap (BitVec 32) := []
  ever : SMap Bool := []
  matrix : Matrix := {}
  trap : Trap := {}
  control : Control := {}
  copies : List CopyOp := []
  halos : Nat := 0
  txs : List Tx := []
  /-- Transactions that have placed an exhaustion notice, and completed ones to other packages that may still place one
  (R133). -/
  noticed : List Nat := []
  closed : List Tx := []
  /-- For each activation that has ended: the transactions to this core that its EXIT orders before ACTEND (R173). -/
  ending : List (List Nat) := []
  /-- The mesh router refuses first packets (R310). -/
  choked : Bool := false
  susp : List Suspended := []
  xcache : List XEntry := []
  /-- The launch it belongs to: partition and LID; the state of its part. -/
  job : Option (Nat × Nat) := none
  part : PartState := .none
  /-- Image identity: IMGID, ILO, ILEN, unmodified, promise ORDERED (R371). -/
  image : Option (Word × Nat × Nat × Bool × Bool) := none
  deriving DecidableEq, Repr

/-- The state of a launch (R378). -/
inductive LaunchState where
  | accepting | running | stopping | stopped | reserved | completing
  deriving DecidableEq, Repr

/-- One line of a ticket sequence (R146). -/
structure Line where
  /-- Line number within the sequence, the home that its translation named, its address there, Ctr. -/
  index : Nat
  home : Home
  addr : Nat
  ctr : Nat
  deriving DecidableEq, Repr

/-- An update held by a part (R146). -/
structure HeldUpdate where
  line : Nat
  ticket : Nat
  lanes : List (Nat × Nat)
  deriving DecidableEq, Repr

/-- The state of a sequence (R155); opening until every part has answered its TSOPEN (R145). -/
inductive SeqState where
  | opening | opened | stopped | aborted
  deriving DecidableEq, Repr

/-- A ticket sequence (R143, R145). -/
structure Seq where
  serial : Nat
  base : Word
  lines : List Line
  p : Nat
  fmt : Nat
  rm : Nat
  lenient : Bool
  state : SeqState
  dup : Nat
  held : List HeldUpdate
  /-- The parts that TSCLOSE queries hold, each with the core and context of its TSCLOSE (R154). -/
  queried : List (Nat × Nat × Nat)
  /-- Applications that are still to be performed, those of a line in ticket order: line, lanes (R176). -/
  due : List (Nat × List (Nat × Nat)) := []
  /-- Its descriptor as TSOPEN read it (R143, R156). -/
  desc : List Word := []
  /-- While it opens: the parts that have opened, those that could not, and whether one met an overlap (R144, R145). -/
  openAt : List Nat := []
  shut : List Nat := []
  clash : Bool := false
  deriving DecidableEq, Repr

/-- A launch that has been accepted (R364 to R382). -/
structure Launch where
  part : Nat
  lid : Nat
  state : LaunchState
  x0 : Nat
  y0 : Nat
  w : Nat
  h : Nat
  ranks : Nat
  rank : Nat
  entry : Nat
  schk : Bool
  ordered : Bool
  seed : Word
  hosttag : Word
  cpl : Word
  queue : Nat
  rtab : Word
  rcount : Nat
  ilo : Nat
  ilen : Nat
  imgid : Word
  /-- Live regions 0 to 3 as given (R380). -/
  regions : List Word
  /-- L2P where PERFCTL had EN at acceptance (R424). -/
  perf : Option Nat
  rpctl : Word
  rpbase : Nat
  /-- Barrier memberships as core numbers, phase counts, expected counts and arrivals (R323). -/
  members : SMap (List Nat) := []
  phase : SMap (BitVec 32) := []
  expected : SMap Nat := []
  arrived : SMap Nat := []
  seqs : SMap Seq := []
  /-- Lines of its sequences that have closed or aborted: home and address (R146). -/
  closedLines : List (Home × Nat) := []
  serial : Nat := 0
  faults : Nat := 0
  /-- Completion counters of clusters and dies, and the dies that have reported to the sequencer (R374). -/
  clusters : SMap Nat := []
  dies : SMap Nat := []
  reported : List Nat := []
  /-- FENCE.SC announcements waiting for their place: core and context (R171). -/
  fences : List (Nat × Nat) := []
  /-- Saved member cores of a stopped launch (R380), by core number. -/
  saved : SMap Core := []
  /-- Its cores are its own: not while it is stopped or reserved (R369, R379). -/
  holds : Bool := true
  /-- The STOP command that waits for the stop, by its pointer (R378), its ARG, the save blocks of spilled parts (R156), and
  the reason code of an END (R382). -/
  stopCmd : Option Word := none
  saveArg : Word := 0
  spills : List (List Byte) := []
  ending : Option Nat := none
  /-- The completion record is written: the rectangle waits for release (R375). -/
  done : Bool := false
  deriving DecidableEq, Repr

/-- A completion report under way (R374): of a core to its cluster's counter, or of a cluster (none) to its die's. -/
structure Report where
  part : Nat
  lid : Nat
  core : Option Nat
  cluster : Nat
  deriving DecidableEq, Repr

/-- A pending export of a group (R193). -/
structure Export where
  rank : Nat
  group : Nat
  count : Nat
  slk : Nat
  deriving DecidableEq, Repr

/-- The outcome of a generation for one member (R190). -/
structure Role where
  cn : Nat
  role : Nat
  peer : Nat
  peerRank : Nat
  ovf : Bool
  deriving DecidableEq, Repr

/-- A population group held by the Shawm (R181). -/
structure Group where
  part : Nat
  lid : Nat
  dws : List Word
  members : List Nat
  logidx : Word := 0
  /-- Latched FIT of the arrived members (R183). -/
  fits : SMap Nat := []
  export_ : Option Export := none
  /-- Exports on their way: the sequence of the first request, the requests without an answer, the greatest status so far. -/
  exports : List (Nat × Nat × Nat) := []
  migst : Nat := 0
  /-- Genome region descriptors of the arrived members, doublewords 0 to 2 of each (R183, R195). -/
  descs : SMap (List Word) := []
  /-- Held immigrants with sender rank, group and GEN, in order of arrival; how many of them had been fully received
  before the last arrival (R194). -/
  held : List (Nat × Nat × Nat × Immigrant) := []
  counted : Nat := 0
  /-- The transfers of the generation are done; the lineage records still to be written; the outcome per member. -/
  begun : Bool := false
  log : List (List Word) := []
  roles : List Role := []
  /-- The generation is closed and resumption is due (R190). -/
  transferred : Bool := false
  /-- The lineage log faulted (SHAWM_XLATE); the number under which a record read is suspended (STATS_XLATE). -/
  suspended : Bool := false
  reading : Option Nat := none
  deriving DecidableEq, Repr

/-- A contender at a switch output (R130). -/
structure Contender where
  input : Nat
  pkt : Nat
  head : Nat
  cls : Nat
  deriving DecidableEq, Repr

/-- A switch output (R130). -/
structure Output where
  ptr : Nat := 0
  /-- Rounds of each class: its grants. -/
  rounds : SMap Nat := []
  cls : Nat := 0
  waiting : List Contender := []
  /-- The classes for which it has no downstream credit. -/
  starved : List Nat := []
  deriving DecidableEq, Repr

/-- The management controller (R412 to R420). -/
structure Management where
  cmd : BitVec 32 := 0
  status : BitVec 32 := 0
  data : Memory := []
  area : Memory := []
  recovery : Bool := false
  firmware : List Byte := []
  config : List Byte := []
  /-- Huajo firmware runs. -/
  running : Bool := false
  /-- A command has been written and not yet taken (R412); the package is not offered (R416). -/
  asked : Bool := false
  withheld : Bool := false
  /-- Units started, in the order of R420. -/
  started : Nat := 0
  /-- Records that M has received (R346): core and record. -/
  records : List (Nat × FaultRec) := []
  /-- HSEM registers, HELD at bit 8 and OWNER; the port that goes first at the next tie; what the last reads returned, by
  port, 3 for reads of the window, of a register or of a core's SRAM (R340, R384, R412, R422). -/
  hsem : SMap Nat := []
  tie : Nat := 0
  returned : List (Nat × Word) := []
  deriving DecidableEq, Repr

/-- The debug block of a partition (R424). -/
structure DebugBlock where
  trbase : Word := 0
  trctl : Word := 0
  trprod : BitVec 32 := 0
  trdrop : BitVec 32 := 0
  trcons : BitVec 32 := 0
  perfbase : Word := 0
  perfctl : Word := 0
  perfprod : BitVec 32 := 0
  rpctl : Word := 0
  rpbase : Word := 0
  dstop : BitVec 32 := 0
  drel : BitVec 32 := 0
  deriving DecidableEq, Repr

/-- The package. -/
structure State where
  cores : SMap Core
  launches : List Launch
  /-- Partition descriptors, eight doublewords each (R395). -/
  parts : SMap (List Word)
  /-- Selection pointers of the launch sequencer: partition * 4 + priority (R367). -/
  lptr : SMap Nat
  /-- Commands taken from each partition's command ring (R377). -/
  cmds : SMap Nat
  /-- Completion reports under way (R374). -/
  reports : List Report
  /-- Host ring producers: partition * 16 + ring (R362). -/
  rings : SMap Nat
  /-- Global memory by physical address (R385) and its bad doublewords. -/
  gmem : Memory
  gbad : List Nat
  /-- Packets in flight by packet number, and the next packet number. -/
  net : SMap Packet
  nextPkt : Nat
  outputs : SMap Output
  /-- Duplicate filter (R138): job rank with the partition and package it came from, core, sequence, the first reply. -/
  filter : List (Nat × Nat × Nat × Nat × List Word)
  /-- Next FLOWSEQ of each arriving flow (package, core, destination core) and early messages (R400). -/
  flows : List ((Nat × Nat × Nat) × Nat)
  early : List Packet
  /-- Second-level translation cache slices of the eight dies (R389). -/
  slices : SMap (List XEntry)
  groups : SMap Group
  shawmStats : List StatEntry
  /-- Live port maps (R405), and the rank table entries, by partition and rank, whose package, the third number, has been found lost
  (R408). -/
  sutreLive : Word
  enetLive : Word
  lost : List (Nat × Nat × Nat)
  /-- Implementation parameters by register number (R4). -/
  ip : SMap Word
  mgmt : Management
  debugBlocks : SMap DebugBlock
  /-- Who issues: core and context (set by step). -/
  curCore : Nat
  curCtx : Nat
  /-- The moves to come (log entry 5) and the core that takes the next unlisted slot. -/
  moves : List Move
  turn : Nat
  /-- Free choices made (log entry 6). -/
  fresh : Nat
  deriving DecidableEq, Repr

/-- The implementation parameters of a fully configured BX-2048 (R4). -/
def ipReset : SMap Word :=
  [(0x040, Config.ipId), (0x041, Config.ipClk), (0x042, .ofNat 64 (Config.cols * 256 + Config.rows)),
   (0x043, .ofNat 64 Config.twin), (0x044, .ofNat 64 Config.inbuf), (0x045, .ofNat 64 Config.issb),
   (0x046, .ofNat 64 Config.swin), (0x047, .ofNat 64 Config.xcache), (0x048, .ofNat 64 Config.walks),
   (0x049, Config.hbmMap), (0x04A, Config.sutreMap), (0x04B, Config.enetMap), (0x04C, Config.caps),
   (0x04D, .ofNat 64 Config.tierSz), (0x04E, Config.hbmMap)]

/-- The package right after package reset: every field at the value that the spec states, or that a log entry names
(log entries 1, 2, 3, 5, 6, 15). -/
def State.reset : State where
  cores := []
  launches := []
  parts := []
  lptr := []
  cmds := []
  reports := []
  rings := []
  gmem := []
  gbad := []
  net := []
  nextPkt := 0
  outputs := []
  filter := []
  flows := []
  early := []
  slices := []
  groups := []
  shawmStats := []
  sutreLive := Config.sutreMap
  enetLive := Config.enetMap
  lost := []
  ip := ipReset
  mgmt := {}
  debugBlocks := []
  curCore := 0
  curCtx := 0
  moves := []
  turn := 0
  fresh := 0

end Sys2Proof.Machine
end

