-- ==== Sys2Proof/WellFormed.lean ====
section
/-! DEFINITION. Which terms of Instr are instructions: the ranges and pairings that the encodings leave free and the
spec forbids (spec 09, R202, R216, R220; spec 14, R308, R309), and the shapes of the events. -/

namespace Sys2Proof

/-- A register field marked "even" holds an even number (R309, R243). -/
def evenReg (r : BitVec 5) : Bool := r.toNat % 2 == 0

/-- The pairings of R216 that a PFX may carry: F1 = 0 with F1V, F2 = 0 with F2V and RM = 7 with RMV are illegal. -/
def pfxLegal (f1 : BitVec 4) (f1v : BitVec 1) (f2 : BitVec 4) (f2v : BitVec 1) (rm : BitVec 3) (rmv : BitVec 1) : Bool :=
  !(f1v == 1 && f1 == 0) && !(f2v == 1 && f2 == 0) && !(rmv == 1 && rm == 7)

/-- A scope code of R168 that is not reserved. -/
def scopeLegal (c : BitVec 3) : Bool := c.toNat < 6

/-- A host port or M in a semaphore access: 0 port 0, 1 port 1, 2 M (R384). -/
def portLegal (p : BitVec 2) : Bool := p.toNat < 3

/-- One read of a semaphore, or one read of each host port presented in the same step (R384). -/
def hsemReadsLegal (rs : List (BitVec 2 × BitVec 5)) : Bool :=
  match rs with
  | [r] => portLegal r.1
  | [a, b] => a.1.toNat < 2 && b.1.toNat < 2 && a.1 != b.1
  | _ => false

/-- The terms of Instr that stand for an instruction or an event of the machine. -/
def Instr.wf : Instr → Bool
  | .recvany _ d _ _ => evenReg d
  | .recvanyT _ d _ _ => evenReg d
  | .rds _ _ n => n != 0x025
  | .pfx _ f p g q r t => pfxLegal f p g q r t
  | .stsync _ c => scopeLegal c
  | .put _ _ _ b _ => evenReg b
  | .rfaddT _ _ _ b _ => evenReg b
  | .vfaddT _ d _ _ _ => evenReg d
  | .acasW _ _ _ b _ => evenReg b
  | .acasD _ _ _ b _ => evenReg b
  | .fence _ c => scopeLegal c
  | .fenceAcq _ c => scopeLegal c
  | .fenceRel _ c => scopeLegal c
  | .fenceSc _ c => scopeLegal c
  | .genq _ _ q => decide (q.toNat < 7)
  | .cMv d a => !(d == 0 && a == 0)
  | .accumulatorFlush _ n => decide (n < 8)
  | .portRetryExhausted eth port => decide (port.toNat < if eth then 16 else 36)
  | .hsemRead rs => hsemReadsLegal rs
  | .hsemWrite p _ _ => portLegal p
  | .partitionDescriptorWrite _ dws => dws.length == 8
  | _ => true

end Sys2Proof
end

