-- ==== Sys2Proof/Machine/Ops.lean ====
section
/-! DEFINITION. The named operations over registers, local memory, contexts and launches; taking a trap (R343 to R346),
retiring, branching and blocking. -/

namespace Sys2Proof.Machine

/-- What a meaning answers. -/
abbrev Out := Host.Outcome State Fault Refusal

/-! ### Cores and contexts -/

/-- Core cn. -/
def State.core (s : State) (cn : Nat) : Core := SMap.get {} s.cores cn
/-- The state with core cn replaced. -/
def State.setCore (s : State) (cn : Nat) (c : Core) : State := { s with cores := SMap.put s.cores cn c }
/-- The state with core cn changed by f. -/
def State.modCore (s : State) (cn : Nat) (f : Core → Core) : State := s.setCore cn (f (s.core cn))
/-- Context k of a core. -/
def Core.cx (c : Core) (k : Nat) : Ctx := SMap.get {} c.ctx k
/-- The core with context k changed by f. -/
def Core.modCx (c : Core) (k : Nat) (f : Ctx → Ctx) : Core := { c with ctx := SMap.put c.ctx k (f (c.cx k)) }
/-- The issuing core. -/
def State.me (s : State) : Core := s.core s.curCore
/-- The issuing context. -/
def State.cx (s : State) : Ctx := s.me.cx s.curCtx
/-- The state with the issuing core changed. -/
def State.modMe (s : State) (f : Core → Core) : State := s.modCore s.curCore f
/-- The state with the issuing context changed. -/
def State.modCx (s : State) (f : Ctx → Ctx) : State := s.modMe fun c => c.modCx s.curCtx f
/-- The issuing context runs at level S: it is CT (R340). -/
def State.isS (s : State) : Bool := s.curCtx == 11
/-- Implementation parameter n (R4). -/
def State.ipOf (s : State) (n : Nat) : Word := SMap.get 0 s.ip n
/-- Rows of the logical mesh (R4, R15). -/
def State.meshRows (s : State) : Nat := wfld (s.ipOf 0x042) 0 8
/-- Core number cn exists on the mesh (R15). -/
def State.onMesh (s : State) (cn : Nat) : Bool := decide (cn < 64 * s.meshRows)

/-! ### Register files (R209) -/

/-- Keys of the registers in one numbering: g at 0, v at 32, p at 64, e at 72, b at 80. -/
def keyG (n : Nat) : Nat := n
def keyV (n : Nat) : Nat := 32 + n
def keyP (n : Nat) : Nat := 64 + n
def keyE (n : Nat) : Nat := 72 + n
def keyB (n : Nat) : Nat := 80 + n

/-- g n of a context; g0 reads zero. -/
def Ctx.rg (x : Ctx) (n : Nat) : Word := if n = 0 then 0 else SMap.get 0 x.g n
/-- p n of a context; p0 reads all ones. -/
def Ctx.rp (x : Ctx) (n : Nat) : Word := if n = 0 then .allOnes 64 else SMap.get 0 x.p n

/-- Write g n; a write to g0 is discarded. -/
def Ctx.wg (x : Ctx) (n : Nat) (w : Word) : Ctx := if n = 0 then x else { x with g := SMap.put x.g n w }
/-- Write p n; a write to p0 is discarded. -/
def Ctx.wp (x : Ctx) (n : Nat) (w : Word) : Ctx := if n = 0 then x else { x with p := SMap.put x.p n w }

/-- A register written whole: no uncorrectable error is left in it (R355), and its value satisfies R205 after the
latency l of its producer. -/
def Ctx.written (x : Ctx) (key l : Nat) : Ctx :=
  { x with bad := x.bad.filter fun e => e / 32 != key, ready := SMap.put x.ready key (x.clock + l) }

/-- A register of which some bits are kept: its error stays (R355), and the kept bits keep the obligation of their own
producer (R205). -/
def Ctx.merged (x : Ctx) (key l : Nat) : Ctx :=
  { x with ready := SMap.put x.ready key (max (SMap.get 0 x.ready key) (x.clock + l)) }

def State.readG (s : State) (n : BitVec 5) : Word := s.cx.rg n.toNat
def State.readV (s : State) (n : BitVec 5) : VReg := SMap.get 0 s.cx.v n.toNat
def State.readP (s : State) (n : BitVec 3) : Word := s.cx.rp n.toNat
def State.readE (s : State) (n : BitVec 3) : Word := SMap.get 0 s.cx.e n.toNat
def State.readB (s : State) (n : BitVec 2) : Word := SMap.get 0 s.cx.b n.toNat

/-- WriteG with the producer's latency. -/
def State.writeG (s : State) (n : BitVec 5) (w : Word) (l : Nat) : State :=
  s.modCx fun x => (x.wg n.toNat w).written (keyG n.toNat) l
def State.writeV (s : State) (n : BitVec 5) (w : VReg) (l : Nat) : State :=
  s.modCx fun x => { x with v := SMap.put x.v n.toNat w }.written (keyV n.toNat) l
def State.writeP (s : State) (n : BitVec 3) (w : Word) (l : Nat) : State :=
  s.modCx fun x => (x.wp n.toNat w).written (keyP n.toNat) l
/-- A predicate of which some bits are kept (R217, R275): merged with its own producer's obligation and error. -/
def State.mergeP (s : State) (n : BitVec 3) (w : Word) (l : Nat) : State :=
  s.modCx fun x => (x.wp n.toNat w).merged (keyP n.toNat) l
def State.writeE (s : State) (n : BitVec 3) (w : Word) (l : Nat) : State :=
  s.modCx fun x => { x with e := SMap.put x.e n.toNat w }.written (keyE n.toNat) l
def State.writeB (s : State) (n : BitVec 2) (w : Word) (l : Nat) : State :=
  s.modCx fun x => { x with b := SMap.put x.b n.toNat w }.written (keyB n.toNat) l

/-! ### Retiring, branching, blocking -/

/-- STAT.PP (R212). -/
def Ctx.pp (x : Ctx) : Bool := wbit x.stat 14
/-- STAT with WS and PP cleared (R217, R354). -/
def clearPend (w : Word) : Word := setFld (setFld w 14 1 0) 15 1 0
/-- One more in performance counter n (R425). -/
def Ctx.count (x : Ctx) (n : Nat) : Ctx := { x with perf := SMap.put x.perf n (SMap.get 0 x.perf n + 1) }

/-- The context after an instruction with stall count stl retires and goes on at pc: the pending prefix and WS are
consumed, the distance clock advances by 1 + STL (R204, R217, R354). -/
def Ctx.goto (x : Ctx) (pc : Word) (stl : Nat) : Ctx :=
  { x with pc := pc, stat := clearPend x.stat, pfx := if x.pp then 0 else x.pfx, wait := .none, snap := none, stl := stl, clock := x.clock + 1 + stl }.count 0

/-- The instruction retires and the next one is len bytes on. -/
def State.retire (s : State) (len stl : Nat) : State := s.modCx fun x => x.goto (x.pc + .ofNat 64 len) stl
/-- A 32-bit instruction with stall count stl retires. -/
def State.done (s : State) (stl : BitVec 3) : Out := .next (s.retire 4 stl.toNat)
/-- The instruction retires and the next one is at target. -/
def State.jump (s : State) (target : Word) (stl : Nat) : State := s.modCx fun x => x.goto target stl
/-- FMT, the SLK registers, the prefix and RNDCTR as the instruction at issue finds them: those of its issue slot once it has
blocked (R85, R288, R310). -/
def State.atIssue (s : State) : Snapshot := s.cx.snap.getD ⟨s.me.fmt, s.me.slk, s.cx.pfx, s.cx.pp, s.cx.rndctr⟩
/-- The context waits at the instruction (Block, R221), which keeps what it found in its issue slot. -/
def State.block (s : State) (w : Wait) : Out := .next (s.modCx fun x => { x with wait := w, snap := some s.atIssue })

/-! ### Launches -/

/-- The launch with a partition and a LID. -/
def State.launch? (s : State) (part lid : Nat) : Option Launch := s.launches.find? fun l => l.part == part && l.lid == lid
/-- The launch of core cn. -/
def State.launchOf (s : State) (cn : Nat) : Option Launch :=
  match (s.core cn).job with
  | some (p, l) => s.launch? p l
  | none => none
/-- The state with one launch changed. -/
def State.modLaunch (s : State) (part lid : Nat) (f : Launch → Launch) : State :=
  { s with launches := s.launches.map fun l => if l.part == part && l.lid == lid then f l else l }
/-- Core cn lies in the launch's rectangle (R17, R18). -/
def Launch.member (l : Launch) (cn : Nat) : Bool :=
  decide (l.x0 ≤ cn % 64) && decide (cn % 64 < l.x0 + l.w) && decide (l.y0 ≤ cn / 64) && decide (cn / 64 < l.y0 + l.h)
/-- The member cores of a launch, in rank order (R18). -/
def Launch.cores (l : Launch) : List Nat :=
  (List.range l.h).flatMap fun ry => (List.range l.w).map fun rx => (l.y0 + ry) * 64 + l.x0 + rx
/-- Core cn is a member of the launch of core me (R113 row 4, R57 row 7). -/
def State.sameLaunch (s : State) (me cn : Nat) : Bool :=
  match s.launchOf me with
  | some l => l.member cn
  | none => false
/-- The launch of core cn runs under an ORDERED promise (R160). -/
def State.ordered (s : State) (cn : Nat) : Bool :=
  match s.launchOf cn with
  | some l => l.ordered
  | none => false
/-- The LID of core cn's launch, 0 for none. -/
def State.lidOf (s : State) (cn : Nat) : Nat := ((s.core cn).job.map (·.2)).getD 0

/-! ### Fault records and traps -/

/-- A record as eight doublewords (R350). -/
def FaultRec.dws (r : FaultRec) : List Word :=
  let bit (b : Bool) (k : Nat) : Nat := if b then 2 ^ k else 0
  [.ofNat 64 (r.cause * 2 ^ 56 + r.ctx % 16 * 2 ^ 52 + bit r.async 51 + bit r.eng 50 + bit r.w32 49 + bit r.pp 48
     + r.cn % 2048 * 2 ^ 32 + r.pc % 2 ^ 22),
   .ofNat 64 (r.lid % 2 ^ 32 * 2 ^ 32 + r.word % 2 ^ 32),
   r.addr,
   .ofNat 64 (r.info1 % 2 ^ 32 * 2 ^ 32 + r.info0 % 2 ^ 32),
   .ofNat 64 (r.opkind % 16 * 2 ^ 48 + r.opid % 65536 * 2 ^ 32 + r.info2 % 2 ^ 32),
   r.detail0, r.detail1, 0]

/-- Causes that report an uncorrectable error of the core's SRAM, registers or slots, which HWECC.UNC counts (R349, R355). -/
def countsUnc (cause : Nat) : Bool := cause == 0xA0 || cause == 0xA5 || cause == 0xA6 || cause == 0xA7

/-- The halfword of local SRAM at a. -/
def Core.half (c : Core) (a : Nat) : Nat := Memory.num c.mem a 2
/-- The word of the instruction at a, with whether it has 32 bits (R196). -/
def Core.insnAt (c : Core) (a : Nat) : Nat × Bool :=
  let h := c.half a
  if fld h 15 1 == 1 then (h * 65536 + c.half (a + 2), true) else (h, false)

/-- CT takes record r (R343): TCAUSE, FREC and TPC are written, CT starts at TVEC with no stall count left, every
register of CT is satisfied (DESIGN CHOICE, log entry 81). W32 is the record's, be it asynchronous (DESIGN CHOICE, log entry 97). -/
def Core.takeRecord (c : Core) (r : FaultRec) : Core :=
  let nctx := r.ctx > 10 || r.async
  let cause : Nat := (if r.async then 2 ^ 63 else 0) + (if nctx then 2 ^ 62 + 15 * 2 ^ 54 else r.ctx * 2 ^ 54)
    + (if r.w32 then 2 ^ 53 else 0) + r.cause
  { c with trap := { c.trap with tcause := .ofNat 64 cause, tpc := .ofNat 22 r.pc, busy := true,
                                 frec := r.dws.zipIdx.map fun (w, i) => (i, w) } }.modCx 11 fun x =>
    { x with live := true, pc := c.trap.tvec.setWidth 64, wait := .none, stl := 0, ready := [] }

/-- Causes with a kept place in the record queue (R345). -/
def keptCause (c : Nat) : Bool := c == 0x16 || c == 0x15 || c == 0xA3 || c == 0xA4

/-- A place of the queue that is not kept is free (R345). -/
def roomFor (queue : List FaultRec) : Bool := decide ((queue.filter fun q => !keptCause q.cause).length < 12)

/-- The next record that CT may take: precise records first, then the queue in order (R343, R345); a record that waited
for room then joins the queue if it has room. -/
def Core.nextRecord (c : Core) : Option (FaultRec × Core) :=
  match c.trap.precise, c.trap.queue with
  | r :: rs, _ => some (r, { c with trap := { c.trap with precise := rs } })
  | [], r :: rs =>
    match c.trap.late with
    | [] => some (r, { c with trap := { c.trap with queue := rs } })
    | l :: ls =>
      if roomFor rs then some (r, { c with trap := { c.trap with queue := rs ++ [l], late := ls } })
      else some (r, { c with trap := { c.trap with queue := rs } })
  | [], [] => none

/-- A precise cause in CT halts the core, and M receives the record (R346). -/
def State.doubleTrap (s : State) (cn : Nat) (r : FaultRec) : State :=
  let s := s.modCore cn fun c => { c with control := { c.control with halted := true } }
  { s with mgmt := { s.mgmt with records := s.mgmt.records ++ [(cn, { r with cause := 0xAC, addr := 0, info0 := 0, info1 := 0, info2 := 0, detail0 := .ofNat 64 r.cause, detail1 := 0 })] } }

/-- A machine check of core cn: it halts and M receives the record (R353, R355). -/
def State.machineCheck (s : State) (cn : Nat) : State :=
  let s := s.modCore cn fun c => { c with control := { c.control with halted := true },
                                          trap := { c.trap with hwUnc := c.trap.hwUnc + 1 } }
  { s with mgmt := { s.mgmt with records := s.mgmt.records ++ [(cn, { cause := 0xAB, cn := cn, lid := s.lidOf cn })] } }

/-- One more uncorrectable error of core cn in HWECC.UNC (R349, R355). -/
def State.countUnc (s : State) (cn : Nat) : State :=
  s.modCore cn fun c => { c with trap := { c.trap with hwUnc := c.trap.hwUnc + 1 } }

/-- The record r as raised at the current instruction: its context, core, address, word and launch. -/
def State.located (s : State) (r : FaultRec) : FaultRec :=
  let x := s.cx
  let a := x.pc.toNat
  let (w, long) := s.me.insnAt a
  { r with ctx := s.curCtx, cn := s.curCore, pc := a % 2 ^ 22, w32 := long, pp := x.pp, word := w, lid := s.lidOf s.curCore,
           async := false }

/-- Trap(code) (R221, R343): the issuing context is held at its instruction; CT takes the record at once if it is idle,
and later otherwise. In CT it is a DOUBLE_TRAP (R346), and a bad register of CT is a machine check (R355). -/
def State.raise (s : State) (r : FaultRec) : State :=
  if s.isS && r.cause == 0xA5 then s.machineCheck s.curCore else
  let r := s.located r
  let s := if countsUnc r.cause then s.countUnc s.curCore else s
  if s.isS then s.doubleTrap s.curCore r
  else
    let s := s.modCx fun x => { x with held := true, wait := .none, snap := none }
    s.modMe fun c => if c.trap.busy then { c with trap := { c.trap with precise := c.trap.precise ++ [r] } } else c.takeRecord r

/-- Trap with a cause and nothing cause-specific. -/
def State.trap (s : State) (cause : Nat) : Out := .next (s.raise { cause := cause })

/-- The first check that fails raises its cause; otherwise the instruction goes on. -/
def State.check (s : State) (cs : List (Bool × FaultRec)) (ok : Out) : Out :=
  match cs.find? fun c => c.1 with
  | some c => .next (s.raise c.2)
  | none => ok

/-- A check that raises a cause with nothing cause-specific. -/
def chk (b : Bool) (cause : Nat) : Bool × FaultRec := (b, { cause := cause })

/-- Whether a record is counted in FAULTS (R375). -/
def countedFault (c : Nat) : Bool := !(c == 0x15 || c == 0xA3 || c == 0xA4)

/-- Causes that report a suspended engine operation, whose records are never dropped (R345, R358). -/
def suspendCause (c : Nat) : Bool := decide (0x81 ≤ c) && decide (c ≤ 0x86) && c != 0x84

/-- The record queue of a core receives r (R345). -/
def Core.queueRecord (c : Core) (r : FaultRec) : Core :=
  let t := c.trap
  if keptCause r.cause then
    if t.queue.any fun q => q.cause == r.cause then c else { c with trap := { t with queue := t.queue ++ [r] } }
  else if roomFor t.queue then { c with trap := { t with queue := t.queue ++ [r] } }
  else if suspendCause r.cause then { c with trap := { t with late := t.late ++ [r] } }
  else { c with trap := { t with lost := if t.lost == .allOnes 16 then t.lost else t.lost + 1 } }

/-- An asynchronous record for the CT of core cn, counted in its launch's FAULTS (R345, R375). -/
def State.report (s : State) (cn : Nat) (r : FaultRec) : State :=
  let r := { r with async := true, cn := cn, lid := s.lidOf cn }
  let s := match (s.core cn).job with
    | some (p, l) => if countedFault r.cause then s.modLaunch p l fun q => { q with faults := min (q.faults + 1) (2 ^ 32 - 1) } else s
    | none => s
  s.modCore cn fun c => c.queueRecord r

/-- The same of an error of core cn itself, if it is one (R355). -/
def State.async (s : State) (cn : Nat) (r : FaultRec) : State := (if countsUnc r.cause then s.countUnc cn else s).report cn r

/-! ### Local SRAM (R48 to R50, R30, R68, R148, R162) -/

/-- The homes of a sequence's parts, in line order. -/
def Seq.parts (q : Seq) : List Home := (q.lines.map (·.home)).eraseDups

/-- The part of a sequence at a home is OPEN or STOPPED: while TSOPEN still opens the others, once it has opened itself
(R145, R155). -/
def Seq.holdsAt (q : Seq) (h : Home) : Bool :=
  match q.state with
  | .aborted => false
  | .opening => q.openAt.any fun j => q.parts[j]? == some h
  | _ => true

/-- A sequence that is OPEN or STOPPED protects its lines at a home (R148). -/
def State.seqLines (s : State) (h : Home) : List Line :=
  s.launches.flatMap fun l => l.seqs.flatMap fun q =>
    if q.2.holdsAt h then q.2.lines.filter fun ln => ln.home == h else []

/-- A byte of [a, a + n) at a home lies in a line of such a sequence. -/
def State.lineProtected (s : State) (h : Home) (a n : Nat) : Bool := (s.seqLines h).any fun ln => overlaps a n ln.addr 64

/-- A byte of [a, a + n) of core cn is an image byte under an ORDERED promise (R162). -/
def State.imageProtected (s : State) (cn a n : Nat) : Bool :=
  match s.launchOf cn with
  | some l => l.ordered && overlaps a n (max l.ilo 0x2000) (l.ilo + l.ilen - max l.ilo 0x2000)
  | none => false

/-- A byte of [a, a + n) is in a status doubleword of the handler table (R30). -/
def touchesStatus (a n : Nat) : Bool :=
  (span a n).any fun i => decide (0x800 ≤ i) && decide (i < 0x1000) && decide (24 ≤ i % 32)

/-- A store by a context of core cn touches a byte that it may not write: the columns of R48 for levels U and S, R30,
R148 and R162. -/
def State.storeProtected (s : State) (cn : Nat) (sup : Bool) (a n : Nat) : Bool :=
  overlaps a n 0 0x800 || touchesStatus a n || s.lineProtected (.core cn) a n ||
  (!sup && (overlaps a n 0xE00 0x200 || overlaps a n 0x1100 0xF00 || s.imageProtected cn a n))

/-- The range [a, a + n) leaves local SRAM (R48). -/
def outOfLocal (a n : Nat) : Bool := decide (Config.localTop < a + n)
/-- The range is not wholly in the general area (R48). -/
def outOfGeneral (a n : Nat) : Bool := decide (a < 0x2000) || outOfLocal a n

/-- A doubleword of local SRAM that an access touches has an uncorrectable error (R68). -/
def Core.badIn (c : Core) (a n : Nat) : Bool := c.bad.any fun d => overlaps a n (8 * d) 8
/-- A bad doubleword that a store touches without covering it (R68). -/
def Core.badPartly (c : Core) (a n : Nat) : Bool :=
  c.bad.any fun d => overlaps a n (8 * d) 8 && !(decide (a ≤ 8 * d) && decide (8 * d + 8 ≤ a + n))

/-- The record of a local access fault: address, size, element; R351 names no field for SRAM_UNCORRECTABLE. -/
def accessRec (cause : Nat) (a : Word) (n elt : Nat) : FaultRec :=
  if cause = 0xA0 then { cause := cause } else { cause := cause, addr := a, info0 := n, info1 := elt }

/-- The checks of a load of n bytes at a, in the order of R49 and R50, with the alignment that the access requires. -/
def State.loadChecks (s : State) (a : Word) (n align elt : Nat) : List (Bool × FaultRec) :=
  [(outOfLocal a.toNat n, accessRec 0x20 a n elt),
   (a.toNat % align != 0, accessRec 0x21 a n elt),
   (s.me.badIn a.toNat n, accessRec 0xA0 a n elt)]

/-- The checks of a store. -/
def State.storeChecks (s : State) (a : Word) (n align elt : Nat) : List (Bool × FaultRec) :=
  [(outOfLocal a.toNat n, accessRec 0x20 a n elt),
   (a.toNat % align != 0, accessRec 0x21 a n elt),
   (s.storeProtected s.curCore s.isS a.toNat n, accessRec 0x22 a n elt),
   (s.me.badPartly a.toNat n, accessRec 0xA0 a n elt)]

/-- The bits of byte x of local SRAM that a write keeps: in the window table those that R51 does not list as res0, none in
the system area above it (R12, R48, R51), and elsewhere all. -/
def keptBits (x : Nat) : Byte :=
  if x < 0x1100 || decide (0x2000 ≤ x) || (decide (x < 0x1168) && decide (x % 4 < 2)) then 0xFF
  else if x < 0x1168 && x % 4 == 2 then 0x3F
  else 0

/-- Bytes written into local SRAM by any writer: bad doublewords wholly covered are good again (R68), and an image that
the bytes touch in the general area is no longer held unmodified (R371). Bits that read zero discard the write. -/
def Core.put (c : Core) (a : Nat) (bs : List Byte) : Core :=
  let n := bs.length
  let mem := Memory.write c.mem a (if overlaps a n 0x1100 0xF00 then (bs.zip (span a n)).map fun e => e.1 &&& keptBits e.2 else bs)
  let image := match c.image with
    | some (id, lo, len, same, pr) => some (id, lo, len, same && !overlaps a n (max lo 0x2000) (lo + len - max lo 0x2000), pr)
    | none => none
  { c with mem := mem, image := image,
           bad := c.bad.filter fun d => !(decide (a ≤ 8 * d) && decide (8 * d + 8 ≤ a + n)) }

/-- LoadLocal after its checks. -/
def State.load (s : State) (a n : Nat) : Nat := Memory.num s.me.mem a n
/-- StoreLocal after its checks. -/
def State.store (s : State) (a n x : Nat) : State := s.modMe fun c => c.put a (leBytes n x)
/-- One local load or store counted (R425). -/
def State.countMem (s : State) : State := s.modCx fun x => x.count 3

/-- Window k of the window table: base and SIZE field (R51). -/
def Core.window (c : Core) (k : Nat) : Nat × Nat :=
  let d := Memory.num c.mem (0x1100 + 8 * k) 8
  (fld d 0 22, fld d 32 22)

/-- Whether a core's scratch doubleword declares a span (R51). -/
def Core.hasScratch (c : Core) : Bool := Memory.num c.mem 0x1160 8 != 0
/-- Local address of scratch offset o (R58). -/
def Core.scratchAddr (c : Core) (o : Nat) : Nat :=
  let d := Memory.num c.mem 0x1160 8
  fld d 0 22 + o % 2 ^ fld d 32 6

end Sys2Proof.Machine
end

