-- ==== Sys2Proof/Machine/Flags.lean ====
section
/-! DEFINITION. The sticky flags of STAT (R88, R212), stochastic draws and RNDCTR (R82, R83). -/

namespace Sys2Proof.Machine

/-- The flags NV, DZ, OF, UF, NX, SAT of a STAT value, as a number of six bits. -/
def statFlags (w : Word) : Nat := wfld w 0 6

/-- STAT with flags added; only a WRS clears a flag (R212). -/
def Ctx.flag (x : Ctx) (f : Nat) : Ctx := { x with stat := x.stat ||| .ofNat 64 (f % 64) }
/-- The issuing context's STAT with flags added. -/
def State.flag (s : State) (f : Nat) : State := s.modCx fun x => x.flag f

/-- A rounding mode is stochastic: SR or SRP (R79). -/
def stochastic (m : Nat) : Bool := m == 5 || m == 6

/-- RNDCTR advances once for an instruction that rounds in a stochastic mode (R83). -/
def State.advance (s : State) (m : Nat) : State :=
  if stochastic m then s.modCx fun x => { x with rndctr := x.rndctr + 1 } else s

/-- The stream of a mode in a context (R82). -/
def streamOf (m ctx : Nat) : Nat := if m = 5 then ctx else 15

/-- MixerBits(e) of the issuing instruction in mode m, with RNDCTR as its issue slot found it (R82, R85). -/
def State.draw (s : State) (m e : Nat) : Nat :=
  if stochastic m then mixerBits s.me.seed.toNat s.curCore (streamOf m s.curCtx) s.atIssue.rndctr.toNat e else 0

/-- R161: rounding in mode SR in C1 to C10 under an ORDERED promise. -/
def State.srForbidden (s : State) (m : Nat) : Bool :=
  m == 5 && s.ordered s.curCore && decide (1 ≤ s.curCtx) && decide (s.curCtx ≤ 10)

end Sys2Proof.Machine
end

