-- ==== Sys2Proof/Machine/Operands.lean ====
section
/-! DEFINITION. Operand forms: effective formats and rounding mode (R217), generic pointers (R55 to R59), destination
words (R112, R113), slack classes (R129). -/

namespace Sys2Proof.Machine

/-! ### The prefix and FMT (R213, R216, R217) -/

/-- The prefix that applies to the instruction at issue, 0 for none: that of its issue slot once it has blocked (R288). -/
def Ctx.prefixAt (x : Ctx) : Nat :=
  let (pp, pfx) := match x.snap with
    | some q => (q.pp, q.pfx)
    | none => (x.pp, x.pfx)
  if pp then pfx.toNat else 0
/-- F1 of the pending prefix, if it applies. -/
def Ctx.f1 (x : Ctx) : Option Nat := if fld x.prefixAt 9 1 == 1 then some (fld x.prefixAt 10 4) else none
/-- F2 of the pending prefix, if it applies. -/
def Ctx.f2 (x : Ctx) : Option Nat := if fld x.prefixAt 4 1 == 1 then some (fld x.prefixAt 5 4) else none
/-- RM of the pending prefix, if it applies. -/
def Ctx.prm (x : Ctx) : Option Nat := if fld x.prefixAt 0 1 == 1 then some (fld x.prefixAt 1 3) else none
/-- EffRM() (R217, R221). -/
def State.rm (s : State) : Nat := s.cx.prm.getD (fld s.atIssue.fmt.toNat 0 3)
/-- FMT.VF, the primary format of vector instructions. -/
def State.vf (s : State) : Nat := fld s.atIssue.fmt.toNat 4 4
/-- The effective primary format where FMT.VF is the primary field. -/
def State.fmt1 (s : State) : Nat := s.cx.f1.getD s.vf
/-- FMT.IW as a width in bits: 8, 16, 32, 64 (R213). -/
def State.iw (s : State) : Nat := 8 * 2 ^ fld s.atIssue.fmt.toNat 8 2
/-- FMT.MFA and FMT.MFB. -/
def State.mfa (s : State) : Nat := fld s.atIssue.fmt.toNat 16 4
def State.mfb (s : State) : Nat := fld s.atIssue.fmt.toNat 20 4

/-! ### Slack registers (R129) -/

/-- SLKn of the issuing core, the class that a 2-bit field selects (R111). -/
def State.slkOf (s : State) (c : Nat) : Nat := (SMap.get (0 : Word) s.atIssue.slk c).toNat
def slkInit (w : Nat) : Nat := fld w 0 12
def slkRallow (w : Nat) : Nat := fld w 12 12
def slkNchan (w : Nat) : Nat := fld w 24 6
def slkNen (w : Nat) : Bool := fld w 30 1 == 1

/-! ### Generic pointers (R55 to R59) -/

/-- What an instruction uses a generic pointer for (R56). -/
inductive PtrUse where
  | load | store | copySrc | copyDst | remote
  deriving DecidableEq, Repr

/-- Where a generic pointer leads (R55). -/
inductive Place where
  | here (a : Nat)
  | scratch (o : Nat)
  | core (cn a : Nat)
  | global (va : Nat)
  deriving DecidableEq, Repr

/-- The use is a load or a store. -/
def PtrUse.direct (u : PtrUse) : Bool := u == .load || u == .store
/-- The use writes. -/
def PtrUse.writes (u : PtrUse) : Bool := u == .store || u == .copyDst || u == .remote

/-- The core with member index m in core cn's cluster (R16, R55). -/
def clusterCore (cn m : Nat) : Nat := (cn / 256 * 4 + m / 4) * 64 + cn % 64 / 4 * 4 + m % 4

/-- Local addresses of an access of n bytes at a place of core cn's memory: scratch wraps (R58). -/
def Core.bytesAt (c : Core) (p : Place) (n : Nat) : List Nat :=
  match p with
  | .here a => span a n
  | .scratch o => (List.range n).map fun i => c.scratchAddr (o + i)
  | .core _ a => span a n
  | .global a => span a n

/-- The place that a pointer names for core cn with the window table of c, whatever the checks say (R55). -/
def Core.place (c : Core) (cn : Nat) (p : Word) : Place :=
  match wfld p 61 3 with
  | 0 => .here ((c.window (wfld p 46 4)).1 + wfld p 0 46)
  | 1 => .scratch (wfld p 0 50)
  | 2 => .core (clusterCore cn (wfld p 57 4)) (wfld p 0 57)
  | _ => .global (wfld p 0 48)

/-- The place that a pointer names for core cn now. -/
def State.placeOf (s : State) (cn : Nat) (p : Word) : Place := (s.core cn).place cn p

/-- Rows 7 and 8 of R57: n bytes at an offset of the memory of core cn's cluster member m. -/
def State.clusterFault (s : State) (u : PtrUse) (cn m off n : Nat) : Option Nat :=
  if !s.sameLaunch cn (clusterCore cn m) then some 0x29
  else if outOfLocal off n || (u.writes && outOfGeneral off n && n != 0) then some 0x2A
  else none

/-- A copy's row of n bytes at scratch offset off of core cn runs past the last offset: its further bytes lie at pointers of
the next owner, and behind the last owner at those of cluster member 0 (R61). -/
def State.scratchCarry (s : State) (u : PtrUse) (cn off n : Nat) : Option Nat :=
  if off + n ≤ 2 ^ 50 || !(u == .copySrc || u == .copyDst) then none
  else if cn = 2047 then s.clusterFault u cn 0 0 (off + n - 2 ^ 50)
  else some 0x27

/-- The pointer checks of R57 in their order, for an access of n bytes by core cn: the first cause that fails. A range
that runs past a global or cluster-shared space fails where its last byte would (R57, R61). -/
def State.pointerFault (s : State) (u : PtrUse) (p : Word) (n : Nat) : Option Nat :=
  let cn := s.curCore
  let c := s.me
  match wfld p 61 3 with
  | 0 =>
    let k := wfld p 46 4
    let (base, size) := c.window k
    let off := wfld p 0 46
    if u == .remote then some 0x25
    else if wfld p 50 11 != cn then some 0x26
    else if decide (11 < k) || (k == 11 && !s.isS) then some 0x28
    else if c.badIn (0x1100 + 8 * k) 8 then some 0xA0
    else if decide (size < off + n) then some 0x28
    else if outOfLocal (base + off) n then some 0x20
    else if u.direct && (base + off) % n != 0 then some 0x21
    else if u == .store && s.storeProtected cn s.isS (base + off) n then some 0x22
    else if u == .copyDst && n != 0 && outOfGeneral (base + off) n then some 0x22
    else none
  | 1 =>
    if u == .remote then some 0x25
    else if wfld p 50 11 != cn then some 0x27
    else if c.badIn 0x1160 8 then some 0xA0
    else if !c.hasScratch then some 0x2F
    else if u == .store && (c.bytesAt (.scratch (wfld p 0 50)) n).any fun a =>
        s.lineProtected (.core cn) a 1 || (!s.isS && s.imageProtected cn a 1) then some 0x22
    else s.scratchCarry u cn (wfld p 0 50) n
  | 2 => if u.direct then some 0x25 else s.clusterFault u cn (wfld p 57 4) (wfld p 0 57) n
  | 3 =>
    if wfld p 48 13 != 0 then some 0x24
    else if u.direct then some 0x25
    else if 2 ^ 48 < wfld p 0 48 + n then some 0x24
    else none
  | _ => some 0x23

/-- What the record of a failed pointer check names: the pointer, or for a fault of R48 or R49 the local address that it stands
for (R57 row 9, R351). -/
def State.pointerAddr (s : State) (cause : Nat) (p : Word) : Word :=
  if cause = 0x20 ∨ cause = 0x21 ∨ cause = 0x22 then .ofNat 64 ((s.me.bytesAt (s.placeOf s.curCore p) 1).headD 0) else p

/-- The same as a check with its record (R351). -/
def State.pointerCheck (s : State) (u : PtrUse) (p : Word) (n elt : Nat) : Bool × FaultRec :=
  match s.pointerFault u p n with
  | some c => (true, accessRec c (s.pointerAddr c p) n elt)
  | none => (false, {})

/-! ### Destination words (R112, R113) -/

def destDK (d : Word) : Nat := wfld d 62 2
def destChan (d : Word) : Nat := wfld d 48 6
def destRank (d : Word) : Nat := wfld d 16 32
def destCn (d : Word) : Nat := wfld d 0 11

/-- What kind of instruction names the destination (R113 row 2). -/
inductive DestUse where
  | send | sendhost | put | atomic
  deriving DecidableEq, Repr

/-- R113 row 2: a field that must be zero is not, a DK that the instruction does not allow, or a RANK of DK 1 that is
the job's own or not below its rank count. -/
def State.destForm (s : State) (u : DestUse) (d : Word) : Bool :=
  let dk := destDK d
  let allowed := match u with
    | .send => decide (dk < 2)
    | .sendhost => dk == 2
    | _ => dk != 2
  let ranks := match s.launchOf s.curCore with
    | some l => (l.rank, l.ranks)
    | none => (0, 1)
  !allowed || wfld d 54 8 != 0 || wfld d 11 5 != 0 || (u != .send && destChan d != 0) ||
  (dk != 1 && destRank d != 0) || (dk == 2 && wfld d 4 7 != 0) || (dk == 3 && destCn d != 0) ||
  (dk == 1 && (destRank d == ranks.1 || decide (ranks.2 ≤ destRank d)))

/-- Rank table entry r of a partition: valid, partition and package at the target, capability mask (R396). -/
def State.rankEntry (s : State) (part r : Nat) : Bool × Nat × Nat × Nat :=
  let d := SMap.get [] s.parts part
  let at_ := fld (d.getD 5 0).toNat 12 34 * 4096 + 16 * r
  let w0 := Memory.num s.gmem at_ 8
  (decide (r < wfld (d.getD 7 0) 0 32) && fld w0 63 1 == 1, fld w0 32 16, fld w0 0 16, Memory.num s.gmem (at_ + 8) 8)

/-- The partition of the issuing core's launch. -/
def State.partOf (s : State) (cn : Nat) : Nat := ((s.core cn).job.map (·.1)).getD 0

/-- R141: the mask of the package that homes the target lacks a capability bit. The rank table holds no mask of a rank that
it does not hold with V = 1: a transaction there ends in status 4 (R396). -/
def State.capMissing (s : State) (d : Word) (bit : Nat) : Bool :=
  if destDK d = 1 then
    let e := s.rankEntry (s.partOf s.curCore) (destRank d)
    e.1 && fld e.2.2.2 bit 1 == 0
  else fld (s.ipOf 0x04C).toNat bit 1 == 0

/-- The record of a REMOTE_* fault at issue: target address or pointer, KIND, DEST; no status has come yet (R351). -/
def remoteRec (cause kind : Nat) (a d : Word) : FaultRec := { cause := cause, addr := a, info1 := kind, detail0 := d }

end Sys2Proof.Machine
end

