-- ==== Sys2Proof/Machine/Xlate.lean ====
section
/-! DEFINITION. Physical addresses, page tables, translation caches and their invalidation (spec 19, R385 to R392; spec
21, R417; log entry 14). -/

namespace Sys2Proof.Machine

/-! ### Physical addresses (R385, R417) -/

/-- 48 GiB, the span of an HBM stack. -/
def stackSize : Nat := 48 * 2 ^ 30
/-- The channels in service of HBM stack k, ascending (R4, R417). -/
def State.channels (s : State) (k : Nat) : List Nat :=
  ones (wfld (s.ipOf (if k < 4 then 0x049 else 0x04E)) (16 * (k % 4)) 16) 16
/-- A physical address lies in HBM that holds something. -/
def State.inHbm (s : State) (pa : Nat) : Bool :=
  decide (pa < 8 * stackSize) && decide (pa % stackSize < (s.channels (pa / stackSize)).length * (3 * 2 ^ 30))
/-- A physical address lies in second-tier DRAM. -/
def State.inTier (s : State) (pa : Nat) : Bool :=
  decide (2 ^ 40 ≤ pa) && decide (pa < 2 ^ 40 + (s.ipOf 0x04D).toNat * 2 ^ 20)
/-- A physical address lies in a host window. -/
def inHost (pa : Nat) : Bool := decide (2 ^ 45 ≤ pa) && decide (pa < 2 ^ 46)
/-- A physical address names something. -/
def State.validPa (s : State) (pa : Nat) : Bool := s.inHbm pa || s.inTier pa || inHost pa
/-- The home of a physical address. -/
def State.homeOf (s : State) (pa : Nat) : Home :=
  if inHost pa then .host (if pa < 3 * 2 ^ 44 then 0 else 1)
  else if s.inTier pa then .tier (fld pa 12 3)
  else
    let k := pa / stackSize
    let cs := s.channels k
    if cs.length = 16 then .hbm k (fld pa 8 4 ^^^ fld pa 16 4)
    else .hbm k (cs.getD (pa % stackSize / 256 % cs.length) 0)

/-- The congestion key of a home (R135); a host window counts as a channel of its own (DESIGN CHOICE, log entry 20). -/
def Home.key : Home → DestKey
  | .core cn => .core (.ofNat 11 cn)
  | .hbm k c => .channel false (.ofNat 3 k) (.ofNat 4 c)
  | .tier c => .channel true 0 (.ofNat 4 c)
  | .host p => .channel true 7 (.ofNat 4 p)
  | .remote r => .rank (.ofNat 32 r)

/-! ### The walk (R386 to R388) -/

/-- What an access does at the page it translates. -/
inductive Access where
  | read | write | rmw
  deriving DecidableEq, Repr

/-- The outcome of a translation (R388). -/
inductive Xlated where
  | ok (pa : Nat)
  | notPresent
  | writeProtected
  | malformed
  deriving DecidableEq, Repr

/-- The leaf that a walk ends at, with log2 of its page, or the outcome that ends it before the permissions. -/
inductive Walk where
  | leaf (pte : Word) (log2 : Nat)
  | stop (x : Xlated)
  deriving DecidableEq, Repr

/-- PFN × 4 KiB of an entry. -/
def ptePage (e : Word) : Nat := wfld e 12 34 * 4096

/-- A walk from the table of a level at physical address t (R388, orders 1 and 2). -/
def State.walkFrom (s : State) (va : Nat) : Nat → Nat → Walk
  | 0, _ => .stop .malformed
  | level + 1, t =>
    let e := Memory.dword s.gmem (t + 8 * fld va (12 + 9 * level) 9)
    let size := 2 ^ (12 + 9 * level)
    if !wbit e 0 then .stop .notPresent
    else if wbit e 1 then
      if decide (3 ≤ level) || ptePage e % size != 0 || !s.validPa (ptePage e) || !s.validPa (ptePage e + size - 1) ||
        (!wbit e 2 && wbit e 3) then .stop .malformed
      else .leaf e (12 + 9 * level)
    else if level = 0 || !(s.inHbm (ptePage e) || s.inTier (ptePage e)) then .stop .malformed
    else s.walkFrom va level (ptePage e)

/-- Doubleword k of partition p's descriptor (R395). -/
def State.partDw (s : State) (p k : Nat) : Word := (SMap.get [] s.parts p).getD k 0
/-- ASID of a partition. -/
def State.asid (s : State) (p : Nat) : Nat := wfld (s.partDw p 2) 0 16
/-- The walk of va under partition p from the root. -/
def State.walk (s : State) (p va : Nat) : Walk := s.walkFrom va 4 (wfld (s.partDw p 3) 12 34 * 4096)

/-- Orders 3 to 5 of R388 at a leaf. -/
def leafOutcome (acc : Access) (pte : Word) (log2 va : Nat) : Xlated :=
  if acc != .write && !wbit pte 2 then .notPresent
  else if acc != .read && !wbit pte 3 then .writeProtected
  else .ok (ptePage pte + va % 2 ^ log2)

/-- The home that the tables name for a global address at issue, for its congestion key and its scope; the address is
translated again when the operation is performed (R391). -/
def State.homeAtIssue (s : State) (part va : Nat) : Home :=
  match s.walk part va with
  | .leaf pte l2 => s.homeOf (ptePage pte + va % 2 ^ l2)
  | .stop _ => .hbm 0 0

/-! ### The caches (R389 to R392) -/

/-- The entry translates va of an address space. -/
def XEntry.covers (e : XEntry) (asid va : Nat) : Bool := e.asid == asid && va / 2 ^ e.log2 == e.page
/-- A cache of at most n entries with an entry added; the oldest one drops out. -/
def cacheAdd (n : Nat) (c : List XEntry) (e : XEntry) : List XEntry := (e :: c.filter fun o => o != e).take n
/-- The die whose slice serves va (R389). -/
def sliceOf (asid va : Nat) : Nat := fld va 21 3 ^^^ fld va 24 3 ^^^ fld va 27 3 ^^^ asid % 8
/-- An entry is a table entry, which a walk can start from, and no leaf. -/
def XEntry.isTable (e : XEntry) : Bool := !wbit e.pte 1
/-- A cached leaf that translates the access; one that lacks a permission is looked up anew (R390). -/
def cacheHit (c : List XEntry) (acc : Access) (asid va : Nat) : Option (XEntry × Nat) :=
  c.findSome? fun e =>
    if e.covers asid va && !e.isTable then
      match leafOutcome acc e.pte e.log2 va with
      | .ok pa => some (e, pa)
      | _ => none
    else none

/-- Entries in one slice of the second-level cache: the spec gives no size, and any entry may drop at any time (R390). -/
def sliceSize : Nat := 64

/-- An entry kept in the slice that serves va. -/
def State.fillSlice (s : State) (asid va : Nat) (e : XEntry) : State :=
  let d := sliceOf asid va
  { s with slices := SMap.put s.slices d (cacheAdd sliceSize (SMap.get [] s.slices d) e) }
/-- An entry kept in core cn's cache. -/
def State.fillCore (s : State) (cn : Nat) (e : XEntry) : State :=
  s.modCore cn fun c => { c with xcache := cacheAdd (s.ipOf 0x047).toNat c.xcache e }

/-- The table entries on the way from the table of a level at physical address t to the leaf of va, from the root downward,
each with log2 of what it maps. -/
def State.tablesFrom (s : State) (va : Nat) : Nat → Nat → List (Nat × Word)
  | 0, _ => []
  | level + 1, t =>
    let e := Memory.dword s.gmem (t + 8 * fld va (12 + 9 * level) 9)
    if wbit e 0 && !wbit e 1 then (12 + 9 * level, e) :: s.tablesFrom va level (ptePage e) else []

/-- The deepest table entry that the slice of va holds for it (R389). -/
def State.cachedTable (s : State) (asid va : Nat) : Option XEntry :=
  ((SMap.get [] s.slices (sliceOf asid va)).filter fun e => e.covers asid va && e.isTable).foldl (fun best e =>
    match best with
    | some b => if e.log2 < b.log2 then some e else best
    | none => some e) none

/-- Where the walk of va on its die starts: the level whose table it reads first, and that table (R388, R389). -/
def State.walkStart (s : State) (p va : Nat) : Nat × Nat :=
  match s.cachedTable (s.asid p) va with
  | some e => ((e.log2 - 12) / 9, ptePage e.pte)
  | none => (4, wfld (s.partDw p 3) 12 34 * 4096)

/-- The walk of va on its die (R388, R389). -/
def State.dieWalk (s : State) (p va : Nat) : Walk := s.walkFrom va (s.walkStart p va).1 (s.walkStart p va).2

/-- A walk of va on its die that ends at a leaf: the entries that its slice keeps, the tables met on the way and the leaf
(R389, R390). -/
def State.keepWalk (s : State) (p va : Nat) (leaf : XEntry) : State :=
  let asid := s.asid p
  let (level, t) := s.walkStart p va
  ((s.tablesFrom va level t).foldl (fun s (l2, e) => s.fillSlice asid va ⟨asid, va / 2 ^ l2, l2, e⟩) s).fillSlice asid va leaf

/-- The translation of va under partition p for core cn's operations, or for the Shawm (none), with the caches as it
leaves them (R389, R391). -/
def State.translate (s : State) (cn : Option Nat) (p va : Nat) (acc : Access) : Xlated × State :=
  let asid := s.asid p
  let keep (s : State) (e : XEntry) : State := match cn with
    | some c => s.fillCore c e
    | none => s
  match (cn.bind fun c => cacheHit (s.core c).xcache acc asid va) with
  | some (_, pa) => (.ok pa, s)
  | none =>
    match cacheHit (SMap.get [] s.slices (sliceOf asid va)) acc asid va with
    | some (e, pa) => (.ok pa, keep s e)
    | none =>
      match s.dieWalk p va with
      | .stop x => (x, s)
      | .leaf pte l2 =>
        match leafOutcome acc pte l2 va with
        | .ok pa =>
          let e : XEntry := ⟨asid, va / 2 ^ l2, l2, pte⟩
          (.ok pa, keep (s.keepWalk p va e) e)
        | x => (x, s)

/-- Entries removed by an invalidation: all of an address space, or those whose page contains va (R361, R392). -/
def dropEntries (c : List XEntry) (asid : Nat) (va : Option Nat) : List XEntry :=
  c.filter fun e => !(match va with
    | none => e.asid == asid
    | some a => e.covers asid a)

/-- Every slice without those entries. -/
def State.dropSlices (s : State) (asid : Nat) (va : Option Nat) : State :=
  { s with slices := s.slices.map fun (d, c) => (d, dropEntries c asid va) }

/-- A failed translation as a datum of a reply, and back: what the home of an update found (R393). -/
def Xlated.code : Xlated → Nat
  | .writeProtected => 1
  | .malformed => 2
  | _ => 0
def xlatedOf : Nat → Xlated
  | 1 => .writeProtected
  | 2 => .malformed
  | _ => .notPresent

/-- The cause of a copy's translation failure, or of its suspension (R393). -/
def xlateCause : Xlated → Nat
  | .notPresent => 0x81
  | .writeProtected => 0x82
  | _ => 0x83

/-- The pages of [va, va + n) at 4 KiB steps: the first address, and each page boundary behind it. -/
def pagesOf (va n : Nat) : List Nat :=
  if n = 0 then [] else va :: (List.range ((va + n - 1) / 4096 - va / 4096)).map fun i => (va / 4096 + 1 + i) * 4096

/-- Every page of [va, va + n) translated: the pieces as (physical address, bytes), or the first address that fails. -/
def State.translateRange (s : State) (cn : Option Nat) (p va n : Nat) (acc : Access) :
    Except (Nat × Xlated) (List (Nat × Nat)) × State :=
  (pagesOf va n).foldl (fun (r, s) a =>
    match r with
    | .error e => (.error e, s)
    | .ok ps =>
      match s.translate cn p a acc with
      | (.ok pa, s) => (.ok (ps ++ [(pa, min (va + n) ((a / 4096 + 1) * 4096) - a)]), s)
      | (x, s) => (.error (a, x), s)) (.ok [], s)

/-- The physical pieces that core cn's translations of [va, va + n) name now, as far as there are any (R388, R389). -/
def State.piecesOf (s : State) (cn p va n : Nat) : List (Nat × Nat) :=
  (pagesOf va n).flatMap fun a => match (s.translate (some cn) p a .read).1 with
    | .ok pa => [(pa, min (va + n) ((a / 4096 + 1) * 4096) - a)]
    | _ => []

/-- Two ranges of virtual addresses share a byte, be it by way of two addresses that translate to it (R165). -/
def State.sharesGlobal (s : State) (cn p va n vb m : Nat) : Bool :=
  overlaps va n vb m || (s.piecesOf cn p va n).any fun x => (s.piecesOf cn p vb m).any fun y => overlaps x.1 x.2 y.1 y.2

/-- A physical address lies in a field of a queue table that only the launch sequencer writes (R362, R363). -/
def State.sequencerField (s : State) (pa : Nat) : Bool :=
  s.parts.any fun (p, _) =>
    let q := wfld (s.partDw p 4) 12 34 * 4096
    wbit (s.partDw p 2) 63 && decide (q ≤ pa) && decide (pa < q + 0xA40) &&
      let o := pa - q
      ((decide (0x18 ≤ o) && decide (o < 0x30)) || (decide (0x240 ≤ o) && decide (o % 32 / 8 = 2)))

/-- The physical address of entry r of partition p's rank table (R396). -/
def State.rankAt (s : State) (p r : Nat) : Nat := wfld (s.partDw p 5) 12 34 * 4096 + 16 * r

/-- Bytes written in global memory; a doubleword written whole is good again, and a write to a field of the launch
sequencer is discarded (R362). A rank table entry that is rewritten names a path to be tried anew (R408). -/
def State.putGlobal (s : State) (ws : List (Nat × Byte)) : State :=
  let ws := ws.filter fun w => !s.sequencerField w.1
  let as := ws.map (·.1)
  { s with lost := s.lost.filter fun e => !as.any fun a => overlaps a 1 (s.rankAt e.1 e.2.1) 16,
           gmem := ws.foldl (fun m w => Memory.setByte m w.1 w.2) s.gmem,
           gbad := s.gbad.filter fun d => !(span (8 * d) 8).all fun a => as.contains a }

/-- Bytes written at ascending physical addresses from pa on. -/
def State.putBytes (s : State) (pa : Nat) (bs : List Byte) : State := s.putGlobal ((span pa bs.length).zip bs)

/-! ### Ports toward other packages (R399, R402, R403) -/

/-- The physical address of a package's entry in the endpoint table, EPTAB of the configuration record (R403, R415). -/
def State.endpointAt (s : State) (pkg : Nat) : Nat := leNat ((s.mgmt.config.drop 0x90).take 8) + 16 * pkg
/-- An endpoint table entry is all zeros (R403). -/
def State.noEndpoint (s : State) (pkg : Nat) : Bool := Memory.num s.gmem (s.endpointAt pkg) 16 == 0

/-- H of R399. -/
def pathHash (own pkg cn dcn : Nat) : Nat := cn ^^^ dcn ^^^ own ^^^ pkg

/-- The port by which a packet from core cn of this package, number own, to core dcn of package pkg leaves, an Ethernet port
counting from 64 (R399, R402, R403); none if no path is left. -/
def State.portOf (s : State) (own pkg cn dcn : Nat) : Option Nat :=
  let near := pkg / 4096 == own / 4096
  let ports := if near then ones s.sutreLive.toNat 36 else (ones s.enetLive.toNat 16).map (64 + ·)
  if !near && s.noEndpoint pkg then none else ports[pathHash own pkg cn dcn % ports.length]?

/-- The bytes of some physical pieces. -/
def readPieces (m : Memory) (ps : List (Nat × Nat)) : List Byte := ps.flatMap fun (a, n) => Memory.read m a n
/-- Bytes written over some physical pieces. -/
def writePieces (m : Memory) : List (Nat × Nat) → List Byte → Memory
  | [], _ => m
  | (a, n) :: ps, bs => writePieces (Memory.write m a (bs.take n)) ps (bs.drop n)

end Sys2Proof.Machine
end

