-- ==== Sys2Proof/Machine/CopyParams.lean ====
section
/-! DEFINITION. The parameters of a copy, read off its snapshots (spec 02, R61, R62; spec 03, R89). -/

namespace Sys2Proof.Machine

def CopyOp.recid (o : CopyOp) : Nat := wfld o.pblk 44 20
def CopyOp.recen (o : CopyOp) : Bool := wbit o.pblk 43
def CopyOp.acc (o : CopyOp) : Nat := wfld o.pblk 40 3
def CopyOp.sfmt (o : CopyOp) : Nat := wfld o.pblk 36 4
def CopyOp.dfmt (o : CopyOp) : Nat := wfld o.pblk 32 4
def CopyOp.note (o : CopyOp) : Nat := wfld o.pblk 8 2
def CopyOp.cls (o : CopyOp) : Nat := wfld o.pblk 6 2
def CopyOp.chan (o : CopyOp) : Nat := wfld o.pblk 0 6
def CopyOp.rows (o : CopyOp) : Nat := max 1 (wfld o.shape 48 16)
/-- SFMT = DFMT = 0: bytes move as they fall. -/
def CopyOp.plain (o : CopyOp) : Bool := o.sfmt == 0 && o.dfmt == 0
/-- The copy converts elements. -/
def CopyOp.converts (o : CopyOp) : Bool := o.sfmt != o.dfmt
/-- Elements in a row (R89). -/
def CopyOp.elems (o : CopyOp) : Nat := o.len * (fmtGroup o.sfmt).1 / (fmtGroup o.sfmt).2
/-- Bytes of a destination row. -/
def CopyOp.dstRow (o : CopyOp) : Nat := if o.converts then o.elems * fmtBits o.dfmt / 8 else o.len
/-- Pointers of row j (R61). -/
def CopyOp.srcPtr (o : CopyOp) (j : Nat) : Word := o.src + sext 24 (wfld o.shape 24 24) * .ofNat 64 j
def CopyOp.dstPtr (o : CopyOp) (j : Nat) : Word := o.dst + sext 24 (wfld o.shape 0 24) * .ofNat 64 j
/-- Bytes of the side entries of one row. -/
def CopyOp.sideRow (o : CopyOp) : Nat := o.elems / 32 * 2
/-- The B4X format is one of the two. -/
def CopyOp.hasSide (o : CopyOp) : Bool := o.converts && (o.sfmt == 9 || o.dfmt == 9)
/-- A core with the window table and scratch doubleword that the copy snapshots. -/
def CopyOp.windows (o : CopyOp) : Core := { mem := Memory.write [] 0x1100 (o.table.flatMap fun w => leBytes 8 w.toNat) }

/-- The local runs that n bytes at a place of core cn's touch, each with its core; none for global memory. A scratch place stays one
(R58). -/
def Core.runs (c : Core) (cn : Nat) (p : Place) (n : Nat) : List (Nat × Nat × Nat) :=
  match p with
  | .here a => [(cn, a, n)]
  | .core t a => [(t, a, n)]
  | .global _ => []
  | .scratch o =>
    let d := Memory.num c.mem 0x1160 8
    let size := 2 ^ fld d 32 6
    let base := fld d 0 22
    let at_ := o % size
    if size ≤ n then [(cn, base, size)]
    else if at_ + n ≤ size then [(cn, base + at_, n)]
    else [(cn, base + at_, size - at_), (cn, base, n - (size - at_))]

/-- The places of the n bytes of a row that begin at pointer p of core cn, each with its bytes: a row that runs past the last offset of a
scratch space goes on at the pointers behind it (R61). -/
def CopyOp.pieces (o : CopyOp) (cn : Nat) (p : Word) (n : Nat) : List (Place × Nat) :=
  match o.windows.place cn p with
  | .scratch a =>
    let k := min n (2 ^ 50 - a)
    (.scratch a, k) :: if k < n then [(o.windows.place cn (p + .ofNat 64 k), n - k)] else []
  | x => [(x, n)]

/-- The local runs of a row of n bytes that begins at pointer p of core cn. -/
def CopyOp.runs (o : CopyOp) (cn : Nat) (p : Word) (n : Nat) : List (Nat × Nat × Nat) :=
  (o.pieces cn p n).flatMap fun x => o.windows.runs cn x.1 x.2

end Sys2Proof.Machine
end

