-- ==== Sys2Proof/Machine/Sched.lean ====
section
/-! DEFINITION. What blocks a context, and which context takes an issue slot (R36 to R41, R122, R136, R169, R204, R238,
R343, R344). -/

namespace Sys2Proof.Machine

/-! ### Handler table (R29) -/

/-- Doubleword w of channel c's handler table entry. -/
def Core.entryDw (c : Core) (ch w : Nat) : Nat := Memory.num c.mem (0x800 + 32 * ch + 8 * w) 8
def Core.entryPc (c : Core) (ch : Nat) : Nat := fld (c.entryDw ch 0) 0 22
def Core.inboxBase (c : Core) (ch : Nat) : Nat := fld (c.entryDw ch 1) 0 22
def Core.inboxSize (c : Core) (ch : Nat) : Nat := fld (c.entryDw ch 1) 32 22
def Core.wrapMode (c : Core) (ch : Nat) : Nat := fld (c.entryDw ch 2) 4 2
def Core.masked (c : Core) (ch : Nat) : Bool := fld (c.entryDw ch 2) 2 1 == 1
def Core.chanPri (c : Core) (ch : Nat) : Nat := fld (c.entryDw ch 2) 0 2
def Core.writePtr (c : Core) (ch : Nat) : Nat := fld (c.entryDw ch 3) 0 22
def Core.liveBit (c : Core) (ch : Nat) : Bool := fld (c.entryDw ch 3) 62 1 == 1
/-- PEND of channel ch. -/
def Core.pend (c : Core) (ch : Nat) : Nat := fld (c.entryDw ch 3) 44 16

/-- CHMASK: the 64 MASK bits (R32). -/
def Core.chmask (c : Core) : Word :=
  .ofNat 64 ((List.range 64).foldl (fun a ch => if c.masked ch then a + 2 ^ ch else a) 0)
/-- The core with CHMASK written; a MASK bit and its CHMASK bit are one (R32). -/
def Core.setChmask (c : Core) (w : Word) : Core :=
  { c with mem := (List.range 64).foldl (fun m ch =>
      let a := 0x800 + 32 * ch + 16
      let d := Memory.num m a 1
      Memory.setNum m a 1 (d - fld d 2 1 * 4 + (if wbit w ch then 4 else 0))) c.mem }

/-! ### Events, transactions and windows -/

/-- No activation context is live, what the EXIT of each orders before IDLE is done (R173), and no channel has RUN = 1 (R40
bit 4). -/
def Core.idleEvent (c : Core) : Bool :=
  (span 1 10).all (fun k => !(c.cx k).live) && c.ending.isEmpty && (List.range 64).all fun ch => c.pend ch == 0

/-- Latched park events set on every context of a core (R40). -/
def Core.latch (c : Core) (bit : Nat) : Core :=
  (List.range 12).foldl (fun c k => c.modCx k fun x => { x with latched := x.latched ||| .ofNat 8 (2 ^ bit) }) c

/-- A neighbour counter takes a value: a change of it latches HALO (R40). -/
def Core.setHx (c : Core) (i : Nat) (w : Word) : Core :=
  let c' := { c with hx := SMap.put c.hx i w }
  if SMap.get 0 c.hx i = w then c' else c'.latch 5

/-- The oldest reply slot of context k (R122). -/
def Core.oldestReply (c : Core) (k : Nat) : Option Reply := c.q3.find? fun r => r.owner == k && !r.orphan
/-- q3 is not empty for context k. -/
def Core.replyReady (c : Core) (k : Nat) : Bool :=
  match c.oldestReply k with
  | some r => r.answer.isSome
  | none => false

/-- Events(ctx) of R40. ACTEND is not reported while a transaction that the EXIT of an ended activation orders before it is open
(R173). -/
def Core.events (c : Core) (k : Nat) : Nat :=
  (if c.q0.isEmpty then 0 else 1) + (if c.q2.isEmpty then 0 else 2) + (if c.replyReady k then 4 else 0)
  + (if c.idleEvent then 16 else 0) + ((c.cx k).latched &&& (if c.ending.isEmpty then 0xE8 else 0xE0)).toNat

/-- A home lies in the instance of a scope that contains core cn (R168). -/
def State.inScope (s : State) (cn scope : Nat) (h : Home) : Bool :=
  match h with
  | .core t =>
    if scope < 2 then t == cn
    else if scope = 2 then t / 256 == cn / 256 && t % 64 / 4 == cn % 64 / 4
    else if scope = 3 then s.sameLaunch cn t else true
  | .remote _ => decide (5 ≤ scope)
  | _ => decide (4 ≤ scope)

/-- A release at a scope by context k of core cn still waits for a transaction (R169, R311). -/
def State.releasePending (s : State) (cn k scope : Nat) : Bool :=
  (s.core cn).txs.any fun t => t.ctx == k && t.copy.isNone && t.kind != 5 && s.inScope cn scope t.home

/-- CW(d) (R136). -/
def Core.window_ (c : Core) (d : DestKey) : Nat := ((c.windows.find? fun e => e.1 == d).map (·.2)).getD 32
/-- The window toward d is full (R136). -/
def Core.windowFull (c : Core) (d : DestKey) : Bool :=
  decide (c.window_ d ≤ (c.txs.filter fun t => t.key == d).length)
/-- The core with CW(d) replaced. -/
def Core.setWindow (c : Core) (d : DestKey) (n : Nat) : Core :=
  { c with windows := (if n = 32 then [] else [(d, n)]) ++ c.windows.filter fun e => e.1 != d }

/-- A transaction sets out: its number is free of what an earlier use of it left (R133, R138). -/
def Core.opens (c : Core) (t : Tx) : Core :=
  { c with txs := c.txs ++ [t], txSeq := c.txSeq + 1, noticed := c.noticed.filter fun q => q != t.seq,
           closed := c.closed.filter fun u => u.seq != t.seq }

/-- Ended activations whose ordered transactions are complete: each latches ACTEND (R40, R173). -/
def Core.settle (c : Core) : Core :=
  let open_ := c.ending.filter fun e => e.any fun q => c.txs.any fun t => t.seq == q
  let c' := { c with ending := open_ }
  if open_.length < c.ending.length then c'.latch 3 else c'

/-- A completed transaction to another package may still place an exhaustion notice (R133). -/
def Tx.lingers (t : Tx) : Bool := slkNen t.slk && match t.home with
  | .remote _ => true
  | _ => false

/-- A transaction of core cn completes (R170): it leaves the outstanding ones and its window opens by one (R136). -/
def Core.completeTx (c : Core) (seq : Nat) : Core :=
  match c.txs.find? fun t => t.seq == seq with
  | some t =>
    ({ c with txs := c.txs.filter fun u => u.seq != seq,
              closed := if t.lingers then c.closed ++ [t] else c.closed }.setWindow t.key (min 32 (c.window_ t.key + 1))).settle
  | none => c

/-- Transactions of context k whose home is the core's own SRAM: those that a release at CORE orders (R168, R169). -/
def Core.ownTxs (c : Core) (cn k : Nat) : List Nat :=
  (c.txs.filter fun t => t.ctx == k && t.copy.isNone && t.kind != 5 && t.home == .core cn).map (·.seq)

/-- The queue table of a partition: base physical address (R362, R395). -/
def State.qtab (s : State) (part : Nat) : Nat := fld ((SMap.get [] s.parts part).getD 4 0).toNat 12 34 * 4096
/-- Host ring h of a partition: BASE, EN, log2 of its records, consumer index, producer index (R362). -/
def State.ring (s : State) (part h : Nat) : Word × Bool × Nat × Nat × Nat :=
  let a := s.qtab part + 0x40 + 32 * h
  let d1 := Memory.num s.gmem (a + 8) 8
  (Memory.dword s.gmem a, fld d1 63 1 == 1, fld d1 0 5, fld (Memory.num s.gmem (a + 16) 8) 0 32,
   SMap.get 0 s.rings (part * 16 + h))
/-- Host messages on their way to ring h of a partition. -/
def State.hostBound (s : State) (part h : Nat) : Nat :=
  (s.net.filter fun (_, p) => p.part == part && match p.body with
    | .hostMsg r _ _ => r == h
    | _ => false).length
/-- The producer, with the records on their way, runs a whole ring ahead of the consumer (R127). -/
def State.ringFull (s : State) (part h : Nat) : Bool :=
  let (_, _, l2, cons, prod) := s.ring part h
  decide (2 ^ l2 ≤ (prod + 2 ^ 32 - cons) % 2 ^ 32 + s.hostBound part h)

/-- The sequence that a handle names in the launch of core cn, with the launch (R145); SERIAL counts modulo 2 ^ 32 (DESIGN
CHOICE, log entry 79). -/
def State.seqOf (s : State) (cn : Nat) (h : Word) : Option (Launch × Nat × Seq) :=
  match s.launchOf cn with
  | some l =>
    match l.seqs.find? fun q => q.1 == wfld h 0 8 && q.2.serial % 2 ^ 32 == wfld h 8 32 && wfld h 40 24 == 0 && q.2.state != .opening with
    | some (n, q) => some (l, n, q)
    | none => none
  | none => none

/-- The offset or virtual address that a cluster-shared or global pointer holds. -/
def pointerBase (p : Word) : Nat := if wfld p 61 3 = 2 then wfld p 0 57 else wfld p 0 48

/-- [a, a + n) of a core touches a line of a sequence. -/
def Seq.touches (q : Seq) (cn a n : Nat) : Bool := q.lines.any fun ln => ln.home == .core cn && overlaps a n ln.addr 64

/-- [a, a + n) of virtual addresses of core cn touches a line of a sequence, by its own address or by another one that translates to
it. -/
def State.touchesSeq (s : State) (q : Seq) (cn a n : Nat) : Bool :=
  (wfld q.base 61 3 == 3 && overlaps a n (pointerBase q.base) (64 * q.lines.length)) ||
  (s.piecesOf cn (s.partOf cn) a n).any fun x => q.lines.any fun ln => (match ln.home with
    | .core _ => false
    | _ => true) && overlaps x.1 x.2 ln.addr 64

/-- A ticketed update that an instruction of core cn has sent is aimed at a line of q. -/
def State.txAims (s : State) (t : Tx) (cn : Nat) (q : Seq) : Bool :=
  match destDK t.dest with
  | 0 => q.touches (destCn t.dest) t.addr.toNat 1
  | 1 => false
  | _ => if wfld t.addr 61 3 = 2 then q.touches (clusterCore cn (wfld t.addr 57 4)) (pointerBase t.addr) 1
    else s.touchesSeq q cn (pointerBase t.addr) 1

/-- A copy with ACC = 5 of core cn that has not sent and ended all its updates has one for a line of q. -/
def State.copyAims (s : State) (o : CopyOp) (cn : Nat) (q : Seq) : Bool :=
  o.acc == 5 && (match o.phase with
    | .running => true
    | .suspended => true
    | .waiting _ => true
    | .answered _ _ => true
    | _ => false) &&
  (span o.row (o.rows - o.row)).any fun j =>
    let off := if j = o.row then o.off else 0
    (o.pieces cn (o.dstPtr j + .ofNat 64 off) (o.dstRow - off)).any fun x => match x.1 with
      | .global a => s.touchesSeq q cn a x.2
      | p => (o.windows.runs cn p x.2).any fun r => q.touches r.1 r.2.1 r.2.2

/-- Updates that context k of core cn has sent to the lines of the sequence of a handle, or that a copy with ACC = 5 which
it forked has still to send there, are outstanding (R154). -/
def State.updatesPending (s : State) (cn k : Nat) (h : Word) : Bool :=
  let c := s.core cn
  match s.seqOf cn h with
  | some (_, _, q) => (c.txs.any fun t => t.ctx == k && t.ticketed && t.copy.isNone && s.txAims t cn q) ||
      c.copies.any fun o => o.ctx == k && s.copyAims o cn q
  | none => false

/-- A statistics flush of record n that the core has sent is not merged yet (R104). -/
def Core.flushing (c : Core) (n : Nat) : Bool :=
  c.txs.any fun t => match t.body with
    | .flush r _ => r == n
    | _ => false

/-- What a context waits for has not come about. -/
def State.waiting (s : State) (cn k : Nat) : Bool :=
  let c := s.core cn
  match (c.cx k).wait with
  | .none => false
  | .park m => (c.events k) &&& m == 0
  | .barrier n => SMap.get false c.arr n
  | .queue 0 => c.q0.isEmpty
  | .queue 1 => (c.cx k).q1.isEmpty
  | .queue 2 => c.q2.isEmpty
  | .queue _ => !c.replyReady k
  | .channels set _ _ => (ones set 64).all fun ch => c.pend ch == 0 || c.liveBit ch
  | .room 0 => decide (32 ≤ c.q0.length)
  | .room 2 => decide (8 ≤ c.q2.length)
  | .room _ => decide (32 ≤ c.q3.length)
  | .copies => decide (32 ≤ c.copies.length)
  | .release scope => s.releasePending cn k scope
  | .replies => c.txs.any fun t => t.ctx == k && t.fetch
  | .window key => c.windowFull key
  | .router => c.choked
  | .diverged => c.control.diverged
  | .fork seqs => seqs.any fun q => c.txs.any fun t => t.seq == q
  | .halos most => decide (most < c.halos)
  | .ring h => s.ringFull (s.partOf cn) h
  | .engine => !c.matrix.powered
  | .sent _ => true
  | .got _ _ => false
  | .order => true
  | .ordered => false
  | .quiet => !c.txs.isEmpty || !c.copies.isEmpty || c.halos != 0
  | .merges => c.flushes != 0
  | .merge n => c.flushing n
  | .shawm => true
  | .updates h => s.updatesPending cn k h
  | .line _ key _ _ => c.choked || c.windowFull key

/-- The context waits at GENEND. -/
def Ctx.inGenend (x : Ctx) : Bool :=
  match x.cur with
  | some (.genend _) => true
  | _ => false

/-- The context is parked for R41: in PARK, WAIT, on an empty queue, in RECVANY, or in GENEND before the last arrival, be it
at the Shawm or still before its own (R183). -/
def State.parked (s : State) (cn k : Nat) : Bool :=
  s.waiting cn k &&
  match ((s.core cn).cx k).wait with
  | .park _ => true
  | .barrier _ => true
  | .queue _ => true
  | .channels _ _ _ => true
  | .quiet => true
  | .merges => ((s.core cn).cx k).inGenend
  | .window _ => ((s.core cn).cx k).inGenend
  | .router => ((s.core cn).cx k).inGenend
  | .shawm => !(s.groups.any fun g => g.2.members.contains cn && g.2.members.length == g.2.fits.length)
  | _ => false

/-- A live context that nothing blocks (R38). -/
def State.unblocked (s : State) (cn k : Nat) : Bool :=
  let x := (s.core cn).cx k
  x.live && !x.held && !x.finishing && x.stl == 0 && !s.waiting cn k

/-- The context that issues in this slot of a core (R38, R343, R344): CT while it handles a record; otherwise the first
live, unblocked context at or after the issue pointer. R38 lets a context of higher priority issue twice in a row; the model's
round robin never does (DESIGN CHOICE, log entry 69). A context that has yielded waits for those of the others that are still
unblocked (R238). -/
def State.pick (s : State) (cn : Nat) : Option Nat :=
  let c := s.core cn
  if c.control.halted then none
  else if c.trap.busy then if (c.cx 11).stl == 0 && !s.waiting cn 11 then some 11 else none
  else if c.control.stopped || c.control.dlanded then none
  else ((List.range 11).map fun i => (c.issuePtr + i) % 11).find? fun k =>
    s.unblocked cn k && (c.cx k).yielded.all fun j => !s.unblocked cn j

/-- One issue slot of a core passes with context k issuing (11 for CT, or none): stall counts fall (R204), the issue
pointer moves past the issuing context (R38), yielding contexts wait for one context fewer (R238), and a selection is due
again (R37). -/
def State.tick (s : State) (cn : Nat) (k : Option Nat) : State :=
  s.modCore cn fun c =>
    let ptr := match k with
      | some j => if j < 11 then (j + 1) % 11 else c.issuePtr
      | none => c.issuePtr
    { c with issuePtr := ptr, control := { c.control with chosen := false }, ctx := c.ctx.map fun (j, x) =>
        let y := x.yielded.filter fun i => k != some i && s.unblocked cn i
        let x := { x with stl := x.stl - 1, yielded := y }
        (j, if x.live && decide (j < 11) && k != some j && !s.unblocked cn j then x.count 1 else x) }

end Sys2Proof.Machine
end

