-- ==== Sys2Proof/Machine/Debug.lean ====
section
/-! DEFINITION. Trace records, payload hashes and replay logs (spec 21, R423 to R427). -/

namespace Sys2Proof.Machine

/-- STATE of a core (R423). -/
def State.coreState (s : State) (cn : Nat) : Nat :=
  let c := s.core cn
  let liveAct := (span 1 10).any fun k => (c.cx k).live
  if (!(c.cx 0).live || (c.cx 0).finishing) && !liveAct then 3
  else if (List.range 11).any fun k => s.unblocked cn k then 0
  else if (List.range 11).any fun k => (c.cx k).live && !(c.cx k).finishing && s.waiting cn k &&
      match (c.cx k).wait with
      | .queue q => q == 3
      | .room q => q == 3
      | .window _ => true
      | .line _ key _ _ => c.windowFull key
      | .copies => true
      | .release _ => true
      | .quiet => true
      | .replies => true
      | .sent n => c.txs.all fun t => 2 * t.seq + 1 != n || !t.ticketed || t.retried
      | .merges => !(c.cx k).inGenend
      | .merge _ => true
      | .updates _ => true
      | _ => false
    then 2
  else 1

/-- The debug block of a partition (R424). -/
def State.debugOf (s : State) (part : Nat) : DebugBlock := SMap.get {} s.debugBlocks part

/-- A trace record written to the ring of partition p, or counted as dropped (R423, R424). -/
def State.writeTrace (s : State) (p : Nat) (dws : List Word) : State :=
  let d := s.debugOf p
  if !wbit d.trctl 63 then s
  else
    let size := 2 ^ wfld d.trctl 0 5
    if (d.trprod.toNat + 2 ^ 32 - d.trcons.toNat) % 2 ^ 32 = size then
      { s with debugBlocks := SMap.put s.debugBlocks p { d with trdrop := d.trdrop + 1 } }
    else
      let s : State := { s with debugBlocks := SMap.put s.debugBlocks p { d with trprod := d.trprod + 1 } }
      s.putBytes (d.trbase.toNat + 32 * (d.trprod.toNat % size)) (dws.flatMap fun (w : Word) => leBytes 8 w.toNat)

/-- Doubleword 0 of a trace record; DELTA is informative and reads zero here (R423). -/
def traceDw0 (cn state : Nat) (dive act : Bool) (chan : Nat) : Word :=
  .ofNat 64 (state * 2 ^ 38 + (if dive then 2 ^ 37 else 0) + (if act then 2 ^ 36 else 0) + chan * 2 ^ 30
    + cn % 64 * 2 ^ 24 + cn / 64 * 2 ^ 19)

/-- A core of partition p whose state has changed writes a record, when the partition traces (R423). -/
def State.traceChange (s : State) (p cn : Nat) : State :=
  let st := s.coreState cn
  if st = (s.core cn).control.traced then s
  else (s.modCore cn fun c => { c with control := { c.control with traced := st } }).writeTrace p
    [traceDw0 cn st false false 0, 0, 0, 0]

/-- A partition traces. -/
def State.traces (s : State) : Bool := s.debugBlocks.any fun d => wbit d.2.trctl 63

/-- Every core of a tracing partition is checked for a change of state. -/
def State.traceAll (s : State) : State :=
  if s.traces then s.cores.foldl (fun s c => s.traceChange (s.partOf c.1) c.1) s else s

/-- The payload hash of a message (R425). -/
def payloadHash (tag : Nat) (bytes : List Byte) : Nat :=
  (dwords bytes).foldl (fun h w => mixer h w.toNat) (mixer 0 (tag * 65536 + bytes.length))

/-- What names an activation for trace and replay (R423, R426). -/
structure Activation where
  ctx : Nat
  kind : Nat
  chan : Nat
  tag : Nat
  src : Word
  entry : Nat
  hash : Nat
  deriving DecidableEq, Repr

/-- A trace record that describes an activation (R423, R426). -/
def State.traceActivation (s : State) (cn : Nat) (a : Activation) (dive : Bool) : State :=
  s.writeTrace (s.partOf cn)
    [traceDw0 cn (s.coreState cn) dive true a.chan,
     .ofNat 64 (a.tag * 2 ^ 48 + a.ctx * 2 ^ 44 + a.kind * 2 ^ 42 + (s.core cn).control.acts % 2 ^ 20 * 2 ^ 22 + a.entry),
     a.src, .ofNat 64 a.hash]

/-- RPCTL and RPBASE of a launch, as at its acceptance: mode, log2 of the slots, base of core cn's log. -/
def Launch.replayLog (l : Launch) (cn : Nat) : Nat × Nat × Nat :=
  (wfld l.rpctl 0 2, wfld l.rpctl 16 5, l.rpbase + 32 * 2 ^ wfld l.rpctl 16 5 * cn)
/-- The same of the launch of core cn. -/
def State.replayLog (s : State) (cn : Nat) : Nat × Nat × Nat :=
  match s.launchOf cn with
  | some l => l.replayLog cn
  | none => (0, 0, 0)

/-- In replay mode the next slot differs from the activation about to start (R426). -/
def State.diverges (s : State) (cn : Nat) (a : Activation) : Bool :=
  let (mode, _, base) := s.replayLog cn
  let c := (s.core cn).control
  let n := Memory.num s.gmem base 4
  let slot := base + 32 * (c.replay + 1)
  mode == 2 && !c.freeRun && decide (c.replay < n) &&
    (fld (Memory.num s.gmem slot 8) 24 6 != a.chan || Memory.num s.gmem (slot + 8) 8 != a.src.toNat ||
     Memory.num s.gmem (slot + 16) 8 != a.hash)

/-- The trace of an activation start (R423): a record while the core is running; a start that changes the core's state
makes one record, of that change, with the activation fields valid (DESIGN CHOICE, log entry 65). -/
def State.traceStart (s : State) (cn : Nat) (a : Activation) : State :=
  let st := s.coreState cn
  if st = (s.core cn).control.traced && st != 0 then s
  else (s.modCore cn fun c => { c with control := { c.control with traced := st } }).traceActivation cn a false

/-- An activation that starts: it is traced, counted, and in record mode logged; in replay mode its slot is consumed. -/
def State.logActivation (s : State) (cn : Nat) (a : Activation) : State :=
  let (mode, l2, base) := s.replayLog cn
  let s := s.traceStart cn a
  let n := (s.core cn).control.acts + 1
  let s := if mode = 1 && decide (n < 2 ^ l2) then
      let dws := leBytes 8 (a.chan * 2 ^ 24 + a.kind * 2 ^ 16) ++ leBytes 8 a.src.toNat ++ leBytes 8 a.hash
      s.putBytes (base + 32 * n) dws
    else s
  s.modCore cn fun c => { c with control := { c.control with acts := n, replay := c.control.replay + 1 } }

/-- A divergence: a trace record with DIV = 1, and the core is asked to stop as R427 gives; it compares nothing more in the
launch (R426). REPLAY_DIVERGE follows when the stop lands. -/
def State.diverge (s : State) (cn : Nat) (a : Activation) : State :=
  (s.traceActivation cn a true).modCore cn fun c =>
    { c with control := { c.control with freeRun := true, dstop := true, diverged := true } }

end Sys2Proof.Machine
end

