-- ==== Sys2Proof/Machine/Inbox.lean ====
section
/-! DEFINITION. Messages at a core: arrival, placement, release, selection, and how a context starts and ends (spec 01,
R19 to R37, R428; spec 05, R114 to R116, R123). -/

namespace Sys2Proof.Machine

/-- The size of an inbox slot for L payload bytes (R33). -/
def slotSize (len : Nat) : Nat := max 8 (8 * ceilDiv len 8)

/-- The occupied set of a channel, as (address, size), the slots of live activations first (R33). -/
def Core.occupied (c : Core) (ch : Nat) : List (Nat × Nat) :=
  (c.ctx.flatMap fun (_, x) => (x.slot.toList ++ x.rslot.toList).filterMap fun sl =>
    if sl.chan == ch then some (sl.addr, sl.size) else none) ++
  (c.placed.filter fun m => m.2.chan == ch).map fun m => (m.1, slotSize m.2.bytes.length)

/-- The status doubleword of a channel as hardware keeps it: PEND, RUN, LIVE and RP from what is placed and live, WP as
given (R29, R33). PEND counts modulo 65,536 (DESIGN CHOICE, log entry 70). -/
def Core.setStatus (c : Core) (ch wp : Nat) : Core :=
  let pend := (c.placed.filter fun m => m.2.chan == ch).length % 65536
  let live := c.ctx.any fun (_, x) => (x.slot.toList ++ x.rslot.toList).any fun sl => sl.chan == ch
  let rp := ((c.occupied ch).head?.map (·.1)).getD wp
  let d := (if pend = 0 then 0 else 2 ^ 63) + (if live then 2 ^ 62 else 0) + pend * 2 ^ 44 + rp % 2 ^ 22 * 2 ^ 22 + wp % 2 ^ 22
  { c with mem := Memory.setNum c.mem (0x800 + 32 * ch + 24) 8 d }

/-- Where a message goes (R33, R35). -/
inductive Placement where
  | at_ (a : Nat)
  | held
  | undeliverable
  /-- The entry holds an uncorrectable error (R68). -/
  | badEntry
  deriving DecidableEq, Repr

/-- The placement of a message of n bytes on channel ch (R33, R35). -/
def Core.placement (c : Core) (ch n : Nat) : Placement :=
  let size := slotSize n
  let base := c.inboxBase ch
  let lim := c.inboxSize ch
  let occ := c.occupied ch
  let free (a : Nat) := occ.all fun o => !overlaps a size o.1 o.2
  let wp := c.writePtr ch
  if c.badIn (0x800 + 32 * ch) 32 then .badEntry
  else if decide (lim < size) || lim == 0 || c.entryPc ch == 0 || decide (2 ≤ c.wrapMode ch) || outOfGeneral base lim then
    .undeliverable
  else if c.wrapMode ch = 1 then if occ.isEmpty then .at_ base else .held
  else if decide (base ≤ wp) && decide (wp + size ≤ base + lim) && free wp then .at_ wp
  else if free base then .at_ base
  else .held

/-- The record that names a message (R351). -/
def msgRec (cause : Nat) (m : Msg) : FaultRec := { cause := cause, addr := m.src, info0 := m.chan, info1 := m.bytes.length }

/-- A packet put in flight. -/
def State.send (s : State) (p : Packet) : State :=
  { s with net := SMap.put s.net s.nextPkt p, nextPkt := s.nextPkt + 1 }

/-- A reply or notice to an issuer on another package, from a core of this one; it leaves by a port as every packet does
(R399). -/
def State.remoteReply (s : State) (f : Issuer) (target slack kind : Nat) (b : Body) : Packet :=
  { cn := f.cn, seq := f.seq, ctx := 15, pc := 0, kind := kind, part := f.part, lid := 0, home := .remote f.rank, addr := target,
    slack := slack, rallow := 0, cls := 0, reply := true, remote := some (f.rank, f.pkg), dpart := (s.rankEntry f.part f.rank).2.1,
    dcn := f.cn, own := f.own,
    port := s.portOf f.own f.pkg target f.cn, body := b }

/-- How the duplicate filter names an issuer: its job rank, with the partition and the package it came from. -/
def filterKey (part pkg rank : Nat) : Nat := (part * 65536 + pkg) * 2 ^ 32 + rank

/-- A request of another package is answered, and the duplicate filter keeps the answer (R138). -/
def State.replyRemote (s : State) (f : Issuer) (target slack kind st : Nat) (data : List Word) : State :=
  { s with filter := s.filter ++ [(filterKey f.part f.pkg f.rank, f.cn, f.seq, st, data)] }.send
    (s.remoteReply f target slack kind (.reply st data))

/-- The issuer of a request from another package. -/
def Packet.issuer (p : Packet) : Option Issuer := p.remote.map fun (rank, pkg) => ⟨p.part, p.own, pkg, rank, p.cn, p.seq⟩

/-- A packet of a launch that is stopped waits for its resumption (R142, R157, R379). -/
def State.frozen (s : State) (p : Packet) : Bool :=
  s.launches.any fun l => l.part == p.part && l.lid == p.lid && p.remote.isNone && (l.state == .stopped || l.state == .reserved)

/-- The packet with number i in flight, if it can move. -/
def State.packet (s : State) (i : Nat) : Option Packet :=
  ((s.net.find? fun e => e.1 == i).map (·.2)).bind fun p => if s.frozen p then none else some p

/-- Packet i leaves the network at its endpoint; for a marked request the endpoint returns an exhaustion notice with
slack 0 to the issuing core (R128, R133). -/
def State.takePacket (s : State) (i : Nat) (p : Packet) : State :=
  let s := { s with net := SMap.del s.net i }
  if p.marked && !p.reply then
    match p.issuer with
    | some f => s.send { s.remoteReply f p.dcn 0 p.kind .exhausted with cls := p.cls }
    | none => s.send { p with home := .core p.cn, slack := 0, marked := false, body := .exhausted }
  else s

/-- A copy whose completion message has been taken: it is complete unless its id still waits for room in q0 (R66). -/
def CopyOp.messageTaken (o : CopyOp) : Option CopyOp :=
  match o.phase with
  | .delivering true _ => some { o with phase := .delivering true false }
  | _ => none

/-- A message has been taken by its core, placed or discarded: its sender's transaction is complete (R170), a copy whose
completion it reports has delivered it (R66), and another package receives its acknowledgement (R115). -/
def State.taken (s : State) (cn : Nat) (m : Msg) : State :=
  let s := match m.tx with
    | some (c, q) => s.modCore c fun c => c.completeTx q
    | none => s
  let s := match m.copy with
    | some id => s.modCore cn fun c => { c with copies := c.copies.filterMap fun o => if o.id == id then o.messageTaken else some o }
    | none => s
  match m.ack with
  | some (f, slack) => s.replyRemote f cn slack 0 0 []
  | none => s

/-- A message written into its inbox at a (R33). -/
def State.writeInbox (s : State) (cn : Nat) (m : Msg) (a : Nat) : State :=
  (s.modCore cn fun c =>
    ({ c with placed := c.placed ++ [(a, m)] }.put a m.bytes).setStatus m.chan (a + slotSize m.bytes.length)).taken cn m

/-- The first message of channel ch in the input buffer is placed, discarded or left there (R33 to R35); each placement that reads an
uncorrectable entry is reported (R68; DESIGN CHOICE, log entry 71). -/
def State.placeFirst (s : State) (cn ch : Nat) : State :=
  let c := s.core cn
  match c.inbuf.find? fun m => m.chan == ch with
  | none => s
  | some m =>
    let s' := s.modCore cn fun c => { c with inbuf := c.inbuf.erase m }
    match c.placement ch m.bytes.length with
    | .at_ a => s'.writeInbox cn m a
    | .undeliverable => (s'.async cn (msgRec 0x14 m)).taken cn m
    | .held => s
    | .badEntry => s.async cn { cause := 0xA7, addr := m.src, info0 := ch, info1 := m.bytes.length }

/-- Held messages of channel ch of a core that now have a place are placed, or discarded as undeliverable, at most n of
them (R33 to R35); an uncorrectable entry is reported (R68). -/
def State.placeHeld (s : State) (cn ch : Nat) : Nat → State
  | 0 => s
  | n + 1 =>
    let c := s.core cn
    match c.inbuf.find? fun m => m.chan == ch with
    | none => s
    | some m =>
      match c.control.dstop, c.placement ch m.bytes.length with
      | false, .at_ _ => (s.placeFirst cn ch).placeHeld cn ch n
      | false, .undeliverable => (s.placeFirst cn ch).placeHeld cn ch n
      | false, .badEntry => s.placeFirst cn ch
      | _, _ => s

/-- Held messages of the channels chs are placed (R36). -/
def State.placeAll (s : State) (cn : Nat) (chs : List Nat) : State :=
  chs.foldl (fun s ch => s.placeHeld cn ch (s.core cn).inbuf.length) s

/-- Flits that a message occupies in the input buffer (R34). -/
def msgFlits (m : Msg) : Nat := ceilDiv (m.bytes.length + 32) 64

/-- The input buffer has room for a message (R34). -/
def State.inbufRoom (s : State) (cn : Nat) (m : Msg) : Bool :=
  decide (((s.core cn).inbuf.map msgFlits).sum + msgFlits m ≤ (s.ipOf 0x044).toNat)

/-- A message enters the input buffer of a core and is placed if nothing of its channel is held before it (R33, R34); a
core whose part has ended discards it (R28); a core stopped for debugging places nothing (R427). -/
def State.arrive (s : State) (cn : Nat) (m : Msg) : State :=
  let c := s.core cn
  if c.part == .ended || c.part == .none then (s.async cn (msgRec 0x13 m)).taken cn m
  else
    let waits := c.inbuf.any fun q => q.chan == m.chan
    let s := s.modCore cn fun c => { c with inbuf := c.inbuf ++ [{ m with arrival := c.arrivals }], arrivals := c.arrivals + 1 }
    if waits || c.control.dstop then s else s.placeFirst cn m.chan

/-- A message that an engine of core cn, or the Shawm, sends on its way to the core's inbox. -/
def State.engineMsg (s : State) (cn : Nat) (m : Msg) : State :=
  s.send { cn := cn, seq := 0, ctx := 15, pc := 0, kind := 0, part := s.partOf cn, lid := s.lidOf cn, home := .core cn,
           addr := 0, slack := 0, rallow := 0, cls := 0, body := .message m }

/-- The source identifier of R25. -/
def sourceId (srck rank id : Nat) : Word := .ofNat 64 (srck * 2 ^ 62 + rank % 2 ^ 32 * 65536 + id)
/-- This launch's job rank. -/
def State.jobRank (s : State) (cn : Nat) : Nat := ((s.launchOf cn).map (·.rank)).getD 0

/-- A slot of a channel is released: when the occupied set becomes empty, WP returns to BASE (R33, R36). -/
def Core.released (c : Core) (ch : Nat) : Core :=
  c.setStatus ch (if (c.occupied ch).isEmpty then c.inboxBase ch else c.writePtr ch)

/-- The inbox slot of the message activation in context k is released (R36). -/
def Core.releaseSlot (c : Core) (k : Nat) : Core :=
  match (c.cx k).slot with
  | some sl => (c.modCx k fun x => { x with slot := none }).released sl.chan
  | none => c

/-- The reception slot of context k is released (R243). -/
def Core.releaseReception (c : Core) (k : Nat) : Core :=
  match (c.cx k).rslot with
  | some sl => (c.modCx k fun x => { x with rslot := none }).released sl.chan
  | none => c

/-- The registers and control state with which a context starts (R24); the performance counters go on. -/
def freshCtx (old : Ctx) (pc g1 g2 g3 g4 : Word) (schk : Bool) : Ctx :=
  { live := true, pc := pc, stat := if schk then 0x2000 else 0, perf := old.perf,
    g := [(1, g1), (2, g2), (3, g3), (4, g4)] }

/-- The lowest-numbered free activation context (R26, R37). -/
def Core.freeCtx (c : Core) : Option Nat := (span 1 10).find? fun k => !(c.cx k).live

/-- STAT.SCHK of the launch (R212). -/
def State.schkOf (s : State) (cn : Nat) : Bool := ((s.launchOf cn).map (·.schk)).getD false

/-- The oldest pending message of a channel (R37). -/
def Core.oldest (c : Core) (ch : Nat) : Option (Nat × Msg) := c.placed.find? fun m => m.2.chan == ch

/-- Context k takes the oldest pending message of channel ch: it leaves the pending ones, and its slot is the context's,
as the slot of its activation or as its reception slot (R37, R243). -/
def Core.takeMsg (c : Core) (k ch a : Nat) (m : Msg) (reception : Bool) : Core :=
  let sl : InboxSlot := ⟨ch, a, slotSize m.bytes.length⟩
  ({ c with placed := c.placed.erase (a, m) }.modCx k fun x =>
    { x with slot := if reception then x.slot else some sl, rslot := if reception then some sl else x.rslot,
             q1 := dwords m.bytes }).setStatus ch (c.writePtr ch)

/-- Channel ch is eligible (R37). -/
def Core.eligible (c : Core) (ch : Nat) : Bool := c.pend ch != 0 && !c.masked ch && !c.liveBit ch

/-- The channel that a selection chooses (R37): the highest priority, then the first from Ptr. -/
def Core.choose (c : Core) : Option Nat :=
  let el := (List.range 64).filter fun ch => c.eligible ch
  [3, 2, 1, 0].findSome? fun p =>
    ((List.range 64).map fun i => (SMap.get 0 c.ptr p + i) % 64).find? fun ch => el.contains ch && c.chanPri ch == p

/-- A core makes selections (R20, R37, R183, R343, R379, R422, R427). -/
def Core.selects (c : Core) : Bool :=
  c.part == .running && ((c.cx 0).live) && !c.control.halted && !c.control.stopped && !c.control.dstop &&
  !c.control.selOff && !c.trap.busy

/-- A selection is due: none has been made in this issue slot, some channel is eligible and an activation context is free
(R37). -/
def Core.selectionDue (c : Core) : Bool := !c.control.chosen && c.selects && c.freeCtx.isSome && c.choose.isSome

/-- A selection (R37, R24, R428), compared in replay mode (R426). Where the entry of the chosen channel is bad, each due
selection reports it and none is made (R68; DESIGN CHOICE, log entry 71). -/
def State.select (s : State) (cn : Nat) : State :=
  let s := s.modCore cn fun c => { c with control := { c.control with chosen := true } }
  let c := s.core cn
  match c.choose, c.freeCtx with
  | some ch, some k =>
    if c.badIn (0x800 + 32 * ch) 32 then
      s.async cn { cause := 0xA7, addr := ((c.oldest ch).map (·.2.src)).getD 0, info0 := ch,
                   info1 := ((c.oldest ch).map (·.2.bytes.length)).getD 0 }
    else match c.oldest ch with
      | none => s
      | some (a, m) =>
        let act : Activation := ⟨k, 0, ch, m.tag, m.src, c.entryPc ch, payloadHash m.tag m.bytes⟩
        if s.diverges cn act then s.diverge cn act
        else
          let p := c.chanPri ch
          let s := s.modCore cn fun c =>
            ({ c with ptr := SMap.put c.ptr p ((ch + 1) % 64) }.modCx k fun x =>
              { freshCtx x (.ofNat 64 (c.entryPc ch)) (.ofNat 64 a) (.ofNat 64 m.bytes.length) m.src (.ofNat 64 m.tag)
                  (s.schkOf cn) with kind := 1, pri := .ofNat 2 p, chan := .ofNat 6 ch }.count 2).takeMsg k ch a m false
          s.logActivation cn act
  | _, _ => s

/-- The reply slots of context k become orphans (R123): a filled one is freed, and a status other than 0 in it is
delivered as for a non-fetching transaction. -/
def Core.orphanReplies (c : Core) (k : Nat) : Core :=
  { c with q3 := (c.q3.map fun r => if r.owner == k then { r with orphan := true } else r).filter fun r =>
      !(r.orphan && r.answer.isSome) }

/-- Every matrix slot that context k owns becomes free (R298). -/
def Core.freeSlots (c : Core) (k : Nat) : Core :=
  { c with matrix := { c.matrix with owner := c.matrix.owner.filter fun o => o.2 != k } }

end Sys2Proof.Machine
end

