-- ==== Sys2Proof/Machine/Scalar.lean ====
section
/-! DEFINITION. Scalar arithmetic and immediate instructions (spec 10, R224 to R230) and their 16-bit forms (spec 09,
R202). -/

namespace Sys2Proof.Machine

/-- A scalar result: gd is written with its class latency and the instruction retires. -/
def State.result (s : State) (st : BitVec 3) (d : BitVec 5) (w : Word) (l : Nat) : Out := (s.writeG d w l).done st
/-- The same for a 16-bit instruction, whose STL is 0 (R202). -/
def State.resultC (s : State) (d : BitVec 5) (w : Word) (l : Nat) : Out := .next ((s.writeG d w l).retire 2 0)

/-- 1 or 0. -/
def bitWord (b : Bool) : Word := if b then 1 else 0

/-! ### The operations of R224 to R226 -/

/-- Rotation left by n below 64. -/
def rolW (x : Word) (n : Nat) : Word := .ofNat 64 (x.toNat * 2 ^ n + x.toNat / 2 ^ (64 - n))
/-- Rotation right by n below 64. -/
def rorW (x : Word) (n : Nat) : Word := .ofNat 64 (x.toNat / 2 ^ n + x.toNat * 2 ^ (64 - n))
/-- x shifted right by n with copies of bit 63 shifted in. -/
def sraW (x : Word) (n : Nat) : Word := .ofInt 64 (x.toInt / (2 ^ n : Nat))
/-- The shift amount in bits [5:0]. -/
def sh6 (b : Word) : Nat := wfld b 0 6

/-- Bits [127:64] of the product of signed values. -/
def mulhW (x y : Word) : Word := .ofInt 64 (x.toInt * y.toInt / (2 ^ 64 : Nat))
/-- Bits [127:64] of the product of unsigned values. -/
def mulhuW (x y : Word) : Word := .ofNat 64 (x.toNat * y.toNat / 2 ^ 64)

/-- div (R225): toward zero, all ones for a zero divisor. -/
def divW (x y : Word) : Word := if y = 0 then .allOnes 64 else .ofInt 64 (x.toInt.tdiv y.toInt)
/-- divu. -/
def divuW (x y : Word) : Word := if y = 0 then .allOnes 64 else .ofNat 64 (x.toNat / y.toNat)
/-- rem: the sign of the dividend, the dividend for a zero divisor. -/
def remW (x y : Word) : Word := if y = 0 then x else .ofInt 64 (x.toInt.tmod y.toInt)
/-- remu. -/
def remuW (x y : Word) : Word := if y = 0 then x else .ofNat 64 (x.toNat % y.toNat)

/-- The number of leading zero bits, 0 to 64. -/
def clzW (x : Word) : Nat := if x.toNat = 0 then 64 else 63 - Nat.log2 x.toNat
/-- The number of one bits below bit n. -/
def popCount (x : Nat) : Nat → Nat
  | 0 => 0
  | n + 1 => popCount x n + x / 2 ^ n % 2
/-- The number of trailing zero bits of an n-bit number. -/
def ctzBits (x : Nat) : Nat → Nat
  | 0 => 0
  | n + 1 => if x % 2 = 1 then 0 else 1 + ctzBits (x / 2) n

/-- bext (R226). -/
def bextW (x y : Word) : Word := .ofNat 64 (x.toNat / 2 ^ sh6 y % 2 ^ (wfld y 8 6 + 1))
/-- bins into old (R226). -/
def binsW (old x y : Word) : Word :=
  let m := (2 ^ (wfld y 8 6 + 1) - 1) * 2 ^ sh6 y % 2 ^ 64
  (old &&& ~~~ (.ofNat 64 m)) ||| (.ofNat 64 (x.toNat * 2 ^ sh6 y) &&& .ofNat 64 m)
/-- The bytes in reverse order. -/
def bswapW (x : Word) : Word := .ofNat 64 (leNat (leBytes 8 x.toNat).reverse)
/-- SignExtend(x[k:0], k + 1). -/
def sextW (x y : Word) : Word := Sys2Proof.sext (sh6 y + 1) x.toNat

/-! ### Major 0x01 -/

/-- add (R224). -/
def execAdd (st : BitVec 3) (d a b : BitVec 5) (s : State) : Out :=
  s.result st d (s.readG a + s.readG b) 1

/-- sub (R224). -/
def execSub (st : BitVec 3) (d a b : BitVec 5) (s : State) : Out :=
  s.result st d (s.readG a - s.readG b) 1

/-- and (R224). -/
def execAnd (st : BitVec 3) (d a b : BitVec 5) (s : State) : Out :=
  s.result st d (s.readG a &&& s.readG b) 1

/-- or (R224). -/
def execOr (st : BitVec 3) (d a b : BitVec 5) (s : State) : Out :=
  s.result st d (s.readG a ||| s.readG b) 1

/-- xor (R224). -/
def execXor (st : BitVec 3) (d a b : BitVec 5) (s : State) : Out :=
  s.result st d (s.readG a ^^^ s.readG b) 1

/-- andn (R224). -/
def execAndn (st : BitVec 3) (d a b : BitVec 5) (s : State) : Out :=
  s.result st d (s.readG a &&& ~~~ (s.readG b)) 1

/-- sll (R224). -/
def execSll (st : BitVec 3) (d a b : BitVec 5) (s : State) : Out :=
  s.result st d (s.readG a <<< sh6 (s.readG b)) 1

/-- srl (R224). -/
def execSrl (st : BitVec 3) (d a b : BitVec 5) (s : State) : Out :=
  s.result st d (s.readG a >>> sh6 (s.readG b)) 1

/-- sra (R224). -/
def execSra (st : BitVec 3) (d a b : BitVec 5) (s : State) : Out :=
  s.result st d (sraW (s.readG a) (sh6 (s.readG b))) 1

/-- rol (R224). -/
def execRol (st : BitVec 3) (d a b : BitVec 5) (s : State) : Out :=
  s.result st d (rolW (s.readG a) (sh6 (s.readG b))) 1

/-- ror (R224). -/
def execRor (st : BitVec 3) (d a b : BitVec 5) (s : State) : Out :=
  s.result st d (rorW (s.readG a) (sh6 (s.readG b))) 1

/-- slt (R224). -/
def execSlt (st : BitVec 3) (d a b : BitVec 5) (s : State) : Out :=
  s.result st d (bitWord (decide ((s.readG a).toInt < (s.readG b).toInt))) 1

/-- sltu (R224). -/
def execSltu (st : BitVec 3) (d a b : BitVec 5) (s : State) : Out :=
  s.result st d (bitWord (decide ((s.readG a).toNat < (s.readG b).toNat))) 1

/-- seq (R224). -/
def execSeq (st : BitVec 3) (d a b : BitVec 5) (s : State) : Out :=
  s.result st d (bitWord (s.readG a == s.readG b)) 1

/-- min (R224). -/
def execMin (st : BitVec 3) (d a b : BitVec 5) (s : State) : Out :=
  s.result st d (.ofInt 64 (min (s.readG a).toInt (s.readG b).toInt)) 1

/-- max (R224). -/
def execMax (st : BitVec 3) (d a b : BitVec 5) (s : State) : Out :=
  s.result st d (.ofInt 64 (max (s.readG a).toInt (s.readG b).toInt)) 1

/-- minu (R224). -/
def execMinu (st : BitVec 3) (d a b : BitVec 5) (s : State) : Out :=
  s.result st d (.ofNat 64 (min (s.readG a).toNat (s.readG b).toNat)) 1

/-- maxu (R224). -/
def execMaxu (st : BitVec 3) (d a b : BitVec 5) (s : State) : Out :=
  s.result st d (.ofNat 64 (max (s.readG a).toNat (s.readG b).toNat)) 1

/-- mul (R224). -/
def execMul (st : BitVec 3) (d a b : BitVec 5) (s : State) : Out :=
  s.result st d (s.readG a * s.readG b) 3

/-- mulh (R224). -/
def execMulh (st : BitVec 3) (d a b : BitVec 5) (s : State) : Out :=
  s.result st d (mulhW (s.readG a) (s.readG b)) 3

/-- mulhu (R224). -/
def execMulhu (st : BitVec 3) (d a b : BitVec 5) (s : State) : Out :=
  s.result st d (mulhuW (s.readG a) (s.readG b)) 3

/-- div (R225). -/
def execDiv (st : BitVec 3) (d a b : BitVec 5) (s : State) : Out :=
  s.result st d (divW (s.readG a) (s.readG b)) 24

/-- divu (R225). -/
def execDivu (st : BitVec 3) (d a b : BitVec 5) (s : State) : Out :=
  s.result st d (divuW (s.readG a) (s.readG b)) 24

/-- rem (R225). -/
def execRem (st : BitVec 3) (d a b : BitVec 5) (s : State) : Out :=
  s.result st d (remW (s.readG a) (s.readG b)) 24

/-- remu (R225). -/
def execRemu (st : BitVec 3) (d a b : BitVec 5) (s : State) : Out :=
  s.result st d (remuW (s.readG a) (s.readG b)) 24

/-- clz (R224). -/
def execClz (st : BitVec 3) (d a : BitVec 5) (s : State) : Out :=
  s.result st d (.ofNat 64 (clzW (s.readG a))) 1

/-- ctz (R224). -/
def execCtz (st : BitVec 3) (d a : BitVec 5) (s : State) : Out :=
  s.result st d (.ofNat 64 (ctzBits (s.readG a).toNat 64)) 1

/-- popc (R224). -/
def execPopc (st : BitVec 3) (d a : BitVec 5) (s : State) : Out :=
  s.result st d (.ofNat 64 (popCount (s.readG a).toNat 64)) 1

/-- bext (R226). -/
def execBext (st : BitVec 3) (d a b : BitVec 5) (s : State) : Out :=
  s.result st d (bextW (s.readG a) (s.readG b)) 1

/-- bins (R226): gd is read too. -/
def execBins (st : BitVec 3) (d a b : BitVec 5) (s : State) : Out :=
  s.result st d (binsW (s.readG d) (s.readG a) (s.readG b)) 1

/-- bswap (R224). -/
def execBswap (st : BitVec 3) (d a : BitVec 5) (s : State) : Out :=
  s.result st d (bswapW (s.readG a)) 1

/-- sext (R224). -/
def execSext (st : BitVec 3) (d a b : BitVec 5) (s : State) : Out :=
  s.result st d (sextW (s.readG a) (s.readG b)) 1

/-! ### Immediate forms (R227 to R230) -/

/-- SignExtend(IMM12, 12). -/
def imm12 (i : BitVec 12) : Word := i.signExtend 64

/-- addi (R227). -/
def execAddi (st : BitVec 3) (d a : BitVec 5) (i : BitVec 12) (s : State) : Out :=
  s.result st d (s.readG a + imm12 i) 1

/-- andi (R227). -/
def execAndi (st : BitVec 3) (d a : BitVec 5) (i : BitVec 12) (s : State) : Out :=
  s.result st d (s.readG a &&& imm12 i) 1

/-- ori (R227). -/
def execOri (st : BitVec 3) (d a : BitVec 5) (i : BitVec 12) (s : State) : Out :=
  s.result st d (s.readG a ||| imm12 i) 1

/-- xori (R227). -/
def execXori (st : BitVec 3) (d a : BitVec 5) (i : BitVec 12) (s : State) : Out :=
  s.result st d (s.readG a ^^^ imm12 i) 1

/-- slti (R227). -/
def execSlti (st : BitVec 3) (d a : BitVec 5) (i : BitVec 12) (s : State) : Out :=
  s.result st d (bitWord (decide ((s.readG a).toInt < (imm12 i).toInt))) 1

/-- slli (R228). -/
def execSlli (st : BitVec 3) (d a : BitVec 5) (h : BitVec 6) (s : State) : Out :=
  s.result st d (s.readG a <<< h.toNat) 1

/-- srli (R228). -/
def execSrli (st : BitVec 3) (d a : BitVec 5) (h : BitVec 6) (s : State) : Out :=
  s.result st d (s.readG a >>> h.toNat) 1

/-- srai (R228). -/
def execSrai (st : BitVec 3) (d a : BitVec 5) (h : BitVec 6) (s : State) : Out :=
  s.result st d (sraW (s.readG a) h.toNat) 1

/-- rori (R228). -/
def execRori (st : BitVec 3) (d a : BitVec 5) (h : BitVec 6) (s : State) : Out :=
  s.result st d (rorW (s.readG a) h.toNat) 1

/-- lih (R229): the immediate is unsigned. -/
def execLih (st : BitVec 3) (d a : BitVec 5) (i : BitVec 12) (s : State) : Out :=
  s.result st d ((s.readG a <<< 12) ||| i.setWidth 64) 1

/-- adpc (R230): the address of the word plus twice the immediate. -/
def execAdpc (st : BitVec 3) (d : BitVec 5) (i : BitVec 12) (s : State) : Out :=
  s.result st d (s.cx.pc + imm12 i + imm12 i) 1

/-! ### 16-bit forms (R202) -/

/-- SignExtend of a 5-bit field. -/
def imm5 (i : BitVec 5) : Word := i.signExtend 64

/-- c.mv (R202): or gf1, gf2, g0; the halfword 0 is no instruction. -/
def execCMv (d a : BitVec 5) (s : State) : Out :=
  s.resultC d (s.readG a) 1

/-- c.add (R202). -/
def execCAdd (d a : BitVec 5) (s : State) : Out :=
  s.resultC d (s.readG d + s.readG a) 1

/-- c.sub (R202). -/
def execCSub (d a : BitVec 5) (s : State) : Out :=
  s.resultC d (s.readG d - s.readG a) 1

/-- c.and (R202). -/
def execCAnd (d a : BitVec 5) (s : State) : Out :=
  s.resultC d (s.readG d &&& s.readG a) 1

/-- c.or (R202). -/
def execCOr (d a : BitVec 5) (s : State) : Out :=
  s.resultC d (s.readG d ||| s.readG a) 1

/-- c.xor (R202). -/
def execCXor (d a : BitVec 5) (s : State) : Out :=
  s.resultC d (s.readG d ^^^ s.readG a) 1

/-- c.addi (R202). -/
def execCAddi (d i : BitVec 5) (s : State) : Out :=
  s.resultC d (s.readG d + imm5 i) 1

/-- c.li (R202). -/
def execCLi (d i : BitVec 5) (s : State) : Out :=
  s.resultC d (imm5 i) 1

/-- c.slli (R202). -/
def execCSlli (d h : BitVec 5) (s : State) : Out :=
  s.resultC d (s.readG d <<< h.toNat) 1

/-- c.srli (R202). -/
def execCSrli (d h : BitVec 5) (s : State) : Out :=
  s.resultC d (s.readG d >>> h.toNat) 1

/-- c.srai (R202). -/
def execCSrai (d h : BitVec 5) (s : State) : Out :=
  s.resultC d (sraW (s.readG d) h.toNat) 1

end Sys2Proof.Machine
end

