-- ==== Sys2Proof/Machine/Control.lean ====
section
/-! DEFINITION. Branches, jumps, contexts, channels, queues, operand-extension access, the prefix and hints (spec 10,
R231 to R245, R247, R248; spec 09, R201, R202, R216, R217). -/

namespace Sys2Proof.Machine

/-! ### Branches and jumps -/

/-- A target address outside local SRAM (R201, R232). -/
def badTarget (t : Word) : Bool := decide (Config.localTop ≤ t.toNat)

/-- A taken or untaken branch of len bytes to target (R201): the target is checked only if it is taken. -/
def State.branch (s : State) (taken : Bool) (target : Word) (len stl : Nat) : Out :=
  if taken then s.check [(badTarget target, { cause := 0x20, addr := target })] (.next (s.jump target stl))
  else .next (s.retire len stl)

/-- pc + 2 × SignExtend(OFF14). -/
def State.target14 (s : State) (o : BitVec 14) : Word := s.cx.pc + o.signExtend 64 + o.signExtend 64
/-- pc + 2 × SignExtend(OFF22). -/
def State.target22 (s : State) (o : BitVec 22) : Word := s.cx.pc + o.signExtend 64 + o.signExtend 64
/-- pc + 2 × SignExtend(f2). -/
def State.target5 (s : State) (o : BitVec 5) : Word := s.cx.pc + o.signExtend 64 + o.signExtend 64

/-- beqz (R201). -/
def execBeqz (st : BitVec 3) (a : BitVec 5) (o : BitVec 14) (s : State) : Out :=
  s.branch (s.readG a == 0) (s.target14 o) 4 st.toNat
/-- bnez (R201). -/
def execBnez (st : BitVec 3) (a : BitVec 5) (o : BitVec 14) (s : State) : Out :=
  s.branch (s.readG a != 0) (s.target14 o) 4 st.toNat
/-- bltz (R201). -/
def execBltz (st : BitVec 3) (a : BitVec 5) (o : BitVec 14) (s : State) : Out :=
  s.branch (decide ((s.readG a).toInt < 0)) (s.target14 o) 4 st.toNat
/-- bgez (R201). -/
def execBgez (st : BitVec 3) (a : BitVec 5) (o : BitVec 14) (s : State) : Out :=
  s.branch (decide (0 ≤ (s.readG a).toInt)) (s.target14 o) 4 st.toNat
/-- bgtz (R201). -/
def execBgtz (st : BitVec 3) (a : BitVec 5) (o : BitVec 14) (s : State) : Out :=
  s.branch (decide (0 < (s.readG a).toInt)) (s.target14 o) 4 st.toNat
/-- blez (R201). -/
def execBlez (st : BitVec 3) (a : BitVec 5) (o : BitVec 14) (s : State) : Out :=
  s.branch (decide ((s.readG a).toInt ≤ 0)) (s.target14 o) 4 st.toNat
/-- bpany: some bit of p(ra) is 1 (R201). -/
def execBpany (st : BitVec 3) (a : BitVec 3) (o : BitVec 14) (s : State) : Out :=
  s.branch (s.readP a != 0) (s.target14 o) 4 st.toNat
/-- bpnone: every bit of p(ra) is 0 (R201). -/
def execBpnone (st : BitVec 3) (a : BitVec 3) (o : BitVec 14) (s : State) : Out :=
  s.branch (s.readP a == 0) (s.target14 o) 4 st.toNat
/-- br (R231). -/
def execBr (st : BitVec 3) (o : BitVec 22) (s : State) : Out := s.branch true (s.target22 o) 4 st.toNat

/-- The link g31 ← A + 4, of class ALU. -/
def State.link (s : State) : State := s.writeG 31 (s.cx.pc + 4) 1

/-- call (R231): the link and the branch are one step; a target out of range writes no link. -/
def execCall (st : BitVec 3) (o : BitVec 22) (s : State) : Out :=
  let t := s.target22 o
  s.check [(badTarget t, { cause := 0x20, addr := t })] (.next (s.link.jump t st.toNat))

/-- The checks of a register target (R232): FETCH_ALIGN, then LOCAL_RANGE. -/
def targetChecks (t : Word) : List (Bool × FaultRec) :=
  [chk (wbit t 0) 0x05, (badTarget t, { cause := 0x20, addr := t })]

/-- A jump to a register target, with or without the link (R232). -/
def State.jumpReg (s : State) (t : Word) (linked : Bool) (stl : Nat) : Out :=
  s.check (targetChecks t) (.next ((if linked then s.link else s).jump t stl))

/-- jr (R232). -/
def execJr (st : BitVec 3) (a : BitVec 5) (s : State) : Out := s.jumpReg (s.readG a) false st.toNat
/-- callr: ga is read before the link is written (R232). -/
def execCallr (st : BitVec 3) (a : BitVec 5) (s : State) : Out := s.jumpReg (s.readG a) true st.toNat
/-- ret (R232). -/
def execRet (st : BitVec 3) (s : State) : Out := s.jumpReg (s.readG 31) false st.toNat
/-- c.beqz (R202). -/
def execCBeqz (d o : BitVec 5) (s : State) : Out := s.branch (s.readG d == 0) (s.target5 o) 2 0
/-- c.bnez (R202). -/
def execCBnez (d o : BitVec 5) (s : State) : Out := s.branch (s.readG d != 0) (s.target5 o) 2 0
/-- c.j (R202). -/
def execCJ (o : BitVec 10) (s : State) : Out :=
  s.branch true (s.cx.pc + o.signExtend 64 + o.signExtend 64) 2 0
/-- c.jr (R202). -/
def execCJr (a : BitVec 5) (s : State) : Out := s.jumpReg (s.readG a) false 0

/-! ### Contexts -/

/-- The cause that reports a status (R121). -/
def statusCause : Nat → Nat
  | 1 => 0x47
  | 2 => 0x46
  | 3 => 0x80
  | 4 => 0x48
  | _ => 0x49

/-- The record of a transaction's status (R351), from what the transaction names. -/
def statusRec (st : Nat) (r : FaultRec) : FaultRec := { r with cause := statusCause st, info0 := st }

/-- The record of a status that a q3 read finds: DETAIL1 names the address of the issuing instruction (R121; log entry
19). -/
def replyRec (st : Nat) (r : FaultRec) : FaultRec := { statusRec st r with detail1 := .ofNat 64 r.pc }

/-- A notice message on NCHAN, with tag 1 for exhaustion or 2 for an indeterminate status (R133); report names the issuing
instruction and KIND, id what ID names. -/
def State.notice (s : State) (cn tag cls slk id : Nat) (report : FaultRec) : State :=
  s.engineMsg cn { chan := slkNchan slk, tag := tag, src := sourceId 2 (s.jobRank cn) cn, status := tag == 2,
                   bytes := leBytes 8 (report.info1 % 16 * 2 ^ 60 + cls % 4 * 2 ^ 58 + id % 65536 * 2 ^ 32 + report.pc % 2 ^ 22) }

/-- The status of a non-fetching transaction is delivered (R121): none for 0, a notice for 1 if the snapshot has NEN = 1,
otherwise an asynchronous fault. -/
def State.deliver (s : State) (cn st cls slk seq : Nat) (report : FaultRec) : State :=
  if st = 0 then s
  else if st = 1 && slkNen slk then s.notice cn 2 cls slk seq report
  else s.async cn (statusRec st report)

/-- Statuses other than 0 in the filled reply slots of a context that ends are delivered as for non-fetching
transactions (R123). -/
def State.reportOrphans (s : State) (cn k : Nat) : State :=
  (s.core cn).q3.foldl (fun s r =>
    match r.answer with
    | some (st, _) => if r.owner == k then s.deliver cn st r.cls r.slk (r.tx.getD 0) r.report else s
    | none => s) s

/-- What a context gives up when it executes exit: its slots, its replies, its matrix slots (R26, R123, R235, R298). -/
def State.giveUp (s : State) (cn k : Nat) : State :=
  (s.reportOrphans cn k).modCore cn fun c =>
    (((c.releaseSlot k).releaseReception k).orphanReplies k).freeSlots k

/-- The channels of which context k holds a slot. -/
def Core.heldChannels (c : Core) (k : Nat) : List Nat := ((c.cx k).slot.toList ++ (c.cx k).rslot.toList).map (·.chan)

/-- exit (R26, R27, R235): an activation ends, and its end is latched in every context once its transactions to the core's own
SRAM are complete (R169, R173); C0 enters the finishing state.
Messages held for the slots that it releases are placed before the slot's selection (R36). -/
def State.exit (s : State) : Out :=
  let cn := s.curCore
  let k := s.curCtx
  if k = 11 then .fault .exitInTrapContext
  else if k = 0 then
    .next (((s.giveUp cn k).modCx fun x => { x with finishing := true, wait := .none }.count 0).placeAll cn (s.me.heldChannels k))
  else
    let own := s.me.ownTxs cn k
    .next ((((s.giveUp cn k).modCx fun x => { x with live := false, wait := .none }.count 0).modMe fun c =>
      { c with ending := c.ending ++ [own] }.settle).placeAll cn (s.me.heldChannels k))

/-- exit (R235). -/
def execExit (_st : BitVec 3) (s : State) : Out := s.exit
/-- c.exit (R202). -/
def execCExit (s : State) : Out := s.exit

/-- start (R26, R236): the lowest-numbered free activation context, if any, starts at ga with g1 = gb; its first event
comes after the transactions of C0 to the core's own SRAM (R169, R173). -/
def execStart (st : BitVec 3) (d a b : BitVec 5) (s : State) : Out :=
  let cn := s.curCore
  let t := s.readG a
  s.check ([chk (s.curCtx != 0) 0x06] ++ targetChecks t)
    (match s.me.freeCtx with
     | none => s.result st d 0 0
     | some k =>
       let arg := s.readG b
       let src := sourceId 2 (s.jobRank cn) cn
       let act : Activation := ⟨k, 2, 0, 0, src, t.toNat % 2 ^ 22, mixer 0 arg.toNat⟩
       if s.diverges cn act then (s.diverge cn act).block .diverged
       else
         let s := s.modMe fun c => c.modCx k fun x => 
           { freshCtx x t arg 0 src 0 (s.schkOf cn) with
             kind := 2, wait := if (s.me.ownTxs cn 0).isEmpty then .none else .fork (s.me.ownTxs cn 0) }.count 2
         (s.logActivation cn act).result st d (.ofNat 64 k) 0)

/-- park (R40, R237). -/
def execPark (st : BitVec 3) (d a : BitVec 5) (s : State) : Out :=
  let mask := wfld (s.readG a) 0 8
  let ev := s.me.events s.curCtx &&& mask
  if mask = 0 then s.result st d 0 0
  else if ev = 0 then s.block (.park mask)
  else (s.modCx fun x => { x with latched := x.latched &&& ~~~ (.ofNat 8 ev) }).result st d (.ofNat 64 ev) 0

/-- yield (R238): the context waits for each other live, unblocked context to issue once or become blocked. CT waits for none, since
none issues while it handles a record (R344; DESIGN CHOICE, log entry 94). -/
def execYield (st : BitVec 3) (s : State) : Out :=
  let others := (List.range 11).filter fun j => j != s.curCtx && s.unblocked s.curCore j
  ((s.modCx fun x => { x with yielded := if s.isS then [] else others })).done st

/-- setpri (R239): one read-modify-write of the entry's PRI field. -/
def execSetpri (st : BitVec 3) (a b : BitVec 5) (s : State) : Out :=
  let ch := s.readG a
  let at_ := 0x810 + 32 * ch.toNat
  s.check [chk (decide (63 < ch.toNat)) 0x42, chk (decide (48 ≤ ch.toNat) && !s.isS) 0x42,
           (s.me.badIn at_ 8, accessRec 0xA0 (.ofNat 64 at_) 8 0)]
    ((s.modMe fun c =>
      let d := Memory.num c.mem at_ 1
      { c with mem := Memory.setNum c.mem at_ 1 (d - d % 4 + wfld (s.readG b) 0 2) }).done st)

/-- The bits of CHMASK that ga may change: all at level S, [47:0] at level U (R240). -/
def State.maskBits (s : State) (w : Word) : Word := if s.isS then w else w &&& 0x0000FFFFFFFFFFFF

/-- chmset (R240). -/
def execChmset (st : BitVec 3) (d a : BitVec 5) (s : State) : Out :=
  let old := s.me.chmask
  let m := s.maskBits (s.readG a)
  (s.modMe fun c => c.setChmask (old ||| m)).result st d old 1
/-- chmclr (R240). -/
def execChmclr (st : BitVec 3) (d a : BitVec 5) (s : State) : Out :=
  let old := s.me.chmask
  let m := s.maskBits (s.readG a)
  (s.modMe fun c => c.setChmask (old &&& ~~~ m)).result st d old 1

/-! ### Queues -/

/-- qrd of q3 (R121, R122): the context's oldest reserved slot, freed by the read. -/
def State.readReply (s : State) (st : BitVec 3) (d : BitVec 5) : Out :=
  match s.me.oldestReply s.curCtx with
  | none => s.block (.queue 3)
  | some r =>
    match r.answer with
    | none => s.block (.queue 3)
    | some (status, w) =>
      let s := s.modMe fun c => { c with q3 := c.q3.erase r }
      if status = 0 then s.result st d w 0 else .next (s.raise (replyRec status r.report))

/-- qrd (R241). -/
def execQrd (st : BitVec 3) (d : BitVec 5) (q : BitVec 2) (s : State) : Out :=
  match q.toNat with
  | 0 => match s.me.q0 with
    | [] => s.block (.queue 0)
    | w :: ws => (s.modMe fun c => { c with q0 := ws }).result st d w 0
  | 1 => match s.cx.q1 with
    | [] => s.block (.queue 1)
    | w :: ws => (s.modCx fun x => { x with q1 := ws }).result st d w 0
  | 2 => match s.me.q2 with
    | [] => s.block (.queue 2)
    | w :: ws => (s.modMe fun c => { c with q2 := ws }).result st d w 0
  | _ => s.readReply st d

/-- qwr (R242). -/
def execQwr (st : BitVec 3) (q : BitVec 2) (a : BitVec 5) (s : State) : Out :=
  let w := s.readG a
  match q.toNat with
  | 0 => if 32 ≤ s.me.q0.length then s.block (.room 0)
    else (s.modMe fun c => { c with q0 := c.q0 ++ [.ofNat 64 (wfld w 0 16)] }).done st
  | 1 => if 256 ≤ s.cx.q1.length then s.trap 0x09 else (s.modCx fun x => { x with q1 := x.q1 ++ [w] }).done st
  | 2 => if 8 ≤ s.me.q2.length then s.block (.room 2) else (s.modMe fun c => { c with q2 := c.q2 ++ [w] }).done st
  | _ => if 32 ≤ s.me.q3.length then s.block (.room 3)
    else (s.modMe fun c => { c with q3 := c.q3 ++ [{ tx := none, owner := s.curCtx, orphan := false, answer := some (0, w) }] }).done st

/-- The channels of a set with a pending message and no live activation or reception (R243). -/
def Core.receivable (c : Core) (set : Nat) : List Nat := (ones set 64).filter fun ch => c.pend ch != 0 && !c.liveBit ch

/-- The channel whose oldest pending message arrived at the core earliest (R243). -/
def Core.earliest (c : Core) (chs : List Nat) : Option Nat :=
  (c.placed.filter fun m => chs.contains m.2.chan).foldl (fun best m =>
    match best with
    | some (n, ch) => if m.2.arrival < n then some (m.2.arrival, m.2.chan) else some (n, ch)
    | none => some (m.2.arrival, m.2.chan)) none |>.map (·.2)

/-- recvany and recvany.t after the check of the promise (R243): messages held for the reception slot that is released are placed
first (R36). -/
def State.receive (s : State) (st : BitVec 3) (d a b : BitVec 5) (lowest : Bool) : Out :=
  let cn := s.curCore
  let k := s.curCtx
  let set := (s.readG a).toNat
  let opt := s.readG b
  s.check [chk (!s.isS && fld set 48 16 != 0) 0x42]
    (let held := ((s.me.cx k).rslot.toList).map (·.chan)
     let s := (s.modMe fun c => c.releaseReception k).placeAll cn held
     if set = 0 then ((s.writeG d 0 0).writeG (d + 1) 0 0).done st
     else
       let chs := s.me.receivable set
       match (if lowest then chs.head? else s.me.earliest chs) with
       | none => s.block (.channels set (wbit opt 0) (wbit opt 1))
       | some ch =>
         match s.me.oldest ch with
         | none => s.block (.channels set (wbit opt 0) (wbit opt 1))
         | some (ad, m) =>
           let act : Activation := ⟨k, 1, ch, m.tag, m.src, 0, payloadHash m.tag m.bytes⟩
           if s.diverges cn act then (s.diverge cn act).block .diverged
           else
             let s := (s.modMe fun c => (c.takeMsg k ch ad m true).modCx k fun x => { x with wait := .none }).logActivation cn act
             let w : Word := .ofNat 64 (m.tag * 2 ^ 48 + m.bytes.length * 2 ^ 32 + ch * 2 ^ 24 + ad)
             ((s.writeG d w 0).writeG (d + 1) m.src 0).done st)

/-- recvany (R243): ORDER_VIOLATION before any other check of its entry; an odd rd is a reserved field. -/
def execRecvany (st : BitVec 3) (d a b : BitVec 5) (s : State) : Out :=
  s.check [chk (!evenReg d) 0x02, chk (s.ordered s.curCore) 0x0A] (s.receive st d a b false)
/-- recvany.t (R243). -/
def execRecvanyT (st : BitVec 3) (d a b : BitVec 5) (s : State) : Out :=
  s.check [chk (!evenReg d) 0x02] (s.receive st d a b true)

/-! ### Operand extension, the prefix and hints -/

/-- ewr (R245). -/
def execEwr (st : BitVec 3) (d : BitVec 3) (a : BitVec 5) (s : State) : Out := (s.writeE d (s.readG a) 1).done st
/-- erd (R245). -/
def execErd (st : BitVec 3) (d : BitVec 5) (a : BitVec 3) (s : State) : Out := s.result st d (s.readE a) 1

/-- pfx (R216, R217): the fields become the pending prefix and STAT.PP is set; an illegal pairing is a reserved field. -/
def execPfx (st : BitVec 3) (f : BitVec 4) (p : BitVec 1) (g : BitVec 4) (q : BitVec 1) (r : BitVec 3) (t : BitVec 1)
    (s : State) : Out :=
  s.check [chk (!pfxLegal f p g q r t) 0x02]
    (.next ((s.retire 4 st.toNat).modCx fun x => { x with pfx := f ++ p ++ g ++ q ++ r ++ t, stat := setFld x.stat 14 1 1 }))

/-- A hint, nop among them (R203, R248): no operation; a pending prefix is cleared. -/
def execNop (st : BitVec 3) (_h : BitVec 22) (s : State) : Out := s.done st
/-- c.hint (R202). -/
def execCHint (_h : BitVec 10) (s : State) : Out := .next (s.retire 2 0)

end Sys2Proof.Machine
end

