-- ==== Sys2Proof/Machine/Special.lean ====
section
/-! DEFINITION. Special registers (spec 09, R211 to R214; spec 10, R246; spec 17, R348, R349; spec 00, R3, R4): one
operation reads them and one writes them, for rds and wrs, and for xrd and xwr of another context. -/

namespace Sys2Proof.Machine

/-- CTX of context k (R23, R342). -/
def Ctx.ctxWord (x : Ctx) (k : Nat) : Word :=
  let kind := if k = 0 then 0 else if k = 11 then 3 else x.kind.toNat
  .ofNat 64 (kind * 65536 + x.pri.toNat * 16384 + x.chan.toNat * 256 + k)

/-- The value of special register n as context k of core cn sees it; a number without a register reads zero. -/
def State.special (s : State) (cn k n : Nat) : Word :=
  let c := s.core cn
  let x := c.cx k
  if 0x040 ≤ n && n < 0x060 then s.ipOf n
  else match n with
  | 0x000 => .ofNat 64 cn
  | 0x001 => .ofNat 64 (cn / 64 * 256 + cn % 64)
  | 0x002 => c.rorg.setWidth 64
  | 0x003 => c.rsize.setWidth 64
  | 0x004 => x.ctxWord k
  | 0x008 => x.stat &&& 0xE03F
  | 0x009 => c.fmt.setWidth 64
  | 0x00A => c.seed
  | 0x00B => x.rndctr
  | 0x00C => c.fit.setWidth 64
  | 0x010 => SMap.get 0 c.slk 0
  | 0x011 => SMap.get 0 c.slk 1
  | 0x012 => SMap.get 0 c.slk 2
  | 0x013 => SMap.get 0 c.slk 3
  | 0x014 => c.chmask
  | 0x015 => SMap.get 0 c.hx 0
  | 0x016 => SMap.get 0 c.hx 1
  | 0x017 => SMap.get 0 c.hx 2
  | 0x018 => SMap.get 0 c.hx 3
  | 0x019 => c.slkx.setWidth 64
  | 0x01A => c.congc.setWidth 64
  | 0x020 => x.cpSrc
  | 0x021 => x.cpDst
  | 0x022 => x.cpLen.setWidth 64
  | 0x023 => x.cpShape
  | 0x024 => x.cpPblk.setWidth 64
  | 0x030 => c.gen
  | 0x800 => c.trap.tcause
  | 0x801 => c.trap.tpc.setWidth 64
  | 0x802 => c.trap.tvec.setWidth 64
  | 0x803 => .ofNat 64 (x.pfx.toNat * 256)
  | 0x804 => c.trap.tsave0
  | 0x805 => c.trap.tsave1
  | 0x808 => .ofNat 64 (c.trap.lost.toNat * 65536 + c.trap.queue.length)
  | 0x818 => .ofNat 64 (c.trap.hwUnc.toNat * 2 ^ 32 + c.trap.hwCor.toNat)
  | n =>
    if 0x810 ≤ n && n < 0x818 then SMap.get 0 c.trap.frec (n - 0x810)
    else if 0x820 ≤ n && n < 0x828 then
      (if n % 2 = 0 then SMap.get 0 c.trap.wpa ((n - 0x820) / 2) else SMap.get 0 c.trap.wpc ((n - 0x820) / 2))
    else 0

/-- Registers whose fields are all RO: a WRS raises SPECIAL_READONLY (R11, R211, R246, R348). -/
def readOnlySpecial (n : Nat) : Bool :=
  n < 0x005 || n == 0x00A || n == 0x025 || n == 0x030 || (0x040 ≤ n && n < 0x060) || n == 0x800 || (0x810 ≤ n && n < 0x818)

/-- FMT as written: an illegal value leaves its WARL field unchanged (R79, R213). -/
def fmtWrite (old : BitVec 24) (w : Word) : BitVec 24 :=
  let o := old.toNat
  let pick (lo n : Nat) (ok : Nat → Bool) : Nat := (if ok (wfld w lo n) then wfld w lo n else fld o lo n) * 2 ^ lo
  let mat (f : Nat) : Bool := decide (3 ≤ f) && decide (f ≤ 9)
  .ofNat 24 (pick 0 3 (fun m => m != 7) + pick 4 4 (fun f => decide (1 ≤ f) && decide (f ≤ 4)) + pick 8 2 (fun _ => true)
    + pick 16 4 mat + pick 20 4 mat)

/-- An SLK register as written (R129): at level U a notify channel of 48 or above keeps the old one. -/
def slkWrite (old w : Word) (sup : Bool) : Word :=
  let n := if sup || wfld w 24 6 < 48 then wfld w 24 6 else wfld old 24 6
  setFld (.ofNat 64 (wfld w 0 31)) 24 6 n

/-- WPCn as written (R349): reserved bits are dropped, KIND 3 and LOG2LEN above 48 keep the old field. -/
def wpcWrite (old w : Word) : Word :=
  let kind := if wfld w 61 2 = 3 then wfld old 61 2 else wfld w 61 2
  let len := if 48 < wfld w 0 6 then wfld old 0 6 else wfld w 0 6
  .ofNat 64 (wfld w 63 1 * 2 ^ 63 + kind * 2 ^ 61 + wfld w 59 2 * 2 ^ 59 + wfld w 32 11 * 2 ^ 32 + len)

/-- A field of even addresses as written: an odd value keeps the old one (R349). -/
def evenWrite (old : BitVec 22) (w : Word) : BitVec 22 := if wbit w 0 then old else w.setWidth 22

/-- PFXV as written (R349): a pairing that R216 makes illegal keeps the old prefix. -/
def pfxWrite (old : BitVec 14) (w : Word) : BitVec 14 :=
  let p := BitVec.ofNat 14 (wfld w 8 14)
  if pfxLegal (p.extractLsb' 10 4) (p.extractLsb' 9 1) (p.extractLsb' 5 4) (p.extractLsb' 4 1) (p.extractLsb' 1 3)
      (p.extractLsb' 0 1) then p else old

/-- STAT as written: SCHK and the flags; WS and PP too through xwr (R212, R349). -/
def statWrite (old w : Word) (xw : Bool) : Word :=
  let mask : Word := if xw then 0xE03F else 0x203F
  (old &&& ~~~ mask) ||| (w &&& mask)

/-- Special register n of context k of core cn takes w, at level S or U, by wrs or by xwr (R11, R12). A number without a
register discards the write. -/
def State.setSpecial (s : State) (cn k n : Nat) (w : Word) (sup xw : Bool) : State :=
  let onCore (f : Core → Core) : State := s.modCore cn f
  let onCtx (f : Ctx → Ctx) : State := s.modCore cn fun c => c.modCx k f
  let onTrap (f : Trap → Trap) : State := s.modCore cn fun c => { c with trap := f c.trap }
  match n with
  | 0x008 => onCtx fun x => { x with stat := statWrite x.stat w xw }
  | 0x009 => onCore fun c => { c with fmt := fmtWrite c.fmt w }
  | 0x00B => onCtx fun x => { x with rndctr := w }
  | 0x00C => onCore fun c => { c with fit := w.setWidth 32 }
  | 0x010 => onCore fun c => { c with slk := SMap.put c.slk 0 (slkWrite (SMap.get 0 c.slk 0) w sup) }
  | 0x011 => onCore fun c => { c with slk := SMap.put c.slk 1 (slkWrite (SMap.get 0 c.slk 1) w sup) }
  | 0x012 => onCore fun c => { c with slk := SMap.put c.slk 2 (slkWrite (SMap.get 0 c.slk 2) w sup) }
  | 0x013 => onCore fun c => { c with slk := SMap.put c.slk 3 (slkWrite (SMap.get 0 c.slk 3) w sup) }
  | 0x014 => onCore fun c => c.setChmask (if sup then w else
      (c.chmask &&& 0xFFFF000000000000) ||| (w &&& 0x0000FFFFFFFFFFFF))
  | 0x015 => onCore fun c => c.setHx 0 (.ofNat 64 (wfld w 0 32))
  | 0x016 => onCore fun c => c.setHx 1 (.ofNat 64 (wfld w 0 32))
  | 0x017 => onCore fun c => c.setHx 2 (.ofNat 64 (wfld w 0 32))
  | 0x018 => onCore fun c => c.setHx 3 (.ofNat 64 (wfld w 0 32))
  | 0x019 => onCore fun c => { c with slkx := w.setWidth 32 }
  | 0x01A => onCore fun c => { c with congc := w.setWidth 32 }
  | 0x020 => onCtx fun x => { x with cpSrc := w }
  | 0x021 => onCtx fun x => { x with cpDst := w }
  | 0x022 => onCtx fun x => { x with cpLen := w.setWidth 32 }
  | 0x023 => onCtx fun x => { x with cpShape := w }
  | 0x024 => onCtx fun x => { x with cpPblk := w.setWidth 22 }
  | 0x801 => onTrap fun t => { t with tpc := evenWrite t.tpc w }
  | 0x802 => onTrap fun t => { t with tvec := evenWrite t.tvec w }
  | 0x803 => onCtx fun x => { x with pfx := pfxWrite x.pfx w }
  | 0x804 => onTrap fun t => { t with tsave0 := w }
  | 0x805 => onTrap fun t => { t with tsave1 := w }
  | 0x808 => onTrap fun t => { t with lost := .ofNat 16 (wfld w 16 16) }
  | 0x818 => onTrap fun t => { t with hwUnc := .ofNat 32 (wfld w 32 32), hwCor := w.setWidth 32 }
  | n =>
    if 0x820 ≤ n && n < 0x828 then
      let i := (n - 0x820) / 2
      onTrap fun t => if n % 2 = 0 then { t with wpa := SMap.put t.wpa i w }
        else { t with wpc := SMap.put t.wpc i (wpcWrite (SMap.get 0 t.wpc i) w) }
    else s

/-- The level check of R211 and R246. -/
def State.privSpecial (s : State) (n : BitVec 12) : Bool := !s.isS && decide (0x800 ≤ n.toNat)

/-- wrs (R246). -/
def execWrs (st : BitVec 3) (a : BitVec 5) (n : BitVec 12) (s : State) : Out :=
  s.check [chk (s.privSpecial n) 0x07, chk (readOnlySpecial n.toNat) 0x08]
    ((s.setSpecial s.curCore s.curCtx n.toNat (s.readG a) s.isS false).done st)

/-- rds (R246); rds of CP.GO is the copy's own form. -/
def execRds (st : BitVec 3) (d : BitVec 5) (n : BitVec 12) (s : State) : Out :=
  s.check [chk (s.privSpecial n) 0x07] (s.result st d (s.special s.curCore s.curCtx n.toNat) 2)

end Sys2Proof.Machine
end

