-- ==== Sys2Proof/Machine/Memory.lean ====
section
/-! DEFINITION. Scalar, bit-granular and generic loads and stores, pointers, the constant window and iflush (spec 11,
R249 to R258, R262; spec 02, R48 to R59). -/

namespace Sys2Proof.Machine

/-! ### Scalar loads and stores (R249 to R251) -/

/-- How a loaded value fills a register (R250). -/
def extend (signed : Bool) (n x : Nat) : Word := if signed then Sys2Proof.sext (8 * n) x else .ofNat 64 x

/-- A load of n bytes at a into gd, by an instruction of len bytes. -/
def State.loadG (s : State) (len stl : Nat) (d : BitVec 5) (a : Word) (n : Nat) (signed : Bool) : Out :=
  s.check (s.loadChecks a n n 0)
    (.next (((s.writeG d (extend signed n (s.load a.toNat n)) 4).countMem).retire len stl))

/-- A store of the low n bytes of w at a. -/
def State.storeG (s : State) (len stl : Nat) (w a : Word) (n : Nat) : Out :=
  s.check (s.storeChecks a n n 0) (.next (((s.store a.toNat n w.toNat).countMem).retire len stl))

/-- ga + SignExtend(IMM12) × n. -/
def State.immAddr (s : State) (a : BitVec 5) (i : BitVec 12) (n : Nat) : Word := s.readG a + imm12 i * .ofNat 64 n
/-- ga + gb. -/
def State.idxAddr (s : State) (a b : BitVec 5) : Word := s.readG a + s.readG b

/-- ldb (R250). -/
def execLdb (st : BitVec 3) (d a : BitVec 5) (i : BitVec 12) (s : State) : Out :=
  s.loadG 4 st.toNat d (s.immAddr a i 1) 1 true
/-- ldbu (R250). -/
def execLdbu (st : BitVec 3) (d a : BitVec 5) (i : BitVec 12) (s : State) : Out :=
  s.loadG 4 st.toNat d (s.immAddr a i 1) 1 false
/-- ldh (R250). -/
def execLdh (st : BitVec 3) (d a : BitVec 5) (i : BitVec 12) (s : State) : Out :=
  s.loadG 4 st.toNat d (s.immAddr a i 2) 2 true
/-- ldhu (R250). -/
def execLdhu (st : BitVec 3) (d a : BitVec 5) (i : BitVec 12) (s : State) : Out :=
  s.loadG 4 st.toNat d (s.immAddr a i 2) 2 false
/-- ldw (R250). -/
def execLdw (st : BitVec 3) (d a : BitVec 5) (i : BitVec 12) (s : State) : Out :=
  s.loadG 4 st.toNat d (s.immAddr a i 4) 4 true
/-- ldwu (R250). -/
def execLdwu (st : BitVec 3) (d a : BitVec 5) (i : BitVec 12) (s : State) : Out :=
  s.loadG 4 st.toNat d (s.immAddr a i 4) 4 false
/-- ldd (R250). -/
def execLdd (st : BitVec 3) (d a : BitVec 5) (i : BitVec 12) (s : State) : Out :=
  s.loadG 4 st.toNat d (s.immAddr a i 8) 8 false
/-- stb (R250). -/
def execStb (st : BitVec 3) (d a : BitVec 5) (i : BitVec 12) (s : State) : Out :=
  s.storeG 4 st.toNat (s.readG d) (s.immAddr a i 1) 1
/-- sth (R250). -/
def execSth (st : BitVec 3) (d a : BitVec 5) (i : BitVec 12) (s : State) : Out :=
  s.storeG 4 st.toNat (s.readG d) (s.immAddr a i 2) 2
/-- stw (R250). -/
def execStw (st : BitVec 3) (d a : BitVec 5) (i : BitVec 12) (s : State) : Out :=
  s.storeG 4 st.toNat (s.readG d) (s.immAddr a i 4) 4
/-- std (R250). -/
def execStd (st : BitVec 3) (d a : BitVec 5) (i : BitVec 12) (s : State) : Out :=
  s.storeG 4 st.toNat (s.readG d) (s.immAddr a i 8) 8
/-- ldxb (R251). -/
def execLdxb (st : BitVec 3) (d a b : BitVec 5) (s : State) : Out :=
  s.loadG 4 st.toNat d (s.idxAddr a b) 1 true
/-- ldxbu (R251). -/
def execLdxbu (st : BitVec 3) (d a b : BitVec 5) (s : State) : Out :=
  s.loadG 4 st.toNat d (s.idxAddr a b) 1 false
/-- ldxh (R251). -/
def execLdxh (st : BitVec 3) (d a b : BitVec 5) (s : State) : Out :=
  s.loadG 4 st.toNat d (s.idxAddr a b) 2 true
/-- ldxhu (R251). -/
def execLdxhu (st : BitVec 3) (d a b : BitVec 5) (s : State) : Out :=
  s.loadG 4 st.toNat d (s.idxAddr a b) 2 false
/-- ldxw (R251). -/
def execLdxw (st : BitVec 3) (d a b : BitVec 5) (s : State) : Out :=
  s.loadG 4 st.toNat d (s.idxAddr a b) 4 true
/-- ldxwu (R251). -/
def execLdxwu (st : BitVec 3) (d a b : BitVec 5) (s : State) : Out :=
  s.loadG 4 st.toNat d (s.idxAddr a b) 4 false
/-- ldxd (R251). -/
def execLdxd (st : BitVec 3) (d a b : BitVec 5) (s : State) : Out :=
  s.loadG 4 st.toNat d (s.idxAddr a b) 8 false
/-- stxb (R251). -/
def execStxb (st : BitVec 3) (d a b : BitVec 5) (s : State) : Out :=
  s.storeG 4 st.toNat (s.readG d) (s.idxAddr a b) 1
/-- stxh (R251). -/
def execStxh (st : BitVec 3) (d a b : BitVec 5) (s : State) : Out :=
  s.storeG 4 st.toNat (s.readG d) (s.idxAddr a b) 2
/-- stxw (R251). -/
def execStxw (st : BitVec 3) (d a b : BitVec 5) (s : State) : Out :=
  s.storeG 4 st.toNat (s.readG d) (s.idxAddr a b) 4
/-- stxd (R251). -/
def execStxd (st : BitVec 3) (d a b : BitVec 5) (s : State) : Out :=
  s.storeG 4 st.toNat (s.readG d) (s.idxAddr a b) 8
/-- c.ld (R202). -/
def execCLd (d a : BitVec 5) (s : State) : Out := s.loadG 2 0 d (s.readG a) 8 false
/-- c.sd (R202). -/
def execCSd (d a : BitVec 5) (s : State) : Out := s.storeG 2 0 (s.readG d) (s.readG a) 8

/-! ### Bit-granular access (R53, R252, R253) -/

/-- The checks of a bit-granular access (R53, R68). -/
def State.bitChecks (s : State) (a n : Nat) (write : Bool) : List (Bool × FaultRec) :=
  let (f, k) := bitSpan a n
  [(decide (0x1800000 < a + n), accessRec 0x20 (.ofNat 64 f) k 0),
   (write && s.storeProtected s.curCore s.isS f k, accessRec 0x22 (.ofNat 64 f) k 0),
   (s.me.badIn f k, accessRec 0xA0 (.ofNat 64 f) k 0)]

/-- A bit-granular load of n bits; both doublewords of a field that straddles two in one step, but for bytes read ahead and loads
left for later (DESIGN CHOICE, log entry 84). -/
def State.bitLoad (s : State) (st : BitVec 3) (d : BitVec 5) (a n : Nat) : Out :=
  let (f, k) := bitSpan a n
  s.check (s.bitChecks a n false) (s.countMem.result st d (.ofNat 64 (fld (s.load f k) (a % 8) n)) 5)

/-- A bit-granular store of n bits: the other bits of the bytes it touches keep their values. -/
def State.bitStore (s : State) (st : BitVec 3) (w : Word) (a n : Nat) : Out :=
  let (f, k) := bitSpan a n
  s.check (s.bitChecks a n true) ((s.store f k (putFld (s.load f k) (a % 8) n w.toNat)).countMem.done st)

/-- bld (R252). -/
def execBld (st : BitVec 3) (d : BitVec 5) (n : BitVec 2) (b : BitVec 5) (s : State) : Out :=
  s.bitLoad st d (s.readB n).toNat (wfld (s.readG b) 0 6 + 1)
/-- bst (R252). -/
def execBst (st : BitVec 3) (d : BitVec 5) (n : BitVec 2) (b : BitVec 5) (s : State) : Out :=
  s.bitStore st (s.readG d) (s.readB n).toNat (wfld (s.readG b) 0 6 + 1)
/-- bld.i (R252). -/
def execBldI (st : BitVec 3) (d : BitVec 5) (n : BitVec 2) (w : BitVec 5) (s : State) : Out :=
  s.bitLoad st d (s.readB n).toNat (w.toNat + 1)
/-- bst.i (R252). -/
def execBstI (st : BitVec 3) (d : BitVec 5) (n : BitVec 2) (w : BitVec 5) (s : State) : Out :=
  s.bitStore st (s.readG d) (s.readB n).toNat (w.toNat + 1)
/-- bpset (R253). -/
def execBpset (st : BitVec 3) (n : BitVec 2) (a : BitVec 5) (s : State) : Out := (s.writeB n (s.readG a) 1).done st
/-- bprd (R253). -/
def execBprd (st : BitVec 3) (d : BitVec 5) (n : BitVec 2) (s : State) : Out := s.result st d (s.readB n) 1
/-- bpadd (R253). -/
def execBpadd (st : BitVec 3) (n : BitVec 2) (a : BitVec 5) (s : State) : Out :=
  (s.writeB n (s.readB n + s.readG a) 1).done st

/-! ### Generic loads and stores (R254) -/

/-- Local byte addresses of a generic access of n bytes through p. -/
def State.genericBytes (s : State) (p : Word) (n : Nat) : List Nat := s.me.bytesAt (s.placeOf s.curCore p) n

/-- The checks of a generic load or store: R57, then an uncorrectable error in what it reads, or in a doubleword that a
store does not cover (R68). -/
def State.genericChecks (s : State) (p : Word) (n : Nat) (write : Bool) : List (Bool × FaultRec) :=
  let as := s.genericBytes p n
  [s.pointerCheck (if write then .store else .load) p n 0,
   (s.me.bad.any fun d => (as.any fun a => a / 8 == d) && !(write && (span (8 * d) 8).all fun a => as.contains a),
    accessRec 0xA0 p n 0)]

/-- A generic load; the parts of one that wraps or crosses a doubleword are made in one step, but for bytes read ahead and loads left
for later (DESIGN CHOICE, log entry 84). -/
def State.genericLoad (s : State) (st : BitVec 3) (d a b : BitVec 5) (n : Nat) : Out :=
  let p := s.idxAddr a b
  s.check (s.genericChecks p n false)
    (s.countMem.result st d (.ofNat 64 (leNat ((s.genericBytes p n).map fun a => Memory.byte s.me.mem a))) 4)

/-- Bytes written at a list of addresses. -/
def Core.putAll (c : Core) (abs : List (Nat × Byte)) : Core :=
  let c' := abs.foldl (fun c e => c.put e.1 [e.2]) c
  { c' with bad := c.bad.filter fun d => !((span (8 * d) 8).all fun a => abs.any fun e => e.1 == a) }

/-- A generic store. -/
def State.genericStore (s : State) (st : BitVec 3) (d a b : BitVec 5) (n : Nat) : Out :=
  let p := s.idxAddr a b
  s.check (s.genericChecks p n true)
    (((s.modMe fun c => c.putAll ((s.genericBytes p n).zip (leBytes n (s.readG d).toNat))).countMem).done st)

/-- gldb (R254). -/
def execGldb (st : BitVec 3) (d a b : BitVec 5) (s : State) : Out := s.genericLoad st d a b 1
/-- gldh (R254). -/
def execGldh (st : BitVec 3) (d a b : BitVec 5) (s : State) : Out := s.genericLoad st d a b 2
/-- gldw (R254). -/
def execGldw (st : BitVec 3) (d a b : BitVec 5) (s : State) : Out := s.genericLoad st d a b 4
/-- gldd (R254). -/
def execGldd (st : BitVec 3) (d a b : BitVec 5) (s : State) : Out := s.genericLoad st d a b 8
/-- gstb (R254). -/
def execGstb (st : BitVec 3) (d a b : BitVec 5) (s : State) : Out := s.genericStore st d a b 1
/-- gsth (R254). -/
def execGsth (st : BitVec 3) (d a b : BitVec 5) (s : State) : Out := s.genericStore st d a b 2
/-- gstw (R254). -/
def execGstw (st : BitVec 3) (d a b : BitVec 5) (s : State) : Out := s.genericStore st d a b 4
/-- gstd (R254). -/
def execGstd (st : BitVec 3) (d a b : BitVec 5) (s : State) : Out := s.genericStore st d a b 8

/-! ### Testing, casting and building pointers (R255 to R257) -/

/-- Member index of a core in its cluster (R16). -/
def memberIndex (cn : Nat) : Nat := cn / 64 % 4 * 4 + cn % 4

/-- A pointer passes R57 up to row 7 (or 8) for one byte: the faults of the rows behind do not count. -/
def passesRow7 (f : Option Nat) : Bool := f == none || f == some 0x2A || f == some 0x20 || f == some 0x21 || f == some 0x22
def passesRow8 (f : Option Nat) : Bool := f == none || f == some 0x20 || f == some 0x21 || f == some 0x22

/-- GOOD: R57 rows 1 and 2. -/
def goodPointer (p : Word) : Bool := decide (wfld p 61 3 < 4) && !(wfld p 61 3 == 3 && wfld p 48 13 != 0)

/-- The word that sptst writes (R255). -/
def State.pointerTest (s : State) (p : Word) : Word :=
  let cn := s.curCore
  let sp := wfld p 61 3
  let gen := passesRow8 (s.pointerFault .load p 1)
  let cpy := passesRow7 (s.pointerFault .copySrc p 1)
  let rem := passesRow7 (s.pointerFault .remote p 1)
  let own := if sp < 2 then wfld p 50 11 == cn else sp == 2 && wfld p 57 4 == memberIndex cn
  let laddr := if gen then ((s.genericBytes p 1).headD 0) % 2 ^ 22
    else if sp = 2 && decide (wfld p 0 57 < Config.localTop) then wfld p 0 22 else 0
  let bit (b : Bool) (k : Nat) : Nat := if b then 2 ^ k else 0
  .ofNat 64 (laddr * 2 ^ 32 + bit rem 7 + bit cpy 6 + bit gen 5 + bit own 4 + bit (goodPointer p) 3 + sp)

/-- A window or scratch doubleword that a pointer needs holds an uncorrectable error (R68). -/
def State.windowBad (s : State) (p : Word) : Bool := s.pointerFault .load p 1 == some 0xA0

/-- sptst (R255). -/
def execSptst (st : BitVec 3) (d a : BitVec 5) (s : State) : Out :=
  let p := s.readG a
  s.check [(s.windowBad p, accessRec 0xA0 p 1 0)] (s.result st d (s.pointerTest p) 0)

/-- The pointer that a cast gives, or the cause that it raises (R256). -/
def State.cast (s : State) (p : Word) (target : Nat) : Except Nat Word :=
  let cn := s.curCore
  let c := s.me
  let i := memberIndex cn
  let shared (o : Nat) : Word := .ofNat 64 (2 * 2 ^ 61 + i * 2 ^ 57 + o)
  let off := wfld p 0 57
  let sp := wfld p 61 3
  if 4 ≤ sp then .error 0x23
  else if !goodPointer p then .error 0x24
  else if 4 ≤ target then .error 0x23
  else if sp = target then .ok p
  else match sp, target with
    | 0, 2 =>
      let (base, size) := c.window (wfld p 46 4)
      if wfld p 50 11 != cn then .error 0x26
      else if s.windowBad p then .error 0xA0
      else if decide (11 < wfld p 46 4) || (wfld p 46 4 == 11 && !s.isS) || decide (size < wfld p 0 46 + 1) then .error 0x28
      else .ok (shared (base + wfld p 0 46))
    | 1, 2 =>
      if wfld p 50 11 != cn then .error 0x27
      else if s.windowBad p then .error 0xA0
      else if !c.hasScratch then .error 0x2F
      else .ok (shared (c.scratchAddr (wfld p 0 50)))
    | 2, 0 =>
      let (base, size) := c.window s.curCtx
      if wfld p 57 4 != i then .error 0x2B
      else if c.badIn (0x1100 + 8 * s.curCtx) 8 then .error 0xA0
      else if !(decide (base ≤ off) && decide (off < base + size)) then .error 0x28
      else .ok (.ofNat 64 (cn * 2 ^ 50 + s.curCtx * 2 ^ 46 + (off - base)))
    | 2, 1 =>
      let d := Memory.num c.mem 0x1160 8
      let base := fld d 0 22
      if wfld p 57 4 != i then .error 0x2B
      else if c.badIn 0x1160 8 then .error 0xA0
      else if !c.hasScratch || !(decide (base ≤ off) && decide (off < base + 2 ^ fld d 32 6)) then .error 0x2B
      else .ok (.ofNat 64 (2 ^ 61 + cn * 2 ^ 50 + (off - base)))
    | _, _ => .error 0x2B

/-- spcst (R256). -/
def execSpcst (st : BitVec 3) (d a : BitVec 5) (c : BitVec 3) (s : State) : Out :=
  match s.cast (s.readG a) c.toNat with
  | .ok p => s.result st d p 0
  | .error e => .next (s.raise (accessRec e (s.readG a) 0 0))

/-- The pointer that spmk builds, or the cause that it raises (R257). -/
def State.build (s : State) (o k : Word) : Except Nat Word :=
  let cn := s.curCore
  let own := wbit k 24
  let owner := if own then cn else wfld k 8 11
  let member := if own then memberIndex cn else wfld k 20 4
  let badOwner := !own && !s.onMesh (wfld k 8 11)
  match wfld k 0 3 with
  | 0 => if decide (2 ^ 46 ≤ o.toNat) || decide (11 < wfld k 3 4) || badOwner then .error 0x2C
    else .ok (.ofNat 64 (owner * 2 ^ 50 + wfld k 3 4 * 2 ^ 46 + o.toNat))
  | 1 => if decide (2 ^ 50 ≤ o.toNat) || badOwner then .error 0x2C else .ok (.ofNat 64 (2 ^ 61 + owner * 2 ^ 50 + o.toNat))
  | 2 => if 2 ^ 57 ≤ o.toNat then .error 0x2C else .ok (.ofNat 64 (2 * 2 ^ 61 + member * 2 ^ 57 + o.toNat))
  | 3 => if 2 ^ 48 ≤ o.toNat then .error 0x2C else .ok (.ofNat 64 (3 * 2 ^ 61 + o.toNat))
  | _ => .error 0x23

/-- spmk (R257). Its records name the offset ga in ADDR (DESIGN CHOICE, log entry 85). -/
def execSpmk (st : BitVec 3) (d a b : BitVec 5) (s : State) : Out :=
  match s.build (s.readG a) (s.readG b) with
  | .ok p => s.result st d p 0
  | .error e => .next (s.raise (accessRec e (s.readG a) 0 0))

/-- iflush (R262): fetch reads the latest bytes here, so nothing is left to do (log entry 9). -/
def execIflush (st : BitVec 3) (_a _b : BitVec 5) (s : State) : Out := s.done st

/-! ### The constant window (R258) -/

/-- Constant word k (R48). -/
def Core.constWord (c : Core) (k : Nat) : Word := Memory.dword c.mem (8 * k)
/-- The check of a read of constant word k: an uncorrectable error (R68). -/
def State.constCheck (s : State) (k : Nat) : Bool × FaultRec :=
  (s.me.badIn (8 * k) 8, accessRec 0xA0 (.ofNat 64 (8 * k)) 8 0)

/-- ldc (R258). -/
def execLdc (st : BitVec 3) (d : BitVec 5) (c : BitVec 8) (s : State) : Out :=
  s.check [s.constCheck c.toNat] (s.countMem.result st d (s.me.constWord c.toNat) 2)
/-- ldcx (R258). -/
def execLdcx (st : BitVec 3) (d a : BitVec 5) (c : BitVec 8) (s : State) : Out :=
  let k := (c.toNat + (s.readG a).toNat) % 256
  s.check [s.constCheck k] (s.countMem.result st d (s.me.constWord k) 2)
/-- addc (R258). -/
def execAddc (st : BitVec 3) (d a : BitVec 5) (c : BitVec 8) (s : State) : Out :=
  s.check [s.constCheck c.toNat] (s.countMem.result st d (s.readG a + s.me.constWord c.toNat) 2)
/-- eldc (R258). -/
def execEldc (st : BitVec 3) (d : BitVec 3) (c : BitVec 8) (s : State) : Out :=
  s.check [s.constCheck c.toNat] ((s.countMem.writeE d (s.me.constWord c.toNat) 2).done st)
/-- vldc (R258): doubleword j of vd is constant word CIDX + j modulo 256. -/
def execVldc (st : BitVec 3) (d : BitVec 5) (c : BitVec 8) (s : State) : Out :=
  let ks := (List.range 32).map fun j => (c.toNat + j) % 256
  let x := ks.zipIdx.foldl (fun a (k, j) => a + (s.me.constWord k).toNat * 2 ^ (64 * j)) 0
  s.check (ks.map s.constCheck) ((s.countMem.writeV d (.ofNat 2048 x) 6).done st)

end Sys2Proof.Machine
end

