-- ==== Sys2Proof/Machine/Lanes.lean ====
section
/-! DEFINITION. What every vector instruction shares: elements of a register, the governing predicate, element types,
element-wise execution and predicate results (spec 09, R209, R210; spec 12, R263 to R266, R275), and the vector loads
and stores (spec 11, R259 to R261). -/

namespace Sys2Proof.Machine

/-- Element i of width w of a register's bits (R209). -/
def lane (w v i : Nat) : Nat := v / 2 ^ (w * i) % 2 ^ w
/-- The register whose elements of width w are xs, element 0 first. -/
def packLanes (w : Nat) (xs : List Nat) : VReg := .ofNat 2048 (xs.foldr (fun x a => x % 2 ^ w + a * 2 ^ w) 0)
/-- Element i of width w is active under governing predicate pg (R210). -/
def activeIn (pg : Word) (w i : Nat) : Bool := wbit pg (i * w / 32)
/-- Element i of width w is active under p. -/
def State.active (s : State) (p : BitVec 3) (w i : Nat) : Bool := activeIn (s.readP p) w i
/-- The union of the flags of some elements. -/
def allFlags (xs : List (Nat × Nat)) : Nat := xs.foldl (fun a x => orFlags a x.2) 0

/-- v n takes w after latency l, an element being kept in the doublewords that kept names: a kept one stays bad (R355), and with
any kept the register keeps its producer's obligation too (R205). -/
def Ctx.putLanes (x : Ctx) (n : Nat) (w : VReg) (l : Nat) (kept : Nat → Bool) : Ctx :=
  let y := { x with v := SMap.put x.v n w, bad := x.bad.filter fun e => e / 32 != keyV n || kept (e % 32) }
  if (List.range 32).any kept then y.merged (keyV n) l else y.written (keyV n) l

/-- WriteVM (R221) of vd: element i becomes x i where it is active, and is zeroed (Z) or kept otherwise. A doubleword
that keeps an element stays bad (R355). -/
def State.writeVM (s : State) (d : BitVec 5) (p : BitVec 3) (z : BitVec 1) (w l : Nat) (x : Nat → Nat) : State :=
  let old := (s.readV d).toNat
  let pg := s.readP p
  let v := packLanes w ((List.range (2048 / w)).map fun i =>
    if activeIn pg w i then x i else if z = 1 then 0 else lane w old i)
  let kept (j : Nat) : Bool := z == 0 && (List.range (2048 / w)).any fun i => i * w / 64 == j && !activeIn pg w i
  s.modCx fun c => c.putLanes d.toNat v l kept

/-! ### Element types (R264) -/

/-- The float format. -/
def State.floatFmt (s : State) : Option Nat := let f := s.fmt1; if 1 ≤ f ∧ f ≤ 4 then some f else none
/-- The integer width. -/
def State.intWidth (s : State) : Option Nat :=
  match s.cx.f1 with
  | some f => if isInt f then some (fmtBits f) else none
  | none => some s.iw
/-- The data width. -/
def State.dataWidth (s : State) : Option Nat :=
  match s.cx.f1 with
  | some f => if (1 ≤ f ∧ f ≤ 6) ∨ isInt f then some (fmtBits f) else none
  | none => some s.iw
/-- Latency of class VFP for a format (R205). -/
def vfpLatency (f : Nat) : Nat := if f = 1 then 6 else 4

/-- FORMAT_UNSUPPORTED unless there is a type; then ORDER_VIOLATION for an instruction that rounds (R161, R265). -/
def State.withType (s : State) (t : Option Nat) (rounds : Bool) (k : Nat → Out) : Out :=
  match t with
  | none => s.trap 0x60
  | some f => s.check [chk (rounds && s.srForbidden s.rm) 0x0A] (k f)

/-- An element-wise instruction (R265): op gives element i and its flags; flags come from active elements only. -/
def State.lanewise (s : State) (st : BitVec 3) (d : BitVec 5) (p : BitVec 3) (z : BitVec 1) (w l : Nat)
    (op : Nat → Nat × Nat) : Out :=
  let rs := (List.range (2048 / w)).map fun i => if s.active p w i then op i else (0, 0)
  ((s.writeVM d p z w l fun i => (rs.getD i (0, 0)).1).flag (allFlags rs)).done st

/-- The mode that an instruction that rounds uses, with RNDCTR advanced after it (R266). -/
def State.advanced (o : Out) (m : Nat) : Out :=
  match o with
  | .next s => .next (s.advance m)
  | o => o

/-- A predicate result (R275): test i tells whether element i passes, with its flags. -/
def State.comparison (s : State) (st : BitVec 3) (d p : BitVec 3) (z : BitVec 1) (w : Nat) (test : Nat → Bool × Nat) : Out :=
  let pg := s.readP p
  let rs := (List.range (2048 / w)).map fun i => if activeIn pg w i then test i else (false, 0)
  let holds (i : Nat) : Bool := (rs.getD i (false, 0)).1
  let bit (j : Nat) : Bool :=
    let es := if w < 32 then span (j * (32 / w)) (32 / w) else [j * 32 / w]
    let g := if w < 32 then j else j * 32 / w * w / 32
    if wbit pg g then es.all holds else if z = 1 then false else wbit (s.readP d) j
  let v := (List.range 64).foldl (fun a j => if bit j then a + 2 ^ j else a) 0
  let kept := z == 0 && (List.range 64).any fun j => !wbit pg (if w < 32 then j else j * 32 / w * w / 32)
  ((if kept then s.mergeP d (.ofNat 64 v) 2 else s.writeP d (.ofNat 64 v) 2).flag (rs.foldl (fun a r => orFlags a r.2) 0)).done st

/-! ### Vector loads and stores (R259 to R261) -/

/-- The element width of a vector memory instruction (R259); gathers and scatters need 32 or 64 bits. -/
def State.memWidth (s : State) (gather : Bool) : Option Nat :=
  let f := s.fmt1
  if (1 ≤ f ∧ f ≤ 6) ∨ isInt f then
    let w := fmtBits f
    if gather && !(w == 32 || w == 64) then none else some w
  else none

/-- Active element numbers. -/
def State.activeLanes (s : State) (p : BitVec 3) (w : Nat) : List Nat :=
  (List.range (2048 / w)).filter fun i => s.active p w i

/-- The checks of a vector access: the lowest failing element of the checks of R249, then of an uncorrectable error
(R261, R353). -/
def State.laneChecks (s : State) (es : List Nat) (w : Nat) (addr : Nat → Word) (store : Bool) : List (Bool × FaultRec) :=
  let cs (i : Nat) := if store then s.storeChecks (addr i) (w / 8) (w / 8) i else s.loadChecks (addr i) (w / 8) (w / 8) i
  (es.flatMap fun i => (cs i).filter fun c => c.2.cause != 0xA0) ++ es.flatMap fun i => (cs i).filter fun c => c.2.cause == 0xA0

/-- A vector load whose element i stands at addr i. -/
def State.loadV (s : State) (st : BitVec 3) (d : BitVec 5) (p : BitVec 3) (z : BitVec 1) (gather : Bool) (l : Nat)
    (addr : Nat → Nat → Word) : Out :=
  match s.memWidth gather with
  | none => s.trap 0x60
  | some w =>
    s.check (s.laneChecks (s.activeLanes p w) w (addr w) false)
      ((s.writeVM d p z w l fun i => s.load (addr w i).toNat (w / 8)).countMem.done st)

/-- Active elements of vd written in ascending order. -/
def State.storeLanes (s : State) (d : BitVec 5) (es : List Nat) (w : Nat) (addr : Nat → Word) : State :=
  let v := (s.readV d).toNat
  es.foldl (fun s i => s.store (addr i).toNat (w / 8) (lane w v i)) s

/-- A vector store whose element i goes to addr i. -/
def State.storeV (s : State) (st : BitVec 3) (d : BitVec 5) (p : BitVec 3) (gather : Bool) (addr : Nat → Nat → Word) : Out :=
  match s.memWidth gather with
  | none => s.trap 0x60
  | some w =>
    let es := s.activeLanes p w
    s.check (s.laneChecks es w (addr w) true) ((s.storeLanes d es w (addr w)).countMem.done st)

/-- Addresses of consecutive elements, of strided ones and of offsets (R260). -/
def State.unitAddr (s : State) (a : BitVec 5) (w i : Nat) : Word := s.readG a + .ofNat 64 (i * (w / 8))
def State.strideAddr (s : State) (a b : BitVec 5) (_w i : Nat) : Word := s.readG a + .ofNat 64 i * s.readG b
def State.offsetAddr (s : State) (a b : BitVec 5) (w i : Nat) : Word :=
  s.readG a + .ofNat 64 (lane w (s.readV b).toNat i)

/-- vld (R260). -/
def execVld (st : BitVec 3) (d a : BitVec 5) (p : BitVec 3) (z : BitVec 1) (s : State) : Out :=
  s.loadV st d p z false 6 (s.unitAddr a)
/-- vst (R260). -/
def execVst (st : BitVec 3) (d a : BitVec 5) (p : BitVec 3) (s : State) : Out :=
  s.storeV st d p false (s.unitAddr a)
/-- vlds (R260). -/
def execVlds (st : BitVec 3) (d a b : BitVec 5) (p : BitVec 3) (z : BitVec 1) (s : State) : Out :=
  s.loadV st d p z false 6 (s.strideAddr a b)
/-- vsts (R260). -/
def execVsts (st : BitVec 3) (d a b : BitVec 5) (p : BitVec 3) (s : State) : Out :=
  s.storeV st d p false (s.strideAddr a b)
/-- vldg (R260). -/
def execVldg (st : BitVec 3) (d a b : BitVec 5) (p : BitVec 3) (z : BitVec 1) (s : State) : Out :=
  s.loadV st d p z true 10 (s.offsetAddr a b)
/-- vstsc (R260). -/
def execVstsc (st : BitVec 3) (d a b : BitVec 5) (p : BitVec 3) (s : State) : Out :=
  s.storeV st d p true (s.offsetAddr a b)

end Sys2Proof.Machine
end

