-- ==== Sys2Proof/Machine/VecFloat.lean ====
section
/-! DEFINITION. Floating-point vector arithmetic, division, square root, exponential and logarithm, estimates, sign
operations, rounding to integral and comparisons (spec 12, R267 to R276). -/

namespace Sys2Proof.Machine

/-! ### Operations on one element of float format f: code and flags -/

/-- RoundTo with the flags that the operands raised. -/
def rounded (f : Nat) (r : Val × Nat) (m u : Nat) : Nat × Nat :=
  let (c, fl) := roundTo f r.1 m u
  (c, orFlags fl r.2)

/-- a × b + d, a × b - d or d - a × b with one rounding (R267): np negates the product, nd the addend. -/
def fusedV (a b d : Val) (np nd : Bool) (m : Nat) : Val × Nat :=
  let (p, f1) := mulV a b
  let (r, f2) := addV (if np then negV p else p) (if nd then negV d else d) m
  (r, orFlags f1 f2)

/-- The canonical NaN of a format (R87). -/
def canonNan (f : Nat) : Nat := (fmtOf f).nan
/-- NV where a value is a signalling NaN. -/
def nvOf (v : Val) : Nat := if isSnan v then fNV else 0
/-- The sign bit of a code. -/
def signOf (f x : Nat) : Bool := fld x (fmtBits f - 1) 1 == 1

/-- x is below y with -0 below +0 (R268), for codes of numbers. -/
def belowCode (f x y : Nat) : Bool :=
  ltV (decode f x) (decode f y) || (eqV (decode f x) (decode f y) && signOf f x && !signOf f y)

/-- minimumNumber, or maximumNumber (R268). -/
def numberOf (isMax : Bool) (f x y : Nat) : Nat × Nat :=
  let fl := orFlags (nvOf (decode f x)) (nvOf (decode f y))
  if isNan (decode f x) && isNan (decode f y) then (canonNan f, fl)
  else if isNan (decode f x) then (y, fl)
  else if isNan (decode f y) then (x, fl)
  else if isMax then (if belowCode f x y then y else x, fl)
  else (if belowCode f y x then y else x, fl)

/-- vdiv (R269). -/
def divCode (f x y m u : Nat) : Nat × Nat :=
  let F := fmtOf f
  match decode f x, decode f y with
  | .nan a, .nan b => (F.nan, if a || b then fNV else 0)
  | .nan a, _ => (F.nan, if a then fNV else 0)
  | _, .nan b => (F.nan, if b then fNV else 0)
  | .inf _, .inf _ => (F.nan, fNV)
  | .inf a, .fin b _ _ => (F.inf (a != b), 0)
  | .fin a _ _, .inf b => (F.sign (a != b), 0)
  | .fin a m1 e1, .fin b m2 e2 =>
    if m1 = 0 && m2 = 0 then (F.nan, fNV)
    else if m2 = 0 then (F.inf (a != b), fDZ)
    else if m1 = 0 then (F.sign (a != b), 0)
    else roundMag F (a != b) (quotMag m1 e1 m2 e2) m u

/-- vsqrt (R269). -/
def sqrtCode (f x m u : Nat) : Nat × Nat :=
  let F := fmtOf f
  match decode f x with
  | .nan a => (F.nan, if a then fNV else 0)
  | .inf a => if a then (F.nan, fNV) else (F.inf false, 0)
  | .fin a m1 e1 => if m1 = 0 then (x, 0) else if a then (F.nan, fNV) else roundMag F false (sqrtMag m1 e1) m u

/-! ### 2 ^ a and log2 a in fixed point with 320 fraction bits (R270; log entry 11) -/

/-- Fraction bits. -/
def fxBits : Nat := 320
/-- Terms z ^ (2 k + 1) / (2 k + 1) of the inverse hyperbolic tangent, k from i; z2 is z squared. -/
def atanhTerms (z2 : Nat) : Nat → Nat → Nat → Nat
  | 0, _, _ => 0
  | n + 1, i, t => t / (2 * i + 1) + atanhTerms z2 n (i + 1) (t * z2 / 2 ^ fxBits)
/-- The natural logarithm of p / q for 1 ≤ p / q ≤ 2. -/
def lnRatio (p q : Nat) : Nat :=
  let z := (p - q) * 2 ^ fxBits / (p + q)
  2 * atanhTerms (z * z / 2 ^ fxBits) 110 0 z
/-- The natural logarithm of 2. -/
def ln2 : Nat := lnRatio 2 1
/-- Terms y ^ k / k! of the exponential series, k from i. -/
def expTerms (y : Nat) : Nat → Nat → Nat → Nat
  | 0, _, _ => 0
  | n + 1, i, t => t + expTerms y n (i + 1) (t * y / 2 ^ fxBits / i)
/-- 2 ^ g for a fraction g. -/
def exp2Frac (g : Nat) : Nat := expTerms (g * ln2 / 2 ^ fxBits) 80 1 (2 ^ fxBits)

/-- 2 ^ a as a magnitude: exact for an integer. A value beyond 2 ^ 13 stands for every value that overflows or is tiny. -/
def exp2Mag (neg : Bool) (man : Nat) (exp : Int) : Mag :=
  let far : Mag := ⟨1, if neg then -8192 else 8192, true⟩
  if 13 ≤ (Nat.log2 man : Int) + exp then far
  else if 0 ≤ exp then ⟨1, (if neg then -1 else 1) * ((man * 2 ^ exp.toNat : Nat) : Int), false⟩
  else
    let k := (-exp).toNat
    let q := man / 2 ^ k
    let r := man % 2 ^ k
    if r = 0 then ⟨1, if neg then -(q : Int) else q, false⟩
    else
      let n : Int := if neg then -(q : Int) - 1 else q
      let r := if neg then 2 ^ k - r else r
      ⟨exp2Frac (r * 2 ^ fxBits / 2 ^ k), n - fxBits, true⟩

/-- vexp2 (R270). -/
def exp2Code (f x : Nat) : Nat × Nat :=
  let F := fmtOf f
  match decode f x with
  | .nan a => (F.nan, if a then fNV else 0)
  | .inf a => (if a then 0 else F.inf false, 0)
  | .fin a m e => roundMag F false (if m = 0 then ⟨1, 0, false⟩ else exp2Mag a m e) 0 0

/-- vlog2 (R270). -/
def log2Code (f x : Nat) : Nat × Nat :=
  let F := fmtOf f
  match decode f x with
  | .nan a => (F.nan, if a then fNV else 0)
  | .inf a => if a then (F.nan, fNV) else (F.inf false, 0)
  | .fin a m e =>
    if m = 0 then (F.inf true, fDZ)
    else if a then (F.nan, fNV)
    else
      let k := Nat.log2 m
      let n : Int := (k : Int) + e
      if m = 2 ^ k then roundF F (.fin (decide (n < 0)) n.natAbs 0) 0 0
      else
        let t : Int := n * (2 ^ fxBits : Nat) + (lnRatio m (2 ^ k) * 2 ^ fxBits / ln2 : Nat)
        roundMag F (decide (t < 0)) ⟨t.natAbs, -(fxBits : Int), true⟩ 0 0

/-! ### Estimates (R271 to R273) -/

/-- TR (R272). -/
def tableTR : List Nat :=
  [0x7F, 0x7D, 0x7B, 0x79, 0x77, 0x75, 0x74, 0x72] ++
  [0x70, 0x6E, 0x6D, 0x6B, 0x69, 0x68, 0x66, 0x64] ++
  [0x63, 0x61, 0x60, 0x5E, 0x5D, 0x5B, 0x5A, 0x58] ++
  [0x57, 0x55, 0x54, 0x53, 0x51, 0x50, 0x4F, 0x4D] ++
  [0x4C, 0x4B, 0x4A, 0x48, 0x47, 0x46, 0x45, 0x44] ++
  [0x42, 0x41, 0x40, 0x3F, 0x3E, 0x3D, 0x3C, 0x3B] ++
  [0x3A, 0x39, 0x38, 0x37, 0x36, 0x35, 0x34, 0x33] ++
  [0x32, 0x31, 0x30, 0x2F, 0x2E, 0x2D, 0x2C, 0x2B] ++
  [0x2A, 0x29, 0x28, 0x28, 0x27, 0x26, 0x25, 0x24] ++
  [0x23, 0x23, 0x22, 0x21, 0x20, 0x1F, 0x1F, 0x1E] ++
  [0x1D, 0x1C, 0x1C, 0x1B, 0x1A, 0x19, 0x19, 0x18] ++
  [0x17, 0x17, 0x16, 0x15, 0x15, 0x14, 0x13, 0x13] ++
  [0x12, 0x11, 0x11, 0x10, 0x0F, 0x0F, 0x0E, 0x0E] ++
  [0x0D, 0x0C, 0x0C, 0x0B, 0x0B, 0x0A, 0x09, 0x09] ++
  [0x08, 0x08, 0x07, 0x07, 0x06, 0x05, 0x05, 0x04] ++
  [0x04, 0x03, 0x03, 0x02, 0x02, 0x01, 0x01, 0x00]

/-- TS (R273). -/
def tableTS : List Nat :=
  [0x7F, 0x7D, 0x7B, 0x79, 0x77, 0x76, 0x74, 0x72] ++
  [0x71, 0x6F, 0x6D, 0x6C, 0x6A, 0x69, 0x67, 0x66] ++
  [0x64, 0x63, 0x61, 0x60, 0x5F, 0x5D, 0x5C, 0x5B] ++
  [0x5A, 0x58, 0x57, 0x56, 0x55, 0x54, 0x53, 0x52] ++
  [0x50, 0x4F, 0x4E, 0x4D, 0x4C, 0x4B, 0x4A, 0x49] ++
  [0x48, 0x47, 0x46, 0x46, 0x45, 0x44, 0x43, 0x42] ++
  [0x41, 0x40, 0x3F, 0x3F, 0x3E, 0x3D, 0x3C, 0x3B] ++
  [0x3B, 0x3A, 0x39, 0x38, 0x38, 0x37, 0x36, 0x35] ++
  [0x34, 0x33, 0x32, 0x30, 0x2F, 0x2E, 0x2C, 0x2B] ++
  [0x2A, 0x29, 0x28, 0x27, 0x26, 0x24, 0x23, 0x22] ++
  [0x21, 0x20, 0x1F, 0x1E, 0x1E, 0x1D, 0x1C, 0x1B] ++
  [0x1A, 0x19, 0x18, 0x17, 0x17, 0x16, 0x15, 0x14] ++
  [0x13, 0x13, 0x12, 0x11, 0x10, 0x10, 0x0F, 0x0E] ++
  [0x0E, 0x0D, 0x0C, 0x0C, 0x0B, 0x0A, 0x0A, 0x09] ++
  [0x09, 0x08, 0x07, 0x07, 0x06, 0x06, 0x05, 0x04] ++
  [0x04, 0x03, 0x03, 0x02, 0x02, 0x01, 0x01, 0x00]

/-- vrcpe (R271). -/
def rcpeCode (f x : Nat) : Nat × Nat :=
  let F := fmtOf f
  match decode f x with
  | .nan a => (F.nan, if a then fNV else 0)
  | .inf a => (F.sign a, 0)
  | .fin a m e =>
    if m = 0 then (F.inf a, fDZ)
    else
      let k := Nat.log2 m
      roundMag F a ⟨128 + tableTR.getD (m * 128 / 2 ^ k - 128) 0, -(e + k) - 8, false⟩ 0 0

/-- vrsqe (R271). -/
def rsqeCode (f x : Nat) : Nat × Nat :=
  let F := fmtOf f
  match decode f x with
  | .nan a => (F.nan, if a then fNV else 0)
  | .inf a => if a then (F.nan, fNV) else (0, 0)
  | .fin a m e =>
    if m = 0 then (F.inf a, fDZ)
    else if a then (F.nan, fNV)
    else
      let n := Nat.log2 m
      let ex : Int := e + n
      let j := m * 64 / 2 ^ n - 64
      let (k, e2) := if ex % 2 = 0 then (j, ex) else (64 + j, ex - 1)
      roundMag F false ⟨128 + tableTS.getD k 0, -(e2 / 2) - 8, false⟩ 0 0

/-- vrint (R274). -/
def rintCode (f x m u : Nat) : Nat × Nat :=
  let F := fmtOf f
  match decode f x with
  | .nan a => (F.nan, if a then fNV else 0)
  | .inf _ => (x, 0)
  | .fin a m1 e1 =>
    let (n, inexact) := Mag.roundAt ⟨m1, e1, false⟩ a 0 m u
    ((roundF F (.fin a n 0) 0 0).1, if inexact then fNX else 0)

/-! ### The instructions -/

/-- A rounding element-wise float instruction: op takes the format, the mode, the element index and the draw. -/
def State.floatRounded (s : State) (st : BitVec 3) (d : BitVec 5) (p : BitVec 3) (z : BitVec 1) (l : Nat → Nat)
    (op : Nat → Nat → Nat → Nat → Nat × Nat) : Out :=
  let m := s.rm
  s.withType s.floatFmt true fun f =>
    State.advanced (s.lanewise st d p z (fmtBits f) (l f) fun i => op f m i (s.draw m i)) m

/-- An element-wise float instruction that does not round. -/
def State.floatPlain (s : State) (st : BitVec 3) (d : BitVec 5) (p : BitVec 3) (z : BitVec 1) (l : Nat → Nat)
    (op : Nat → Nat → Nat × Nat) : Out :=
  s.withType s.floatFmt false fun f => s.lanewise st d p z (fmtBits f) (l f) fun i => op f i

/-- Element i of v in format f. -/
def State.el (s : State) (v : BitVec 5) (f i : Nat) : Nat := lane (fmtBits f) (s.readV v).toNat i
/-- Its value. -/
def State.ev (s : State) (v : BitVec 5) (f i : Nat) : Val := decode f (s.el v f i)

/-- vadd (R267). -/
def execVadd (st : BitVec 3) (d a b : BitVec 5) (p : BitVec 3) (z : BitVec 1) (s : State) : Out :=
  s.floatRounded st d p z vfpLatency fun f m i u => rounded f (addV (s.ev a f i) (s.ev b f i) m) m u
/-- vsub (R267). -/
def execVsub (st : BitVec 3) (d a b : BitVec 5) (p : BitVec 3) (z : BitVec 1) (s : State) : Out :=
  s.floatRounded st d p z vfpLatency fun f m i u => rounded f (addV (s.ev a f i) (negV (s.ev b f i)) m) m u
/-- vmul (R267). -/
def execVmul (st : BitVec 3) (d a b : BitVec 5) (p : BitVec 3) (z : BitVec 1) (s : State) : Out :=
  s.floatRounded st d p z vfpLatency fun f m i u => rounded f (mulV (s.ev a f i) (s.ev b f i)) m u
/-- vfma (R267). -/
def execVfma (st : BitVec 3) (d a b : BitVec 5) (p : BitVec 3) (z : BitVec 1) (s : State) : Out :=
  s.floatRounded st d p z vfpLatency fun f m i u =>
    rounded f (fusedV (s.ev a f i) (s.ev b f i) (s.ev d f i) false false m) m u
/-- vfms (R267). -/
def execVfms (st : BitVec 3) (d a b : BitVec 5) (p : BitVec 3) (z : BitVec 1) (s : State) : Out :=
  s.floatRounded st d p z vfpLatency fun f m i u =>
    rounded f (fusedV (s.ev a f i) (s.ev b f i) (s.ev d f i) false true m) m u
/-- vfnma (R267). -/
def execVfnma (st : BitVec 3) (d a b : BitVec 5) (p : BitVec 3) (z : BitVec 1) (s : State) : Out :=
  s.floatRounded st d p z vfpLatency fun f m i u =>
    rounded f (fusedV (s.ev a f i) (s.ev b f i) (s.ev d f i) true false m) m u
/-- vmin (R267, R268). -/
def execVmin (st : BitVec 3) (d a b : BitVec 5) (p : BitVec 3) (z : BitVec 1) (s : State) : Out :=
  s.floatPlain st d p z vfpLatency fun f i => numberOf false f (s.el a f i) (s.el b f i)
/-- vmax (R267, R268). -/
def execVmax (st : BitVec 3) (d a b : BitVec 5) (p : BitVec 3) (z : BitVec 1) (s : State) : Out :=
  s.floatPlain st d p z vfpLatency fun f i => numberOf true f (s.el a f i) (s.el b f i)
/-- vdiv (R269). -/
def execVdiv (st : BitVec 3) (d a b : BitVec 5) (p : BitVec 3) (z : BitVec 1) (s : State) : Out :=
  s.floatRounded st d p z (fun _ => 16) fun f m i u => divCode f (s.el a f i) (s.el b f i) m u
/-- vsqrt (R269). -/
def execVsqrt (st : BitVec 3) (d a : BitVec 5) (p : BitVec 3) (z : BitVec 1) (s : State) : Out :=
  s.floatRounded st d p z (fun _ => 16) fun f m i u => sqrtCode f (s.el a f i) m u
/-- vexp2 (R270). -/
def execVexp2 (st : BitVec 3) (d a : BitVec 5) (p : BitVec 3) (z : BitVec 1) (s : State) : Out :=
  s.floatPlain st d p z (fun _ => 16) fun f i => exp2Code f (s.el a f i)
/-- vlog2 (R270). -/
def execVlog2 (st : BitVec 3) (d a : BitVec 5) (p : BitVec 3) (z : BitVec 1) (s : State) : Out :=
  s.floatPlain st d p z (fun _ => 16) fun f i => log2Code f (s.el a f i)
/-- vrcpe (R271). -/
def execVrcpe (st : BitVec 3) (d a : BitVec 5) (p : BitVec 3) (z : BitVec 1) (s : State) : Out :=
  s.floatPlain st d p z (fun _ => 3) fun f i => rcpeCode f (s.el a f i)
/-- vrsqe (R271). -/
def execVrsqe (st : BitVec 3) (d a : BitVec 5) (p : BitVec 3) (z : BitVec 1) (s : State) : Out :=
  s.floatPlain st d p z (fun _ => 3) fun f i => rsqeCode f (s.el a f i)
/-- vabs (R274). -/
def execVabs (st : BitVec 3) (d a : BitVec 5) (p : BitVec 3) (z : BitVec 1) (s : State) : Out :=
  s.floatPlain st d p z vfpLatency fun f i => (s.el a f i % 2 ^ (fmtBits f - 1), 0)
/-- vneg (R274). -/
def execVneg (st : BitVec 3) (d a : BitVec 5) (p : BitVec 3) (z : BitVec 1) (s : State) : Out :=
  s.floatPlain st d p z vfpLatency fun f i => ((s.el a f i + 2 ^ (fmtBits f - 1)) % 2 ^ fmtBits f, 0)
/-- vcpsgn (R274). -/
def execVcpsgn (st : BitVec 3) (d a b : BitVec 5) (p : BitVec 3) (z : BitVec 1) (s : State) : Out :=
  s.floatPlain st d p z vfpLatency fun f i =>
    (s.el a f i % 2 ^ (fmtBits f - 1) + s.el b f i / 2 ^ (fmtBits f - 1) * 2 ^ (fmtBits f - 1), 0)
/-- vrint (R274). -/
def execVrint (st : BitVec 3) (d a : BitVec 5) (p : BitVec 3) (z : BitVec 1) (s : State) : Out :=
  s.floatRounded st d p z vfpLatency fun f m i u => rintCode f (s.el a f i) m u

/-! ### Comparisons (R275) -/

/-- A float comparison: holds of two values, with quiet saying that only a signalling NaN sets NV. -/
def State.floatCompare (s : State) (st : BitVec 3) (d : BitVec 3) (a b : BitVec 5) (p : BitVec 3) (z : BitVec 1)
    (quiet : Bool) (holds : Val → Val → Bool) : Out :=
  s.withType s.floatFmt false fun f =>
    s.comparison st d p z (fmtBits f) fun i =>
      let x := s.ev a f i
      let y := s.ev b f i
      (holds x y, if quiet then orFlags (nvOf x) (nvOf y) else if isNan x || isNan y then fNV else 0)

/-- vcmpeq (R275). -/
def execVcmpeq (st : BitVec 3) (d : BitVec 3) (a b : BitVec 5) (p : BitVec 3) (z : BitVec 1) (s : State) : Out :=
  s.floatCompare st d a b p z true eqV
/-- vcmpne (R275). -/
def execVcmpne (st : BitVec 3) (d : BitVec 3) (a b : BitVec 5) (p : BitVec 3) (z : BitVec 1) (s : State) : Out :=
  s.floatCompare st d a b p z true fun x y => !eqV x y
/-- vcmplt (R275). -/
def execVcmplt (st : BitVec 3) (d : BitVec 3) (a b : BitVec 5) (p : BitVec 3) (z : BitVec 1) (s : State) : Out :=
  s.floatCompare st d a b p z false ltV
/-- vcmple (R275). -/
def execVcmple (st : BitVec 3) (d : BitVec 3) (a b : BitVec 5) (p : BitVec 3) (z : BitVec 1) (s : State) : Out :=
  s.floatCompare st d a b p z false fun x y => ltV x y || eqV x y
/-- vcmpun (R275). -/
def execVcmpun (st : BitVec 3) (d : BitVec 3) (a b : BitVec 5) (p : BitVec 3) (z : BitVec 1) (s : State) : Out :=
  s.floatCompare st d a b p z true fun x y => isNan x || isNan y

end Sys2Proof.Machine
end

