-- ==== Sys2Proof/Machine/VecInt.lean ====
section
/-! DEFINITION. Integer vector operations, selection, permutations, reductions, conversions, random bits and predicate
instructions (spec 12, R276 to R284; spec 03, R93). -/

namespace Sys2Proof.Machine

/-! ### Integer operations (R277) -/

/-- An element-wise instruction over a width: op takes the width and the elements of va and vb. -/
def State.intLanes (s : State) (t : Option Nat) (st : BitVec 3) (d a b : BitVec 5) (p : BitVec 3) (z : BitVec 1) (l : Nat)
    (op : Nat → Nat → Nat → Nat × Nat) : Out :=
  s.withType t false fun w =>
    s.lanewise st d p z w l fun i => op w (lane w (s.readV a).toNat i) (lane w (s.readV b).toNat i)

/-- The smaller or the larger of two elements, signed or not. -/
def pickLane (signed larger : Bool) (w x y : Nat) : Nat :=
  let lt := decide (intOf w signed x < intOf w signed y)
  if lt == larger then y else x

/-- x + y as signed, clamped, SAT when it clamps. -/
def addSat (w x y : Nat) : Nat × Nat :=
  let t := sgn w x + sgn w y
  let c := clampInt t (intLo w true) (intHi w true)
  (intCode w c, if c = t then 0 else fSAT)

/-- The high half of the exact product. -/
def mulHigh (signed : Bool) (w x y : Nat) : Nat := intCode w (intOf w signed x * intOf w signed y / (2 ^ w : Nat))

/-- viadd (R277). -/
def execViadd (st : BitVec 3) (d a b : BitVec 5) (p : BitVec 3) (z : BitVec 1) (s : State) : Out :=
  s.intLanes s.intWidth st d a b p z 2 fun w x y => ((x + y) % 2 ^ w, 0)
/-- visub (R277). -/
def execVisub (st : BitVec 3) (d a b : BitVec 5) (p : BitVec 3) (z : BitVec 1) (s : State) : Out :=
  s.intLanes s.intWidth st d a b p z 2 fun w x y => ((x + 2 ^ w - y) % 2 ^ w, 0)
/-- vimul (R277). -/
def execVimul (st : BitVec 3) (d a b : BitVec 5) (p : BitVec 3) (z : BitVec 1) (s : State) : Out :=
  s.intLanes s.intWidth st d a b p z 4 fun w x y => (x * y % 2 ^ w, 0)
/-- vimin (R277). -/
def execVimin (st : BitVec 3) (d a b : BitVec 5) (p : BitVec 3) (z : BitVec 1) (s : State) : Out :=
  s.intLanes s.intWidth st d a b p z 2 fun w x y => (pickLane true false w x y, 0)
/-- vimax (R277). -/
def execVimax (st : BitVec 3) (d a b : BitVec 5) (p : BitVec 3) (z : BitVec 1) (s : State) : Out :=
  s.intLanes s.intWidth st d a b p z 2 fun w x y => (pickLane true true w x y, 0)
/-- viminu (R277). -/
def execViminu (st : BitVec 3) (d a b : BitVec 5) (p : BitVec 3) (z : BitVec 1) (s : State) : Out :=
  s.intLanes s.intWidth st d a b p z 2 fun w x y => (pickLane false false w x y, 0)
/-- vimaxu (R277). -/
def execVimaxu (st : BitVec 3) (d a b : BitVec 5) (p : BitVec 3) (z : BitVec 1) (s : State) : Out :=
  s.intLanes s.intWidth st d a b p z 2 fun w x y => (pickLane false true w x y, 0)
/-- viabs (R277). -/
def execViabs (st : BitVec 3) (d a : BitVec 5) (p : BitVec 3) (z : BitVec 1) (s : State) : Out :=
  s.intLanes s.intWidth st d a a p z 2 fun w x _ => ((sgn w x).natAbs % 2 ^ w, 0)
/-- vand (R277). -/
def execVand (st : BitVec 3) (d a b : BitVec 5) (p : BitVec 3) (z : BitVec 1) (s : State) : Out :=
  s.intLanes s.dataWidth st d a b p z 2 fun _ x y => (x &&& y, 0)
/-- vor (R277). -/
def execVor (st : BitVec 3) (d a b : BitVec 5) (p : BitVec 3) (z : BitVec 1) (s : State) : Out :=
  s.intLanes s.dataWidth st d a b p z 2 fun _ x y => (x ||| y, 0)
/-- vxor (R277). -/
def execVxor (st : BitVec 3) (d a b : BitVec 5) (p : BitVec 3) (z : BitVec 1) (s : State) : Out :=
  s.intLanes s.dataWidth st d a b p z 2 fun _ x y => (x ^^^ y, 0)
/-- vandn (R277). -/
def execVandn (st : BitVec 3) (d a b : BitVec 5) (p : BitVec 3) (z : BitVec 1) (s : State) : Out :=
  s.intLanes s.dataWidth st d a b p z 2 fun w x y => (x &&& (2 ^ w - 1 - y), 0)
/-- vshl (R277). -/
def execVshl (st : BitVec 3) (d a b : BitVec 5) (p : BitVec 3) (z : BitVec 1) (s : State) : Out :=
  s.intLanes s.dataWidth st d a b p z 2 fun w x y => (x * 2 ^ (y % w) % 2 ^ w, 0)
/-- vshr (R277). -/
def execVshr (st : BitVec 3) (d a b : BitVec 5) (p : BitVec 3) (z : BitVec 1) (s : State) : Out :=
  s.intLanes s.dataWidth st d a b p z 2 fun w x y => (x / 2 ^ (y % w), 0)
/-- vsar (R277). -/
def execVsar (st : BitVec 3) (d a b : BitVec 5) (p : BitVec 3) (z : BitVec 1) (s : State) : Out :=
  s.intLanes s.dataWidth st d a b p z 2 fun w x y => (intCode w (sgn w x / (2 ^ (y % w) : Nat)), 0)
/-- viaddsat (R277). -/
def execViaddsat (st : BitVec 3) (d a b : BitVec 5) (p : BitVec 3) (z : BitVec 1) (s : State) : Out :=
  s.intLanes s.intWidth st d a b p z 2 fun w x y => addSat w x y
/-- vimulh (R277). -/
def execVimulh (st : BitVec 3) (d a b : BitVec 5) (p : BitVec 3) (z : BitVec 1) (s : State) : Out :=
  s.intLanes s.intWidth st d a b p z 4 fun w x y => (mulHigh true w x y, 0)
/-- vimulhu (R277). -/
def execVimulhu (st : BitVec 3) (d a b : BitVec 5) (p : BitVec 3) (z : BitVec 1) (s : State) : Out :=
  s.intLanes s.intWidth st d a b p z 4 fun w x y => (mulHigh false w x y, 0)

/-- An integer comparison (R275). -/
def State.intCompare (s : State) (st : BitVec 3) (d : BitVec 3) (a b : BitVec 5) (p : BitVec 3) (z : BitVec 1)
    (signed : Bool) (holds : Int → Int → Bool) : Out :=
  s.withType s.intWidth false fun w =>
    s.comparison st d p z w fun i =>
      (holds (intOf w signed (lane w (s.readV a).toNat i)) (intOf w signed (lane w (s.readV b).toNat i)), 0)

/-- vicmpeq (R275). -/
def execVicmpeq (st : BitVec 3) (d : BitVec 3) (a b : BitVec 5) (p : BitVec 3) (z : BitVec 1) (s : State) : Out :=
  s.intCompare st d a b p z false fun x y => x == y
/-- vicmpne (R275). -/
def execVicmpne (st : BitVec 3) (d : BitVec 3) (a b : BitVec 5) (p : BitVec 3) (z : BitVec 1) (s : State) : Out :=
  s.intCompare st d a b p z false fun x y => x != y
/-- vicmplt (R275). -/
def execVicmplt (st : BitVec 3) (d : BitVec 3) (a b : BitVec 5) (p : BitVec 3) (z : BitVec 1) (s : State) : Out :=
  s.intCompare st d a b p z true fun x y => decide (x < y)
/-- vicmpltu (R275). -/
def execVicmpltu (st : BitVec 3) (d : BitVec 3) (a b : BitVec 5) (p : BitVec 3) (z : BitVec 1) (s : State) : Out :=
  s.intCompare st d a b p z false fun x y => decide (x < y)
/-- vicmple (R275). -/
def execVicmple (st : BitVec 3) (d : BitVec 3) (a b : BitVec 5) (p : BitVec 3) (z : BitVec 1) (s : State) : Out :=
  s.intCompare st d a b p z true fun x y => decide (x ≤ y)
/-- vicmpleu (R275). -/
def execVicmpleu (st : BitVec 3) (d : BitVec 3) (a b : BitVec 5) (p : BitVec 3) (z : BitVec 1) (s : State) : Out :=
  s.intCompare st d a b p z false fun x y => decide (x ≤ y)

/-! ### Selection, moves and permutations (R276, R278, R281) -/

/-- vsel (R276): p selects, every element is written. -/
def execVsel (st : BitVec 3) (d a b : BitVec 5) (p : BitVec 3) (s : State) : Out :=
  s.withType s.dataWidth false fun w =>
    s.lanewise st d 0 0 w 2 fun i => (lane w (s.readV (if s.active p w i then a else b)).toNat i, 0)

/-- A permutation: x gives element i for a width. -/
def State.permute (s : State) (st : BitVec 3) (d : BitVec 5) (p : BitVec 3) (z : BitVec 1) (l : Nat) (x : Nat → Nat → Nat) : Out :=
  s.withType s.dataWidth false fun w => s.lanewise st d p z w l fun i => (x w i, 0)

/-- vperm (R278). -/
def execVperm (st : BitVec 3) (d a b : BitVec 5) (p : BitVec 3) (z : BitVec 1) (s : State) : Out :=
  s.permute st d p z 2 fun w i => lane w (s.readV a).toNat (lane w (s.readV b).toNat i % (2048 / w))
/-- vslideup (R278). -/
def execVslideup (st : BitVec 3) (d a b : BitVec 5) (p : BitVec 3) (z : BitVec 1) (s : State) : Out :=
  let k := (s.readG b).toNat
  s.permute st d p z 2 fun w i => if k ≤ i then lane w (s.readV a).toNat (i - k) else 0
/-- vslidedn (R278). -/
def execVslidedn (st : BitVec 3) (d a b : BitVec 5) (p : BitVec 3) (z : BitVec 1) (s : State) : Out :=
  let k := (s.readG b).toNat
  s.permute st d p z 2 fun w i => if i + k < 2048 / w then lane w (s.readV a).toNat (i + k) else 0
/-- vbcast (R278). -/
def execVbcast (st : BitVec 3) (d a : BitVec 5) (p : BitVec 3) (z : BitVec 1) (s : State) : Out :=
  s.permute st d p z 2 fun w _ => wfld (s.readG a) 0 w
/-- vext (R278). -/
def execVext (st : BitVec 3) (d a b : BitVec 5) (s : State) : Out :=
  s.withType s.dataWidth false fun w =>
    s.result st d (.ofNat 64 (lane w (s.readV a).toNat ((s.readG b).toNat % (2048 / w)))) 2
/-- vins (R278): one element of vd is written. -/
def execVins (st : BitVec 3) (d a b : BitVec 5) (s : State) : Out :=
  s.withType s.dataWidth false fun w =>
    let j := (s.readG b).toNat % (2048 / w)
    let old := (s.readV d).toNat
    s.lanewise st d 0 0 w 2 fun i => (if i = j then wfld (s.readG a) 0 w else lane w old i, 0)
/-- vzip (R278). -/
def execVzip (st : BitVec 3) (d a b : BitVec 5) (p : BitVec 3) (z : BitVec 1) (s : State) : Out :=
  s.permute st d p z 2 fun w i => lane w (s.readV (if i % 2 = 0 then a else b)).toNat (i / 2)
/-- vunzip (R278). -/
def execVunzip (st : BitVec 3) (d a b : BitVec 5) (p : BitVec 3) (z : BitVec 1) (s : State) : Out :=
  s.permute st d p z 2 fun w i =>
    let n := 2048 / w
    if i < n / 2 then lane w (s.readV a).toNat (2 * i) else lane w (s.readV b).toNat (2 * i - n)
/-- vmov (R281). -/
def execVmov (st : BitVec 3) (d a : BitVec 5) (p : BitVec 3) (z : BitVec 1) (s : State) : Out :=
  s.permute st d p z 3 fun w i => lane w (s.readV a).toNat i

/-! ### Reductions (R93, R279) -/

/-- One level of the tree: node k joins the first pair; a node with one absent input passes the other on. -/
def treeLevel (node : Nat → Nat → Nat → Nat × Nat) : Nat → List (Option Nat) → List (Option Nat) × Nat
  | k, some x :: some y :: xs =>
    let (r, f) := node k x y
    let (rs, fs) := treeLevel node (k + 1) xs
    (some r :: rs, orFlags f fs)
  | k, x :: y :: xs =>
    let (rs, fs) := treeLevel node (k + 1) xs
    (x.or y :: rs, fs)
  | _, xs => (xs, 0)

/-- The tree from its next level on, with at most n levels left: the result and the flags. -/
def reduceTree (node : Nat → Nat → Nat → Nat × Nat) : Nat → Nat → List (Option Nat) → Option Nat × Nat
  | 0, _, xs => (xs.head?.join, 0)
  | n + 1, k, xs =>
    if xs.length ≤ 1 then (xs.head?.join, 0)
    else
      let (ys, f) := treeLevel node k xs
      let (r, g) := reduceTree node n (k + xs.length / 2) ys
      (r, orFlags f g)

/-- A reduction of the active elements of va at width w into gd. -/
def State.reduce (s : State) (st : BitVec 3) (d a : BitVec 5) (p : BitVec 3) (w : Nat) (node : Nat → Nat → Nat → Nat × Nat)
    (empty : Nat) (fill : Nat → Word) : Out :=
  let xs := (List.range (2048 / w)).map fun i => if s.active p w i then some (lane w (s.readV a).toNat i) else none
  let (r, f) := reduceTree node 8 0 xs
  ((s.writeG d (fill (r.getD empty)) 8).flag f).done st

/-- vredadd (R279). -/
def execVredadd (st : BitVec 3) (d a : BitVec 5) (p : BitVec 3) (s : State) : Out :=
  let m := s.rm
  s.withType s.floatFmt true fun f =>
    State.advanced (s.reduce st d a p (fmtBits f) (fun k x y => rounded f (addV (decode f x) (decode f y) m) m (s.draw m k)) 0
      (.ofNat 64 ·)) m
/-- vredmax (R279). -/
def execVredmax (st : BitVec 3) (d a : BitVec 5) (p : BitVec 3) (s : State) : Out :=
  s.withType s.floatFmt false fun f =>
    s.reduce st d a p (fmtBits f) (fun _ x y => numberOf true f x y) ((fmtOf f).inf true) (.ofNat 64 ·)
/-- vredmin (R279). -/
def execVredmin (st : BitVec 3) (d a : BitVec 5) (p : BitVec 3) (s : State) : Out :=
  s.withType s.floatFmt false fun f =>
    s.reduce st d a p (fmtBits f) (fun _ x y => numberOf false f x y) ((fmtOf f).inf false) (.ofNat 64 ·)
/-- viredadd (R279). -/
def execViredadd (st : BitVec 3) (d a : BitVec 5) (p : BitVec 3) (s : State) : Out :=
  s.withType s.intWidth false fun w =>
    s.reduce st d a p w (fun _ x y => ((x + y) % 2 ^ w, 0)) 0 (Sys2Proof.sext w ·)
/-- viredmax (R279). -/
def execViredmax (st : BitVec 3) (d a : BitVec 5) (p : BitVec 3) (s : State) : Out :=
  s.withType s.intWidth false fun w =>
    s.reduce st d a p w (fun _ x y => (pickLane true true w x y, 0)) (2 ^ (w - 1)) (Sys2Proof.sext w ·)
/-- viredmin (R279). -/
def execViredmin (st : BitVec 3) (d a : BitVec 5) (p : BitVec 3) (s : State) : Out :=
  s.withType s.intWidth false fun w =>
    s.reduce st d a p w (fun _ x y => (pickLane true false w x y, 0)) (2 ^ (w - 1) - 1) (Sys2Proof.sext w ·)
/-- vredand (R279). -/
def execVredand (st : BitVec 3) (d a : BitVec 5) (p : BitVec 3) (s : State) : Out :=
  s.withType s.intWidth false fun w =>
    s.reduce st d a p w (fun _ x y => (x &&& y, 0)) (2 ^ w - 1) (.ofNat 64 ·)
/-- vredor (R279). -/
def execVredor (st : BitVec 3) (d a : BitVec 5) (p : BitVec 3) (s : State) : Out :=
  s.withType s.intWidth false fun w => s.reduce st d a p w (fun _ x y => (x ||| y, 0)) 0 (.ofNat 64 ·)

/-! ### Conversions (R280, R281) -/

/-- A source or destination type of a conversion: a format code, or a signed integer of a width. -/
inductive NumTy where
  | flt (f : Nat)
  | int (w : Nat) (signed : Bool)
  deriving DecidableEq, Repr

def NumTy.bits : NumTy → Nat
  | .flt f => fmtBits f
  | .int w _ => w
/-- A float code 1 to 6. -/
def fltTy (f : Nat) : Option NumTy := if 1 ≤ f ∧ f ≤ 6 then some (.flt f) else none
/-- An integer code, or the signed integer of FMT.IW where the prefix supplies none. -/
def State.intTy (s : State) (f : Option Nat) : Option NumTy :=
  match f with
  | some f => if isInt f then some (.int (fmtBits f) (isSigned f)) else none
  | none => some (.int s.iw true)

/-- The conversion of one element (R86). -/
def convertTy (a b : NumTy) (x m u : Nat) : Nat × Nat :=
  match a, b with
  | .flt f, .flt g => roundTo g (decode f x) m u
  | .flt f, .int w sg =>
    let (r, fl) := roundInt (decode f x) (intLo w sg) (intHi w sg) m u
    (intCode w r, fl)
  | .int w sg, .flt g => roundTo g (valOfInt (intOf w sg x)) m u
  | .int w sg, .int v tg => (intCode v (clampInt (intOf w sg x) (intLo v tg) (intHi v tg)), 0)

/-- A vector conversion of the lowest m elements, governed at the wider width: elements of the destination beyond m are
written zero (R280, R281). -/
def State.convertLanes (s : State) (st : BitVec 3) (d a : BitVec 5) (p : BitVec 3) (z : BitVec 1) (ws wd : Nat)
    (op : Nat → Nat → Nat × Nat) : Out :=
  let w := max ws wd
  let rs := (List.range (2048 / w)).map fun i => if s.active p w i then op i (lane ws (s.readV a).toNat i) else (0, 0)
  let old := (s.readV d).toNat
  let v := packLanes wd ((List.range (2048 / w)).map fun i =>
    if s.active p w i then (rs.getD i (0, 0)).1 else if z = 1 then 0 else lane wd old i)
  let kept (j : Nat) : Bool := z == 0 && (List.range (2048 / w)).any fun i => i * wd / 64 == j && !s.active p w i
  ((s.modCx fun c => c.putLanes d.toNat v 3 kept).flag (allFlags rs)).done st

/-- A conversion that rounds (R280). -/
def State.convertOp (s : State) (st : BitVec 3) (d a : BitVec 5) (p : BitVec 3) (z : BitVec 1) (src dst : Option NumTy) : Out :=
  let m := s.rm
  match src, dst with
  | some x, some y =>
    s.check [chk (s.srForbidden m) 0x0A]
      (State.advanced (s.convertLanes st d a p z x.bits y.bits fun i c => convertTy x y c m (s.draw m i)) m)
  | _, _ => s.trap 0x60

/-- vcvt (R280). -/
def execVcvt (st : BitVec 3) (d a : BitVec 5) (p : BitVec 3) (z : BitVec 1) (s : State) : Out :=
  s.convertOp st d a p z (fltTy s.fmt1) (fltTy (s.cx.f2.getD 2))
/-- vcvtfi (R280). -/
def execVcvtfi (st : BitVec 3) (d a : BitVec 5) (p : BitVec 3) (z : BitVec 1) (s : State) : Out :=
  s.convertOp st d a p z (fltTy s.fmt1) (s.intTy s.cx.f2)
/-- vcvtif (R280). -/
def execVcvtif (st : BitVec 3) (d a : BitVec 5) (p : BitVec 3) (z : BitVec 1) (s : State) : Out :=
  s.convertOp st d a p z (s.intTy s.cx.f1) (fltTy (s.cx.f2.getD s.vf))

/-- Signedness of vnarrow and vwiden (R281). -/
def State.narrowSigned (s : State) : Bool :=
  match s.cx.f1 with
  | some f => isSigned f
  | none => true
/-- vnarrow (R281). -/
def execVnarrow (st : BitVec 3) (d a : BitVec 5) (p : BitVec 3) (z : BitVec 1) (s : State) : Out :=
  let sg := s.narrowSigned
  s.withType (s.intWidth.filter fun w => w != 8) false fun w =>
    s.convertLanes st d a p z w (w / 2) fun _ x =>
      let t := intOf w sg x
      let c := clampInt t (intLo (w / 2) sg) (intHi (w / 2) sg)
      (intCode (w / 2) c, if c = t then 0 else fSAT)
/-- vwiden (R281). -/
def execVwiden (st : BitVec 3) (d a : BitVec 5) (p : BitVec 3) (z : BitVec 1) (s : State) : Out :=
  let sg := s.narrowSigned
  s.withType (s.intWidth.filter fun w => w != 64) false fun w =>
    s.convertLanes st d a p z w (2 * w) fun _ x => (intCode (2 * w) (intOf w sg x), 0)

/-! ### Random bits (R282, R283) -/

/-- The key of use n of the mixer with a counter (R91, R282, R283). -/
def State.randKey (s : State) (n : Nat) (c : Word) : Nat :=
  mixer (s.me.seed.toNat ^^^ (n * 2 ^ 56)) (s.curCore * 2 ^ 53 + wfld c 0 53)

/-- vrand (R282). -/
def execVrand (st : BitVec 3) (d a : BitVec 5) (p : BitVec 3) (z : BitVec 1) (s : State) : Out :=
  let kr := s.randKey 1 (s.readG a)
  let v := (packLanes 64 ((List.range 32).map fun j => mixer kr j)).toNat
  s.permute st d p z 3 fun w i => lane w v i
/-- rand (R282). -/
def execRand (st : BitVec 3) (d a : BitVec 5) (s : State) : Out :=
  s.result st d (.ofNat 64 (mixer (s.randKey 1 (s.readG a)) 0)) 3
/-- dmask (R283). -/
def execDmask (st : BitVec 3) (d : BitVec 3) (a b : BitVec 5) (p : BitVec 3) (z : BitVec 1) (s : State) : Out :=
  let q := wfld (s.readG a) 0 16
  let kd := s.randKey 2 (s.readG b)
  let pg := s.readP p
  let bit (j : Nat) : Bool :=
    if wbit pg j then decide (fld (mixer kd (j / 4)) (16 * (j % 4)) 16 < q) else if z = 1 then false else wbit (s.readP d) j
  let v : Word := .ofNat 64 ((List.range 64).foldl (fun x j => if bit j then x + 2 ^ j else x) 0)
  (if z == 0 && pg != .allOnes 64 then s.mergeP d v 3 else s.writeP d v 3).done st

/-! ### Predicate instructions (R284) -/

/-- A predicate result. -/
def State.resultP (s : State) (st d : BitVec 3) (w : Word) : Out := (s.writeP d w 1).done st

/-- pand (R284). -/
def execPand (st d a b : BitVec 3) (s : State) : Out := s.resultP st d (s.readP a &&& s.readP b)
/-- por (R284). -/
def execPor (st d a b : BitVec 3) (s : State) : Out := s.resultP st d (s.readP a ||| s.readP b)
/-- pxor (R284). -/
def execPxor (st d a b : BitVec 3) (s : State) : Out := s.resultP st d (s.readP a ^^^ s.readP b)
/-- pandn (R284). -/
def execPandn (st d a b : BitVec 3) (s : State) : Out := s.resultP st d (s.readP a &&& ~~~ (s.readP b))
/-- pnot (R284). -/
def execPnot (st d a : BitVec 3) (s : State) : Out := s.resultP st d (~~~ (s.readP a))
/-- pmov (R284). -/
def execPmov (st d : BitVec 3) (a : BitVec 5) (s : State) : Out := s.resultP st d (s.readG a)
/-- pget (R284). -/
def execPget (st : BitVec 3) (d : BitVec 5) (a : BitVec 3) (s : State) : Out := s.result st d (s.readP a) 1
/-- pcnt (R284). -/
def execPcnt (st : BitVec 3) (d : BitVec 5) (a : BitVec 3) (s : State) : Out :=
  s.result st d (.ofNat 64 (popCount (s.readP a).toNat 64)) 1
/-- pfirst (R284). -/
def execPfirst (st : BitVec 3) (d : BitVec 5) (a : BitVec 3) (s : State) : Out :=
  s.result st d (.ofNat 64 (ctzBits (s.readP a).toNat 64)) 1

end Sys2Proof.Machine
end

