-- ==== Sys2Proof/Machine/Records.lean ====
section
/-! DEFINITION. Statistics records: contributions, accumulators, flushes, and the operations at a record's home (spec 04,
R96 to R109; spec 13, R287; spec 19, R393). -/

namespace Sys2Proof.Machine

/-! ### Scales and contributions (R98, R102, R109) -/

/-- MaxOf of a target format: mantissa and exponent (R109). -/
def maxOf (t : Nat) : Option (Nat × Int) :=
  if 3 ≤ t ∧ t ≤ 9 then
    match decode t (fmtOf t).maxCode with
    | .fin _ m e => some (m, e)
    | _ => none
  else none

/-- Ceil(Log2(m1 × 2 ^ e1 / (m2 × 2 ^ e2))) of non-zero magnitudes. -/
def ceilLog2Quot (m1 : Nat) (e1 : Int) (m2 : Nat) (e2 : Int) : Int :=
  let k : Int := ((Nat.log2 m1 : Nat) : Int) + e1 - ((Nat.log2 m2 : Nat) : Int) - e2
  if magLt m2 (e2 + k) m1 e1 then k + 1 else k

/-- The scale byte of a block or record whose largest magnitude is m × 2 ^ e (R77, R109, R290). -/
def scaleByte (m : Nat) (e : Int) (mx : Nat × Int) : Nat :=
  if m = 0 then 127 else (clampInt (ceilLog2Quot m e mx.1 mx.2 + 127) 0 254).toNat

/-- v times, and v divided by, the power of two that an E8M0 code names; code 0xFF is NaN (R73). -/
def timesE8 (v : Val) (b : Nat) : Val := if b = 255 then .nan false else scaleV v ((b : Int) - 127)
def overE8 (v : Val) (b : Nat) : Val := if b = 255 then .nan false else scaleV v (127 - (b : Int))

/-- |v| is above MaxOf(t) × 2 ^ (b - 127); an infinity always is; a t without MaxOf, or a scale that is NaN (R73), sets no
finite limit (R102). -/
def exceeds (v : Val) (t b : Nat) : Bool :=
  match v, maxOf t with
  | .inf _, _ => true
  | .fin _ m e, some (mm, me) => b != 255 && magLt mm (me + b - 127) m e
  | _, _ => false

/-- An i8. -/
def i8 (x : Nat) : Int := sgn 8 x

/-- The bin of a finite value (R98). -/
def binOf (anchor : Nat) (m : Nat) (e : Int) : Nat :=
  let x : Int := (Nat.log2 m : Nat) + e
  if m = 0 || decide (x < i8 anchor) then 0 else if i8 anchor + 21 < x then 23 else (x - i8 anchor + 1).toNat

def satAdd (w a b : Nat) : Nat := min (a + b) (2 ^ w - 1)

/-- AMAX's share of a finite value: rounded upward to FP32 and saturating. -/
def amaxCode (m : Nat) (e : Int) : Nat := min (roundTo 2 (.fin false m e) 3 0).1 0x7F7FFFFF

/-- A contribution to a delta with the control bytes of an entry, and whether it is an excess (R102). -/
def StatEntry.excess (e : StatEntry) (v : Val) : Bool := e.flags % 2 == 1 && !isNan v && exceeds v e.tgt e.scale
def StatEntry.rstrap (e : StatEntry) : Bool := e.flags / 2 % 2 == 1

/-- One in bin k more. -/
def bumpBin (h : List Nat) (k : Nat) : List Nat := (List.range 24).map fun i => if i = k then satAdd 16 (h.getD i 0) 1 else h.getD i 0

def StatEntry.contribute (e : StatEntry) (v : Val) : StatEntry :=
  let m := { e.sum with updates := satAdd 32 e.sum.updates 1, ovf := e.sum.ovf || e.excess v }
  { e with sum := match v with
    | .nan _ => { m with nan := satAdd 16 m.nan 1 }
    | .inf _ => { m with inf := satAdd 16 m.inf 1 }
    | .fin _ x ex => { m with amax := max m.amax (amaxCode x ex), hist := bumpBin m.hist (binOf e.anchor x ex) } }

/-! ### A record as its 64 bytes (R96, R97) -/

def recAmax (r : Nat) : Nat := fld r 0 32
def recScale (r : Nat) : Nat := fld r 64 8
def recAnchor (r : Nat) : Nat := fld r 72 8
def recTgt (r : Nat) : Nat := fld r 80 8
def recFrozen (r : Nat) : Bool := fld r 88 1 == 1
def recRstrap (r : Nat) : Bool := fld r 89 1 == 1

/-- The scale byte that a record gives (R109). -/
def recordScale (r : Nat) : Nat :=
  if recFrozen r then recScale r
  else match maxOf (recTgt r), decode 2 (recAmax r) with
    | some mx, .fin _ m e => scaleByte m e mx
    | _, _ => 127

/-- A record's bytes from its fields. -/
def packRecord (amax nan inf scale anchor tgt flags updates : Nat) (hist : Nat → Nat) : Nat :=
  amax % 2 ^ 32 + nan % 2 ^ 16 * 2 ^ 32 + inf % 2 ^ 16 * 2 ^ 48 + scale % 256 * 2 ^ 64 + anchor % 256 * 2 ^ 72 + tgt % 256 * 2 ^ 80
    + flags % 256 * 2 ^ 88 + updates % 2 ^ 32 * 2 ^ 96
    + (List.range 24).foldl (fun a k => a + hist k % 2 ^ 16 * 2 ^ (128 + 16 * k)) 0

/-- Flush: the delta merged into the record (R102, R105). -/
def mergeRecord (r : Nat) (d : StatSum) : Nat :=
  packRecord (max (recAmax r) d.amax) (satAdd 16 (fld r 32 16) d.nan) (satAdd 16 (fld r 48 16) d.inf) (recScale r) (recAnchor r)
    (recTgt r) (fld r 88 8 ||| (if d.ovf then 4 else 0)) (satAdd 32 (fld r 96 32) d.updates)
    fun k => satAdd 16 (fld r (128 + 16 * k) 16) (d.hist.getD k 0)

/-- STCLR (R105). -/
def clearRecord (anchor tgt : Nat) : Nat := packRecord 0 0 0 127 anchor tgt 0 0 fun _ => 0

/-- STFRZ (R105, R294): FMODE 0 freezes with a scale, 1 with the derived one, 2 thaws; a record that gives no derived
scale is left as it is. -/
def freezeRecord (r mode rstrap scale : Nat) : Option Nat :=
  let keep := packRecord (recAmax r) (fld r 32 16) (fld r 48 16)
  let rest (sc fl : Nat) := keep sc (recAnchor r) (recTgt r) (fld r 88 8 / 4 * 4 + fl) (fld r 96 32) fun k => fld r (128 + 16 * k) 16
  if mode = 0 then some (rest scale (1 + 2 * rstrap))
  else if mode = 1 then (if (maxOf (recTgt r)).isSome then some (rest (recordScale r) (1 + 2 * rstrap)) else none)
  else some (rest (recScale r) 0)

/-! ### Transport (R99, R104, R287) -/

/-- Virtual address of record n of a launch. -/
def Launch.recordVa (l : Launch) (n : Nat) : Nat := (wfld l.rtab 0 48 + 64 * n) % 2 ^ 48
/-- RECID is at or above the launch's record count (R99). -/
def State.badRecid (s : State) (n : Nat) : Bool :=
  match s.launchOf s.curCore with
  | some l => decide (l.rcount ≤ n)
  | none => true
/-- STAT_RECID (R351). -/
def recidRec (n : Nat) : FaultRec := { cause := 0x62, info2 := n }

/-- The virtual address of record n of core cn's launch. -/
def State.recordVa (s : State) (cn n : Nat) : Nat := ((s.launchOf cn).map fun l => l.recordVa n).getD 0

/-- A packet of core cn with a record operation for context k (12 the Shawm, 13 the copy unit, 15 none): class 0 and its
snapshot (R111, R287); a record about it names the instruction at issue, if a context issues it (R350). -/
def State.recordPacket (s : State) (cn k recid : Nat) (b : Body) : Packet :=
  let mine := cn == s.curCore && k == s.curCtx
  let w := if mine then s.slkOf 0 else (SMap.get (0 : Word) (s.core cn).slk 0).toNat
  let va := s.recordVa cn recid
  { cn := cn, seq := 0, ctx := k, pc := if mine then s.cx.pc.toNat % 2 ^ 22 else 0, kind := 15, part := s.partOf cn, lid := s.lidOf cn,
    home := s.homeAtIssue (s.partOf cn) va, addr := va, slack := slkInit w, rallow := slkRallow w, cls := 0, slk := if mine then w else 0,
    report := if mine then s.located {} else {}, body := b }

/-- The transaction of a request p about a record, for context k (13 the copy unit, 15 a flush) or a copy (R136, R138; log entry
38). -/
def Packet.recordTx (p : Packet) (k seq : Nat) (copy : Option Nat) : Tx :=
  { seq := seq, ctx := k, report := p.report, kind := 15, cls := 0, slk := p.slk, dest := 0, addr := .ofNat 64 p.addr, home := p.home,
    key := p.home.key, copy := copy, first := seq, body := p.body }

/-- A request about a record sets out as a transaction of its core, with its id (R138). -/
def State.sendRecordTx (s : State) (p : Packet) (k : Nat) (copy : Option Nat) : State :=
  let seq := (s.core p.cn).txSeq.toNat
  (s.modCore p.cn fun c => c.opens (p.recordTx k seq copy)).send { p with seq := seq, first := seq, xfer := copy }

/-- What keeps core cn from sending a request toward a home: its mesh router refuses it, or the window is full (R136, R310). -/
def State.heldBack (s : State) (cn : Nat) (h : Home) : Option Wait :=
  if (s.core cn).choked then some .router
  else if (s.core cn).windowFull h.key then some (.window h.key) else none

/-- The issuing context sends a record operation as a transaction in class 0 and waits for its answer (R287); it waits
while the window toward the record's home is full (R136). -/
def State.sendRecord (s : State) (recid : Nat) (b : Body) : Out :=
  let p := s.recordPacket s.curCore s.curCtx recid b
  match s.heldBack s.curCore p.home with
  | some w => s.block w
  | none => ((s.modCx fun x => x.count 4).sendRecordTx p s.curCtx none).block (.sent (2 * s.me.txSeq.toNat + 1))

/-- A record's 64 bytes as the data of its home's answer. -/
def recordOf (data : List Word) : Nat := (data.take 8).zipIdx.foldl (fun a (w, i) => a + w.toNat * 2 ^ (64 * i)) 0

/-- An instruction that reads record n goes on with its 64 bytes once its home has answered (R287); until then it has
checked RECID, sent the read, and waits. Its other operands it reads when it goes on (DESIGN CHOICE, log entry 95). -/
def State.withRecord (s : State) (n : Nat) (k : Nat → Out) : Out :=
  match s.cx.wait with
  | .got _ data => k (recordOf data)
  | _ => s.check [(s.badRecid n, recidRec n)] (s.sendRecord n (.recRead n))

/-- The record that has been read is older than the core's last STSYNC, so that no accumulator entry may be filled from it
(R108). -/
def State.staleRecord (s : State) : Bool :=
  match s.cx.wait with
  | .got _ data => data.getD 8 0 != .ofNat 64 s.me.syncs
  | _ => false

/-- An accumulator entry of core cn leaves it as a flush that context k triggers (15 none), a request with a transaction id
(R104, R138). -/
def State.flushEntry (s : State) (cn k : Nat) (e : StatEntry) : State :=
  (s.sendRecordTx { s.recordPacket cn k e.recid (.flush e.recid e.sum) with slk := 0 } 15 none).modCore cn fun c =>
    { c with stats := c.stats.filter fun x => x.recid != e.recid, flushes := c.flushes + 1 }

/-- What keeps the flush of an entry of core cn from setting out now (R136). -/
def State.flushHeld (s : State) (cn : Nat) (e : StatEntry) : Option Wait :=
  s.heldBack cn (s.homeAtIssue (s.partOf cn) (s.recordVa cn e.recid))

/-- Every entry of core cn that may set out is flushed, for context k (15 none). -/
def State.flushAll (s : State) (cn k : Nat) : State :=
  (s.core cn).stats.foldl (fun s e => if (s.flushHeld cn e).isSome then s else s.flushEntry cn k e) s

/-- What the first entry of core cn that has not been flushed waits for. -/
def State.flushWait (s : State) (cn : Nat) : Option Wait := (s.core cn).stats.findSome? fun e => s.flushHeld cn e

/-- The entry of core cn for a record. -/
def Core.statEntry (c : Core) (n : Nat) : Option StatEntry := c.stats.find? fun e => e.recid == n
/-- The core with an entry replaced. -/
def Core.setEntry (c : Core) (e : StatEntry) : Core :=
  { c with stats := c.stats.map fun x => if x.recid == e.recid then e else x }
/-- A new entry with the control bytes of a record. -/
def entryOf (n r : Nat) : StatEntry := ⟨n, {}, recScale r, recAnchor r, recTgt r, fld r 88 2⟩

/-- The entry that core cn flushes to have one free for record n, the implementation's choice; none if it needs none (R103; log
entry 6). -/
def State.victim (s : State) (cn n : Nat) : Option StatEntry :=
  let c := s.core cn
  if (c.statEntry n).isSome || decide (c.stats.length < 8) then none else c.stats[Config.freeChoice s.fresh % 8]?

/-- Core cn fills an entry from a record's bytes; with no free entry it flushes a victim for context k (R103). -/
def State.fillEntry (s : State) (cn k n r : Nat) : State :=
  if ((s.core cn).statEntry n).isSome then s
  else
    let s := match s.victim cn n with
      | some v => { s.flushEntry cn k v with fresh := s.fresh + 1 }
      | none => s
    s.modCore cn fun c => { c with stats := c.stats ++ [entryOf n r] }

/-- What keeps core cn from filling an entry for record n: its victim's flush cannot set out yet (R103, R136). -/
def State.fillHeld (s : State) (cn n : Nat) : Option Wait := (s.victim cn n).bind fun v => s.flushHeld cn v

/-- The instruction goes on unless the entry that it has to fill for record n has no place yet (R103, R136). -/
def State.unlessNoEntry (s : State) (n : Nat) (k : Out) : Out :=
  match s.fillHeld s.curCore n with
  | some w => s.block w
  | none => k

/-- The issuing core's entry for record n, filled from the home first if there is none (R103, R296), and from a read that
is not older than the core's last STSYNC (R108). -/
def State.withEntry (s : State) (n : Nat) (k : State → StatEntry → Out) : Out :=
  match s.me.statEntry n with
  | some e => k s e
  | none =>
    if s.staleRecord then s.sendRecord n (.recRead n)
    else s.withRecord n fun r => s.unlessNoEntry n
      (let s := s.fillEntry s.curCore s.curCtx n r
       k s ((s.me.statEntry n).getD (entryOf n r)))

/-- Contributions of core cn to record n, through its entry; the last answer is the number of excesses. -/
def StatEntry.contributeAll (e : StatEntry) (vs : List Val) : StatEntry × Nat :=
  vs.foldl (fun (e, k) v => (e.contribute v, if e.excess v then k + 1 else k)) (e, 0)

/-! ### At the home (R105, R393) -/

/-- The core that stands for the Shawm in records about record n of launch l: the origin core of the lowest-numbered group
that names the record in a region, or of the launch's lowest-numbered group (R358). -/
def State.shawmCore (s : State) (l : Launch) (n : Nat) : Nat :=
  let own := s.groups.filter fun g => g.2.part == l.part && g.2.lid == l.lid
  let named (g : Nat × Group) : Bool := g.2.descs.any fun d => (List.range 8).any fun r =>
    wbit (d.2.getD (3 * r) 0) 63 && wbit (d.2.getD (3 * r + 1) 0) 43 && wfld (d.2.getD (3 * r + 1) 0) 44 20 == n
  (((own.find? named).orElse fun _ => own.head?).bind fun g => g.2.members.head?).getD (l.y0 * 64 + l.x0)

/-- A record operation or flush that meets a translation failure is suspended, and its CT receives STATS_XLATE (R358,
R393); its operation id is the low 16 bits of the packet's number. -/
def State.suspendRecord (s : State) (i : Nat) (p : Packet) (va : Nat) (write : Bool) : State :=
  (s.modCore p.cn fun c => { c with susp := c.susp ++ [⟨2, i % 65536, i⟩] }).async p.cn
    { p.report with cause := 0x86, eng := true, addr := .ofNat 64 va, info1 := if write then 1 else 0, opkind := 2, opid := i % 65536 }

/-- Packet i is suspended at core cn. -/
def Core.suspended (c : Core) (i : Nat) : Bool := c.susp.any fun x => x.pkt == i

/-- The eight doublewords of a record at a physical address. -/
def recordDws (m : Memory) (pa : Nat) : List Word := (List.range 8).map fun j => Memory.dword m (pa + 8 * j)

/-- FLUSH_MERGE (R102, R105): a delta is merged at the record's home, which completes its request; the record's page is read-only
to the launch (R100). -/
def execFlushMerge (i : Nat) (s : State) : Out :=
  match s.packet i with
  | some p =>
    match p.body with
    | .flush _ d =>
      if (s.core p.cn).suspended i then .refused .notEnabled
      else
        match s.translate (if p.ctx = 12 then none else some p.cn) p.part p.addr .read with
        | (.ok pa, s) =>
          let s := (s.putBytes pa (leBytes 64 (mergeRecord (Memory.num s.gmem pa 64) d))).takePacket i p
          .next (if p.ctx = 12 then s else s.modCore p.cn fun c => { c.completeTx p.seq with flushes := c.flushes - 1 })
        | (_, s) => .next (s.suspendRecord i p p.addr true)
    | _ => .refused .notEnabled
  | none => .refused .notEnabled

/-- A record operation on the record r: what it writes, if anything, with its status and data; n is the number of STSYNC
instructions that the issuing core has executed. -/
def recordOp (b : Body) (r n : Nat) : Option (Option Nat × Nat × List Word) :=
  match b with
  | .recRead _ => some (none, 0, (List.range 8).map (fun j => .ofNat 64 (fld r (64 * j) 64)) ++ [.ofNat 64 n])
  | .recClear _ anchor tgt => some (some (clearRecord anchor tgt), 0, [1])
  | .recFreeze _ mode rstrap scale =>
    match freezeRecord r mode rstrap scale with
    | some r => some (some r, 0, [1])
    | none => some (none, 1, [1])
  | _ => none

/-- Packet i's record operation has been performed: its issuer is answered by a reply (R132). -/
def State.recordDone (s : State) (i : Nat) (p : Packet) (st : Nat) (data : List Word) : State :=
  (s.takePacket i p).send { p with home := .core p.cn, slack := min 4095 (p.slack + p.rallow), rallow := 0, marked := false,
                                   reply := true, body := .reply st data }

/-- RECORD_HOME_OPERATION (R105, R287): a read, clear or freeze is performed in arrival order and answered. -/
def execRecordHomeOperation (i : Nat) (s : State) : Out :=
  match s.packet i with
  | some p =>
    if (s.core p.cn).suspended i || (recordOp p.body 0 0).isNone then .refused .notEnabled
    else
      match s.translate (some p.cn) p.part p.addr .read with
      | (.ok pa, s) =>
        match recordOp p.body (Memory.num s.gmem pa 64) (s.core p.cn).syncs with
        | some (w, st, data) =>
          let s := match w with
            | some r => s.putBytes pa (leBytes 64 r)
            | none => s
          .next (s.recordDone i p st data)
        | none => .refused .notEnabled
      | (_, s) => .next (s.suspendRecord i p p.addr (match p.body with | .recRead _ => false | _ => true))
  | none => .refused .notEnabled

/-- The number under which the Shawm's accumulator keeps record n of a launch. -/
def shawmId (part lid n : Nat) : Nat := part * 2 ^ 52 + lid * 2 ^ 20 + n

/-- An entry of the Shawm's accumulator leaves it as a flush, for the generation of the group with an origin core, or at the
implementation's choice (none), under an id of the core that stands for it; one whose launch is gone is dropped (R104, R138, R358). -/
def State.flushShawm (s : State) (origin : Option Nat) (e : StatEntry) : State :=
  let part := e.recid / 2 ^ 52
  let lid := e.recid / 2 ^ 20 % 2 ^ 32
  let n := e.recid % 2 ^ 20
  let s := { s with shawmStats := s.shawmStats.erase e }
  match s.launch? part lid with
  | some l =>
    let cn := origin.getD (s.shawmCore l n)
    let seq := (s.core cn).txSeq
    (s.modCore cn fun c => { c with txSeq := c.txSeq + 1 }).send
      { cn := cn, seq := seq.toNat, first := seq.toNat, ctx := 12, pc := 0, kind := 15, part := part, lid := lid,
        home := s.homeAtIssue part (l.recordVa n), addr := l.recordVa n, slack := 0, rallow := 0, cls := 0, body := .flush n e.sum }
  | none => s

/-- ACCUMULATOR_FLUSH (R104): entry n of a core's accumulator, or of the Shawm's, is flushed at the implementation's
choice. -/
def execAccumulatorFlush (owner : Option CoreNo) (n : Nat) (s : State) : Out :=
  match owner with
  | some cn =>
    match (s.core cn.toNat).stats[n]? with
    | some e => if (s.flushHeld cn.toNat e).isSome then .refused .notEnabled else .next (s.flushEntry cn.toNat 15 e)
    | none => .refused .notEnabled
  | none =>
    match s.shawmStats[n]? with
    | some e => .next (s.flushShawm none e)
    | none => .refused .notEnabled

end Sys2Proof.Machine
end

