-- ==== Sys2Proof/Machine/Blocks.lean ====
section
/-! DEFINITION. Block formats: B4X and FP6 blocks, packed and unpacked (spec 03, R73 to R78; spec 13, R290, R291, R300). -/

namespace Sys2Proof.Machine

/-! ### Candidates of a B4X block, in units of 2 ^ -9 (R77 step 4) -/

/-- Magnitudes of E2M1 codes 0 to 7 in units of 2 ^ -9. -/
def e2m1Units : List Nat := [0, 256, 512, 768, 1024, 1536, 2048, 3072]
/-- A finite value as an integer in units of 2 ^ -9, for a value of FP8E4. -/
def units9 (v : Val) : Int :=
  match v with
  | .fin n m e => scaled n m e (-9)
  | _ => 0
/-- The values of codes 0 to 7 and 9 to 15, each with its code. -/
def e2m1Candidates : List (Int × Nat) :=
  (e2m1Units.zipIdx.map fun (u, c) => ((u : Int), c)) ++ (e2m1Units.zipIdx.tail.map fun (u, c) => (-(u : Int), c + 8))
/-- The candidate set with the special value d, code 8, where no other code represents it (R77 step 5). -/
def candidates (d : Int) : List (Int × Nat) :=
  e2m1Candidates ++ if e2m1Candidates.any fun c => c.1 == d then [] else [(d, 8)]

/-- One element of a block. -/
structure Quantised where
  code : Nat
  flags : Nat
  deriving DecidableEq, Repr

/-- The candidate that the bracket lo < v < hi gives, both with v's sign or zero, t = floor (f × 2 ^ 32) (R77, R79, R81). -/
def pickCandidate (neg : Bool) (lo hi : Int × Nat) (twice sum : Int) (t mode draw : Nat) : Int × Nat :=
  let inner := if neg then hi else lo
  let outer := if neg then lo else hi
  let tie : Int × Nat :=
    if inner.2 = 8 then inner else if outer.2 = 8 then outer
    else if mode = 4 then outer else if inner.2 % 2 = 0 then inner else outer
  match mode with
  | 1 => inner
  | 2 => lo
  | 3 => hi
  | 0 => if twice < sum then lo else if sum < twice then hi else tie
  | 4 => if twice < sum then lo else if sum < twice then hi else tie
  | _ => if 2 ^ 32 ≤ draw + t then outer else inner

/-- A finite magnitude m × 2 ^ e rounded to E2M1's two significant bits with an unbounded exponent range; a stochastic
mode counts as RNE (R77). -/
def roundE2 (neg : Bool) (m : Nat) (e : Int) (mode : Nat) : Nat × Int :=
  let q : Int := (Nat.log2 m : Nat) + e - 1
  ((Mag.roundAt ⟨m, e, false⟩ neg q (if 5 ≤ mode then 0 else mode) 0).1, q)

/-- One finite element v of a B4X block with special value d (R77 steps 4 to 8). Under a given scale an element between 6 and |d| whose
sign is not d's has no candidate beyond it: it becomes the largest one of its sign, NX and not SAT (DESIGN CHOICE, log entry 90). -/
def b4xElement (d : Int) (neg : Bool) (m : Nat) (e : Int) (mode draw : Nat) : Quantised :=
  if m = 0 then ⟨0, 0⟩
  else
    let cs := candidates d
    let e0 := min e (-9)
    let k := (-9 - e0).toNat
    let up (c : Int × Nat) : Int × Nat := (c.1 * (2 ^ k : Nat), c.2)
    let v := scaled neg m e e0
    let below := (cs.map up).filter fun c => c.1 ≤ v
    let above := (cs.map up).filter fun c => v ≤ c.1
    let lo := below.foldl (fun b c => match b with
      | some x => if x.1 < c.1 then some c else b
      | none => some c) none
    let hi := above.foldl (fun b c => match b with
      | some x => if c.1 < x.1 then some c else b
      | none => some c) none
    let top : Int := cs.foldl (fun a c => max a (c.1.natAbs : Int)) 0 * (2 ^ k : Nat)
    let code := match lo, hi with
      | some l, some h => if l.1 = h.1 then l.2 else
          let inner := if neg then h.1.natAbs else l.1.natAbs
          let outer := if neg then l.1.natAbs else h.1.natAbs
          (pickCandidate neg l h (2 * v) (l.1 + h.1) ((v.natAbs - inner) * 2 ^ 32 / (outer - inner)) mode draw).2
      | some l, none => l.2
      | none, some h => h.2
      | none, none => 0
    let value := ((cs.map up).find? fun c => c.2 == code).map (·.1)
    let inexact := value != some v
    let beyond := decide (top < (v.natAbs : Int))
    let r := roundE2 neg m e mode
    let tiny := magLt r.1 r.2 1 0 && r.1 != 0
    let sat := beyond && (decide (5 ≤ mode) || magLt top.natAbs e0 r.1 r.2)
    ⟨code, (if inexact then fNX else 0) ||| (if inexact && tiny && code != 8 then fUF else 0) ||| (if sat then fSAT else 0)⟩

/-- The largest finite magnitude of some values, the first index that has it, and its value. -/
def largest (vs : List Val) : Nat × Int × Bool :=
  vs.foldl (fun (m, e, n) v => match v with
    | .fin s m' e' => if magLt m e m' e' then (m', e', s) else (m, e, n)
    | _ => (m, e, n)) (0, 0, false)

/-- A block's scale byte, second side byte, element codes and flags. -/
structure BlockOut where
  scale : Nat
  special : Nat
  elems : List Quantised
  deriving DecidableEq, Repr

/-- NV for the signalling NaNs of a block. -/
def nvAll (vs : List Val) : Nat := if vs.any isSnan then fNV else 0

/-- A block of values quantised to B4X (T = 9) or FP6 (T = 7, 8), with its own scale or a given one (R77, R78, R290);
draw i is element i's. A given scale that is NaN makes every element one (R73). Of a block that holds a NaN the finite
elements set no flag (DESIGN CHOICE, log entry 66). -/
def quantBlock (t : Nat) (vs : List Val) (given : Option Nat) (mode : Nat) (draw : Nat → Nat) : BlockOut :=
  let zero : Quantised := ⟨0, 0⟩
  if vs.any isNan || given == some 255 then ⟨255, 0, vs.map fun v => { zero with flags := nvOf v }⟩
  else
    let (m, e, n) := largest vs
    let b := given.getD (scaleByte m e ((maxOf t).getD (1, 0)))
    let k : Int := 127 - b
    if t = 9 then
      let s := (roundTo 5 (.fin n m (e + k)) 0 0).1
      let d := units9 (decode 5 s)
      ⟨b, s, vs.zipIdx.map fun (v, i) => match v with
        | .inf neg => ⟨if neg then 15 else 7, fSAT⟩
        | .fin neg m e => b4xElement d neg m (e + k) mode (draw i)
        | .nan _ => zero⟩
    else ⟨b, 0, vs.zipIdx.map fun (v, i) => let r := roundTo t (scaleV v k) mode (draw i); ⟨r.1, r.2⟩⟩

/-- A value with no negative zero. -/
def plusZero (v : Val) : Val :=
  match v with
  | .fin _ 0 e => .fin false 0 e
  | v => v

/-- Element code c of a B4X block with scale and special bytes; no element decodes to a negative zero (R76). -/
def b4xValue (scale special c : Nat) : Val :=
  if scale = 255 then .nan false
  else plusZero (scaleV (if c = 8 then decode 5 special else decodeF (fmtOf 9) c) (scale - 127))

/-- Element code c of an FP6 block with side scale sb (R291, R300). -/
def fp6Value (t sb c : Nat) : Val := if sb = 255 then .nan false else scaleV (decode t c) (sb - 127)

/-- The value of element code c of a block format. -/
def blockValue (t scale special c : Nat) : Val := if t = 9 then b4xValue scale special c else fp6Value t scale c

/-- Bits of one element of a block format. -/
def blockBits (t : Nat) : Nat := if t = 9 then 4 else 6

/-- Blocks packed as qntb writes them: element bits from bit 0, then two side bytes a block (R290). -/
def packBlocks (t : Nat) (bs : List BlockOut) : Nat :=
  let w := blockBits t
  let elems := (bs.flatMap fun b => b.elems.map (·.code)).zipIdx.foldl (fun a (c, i) => a + c % 2 ^ w * 2 ^ (w * i)) 0
  bs.zipIdx.foldl (fun a (b, j) => a + (b.scale + b.special * 256) * 2 ^ (32 * w * bs.length + 16 * j)) elems

/-- Element i of elements packed in blocks whose side bytes begin at bit sideAt (R290, R300). -/
def unpackBlock (t x i sideAt : Nat) : Val :=
  let w := blockBits t
  blockValue t (fld x (sideAt + 16 * (i / 32)) 8) (fld x (sideAt + 16 * (i / 32) + 8) 8) (fld x (w * i) w)

end Sys2Proof.Machine
end

