-- ==== Sys2Proof/Machine/Tensor.lean ====
section
/-! DEFINITION. Quantisation, statistics and stat-tracked stores, major 0x2A (spec 13, R285 to R296). -/

namespace Sys2Proof.Machine

/-! ### The tensor operand (R286) -/

def tRecid (e : Word) : Nat := wfld e 44 20
def tRecen (e : Word) : Bool := wbit e 43
def tEchan (e : Word) : Nat := wfld e 32 6
def tFmode (e : Word) : Nat := wfld e 28 2
def tRst (e : Word) : Nat := wfld e 27 1
def tPg (e : Word) : BitVec 3 := .ofNat 3 (wfld e 24 3)
def tAnchor (e : Word) : Nat := wfld e 16 8
def tBlk (e : Word) : Bool := wbit e 12
def tTgt (e : Word) : Nat := wfld e 8 4
def tScale (e : Word) : Nat := wfld e 0 8

/-- The record that the operand names, if it enables one: its 64 bytes; an instruction without one goes on at once. -/
def State.withOptRecord (s : State) (e : Word) (k : Option Nat → Out) : Out :=
  if tRecen e then s.withRecord (tRecid e) fun r => k (some r) else k none

/-- RESCALE at the lowest of some elements that fails (R289, R290, R296, R351). -/
def rescaleCheck (recid : Nat) (bad : List Nat) : Bool × FaultRec :=
  match bad with
  | i :: _ => (true, { cause := 0x61, info0 := i, info2 := recid })
  | [] => (false, {})

/-- The elements of a register in a scalar format, as values. -/
def State.values (s : State) (v : BitVec 5) (f : Nat) : List Val :=
  (List.range (2048 / fmtBits f)).map fun i => decode f (lane (fmtBits f) (s.readV v).toNat i)

/-- Codes of w bits packed from bit 0, zero above. -/
def packCodes (w : Nat) (cs : List Nat) : Nat := cs.zipIdx.foldl (fun a (c, i) => a + c % 2 ^ w * 2 ^ (w * i)) 0

/-- A vector register result of a rounding tensor instruction, with its flags and the advance of RNDCTR (R288). -/
def State.tensorResult (s : State) (st : BitVec 3) (d : BitVec 5) (x flags m : Nat) : Out :=
  (((s.writeV d (.ofNat 2048 x) 0).flag flags).advance m).done st

/-! ### qnt, qntb, dqnt (R289 to R291) -/

/-- qnt (R289). -/
def execQnt (st : BitVec 3) (d a : BitVec 5) (e : BitVec 3) (s : State) : Out :=
  let t := s.readE e
  let m := s.rm
  match s.floatFmt with
  | none => s.trap 0x60
  | some f => s.withOptRecord t fun r =>
    let tgt := match r with
      | some r => recTgt r
      | none => tTgt t
    let b := match r with
      | some r => recordScale r
      | none => tScale t
    let xs := s.values a f
    let trapped := match r with
      | some r => recFrozen r && recRstrap r
      | none => false
    let bad := (List.range xs.length).filter fun i => trapped && exceeds (xs.getD i (.nan false)) tgt b
    let rs := xs.zipIdx.map fun (x, i) => roundTo tgt (overE8 x b) m (s.draw m i)
    s.check [chk (r.isNone && b == 255) 0x63, chk (!(decide (3 ≤ tgt) && decide (tgt ≤ 8))) 0x60, chk (s.srForbidden m) 0x0A,
        rescaleCheck (tRecid t) bad]
      (s.tensorResult st d (packCodes (fmtBits tgt) (rs.map (·.1))) (allFlags rs) m)

/-- The blocks of 32 of a list of values, for n blocks. -/
def blocksOf : Nat → List Val → List (List Val)
  | 0, _ => []
  | n + 1, xs => xs.take 32 :: blocksOf n (xs.drop 32)

/-- qntb (R290). -/
def execQntb (st : BitVec 3) (d a : BitVec 5) (e : BitVec 3) (s : State) : Out :=
  let t := s.readE e
  let m := s.rm
  match s.floatFmt with
  | none => s.trap 0x60
  | some f => s.withOptRecord t fun r =>
    let tgt := match r with
      | some r => recTgt r
      | none => tTgt t
    let given := match r with
      | some r => if recFrozen r then some (recScale r) else none
      | none => none
    let trapped := match r with
      | some r => recFrozen r && recRstrap r
      | none => false
    let xs := s.values a f
    let bad := (List.range xs.length).filter fun i => trapped && exceeds (xs.getD i (.nan false)) tgt (given.getD 127)
    let bs := (blocksOf (xs.length / 32) xs).zipIdx.map fun (b, j) => quantBlock tgt b given m fun i => s.draw m (32 * j + i)
    let fl := bs.foldl (fun a b => b.elems.foldl (fun a q => orFlags a q.flags) a) 0
    s.check [chk (!(decide (7 ≤ tgt) && decide (tgt ≤ 9))) 0x60, chk (s.srForbidden m) 0x0A, rescaleCheck (tRecid t) bad]
      (s.tensorResult st d (packBlocks tgt bs) fl m)

/-- dqnt (R291): the secondary format is the destination's, the primary one the source's. -/
def execDqnt (st : BitVec 3) (d a : BitVec 5) (e : BitVec 3) (s : State) : Out :=
  let t := s.readE e
  let m := s.rm
  let df := s.cx.f2.getD s.vf
  if !(decide (1 ≤ df) && decide (df ≤ 4)) then s.trap 0x60
  else s.withOptRecord t fun r =>
    let sf := s.cx.f1.getD (match r with
      | some r => recTgt r
      | none => tTgt t)
    let blk := tBlk t
    let b := match r with
      | some r => recordScale r
      | none => tScale t
    let n := 2048 / fmtBits df
    let x := (s.readV a).toNat
    let val (i : Nat) : Val :=
      if blk then unpackBlock sf x i (blockBits sf * n) else timesE8 (decode sf (lane (fmtBits sf) x i)) b
    let rs := (List.range n).map fun i => roundTo df (val i) m (s.draw m i)
    s.check [chk (if blk then !(decide (7 ≤ sf) && decide (sf ≤ 9)) else !(decide (3 ≤ sf) && decide (sf ≤ 8))) 0x60,
        chk (!blk && r.isNone && b == 255) 0x63, chk (s.srForbidden m) 0x0A]
      (s.tensorResult st d (packCodes (fmtBits df) (rs.map (·.1))) (allFlags rs) m)

/-! ### Records (R292 to R295) -/

/-- strd (R292). -/
def execStrd (st : BitVec 3) (d : BitVec 5) (e : BitVec 3) (s : State) : Out :=
  s.withRecord (tRecid (s.readE e)) fun r => (s.writeV d (.ofNat 2048 r) 0).done st

/-- The issuing core's entry for a record is flushed, and the merge of every flush of the record that the core has sent is
awaited; then the operation is sent to the home and its answer awaited (R293, R294). -/
def State.controlRecord (s : State) (st : BitVec 3) (recid : Nat) (b : Body) : Out :=
  match s.cx.wait with
  | .got status _ => if status = 0 then s.done st else s.trap 0x60
  | .merge _ => s.sendRecord recid b
  | _ =>
    match s.me.statEntry recid with
    | some en => match s.flushHeld s.curCore en with
      | some w => s.block w
      | none => (s.flushEntry s.curCore s.curCtx en).block (.merge recid)
    | none => if s.me.flushing recid then s.block (.merge recid) else s.sendRecord recid b

/-- stclr (R293). -/
def execStclr (st : BitVec 3) (e : BitVec 3) (s : State) : Out :=
  let t := s.readE e
  let n := tRecid t
  s.check [chk (!(decide (3 ≤ tTgt t) && decide (tTgt t ≤ 9))) 0x63, (s.badRecid n, recidRec n)]
    (s.controlRecord st n (.recClear n (tAnchor t) (tTgt t)))

/-- stfrz (R294). -/
def execStfrz (st : BitVec 3) (e : BitVec 3) (s : State) : Out :=
  let t := s.readE e
  let n := tRecid t
  s.check [chk (tFmode t == 3 || (tFmode t == 0 && tScale t == 255)) 0x63, (s.badRecid n, recidRec n)]
    (s.controlRecord st n (.recFreeze n (tFmode t) (tRst t) (tScale t)))

/-- stsync (R106, R295): a release at the scope; every entry is flushed, and the merges are awaited. -/
def execStsync (st : BitVec 3) (c : BitVec 3) (s : State) : Out :=
  if !scopeLegal c then s.trap 0x02
  else if s.cx.wait = .merges then s.done st
  else if s.releasePending s.curCore s.curCtx c.toNat then s.block (.release c.toNat)
  else
    let s := (s.modMe fun c => { c with syncs := c.syncs + 1 }).flushAll s.curCore s.curCtx
    match s.flushWait s.curCore with
    | some w => s.block w
    | none => if s.me.flushes = 0 then s.done st else s.block .merges

/-! ### Stat-tracked stores (R296) -/

/-- A stat-tracked store whose element i goes to addr i. -/
def State.storeTracked (s : State) (st : BitVec 3) (d : BitVec 5) (e : BitVec 3) (gather : Bool) (addr : Nat → Nat → Word) : Out :=
  let t := s.readE e
  let n := tRecid t
  let f := s.fmt1
  match s.memWidth gather, decide (1 ≤ f) && decide (f ≤ 6) with
  | some w, true =>
    let es := s.activeLanes (tPg t) w
    let v := (s.readV d).toNat
    let cs := s.laneChecks es w (addr w) true
    s.check ((s.badRecid n, recidRec n) :: cs.filter fun c => c.2.cause != 0xA0)
      (s.withEntry n fun s en =>
        let bad := es.filter fun i => en.rstrap && en.excess (decode f (lane w v i))
        s.check (rescaleCheck n bad :: cs.filter fun c => c.2.cause == 0xA0)
          (let en' := (en.contributeAll (es.map fun i => decode f (lane w v i))).1
           (((s.storeLanes d es w (addr w)).modMe fun c => c.setEntry en').countMem).done st))
  | _, _ => s.trap 0x60

/-- vst.s (R296). -/
def execVstS (st : BitVec 3) (d a : BitVec 5) (e : BitVec 3) (s : State) : Out :=
  s.storeTracked st d e false (s.unitAddr a)
/-- vsts.s (R296). -/
def execVstsS (st : BitVec 3) (d a b : BitVec 5) (e : BitVec 3) (s : State) : Out :=
  s.storeTracked st d e false (s.strideAddr a b)
/-- vstsc.s (R296). -/
def execVstscS (st : BitVec 3) (d a b : BitVec 5) (e : BitVec 3) (s : State) : Out :=
  s.storeTracked st d e true (s.offsetAddr a b)

end Sys2Proof.Machine
end

