-- ==== Sys2Proof/Machine/Matrix.lean ====
section
/-! DEFINITION. The matrix engine, major 0x2B (spec 13, R297 to R307; spec 03, R94; spec 17, R355; spec 21, R421). -/

namespace Sys2Proof.Machine

/-! ### Slots (R297, R298) -/

/-- Keys of the owners: operand slot n at n, accumulator slot n at 16 + n. -/
def accKey (n : Nat) : Nat := 16 + n
/-- Context k owns a slot. -/
def Matrix.owns (x : Matrix) (key k : Nat) : Bool := x.owner.any fun o => o.1 == key && o.2 == k
/-- A slot is free. -/
def Matrix.free (x : Matrix) (key : Nat) : Bool := !SMap.has x.owner key
/-- Operand slot o, its SSC, and accumulator slot n. -/
def Matrix.opBits (x : Matrix) (o : Nat) : Nat := (SMap.get (0 : BitVec 32768) x.operand o).toNat
def Matrix.scale (x : Matrix) (o : Nat) : Nat := (SMap.get (127 : Byte) x.ssc o).toNat
def Matrix.accBits (x : Matrix) (n : Nat) : Nat := (SMap.get (0 : BitVec 32768) x.acc n).toNat
/-- A slot holds a doubleword with an uncorrectable error among doublewords lo to lo + n - 1 (R355). -/
def Matrix.badIn (x : Matrix) (key lo n : Nat) : Bool := x.bad.any fun e => e / 512 == key && decide (lo ≤ e % 512) && decide (e % 512 < lo + n)
/-- A slot overwritten whole: no error is left in it. -/
def Matrix.mend (x : Matrix) (key : Nat) : Matrix := { x with bad := x.bad.filter fun e => e / 512 != key }

/-- The issuing core's engine, or a wait until it is powered (R421). -/
def State.engine (s : State) (k : Matrix → Out) : Out := if s.me.matrix.powered then k s.me.matrix else s.block .engine
/-- The state with the issuing core's engine changed. -/
def State.modMatrix (s : State) (f : Matrix → Matrix) : State := s.modMe fun c => { c with matrix := f c.matrix }
/-- MATRIX_SLOT unless the context owns a slot (R298). -/
def State.slotCheck (s : State) (key : Nat) : Bool × FaultRec := chk (!s.me.matrix.owns key s.curCtx) 0x64
/-- MATRIX_SLOT unless a register names an accumulator slot that the context owns. -/
def State.accCheck (s : State) (w : Word) : Bool × FaultRec :=
  chk (decide (15 < w.toNat) || !s.me.matrix.owns (accKey w.toNat) s.curCtx) 0x64

/-! ### Claims (R299, R306) -/

/-- An operand slot as a claim leaves it: zero, SSC 127 (R299). -/
def Matrix.clearOperand (x : Matrix) (o : Nat) : Matrix := { x with operand := SMap.del x.operand o, ssc := SMap.del x.ssc o }.mend o

/-- oclm (R299). The trap context may own slots as well (DESIGN CHOICE, log entry 82). -/
def execOclm (st : BitVec 3) (d a : BitVec 5) (s : State) : Out :=
  s.engine fun x =>
    let mask := wfld (s.readG a) 0 16
    let ns := ones mask 16
    if ns.all fun n => x.free n || x.owns n s.curCtx then
      (s.modMatrix fun x => ns.foldl (fun x n =>
        if x.free n then { x.clearOperand n with owner := SMap.put x.owner n s.curCtx } else x) x).result st d (.ofNat 64 mask) 0
    else s.result st d 0 0

/-- orel (R299). -/
def execOrel (st : BitVec 3) (a : BitVec 5) (s : State) : Out :=
  s.engine fun x =>
    let ns := ones (wfld (s.readG a) 0 16) 16
    s.check [chk (!ns.all fun n => x.owns n s.curCtx) 0x64]
      ((s.modMatrix fun x => { x with owner := x.owner.filter fun o => !ns.contains o.1 }).done st)

/-- arel (R306). -/
def execArel (st : BitVec 3) (a : BitVec 5) (s : State) : Out :=
  s.engine fun _ =>
    let n := s.readG a
    s.check [s.accCheck n] ((s.modMatrix fun x => { x with owner := SMap.del x.owner (accKey n.toNat) }).done st)

/-! ### old (R301) -/

/-- The checks of the rows of old, row by row (R301): a row is one access, its range before its alignment (R50); the
element named is the row. -/
def State.rowChecks (s : State) (a : Word) (stride : Word) : List (Bool × FaultRec) :=
  let cs := (List.range 32).flatMap fun r => s.loadChecks (a + .ofNat 64 r * stride) 128 8 r
  (cs.filter fun c => c.2.cause != 0xA0) ++ cs.filter fun c => c.2.cause == 0xA0

/-- old (R301). -/
def execOld (st : BitVec 3) (o : BitVec 4) (a b : BitVec 5) (e : BitVec 3) (s : State) : Out :=
  s.engine fun _ =>
    let t := s.readE e
    let base := s.readG a
    let stride := s.readG b
    s.check [s.slotCheck o.toNat, (stride.toNat % 8 != 0, accessRec 0x21 base 8 0)]
      (s.withOptRecord t fun r =>
        let sc := match r with
          | some r => recordScale r
          | none => tScale t
        let bits := (List.range 32).foldl (fun x i => x + s.load (base + .ofNat 64 i * stride).toNat 128 * 2 ^ (1024 * i)) 0
        s.check ([match r with
            | some r => chk (maxOf (recTgt r)).isNone 0x60
            | none => chk (sc == 255) 0x63] ++ s.rowChecks base stride)
          (((s.modMatrix fun x => { x with operand := SMap.put x.operand o.toNat (.ofNat 32768 bits),
                                           ssc := SMap.put x.ssc o.toNat (.ofNat 8 sc) }.mend o.toNat).countMem).done st))

/-! ### mma (R300, R302, R303, R94) -/

/-- K of a matrix format (R300). -/
def matK (f : Nat) : Nat := if f = 3 ∨ f = 4 then 64 else 128
/-- A format that mma takes. -/
def matFmt (f : Nat) : Bool := decide (3 ≤ f) && decide (f ≤ 9)

/-- The value of element k of row r of a slot's bits (R300). -/
def operandValue (f bits ssc r k : Nat) : Val :=
  let row := fld bits (1024 * r) 1024
  let v := if f ≤ 6 then decode f (lane (fmtBits f) row k)
    else unpackBlock f row k (if f = 9 then 512 else 768)
  timesE8 v ssc

/-- S = a + Σ pj, exact, rounded once to FP32 in RNE (R94). -/
def tileSum (a : Val) (ps : List (Val × Val)) : Nat :=
  let s := ps.foldl (fun acc p => (addV acc (mulV p.1 p.2).1 0).1) a
  (roundTo 2 s 0 0).1

/-- Element (m, n) of an accumulator's bits. -/
def accElem (bits m n : Nat) : Nat := fld bits (32 * (32 * m + n)) 32

/-- One tile step over rows 0 to mr and columns 0 to nc (R303). -/
def tileStep (fa fb abits assc bbits bssc mr nc step c : Nat) : Nat :=
  (List.range 1024).foldl (fun x i =>
    let m := i / 32
    let n := i % 32
    let old := accElem c m n
    let new := if m ≤ mr && n ≤ nc then
        tileSum (decode 2 old) ((span (32 * step) 32).map fun k => (operandValue fa abits assc m k, operandValue fb bbits bssc n k))
      else old
    x + new % 2 ^ 32 * 2 ^ (32 * i)) 0

/-- The accumulator after steps 0 to ks. -/
def tileSteps (fa fb abits assc bbits bssc mr nc ks c : Nat) : Nat :=
  (List.range (ks + 1)).foldl (fun c step => tileStep fa fb abits assc bbits bssc mr nc step c) c

/-- FA and FB of R303. -/
def State.matFmts (s : State) : Nat × Nat := (s.cx.f1.getD s.mfa, s.cx.f2.getD s.mfb)

/-- The checks of mma and mma.z up to the operand slots (R303). -/
def State.mmaChecks (s : State) (o q : BitVec 4) (sh : Word) : List (Bool × FaultRec) :=
  let (fa, fb) := s.matFmts
  [chk (!matFmt fa || !matFmt fb || matK fa != matK fb) 0x60,
   chk (decide (matK fa / 32 - 1 < wfld sh 0 2)) 0x65,
   chk (!s.me.matrix.owns o.toNat s.curCtx || !s.me.matrix.owns q.toNat s.curCtx) 0x64]

/-- The bits of accumulator c after the product (R303). -/
def State.product (s : State) (o q : BitVec 4) (sh : Word) (c : Nat) : Nat :=
  let (fa, fb) := s.matFmts
  let x := s.me.matrix
  tileSteps fa fb (x.opBits o.toNat) (x.scale o.toNat) (x.opBits q.toNat) (x.scale q.toNat) (wfld sh 8 5) (wfld sh 16 5) (wfld sh 0 2) c

/-- The doublewords of a row that steps 0 to ks read of an operand in format f: their elements, and the side entries of a block format
(R300, R303). -/
def matDws (f ks : Nat) : List Nat :=
  List.range (ceilDiv (32 * (ks + 1) * fmtBits f) 64) ++ if f = 9 then [8] else if f = 7 ∨ f = 8 then [12] else []
/-- Of rows 0 to r of a slot, one holds an uncorrectable error in one of the doublewords dws. -/
def Matrix.badRows (x : Matrix) (key r : Nat) (dws : List Nat) : Bool :=
  (List.range (r + 1)).any fun i => dws.any fun d => x.badIn key (16 * i + d) 1
/-- SLOT_UNCORRECTABLE in what the product reads of the operand slots (R355). -/
def State.operandsBad (s : State) (o q : BitVec 4) (sh : Word) : Bool :=
  let (fa, fb) := s.matFmts
  s.me.matrix.badRows o.toNat (wfld sh 8 5) (matDws fa (wfld sh 0 2)) || s.me.matrix.badRows q.toNat (wfld sh 16 5) (matDws fb (wfld sh 0 2))
/-- SLOT_UNCORRECTABLE in the elements that the product reads of accumulator slot c. -/
def State.tileBad (s : State) (c : Nat) (sh : Word) : Bool :=
  s.me.matrix.badRows (accKey c) (wfld sh 8 5) (List.range (wfld sh 16 5 / 2 + 1))

/-- mma (R303). -/
def execMma (st : BitVec 3) (d : BitVec 5) (o q : BitVec 4) (e : BitVec 3) (s : State) : Out :=
  s.engine fun _ =>
    let sh := s.readE e
    let c := s.readG d
    s.check (s.mmaChecks o q sh ++ [s.accCheck c, chk (s.operandsBad o q sh || s.tileBad c.toNat sh) 0xA6])
      (((s.modMatrix fun x => { x with acc := SMap.put x.acc c.toNat (.ofNat 32768 (s.product o q sh (x.accBits c.toNat))) }).modCx
        fun x => x.count 5).done st)

/-- mma.z (R303): the lowest-numbered free accumulator slot. -/
def execMmaZ (st : BitVec 3) (d : BitVec 5) (o q : BitVec 4) (e : BitVec 3) (s : State) : Out :=
  s.engine fun x =>
    let sh := s.readE e
    match (List.range 16).find? fun n => x.free (accKey n) with
    | none => s.check (s.mmaChecks o q sh) (s.trap 0x66)
    | some c =>
      s.check (s.mmaChecks o q sh ++ [chk (s.operandsBad o q sh) 0xA6])
        (((s.modMatrix fun x => { x with owner := SMap.put x.owner (accKey c) s.curCtx,
                                         acc := SMap.put x.acc c (.ofNat 32768 (s.product o q sh 0)) }.mend (accKey c)).modCx
          fun x => x.count 5).result st d (.ofNat 64 c) 0)

/-- ard (R304): two rows copied unchanged. -/
def execArd (st : BitVec 3) (d a b : BitVec 5) (s : State) : Out :=
  s.engine fun x =>
    let c := s.readG a
    let p := wfld (s.readG b) 0 4
    s.check [s.accCheck c, chk (x.badIn (accKey c.toNat) (32 * p) 32) 0xA6]
      ((s.writeV d (.ofNat 2048 (fld (x.accBits c.toNat) (2048 * p) 2048)) 6).done st)

/-! ### asto (R305) -/

/-- The engine-fault message of asto (R305). -/
def State.engineFault (s : State) (chan recid exc : Nat) : State :=
  let pay : Nat := recid * 2 ^ 44 + min exc 1023 * 2 ^ 22 + s.cx.pc.toNat % 2 ^ 22
  s.engineMsg s.curCore { chan := chan, tag := 3, bytes := leBytes 8 pay, src := sourceId 2 (s.jobRank s.curCore) s.curCore }

/-- The format of asto's elements, and its scale, once its record is read if it names one (R109, R305). -/
def State.astoForm (s : State) (t : Word) (r : Option Nat) : Nat × Nat :=
  match r with
  | some r => (s.cx.f1.getD (recTgt r), recordScale r)
  | none => (s.cx.f1.getD (tTgt t), tScale t)

/-- The local address of element i of asto with elements of n bytes. -/
def State.astoAddr (s : State) (a b : BitVec 5) (n i : Nat) : Word :=
  s.readG a + .ofNat 64 (i / 32) * s.readG b + .ofNat 64 (i % 32 * n)

/-- The code of element i that asto writes. -/
def State.astoCode (s : State) (c f scale i : Nat) : Nat :=
  (roundTo f (overE8 (decode 2 (fld (s.me.matrix.accBits c) (32 * i) 32)) scale) s.rm (s.draw s.rm i)).1

/-- asto (R305). -/
def execAsto (st : BitVec 3) (d a b : BitVec 5) (e : BitVec 3) (s : State) : Out :=
  s.engine fun x =>
    let t := s.readE e
    let m := s.rm
    let c := s.readG d
    let n := tRecid t
    s.check [s.accCheck c]
      (if tRecen t && (s.me.statEntry n).isNone && s.staleRecord then s.sendRecord n (.recRead n) else s.withOptRecord t fun r =>
        let (f, bsc) := s.astoForm t r
        let w := fmtBits f
        let cs := s.laneChecks (List.range 1024) w (s.astoAddr a b (w / 8)) true
        s.check ([chk (r.isSome && decide (47 < tEchan t) && !s.isS) 0x42, chk (r.isNone && bsc == 255) 0x63,
            chk (!(decide (1 ≤ f) && decide (f ≤ 6))) 0x60, chk (s.srForbidden m) 0x0A] ++ cs ++
            [chk (x.badIn (accKey c.toNat) 0 512) 0xA6])
          ((if r.isSome then s.unlessNoEntry n else id)
           (let s1 := (List.range 1024).foldl (fun s' i =>
              s'.store (s.astoAddr a b (w / 8) i).toNat (w / 8) (s.astoCode c.toNat f bsc i)) s
           let s2 := match r with
             | none => s1
             | some r =>
               let s1 := s1.fillEntry s.curCore s.curCtx n r
               let en := (s1.me.statEntry n).getD (entryOf n r)
               let (en', exc) := en.contributeAll ((List.range 1024).map fun i => decode 2 (fld (x.accBits c.toNat) (32 * i) 32))
               let s1 := s1.modMe fun c => c.setEntry en'
               if en.rstrap && exc != 0 then s1.engineFault (tEchan t) n exc else s1
           ((s2.advance m).countMem).done st)))

/-- The element stores of asto as it executes now, in their order: address, bytes and code; none while it has not read its record. -/
def State.astoElements (s : State) (d a b : BitVec 5) (e : BitVec 3) : List (Nat × Nat × Nat) :=
  let t := s.readE e
  let of_ (r : Option Nat) : List (Nat × Nat × Nat) :=
    let (f, bsc) := s.astoForm t r
    let n := fmtBits f / 8
    if 1 ≤ f ∧ f ≤ 6 then (List.range 1024).map fun i => ((s.astoAddr a b n i).toNat, n, s.astoCode (s.readG d).toNat f bsc i) else []
  if tRecen t then
    match s.cx.wait with
    | .got _ data => of_ (some (recordOf data))
    | _ => []
  else of_ none

end Sys2Proof.Machine
end

