-- ==== Sys2Proof/Machine/Comm.lean ====
section
/-! DEFINITION. Instructions that send: messages, host messages, PUTs, remote atomics, floating-point and ticketed
updates, halos and zero-watches (spec 05, R110 to R128, R133, R136; spec 14, R308 to R322; spec 20, R399, R400, R403,
R407). -/

namespace Sys2Proof.Machine

/-! ### Checks at issue (R113) -/

/-- What an instruction of majors 0x2C to 0x2E names: its use of the destination, KIND (R133), slack class, DEST, the
address operand, the bytes of the target range, the alignment of row 7, and the capability bit of row 8. -/
structure Aim where
  use : DestUse
  kind : Nat
  cls : Nat
  dest : Word
  addr : Word := 0
  size : Nat := 1
  align : Nat := 1
  cap : Option Nat := none
  /-- For a further request of a transaction: the sequence of its first one, and its reading of the rank table (R110,
  R407). -/
  first : Option Nat := none
  via : Option (Nat × Nat) := none
  deriving DecidableEq, Repr

/-- R113 rows 1 to 8 in their order; row 1 is given. -/
def State.aimChecks (s : State) (m : Aim) (badLen : Bool) : List (Bool × FaultRec) :=
  let dk := destDK m.dest
  let remote (c : Nat) : FaultRec := remoteRec c m.kind m.addr m.dest
  let memory := m.use == .put || m.use == .atomic
  [chk badLen 0x40,
   chk (s.destForm m.use m.dest) 0x41,
   chk (m.use == .send && decide (48 ≤ destChan m.dest) && !s.isS) 0x42,
   (m.use != .sendhost && dk == 0 && !s.sameLaunch s.curCore (destCn m.dest), remote 0x43),
   if memory && dk == 3 then s.pointerCheck .remote m.addr m.size 0 else (false, {}),
   (memory && decide (dk < 2) && outOfGeneral m.addr.toNat m.size, remote 0x44),
   (memory && m.addr.toNat % m.align != 0, remote 0x45),
   match m.cap with
   | some b => (s.capMissing m.dest b, remote 0x46)
   | none => (false, {})]

/-- R113 row 9 for L bytes at a that need an alignment: with L = 0 only the alignment counts (R312). -/
def State.payloadChecks (s : State) (a : Word) (len align : Nat) : List (Bool × FaultRec) :=
  if len = 0 then [(a.toNat % align != 0, accessRec 0x21 a 0 0)] else (s.loadChecks a len align 0).take 2

/-- The payload of L bytes at a is read: an uncorrectable byte is precise (R68, R312). -/
def State.payloadRead (s : State) (a : Word) (len : Nat) : Bool × FaultRec :=
  (len != 0 && s.me.badIn a.toNat len, accessRec 0xA0 a len 0)

/-! ### Where a transaction goes (R117, R135, R399) -/

/-- Home and address, local or virtual, that DEST and an address operand name for core cn (R117). -/
def State.targetOf (s : State) (cn : Nat) (d a : Word) : Home × Nat :=
  match destDK d with
  | 0 => (.core (destCn d), a.toNat)
  | 1 => (.remote (destRank d), a.toNat)
  | _ => match s.placeOf cn a with
    | .core t o => (.core t, o)
    | .global va => (s.homeAtIssue (s.partOf cn) va, va)
    | .here o => (.core cn, o)
    | .scratch o => (.core cn, (s.core cn).scratchAddr o)

/-- The physical number of this package, as the rank table entry of the job's own rank gives it (log entry 21). -/
def State.ownPackage (s : State) (cn : Nat) : Nat := (s.rankEntry (s.partOf cn) (s.jobRank cn)).2.2.1

/-- The package and the partition there that the rank table entry of rank r names for core cn, read once for a transaction
(via holds the reading for its later packets), and the port toward it for core dcn; or the status with which the
transaction completes without being sent (R396, R399, R407, R408). -/
def State.route (s : State) (cn r dcn : Nat) (via : Option (Nat × Nat)) : Except Nat (Nat × Nat × Nat) :=
  let part := s.partOf cn
  let e := s.rankEntry part r
  match (via.orElse fun _ => if e.1 then some (e.2.2.1, e.2.1) else none) with
  | none => .error 4
  | some (pkg, dpart) =>
    if s.lost.contains (part, r, pkg) then .error 1
    else match s.portOf (s.ownPackage cn) pkg cn dcn with
      | some port => .ok (pkg, dpart, port)
      | none => .error 1

/-! ### Issue (R110, R111, R122, R138, R310) -/

/-- A message as its transaction carries it: on this package its placement completes the transaction (R170). -/
def Body.withTx (b : Body) (cn seq : Nat) (home : Home) : Body :=
  match b, home with
  | .message m, .core _ => .message { m with tx := some (cn, seq) }
  | b, _ => b

/-- A packet of a transaction sets out: on this package it is in flight toward its home; toward another package it takes
its FLOWSEQ, which a message that is sent again already has (R400), target partition and port, or is answered without being sent. -/
def State.sendOut (s : State) (p : Packet) (dcn : Nat) (via : Option (Nat × Nat)) (again : Bool := false) : State :=
  match p.home with
  | .remote r =>
    match s.route p.cn r dcn via with
    | .error st => s.send { p with home := .core p.cn, reply := true, body := .reply st [] }
    | .ok (pkg, dpart, port) =>
      let p := { p with remote := some (r, pkg), dpart := dpart, dcn := dcn, own := s.ownPackage p.cn, port := some port }
      match p.body, again with
      | .message _, false =>
        let key := pkg * 2048 + dcn
        let n := SMap.get (0 : BitVec 16) (s.core p.cn).flowSeq key
        (s.modCore p.cn fun c => { c with flowSeq := SMap.put c.flowSeq key (n + 1) }).send { p with flowSeq := n.toNat }
      | _, _ => s.send p
  | _ => s.send p

/-- The reading of the rank table entry that a transaction of core cn toward a destination makes (R407). -/
def State.reading (s : State) (cn : Nat) (d : Word) : Option (Nat × Nat) :=
  let e := s.rankEntry (s.partOf cn) (destRank d)
  if destDK d == 1 && e.1 then some (e.2.2.1, e.2.1) else none

/-- A transaction of the issuing context with its first packet. The transaction's sequence is the core's txSeq before. -/
def State.issue (s : State) (m : Aim) (body : Body) (fetch ticketed : Bool) : State :=
  let cn := s.curCore
  let k := s.curCtx
  let seq := s.me.txSeq.toNat
  let w := s.slkOf m.cls
  let pc := s.cx.pc.toNat % 2 ^ 22
  let (home, at_) := s.targetOf cn m.dest m.addr
  let body := body.withTx cn seq home
  let rec_ : FaultRec := { s.located { addr := m.addr, info1 := m.kind, detail0 := m.dest } with async := true }
  let tx : Tx := { seq := seq, ctx := k, report := rec_, kind := m.kind, cls := m.cls, slk := w, dest := m.dest, addr := m.addr,
                   home := home, key := home.key, fetch := fetch, ticketed := ticketed, first := m.first.getD seq,
                   via := m.via.orElse fun _ => s.reading cn m.dest, body := body }
  let rep : Reply := { tx := some seq, owner := k, orphan := false, answer := none, report := rec_, cls := m.cls, slk := w }
  let s := s.modMe fun c => { (c.modCx k fun x => x.count 4).opens tx with q3 := if fetch then c.q3 ++ [rep] else c.q3 }
  s.sendOut { cn := cn, seq := seq, ctx := k, pc := pc, kind := m.kind, part := s.partOf cn, lid := s.lidOf cn, home := home,
              addr := at_, slack := slkInit w, rallow := slkRallow w, cls := m.cls, slk := w, first := tx.first,
              report := rec_, body := body } (destCn m.dest) tx.via

/-- The congestion key toward a target (R136). -/
def State.aimKey (s : State) (m : Aim) : DestKey := (s.targetOf s.curCore m.dest m.addr).1.key

/-- The instruction goes on unless the router refuses its first packet or the window toward its target is full (R136,
R310). -/
def State.unlessFull (s : State) (m : Aim) (k : Out) : Out :=
  if s.me.choked then s.block .router
  else if s.me.windowFull (s.aimKey m) then s.block (.window (s.aimKey m)) else k

/-- The instruction goes on unless it is a fetching form and every q3 slot is reserved (R122). -/
def State.unlessNoSlot (s : State) (fetch : Bool) (k : Out) : Out :=
  if fetch && decide (32 ≤ s.me.q3.length) then s.block (.room 3) else k

/-- The instruction goes on once its release is through (R311): PACKAGE, or DOMAIN for a message to another package. -/
def State.afterRelease (s : State) (scope : Nat) (k : Out) : Out :=
  if s.releasePending s.curCore s.curCtx scope then s.block (.release scope) else k

/-! ### Messages (R312, R313) -/

/-- The n bytes of local SRAM at an address. -/
def State.bytes (s : State) (a : Word) (n : Nat) : List Byte := Memory.read s.me.mem a.toNat n

/-- send (R312). -/
def execSend (st : BitVec 3) (d a b : BitVec 5) (c : BitVec 2) (s : State) : Out :=
  let dest := s.readG d
  let len := wfld (s.readG b) 0 16
  let m : Aim := { use := .send, kind := 0, cls := c.toNat, dest := dest, addr := 0 }
  s.check (s.aimChecks m (decide (2048 < len)) ++ s.payloadChecks (s.readG a) len 8)
    (s.afterRelease (if destDK dest = 1 then 5 else 4)
      (s.unlessFull m
        (s.check [s.payloadRead (s.readG a) len]
          (let msg : Msg := { chan := destChan dest, tag := wfld (s.readG b) 16 16, bytes := s.bytes (s.readG a) len,
                              src := sourceId (if destDK dest = 1 then 1 else 0) (s.jobRank s.curCore) s.curCore }
           (s.issue m (.message msg) false false).done st))))

/-- The virtual address of the record of ring h at a producer index. -/
def State.ringVa (s : State) (part h prod : Nat) : Nat :=
  let (base, _, l2, _, _) := s.ring part h
  wfld base 0 48 + 64 * (prod % 2 ^ l2)

/-- The record of R126 for ring h's producer index. -/
def State.hostRecord (s : State) (cn h tag : Nat) (payload : List Byte) : List Byte :=
  let (_, _, l2, _, prod) := s.ring (s.partOf cn) h
  let ph := if prod / 2 ^ l2 % 2 = 0 then 1 else 0
  leBytes 8 (s.lidOf cn * 2 ^ 32 + tag * 2 ^ 16 + payload.length * 256 + ph) ++ leBytes 8 (s.jobRank cn * 2 ^ 32 + cn)
    ++ payload ++ List.replicate (48 - payload.length) 0

/-- A record of core cn written to ring h of the launch's partition, whose producer index advances (R126, R127); where the
ring's address does not translate, nothing is written but a REMOTE_XLATE record of status 3 (DESIGN CHOICE, log entry
22). -/
def State.writeRing (s : State) (cn h : Nat) (report : FaultRec) (bytes : List Byte) : State :=
  let part := s.partOf cn
  let (_, _, _, _, prod) := s.ring part h
  match s.translate (some cn) part (s.ringVa part h prod) .write with
  | (.ok pa, s) => { s.putBytes pa bytes with rings := SMap.put s.rings (part * 16 + h) ((prod + 1) % 2 ^ 32) }
  | (_, s) => s.async cn (statusRec 3 report)

/-- A host message sets out as a transaction toward the home of its ring's next record (R110, R135; log entry 20). -/
def State.issueHost (s : State) (m : Aim) (h tag : Nat) (payload : List Byte) : State :=
  let cn := s.curCore
  let k := s.curCtx
  let part := s.partOf cn
  let seq := s.me.txSeq.toNat
  let w := s.slkOf m.cls
  let va := s.ringVa part h (s.ring part h).2.2.2.2
  let home := s.homeAtIssue part va
  let rec_ : FaultRec := { s.located { info1 := 6, detail0 := m.dest } with async := true }
  let body : Body := .hostMsg h tag payload
  let t : Tx := { seq := seq, ctx := k, report := rec_, kind := 6, cls := m.cls, slk := w, dest := m.dest, addr := 0, home := home,
                  key := home.key, first := seq, body := body }
  (s.modMe fun c => (c.modCx k fun x => x.count 4).opens t).send
    { cn := cn, seq := seq, ctx := k, pc := s.cx.pc.toNat % 2 ^ 22, kind := 6, part := part, lid := s.lidOf cn, home := home, addr := va,
      slack := slkInit w, rallow := slkRallow w, cls := m.cls, slk := w, first := seq, body := body }

/-- sendhost (R313): with a ring that is not full the message sets out, unless the router refuses it or the window toward
the ring's home is full. -/
def execSendhost (st : BitVec 3) (d a b : BitVec 5) (c : BitVec 2) (s : State) : Out :=
  let dest := s.readG d
  let len := wfld (s.readG b) 0 16
  let h := wfld dest 0 4
  let part := s.partOf s.curCore
  let m : Aim := { use := .sendhost, kind := 6, cls := c.toNat, dest := dest }
  let key := (s.homeAtIssue part (s.ringVa part h (s.ring part h).2.2.2.2)).key
  s.check (s.aimChecks m (decide (48 < len)) ++ s.payloadChecks (s.readG a) len 8 ++ [chk (!(s.ring part h).2.1) 0x4A])
    (s.afterRelease 4
      (if s.me.choked then s.block .router
       else if s.ringFull part h then s.block (.ring h)
       else if s.me.windowFull key then s.block (.window key)
       else s.check [s.payloadRead (s.readG a) len]
         ((s.issueHost m h (wfld (s.readG b) 16 16) (s.bytes (s.readG a) len)).done st)))

/-! ### PUT and remote integer atomics (R314, R315) -/

/-- put (R314). -/
def execPut (st : BitVec 3) (d a b : BitVec 5) (c : BitVec 2) (s : State) : Out :=
  let len := (s.readG (b + 1)).toNat
  let m : Aim := { use := .put, kind := 1, cls := c.toNat, dest := s.readG d, addr := s.readG a, size := len }
  s.check ([chk (!evenReg b) 0x02] ++ s.aimChecks m (len == 0 || decide (2048 < len))
      ++ (if len ≤ 2048 then s.payloadChecks (s.readG b) len 1 ++ [s.payloadRead (s.readG b) len] else []))
    (s.unlessFull m ((s.issue m (.put (s.bytes (s.readG b) len)) false false).done st))

/-- The capability bit of an atomic (R140). -/
def AtomicOp.cap : AtomicOp → Nat
  | .add => 0
  | .smin => 1 | .smax => 1 | .umin => 1 | .umax => 1
  | .and => 2 | .or => 2 | .xor => 2
  | .swap => 3 | .cas => 3

/-- A remote integer atomic of w bytes (R315). -/
def State.atomic (s : State) (op : AtomicOp) (w : Nat) (fetch : Bool) (st : BitVec 3) (d a b : BitVec 5) (c : BitVec 2) : Out :=
  let m : Aim := { use := .atomic, kind := 2, cls := c.toNat, dest := s.readG d, addr := s.readG a, size := w, align := w,
                   cap := some op.cap }
  s.check ([chk (op == .cas && !evenReg b) 0x02] ++ s.aimChecks m false)
    (s.unlessFull m
      (s.unlessNoSlot fetch
        (let lo (x : Word) : Word := .ofNat 64 (wfld x 0 (8 * w))
         (s.issue m (.atomic op w (lo (s.readG b)) (if op = .cas then lo (s.readG (b + 1)) else 0) fetch) fetch false).done st)))

/-- aadd.w (R315). -/
def execAaddW (st : BitVec 3) (d a b : BitVec 5) (c : BitVec 2) (s : State) : Out :=
  s.atomic .add 4 false st d a b c
/-- aaddf.w (R315). -/
def execAaddfW (st : BitVec 3) (d a b : BitVec 5) (c : BitVec 2) (s : State) : Out :=
  s.atomic .add 4 true st d a b c
/-- asmin.w (R315). -/
def execAsminW (st : BitVec 3) (d a b : BitVec 5) (c : BitVec 2) (s : State) : Out :=
  s.atomic .smin 4 false st d a b c
/-- asminf.w (R315). -/
def execAsminfW (st : BitVec 3) (d a b : BitVec 5) (c : BitVec 2) (s : State) : Out :=
  s.atomic .smin 4 true st d a b c
/-- asmax.w (R315). -/
def execAsmaxW (st : BitVec 3) (d a b : BitVec 5) (c : BitVec 2) (s : State) : Out :=
  s.atomic .smax 4 false st d a b c
/-- asmaxf.w (R315). -/
def execAsmaxfW (st : BitVec 3) (d a b : BitVec 5) (c : BitVec 2) (s : State) : Out :=
  s.atomic .smax 4 true st d a b c
/-- aumin.w (R315). -/
def execAuminW (st : BitVec 3) (d a b : BitVec 5) (c : BitVec 2) (s : State) : Out :=
  s.atomic .umin 4 false st d a b c
/-- auminf.w (R315). -/
def execAuminfW (st : BitVec 3) (d a b : BitVec 5) (c : BitVec 2) (s : State) : Out :=
  s.atomic .umin 4 true st d a b c
/-- aumax.w (R315). -/
def execAumaxW (st : BitVec 3) (d a b : BitVec 5) (c : BitVec 2) (s : State) : Out :=
  s.atomic .umax 4 false st d a b c
/-- aumaxf.w (R315). -/
def execAumaxfW (st : BitVec 3) (d a b : BitVec 5) (c : BitVec 2) (s : State) : Out :=
  s.atomic .umax 4 true st d a b c
/-- aand.w (R315). -/
def execAandW (st : BitVec 3) (d a b : BitVec 5) (c : BitVec 2) (s : State) : Out :=
  s.atomic .and 4 false st d a b c
/-- aandf.w (R315). -/
def execAandfW (st : BitVec 3) (d a b : BitVec 5) (c : BitVec 2) (s : State) : Out :=
  s.atomic .and 4 true st d a b c
/-- aor.w (R315). -/
def execAorW (st : BitVec 3) (d a b : BitVec 5) (c : BitVec 2) (s : State) : Out :=
  s.atomic .or 4 false st d a b c
/-- aorf.w (R315). -/
def execAorfW (st : BitVec 3) (d a b : BitVec 5) (c : BitVec 2) (s : State) : Out :=
  s.atomic .or 4 true st d a b c
/-- axor.w (R315). -/
def execAxorW (st : BitVec 3) (d a b : BitVec 5) (c : BitVec 2) (s : State) : Out :=
  s.atomic .xor 4 false st d a b c
/-- axorf.w (R315). -/
def execAxorfW (st : BitVec 3) (d a b : BitVec 5) (c : BitVec 2) (s : State) : Out :=
  s.atomic .xor 4 true st d a b c
/-- aswap.w (R315). -/
def execAswapW (st : BitVec 3) (d a b : BitVec 5) (c : BitVec 2) (s : State) : Out :=
  s.atomic .swap 4 true st d a b c
/-- acas.w (R315). -/
def execAcasW (st : BitVec 3) (d a b : BitVec 5) (c : BitVec 2) (s : State) : Out :=
  s.atomic .cas 4 true st d a b c
/-- aadd.d (R315). -/
def execAaddD (st : BitVec 3) (d a b : BitVec 5) (c : BitVec 2) (s : State) : Out :=
  s.atomic .add 8 false st d a b c
/-- aaddf.d (R315). -/
def execAaddfD (st : BitVec 3) (d a b : BitVec 5) (c : BitVec 2) (s : State) : Out :=
  s.atomic .add 8 true st d a b c
/-- asmin.d (R315). -/
def execAsminD (st : BitVec 3) (d a b : BitVec 5) (c : BitVec 2) (s : State) : Out :=
  s.atomic .smin 8 false st d a b c
/-- asminf.d (R315). -/
def execAsminfD (st : BitVec 3) (d a b : BitVec 5) (c : BitVec 2) (s : State) : Out :=
  s.atomic .smin 8 true st d a b c
/-- asmax.d (R315). -/
def execAsmaxD (st : BitVec 3) (d a b : BitVec 5) (c : BitVec 2) (s : State) : Out :=
  s.atomic .smax 8 false st d a b c
/-- asmaxf.d (R315). -/
def execAsmaxfD (st : BitVec 3) (d a b : BitVec 5) (c : BitVec 2) (s : State) : Out :=
  s.atomic .smax 8 true st d a b c
/-- aumin.d (R315). -/
def execAuminD (st : BitVec 3) (d a b : BitVec 5) (c : BitVec 2) (s : State) : Out :=
  s.atomic .umin 8 false st d a b c
/-- auminf.d (R315). -/
def execAuminfD (st : BitVec 3) (d a b : BitVec 5) (c : BitVec 2) (s : State) : Out :=
  s.atomic .umin 8 true st d a b c
/-- aumax.d (R315). -/
def execAumaxD (st : BitVec 3) (d a b : BitVec 5) (c : BitVec 2) (s : State) : Out :=
  s.atomic .umax 8 false st d a b c
/-- aumaxf.d (R315). -/
def execAumaxfD (st : BitVec 3) (d a b : BitVec 5) (c : BitVec 2) (s : State) : Out :=
  s.atomic .umax 8 true st d a b c
/-- aand.d (R315). -/
def execAandD (st : BitVec 3) (d a b : BitVec 5) (c : BitVec 2) (s : State) : Out :=
  s.atomic .and 8 false st d a b c
/-- aandf.d (R315). -/
def execAandfD (st : BitVec 3) (d a b : BitVec 5) (c : BitVec 2) (s : State) : Out :=
  s.atomic .and 8 true st d a b c
/-- aor.d (R315). -/
def execAorD (st : BitVec 3) (d a b : BitVec 5) (c : BitVec 2) (s : State) : Out :=
  s.atomic .or 8 false st d a b c
/-- aorf.d (R315). -/
def execAorfD (st : BitVec 3) (d a b : BitVec 5) (c : BitVec 2) (s : State) : Out :=
  s.atomic .or 8 true st d a b c
/-- axor.d (R315). -/
def execAxorD (st : BitVec 3) (d a b : BitVec 5) (c : BitVec 2) (s : State) : Out :=
  s.atomic .xor 8 false st d a b c
/-- axorf.d (R315). -/
def execAxorfD (st : BitVec 3) (d a b : BitVec 5) (c : BitVec 2) (s : State) : Out :=
  s.atomic .xor 8 true st d a b c
/-- aswap.d (R315). -/
def execAswapD (st : BitVec 3) (d a b : BitVec 5) (c : BitVec 2) (s : State) : Out :=
  s.atomic .swap 8 true st d a b c
/-- acas.d (R315). -/
def execAcasD (st : BitVec 3) (d a b : BitVec 5) (c : BitVec 2) (s : State) : Out :=
  s.atomic .cas 8 true st d a b c

/-! ### Floating-point updates (R316 to R318) -/

/-- The element format of an update: FP64, FP32 or BF16. -/
def State.updateFmt (s : State) : Option Nat := let f := s.fmt1; if f = 1 ∨ f = 2 ∨ f = 4 then some f else none
/-- The capability bit of an update format: bit n for FP32, n + 1 for FP64, n + 2 for BF16 (R140). -/
def updateCap (n f : Nat) : Nat := if f = 2 then n else if f = 1 then n + 1 else n + 2
/-- Bytes of an element. -/
def elemBytes (f : Nat) : Nat := fmtBits f / 8

/-- rfadd (R316). -/
def execRfadd (st : BitVec 3) (d a b : BitVec 5) (c : BitVec 2) (s : State) : Out :=
  match s.updateFmt with
  | none => s.trap 0x60
  | some f =>
    let n := elemBytes f
    let m : Aim := { use := .atomic, kind := 3, cls := c.toNat, dest := s.readG d, addr := s.readG a, size := n, align := n,
                     cap := some (updateCap 4 f) }
    let rm := if stochastic s.rm then 0 else s.rm
    s.check ([chk (s.ordered s.curCore) 0x0A] ++ s.aimChecks m false)
      (s.unlessFull m ((s.issue m (.fpUpdate f rm (wfld (s.readG b) 0 (8 * n))) false false).done st))

/-- The record of a ticketed update that ends in a status other than 0: it names the update's target, the first datum of
the answer; for status 4 INFO2 holds the reason of R146 (DESIGN CHOICE, log entry 23). -/
def ticketRec (st : Nat) (data : List Word) (dest : Word) : FaultRec :=
  { statusRec st { addr := data.getD 0 0, info1 := 3, detail0 := dest } with info2 := if st = 4 then (data.getD 1 0).toNat else 0 }

/-- One ticketed update is sent, and the context waits for its status (R151, R317). -/
def State.sendUpdate (s : State) (m : Aim) (body : Body) : Out :=
  let seq := s.me.txSeq.toNat
  (s.issue m body false true).block (.sent (2 * seq + 1))

/-- rfadd.t and vfadd.t after the format check: the update is sent once its checks pass, and the status ends it (R317). -/
def State.update (s : State) (st : BitVec 3) (m : Aim) (pairOk : Bool) (body : Body) : Out :=
  match s.cx.wait with
  | .got 0 _ => s.done st
  | .got n data => .next (s.raise (ticketRec n data m.dest))
  | _ => s.check ([chk (!pairOk) 0x02] ++ s.aimChecks m false) (s.unlessFull m (s.sendUpdate m body))

/-- rfadd.t (R317). -/
def execRfaddT (st : BitVec 3) (d a b : BitVec 5) (c : BitVec 2) (s : State) : Out :=
  match s.updateFmt with
  | none => s.trap (if evenReg b then 0x60 else 0x02)
  | some f =>
    let n := elemBytes f
    s.update st { use := .atomic, kind := 3, cls := c.toNat, dest := s.readG d, addr := s.readG a, size := n, align := n,
                  cap := some (updateCap 7 f) } (evenReg b)
      (.ticket f (wfld (s.readG (b + 1)) 0 32) [((s.readG a).toNat % 64 / n, wfld (s.readG b) 0 (8 * n))])

/-- vfadd.t (R317). -/
def execVfaddT (st : BitVec 3) (d a b : BitVec 5) (c : BitVec 2) (s : State) : Out :=
  match s.updateFmt with
  | none => s.trap (if evenReg d then 0x60 else 0x02)
  | some f =>
    let n := elemBytes f
    let pair := s.readG (d + 1)
    s.update st { use := .atomic, kind := 3, cls := c.toNat, dest := s.readG d, addr := s.readG a, size := 64, align := 64,
                  cap := some (updateCap 7 f) } (evenReg d)
      (.ticket f (wfld pair 0 32) ((ones (wfld pair 32 32) (64 / n)).map fun j => (j, lane (8 * n) (s.readV b).toNat j)))

/-- tskip sends the update of one line, once the router takes it and the window toward the line has room (R136, R310,
R318). -/
def State.skipLine (s : State) (m : Aim) (first : Nat) (body : Body) : Out :=
  if s.me.choked || s.me.windowFull (s.aimKey m) then s.block (.line m.addr (s.aimKey m) first m.via) else s.sendUpdate m body

/-- tskip (R318): an update with no elements for each line in ascending order, each after the status of the one before; the
updates are packets of one transaction, which reads the rank table once (R407). -/
def execTskip (st : BitVec 3) (d a b : BitVec 5) (c : BitVec 2) (s : State) : Out :=
  let start := s.readG a
  let n := wfld (s.readG b) 32 24
  let aim (line : Word) (size f : Nat) : Aim :=
    { use := .atomic, kind := 3, cls := c.toNat, dest := s.readG d, addr := line, size := size, align := 64, cap := some (updateCap 7 f) }
  match s.updateFmt with
  | none => s.trap 0x60
  | some f =>
    let body : Body := .ticket f (wfld (s.readG b) 0 32) []
    match s.cx.wait with
    | .got 0 data =>
      let next := data.getD 0 0 + 64
      let first := (data.getD 2 0).toNat
      let via := (data.getD 3 0).toNat
      if next = start + .ofNat 64 (64 * n) then s.done st
      else s.skipLine { aim next 64 f with first := some first,
                                           via := if via = 0 then none else some ((via - 1) % 65536, (via - 1) / 65536) } first body
    | .line at_ _ first via => s.skipLine { aim at_ 64 f with first := some first, via := via } first body
    | .got e data => .next (s.raise (ticketRec e data (s.readG d)))
    | _ =>
      s.check ([chk (n == 0) 0x4C] ++ s.aimChecks (aim start (64 * n) f) false)
        (s.unlessFull (aim start 64 f) (s.sendUpdate (aim start 64 f) body))

/-! ### Halo (R321) -/

/-- The neighbour of core cn in a direction: north, east, south, west at 0 to 3; none off the mesh (R15, R67). -/
def State.neighbour (s : State) (cn dir : Nat) : Option Nat :=
  let x := cn % 64
  let y := cn / 64
  match dir with
  | 0 => if y = 0 then none else some (cn - 64)
  | 1 => if x = 63 then none else some (cn + 1)
  | 2 => if s.meshRows ≤ y + 1 then none else some (cn + 64)
  | _ => if x = 0 then none else some (cn - 1)

/-- One halo transfer of the issuing core in a direction: outstanding until its acknowledgement (R321). -/
def State.forkHalo (s : State) (cls : Nat) (at_ : Word) (bytes : List Byte) (dir : Nat) : State :=
  match s.neighbour s.curCore dir with
  | none => s
  | some t =>
    let dest : Word := .ofNat 64 t
    let s := s.issue { use := .put, kind := 5, cls := cls, dest := dest, addr := at_ } (.halo ((dir + 2) % 4) bytes) false false
    s.modMe fun c => { c.modCx s.curCtx fun x => x.count 5 with halos := c.halos + 1 }

/-- halo (R321). -/
def execHalo (st : BitVec 3) (d a b : BitVec 5) (c : BitVec 2) (s : State) : Out :=
  let dst := s.readG d
  let src := s.readG a
  let dirs := ones (wfld (s.readG b) 0 4) 4
  let len := wfld (s.readG b) 32 12
  let lone (i : Nat) : Bool := match s.neighbour s.curCore i with
    | some t => !s.sameLaunch s.curCore t
    | none => true
  let keys := dirs.filterMap fun i => (s.neighbour s.curCore i).map fun t => (Home.core t).key
  s.check ([chk (dirs.isEmpty || len == 0 || decide (2048 < len) || len % 8 != 0) 0x4B] ++ (s.loadChecks src len 8 0).take 2
      ++ [(dirs.any lone, remoteRec 0x43 5 dst 0), (outOfGeneral dst.toNat len, remoteRec 0x44 5 dst 0),
          (dst.toNat % 8 != 0, accessRec 0x21 dst len 0)])
    (if 16 - dirs.length < s.me.halos then s.block (.halos (16 - dirs.length))
     else if s.me.choked then s.block .router
     else match keys.find? fun k => s.me.windowFull k with
       | some k => s.block (.window k)
       | none => s.check [s.payloadRead src len] ((dirs.foldl (fun s i => s.forkHalo c.toNat dst (s.bytes src len) i) s).done st))

/-! ### Zero-watch (R124, R125, R322) -/

/-- Every watched byte of an entry is zero. -/
def Core.watchZero (c : Core) (z : ZWatch) : Bool := Memory.num c.mem z.addr (if z.w8 then 8 else 4) == 0

/-- Entry n of core cn fires: it is disarmed and its message sets out (R125). -/
def State.fireWatch (s : State) (cn n : Nat) (z : ZWatch) : State :=
  (s.modCore cn fun c => { c with zwatch := SMap.del c.zwatch n }).engineMsg cn
    { chan := z.chan, tag := z.tag, bytes := leBytes 8 (n * 2 ^ 56 + z.addr), src := sourceId 2 (s.jobRank cn) cn }

/-- The entries of core cn whose watched bytes were not all zero in old and are all zero now fire, in ascending
entry number (DESIGN CHOICE, log entry 75). -/
def State.watchAfter (s old : State) (cn : Nat) : State :=
  (s.core cn).zwatch.foldl (fun s' (n, z) =>
    if !(old.core cn).watchZero z && (s.core cn).watchZero z then s'.fireWatch cn n z else s') s

/-- zwatch (R322). -/
def execZwatch (st : BitVec 3) (d a b : BitVec 5) (s : State) : Out :=
  let ad := s.readG a
  let ctl := s.readG b
  if wbit ctl 63 then
    let n := wfld ctl 0 4
    if SMap.has s.me.zwatch n then (s.modMe fun c => { c with zwatch := SMap.del c.zwatch n }).result st d 1 0
    else s.result st d 0 0
  else
    let w := if wbit ctl 8 then 8 else 4
    s.check [chk (decide (48 ≤ wfld ctl 0 6) && !s.isS) 0x42, (outOfLocal ad.toNat w, accessRec 0x20 ad w 0),
             (ad.toNat % w != 0, accessRec 0x21 ad w 0), (outOfGeneral ad.toNat w, accessRec 0x22 ad w 0)]
      (match (span 1 8).find? fun n => !SMap.has s.me.zwatch n with
       | none => s.result st d 0 0
       | some n =>
         let z : ZWatch := ⟨ad.toNat, w == 8, wfld ctl 0 6, wfld ctl 16 16⟩
         let s := s.modMe fun c => { c with zwatch := SMap.put c.zwatch n z }
         let s := if s.me.watchZero z then s.fireWatch s.curCore n z else s
         s.result st d (.ofNat 64 n) 0)

end Sys2Proof.Machine
end

