-- ==== Sys2Proof/Machine/Homes.lean ====
section
/-! DEFINITION. What requests do at their targets, and what replies, notices and messages do when they arrive (spec 05, R115
to R142; spec 01, R27, R28, R33, R34; spec 19, R385, R391, R393). -/

namespace Sys2Proof.Machine

/-! ### Whether a target takes a request (R28, R121, R142, R397) -/

/-- What a core does with a packet: it accepts it, refuses it with status 4, or the packet waits because the launch that
it is for is stopped (R142). -/
inductive Door where
  | accept | refuse | hold
  deriving DecidableEq, Repr

/-- Partition p exists (EN). -/
def State.partEn (s : State) (p : Nat) : Bool := wbit (s.partDw p 2) 63

/-- The rank table of a partition names a package under a rank, as a request from there must find it (R397, R407). -/
def State.knowsRank (s : State) (part rank pkg : Nat) : Bool :=
  let e := s.rankEntry part rank
  s.partEn part && e.1 && e.2.2.1 == pkg

/-- The launch named by the partition and, from this package, the LID of a packet. -/
def Launch.receives (l : Launch) (p : Packet) : Bool := l.part == p.part && (p.remote.isSome || l.lid == p.lid)

/-- Core cn's answer to packet p: a request from a package that its rank does not name now is not performed (R407). -/
def State.door (s : State) (p : Packet) (cn : Nat) : Door :=
  let c := s.core cn
  let known := match p.remote with
    | some (rank, pkg) => s.knowsRank p.part rank pkg
    | none => true
  let mine := match s.launchOf cn with
    | some l => l.receives p
    | none => false
  if !known then .refuse
  else if mine && p.remote.isSome && s.launches.any (fun l => l.receives p && l.state == .stopping && l.member cn) then .hold
  else if mine && (c.part == .prepared || c.part == .running) then .accept
  else if s.launches.any fun l => l.receives p && SMap.has l.saved cn then .hold
  else .refuse

/-- The bytes [a, a + n) of core cn may not be written by an operation from outside (R48, R148, R162). -/
def State.coreRefuses (s : State) (cn a n : Nat) : Bool :=
  outOfGeneral a n || s.lineProtected (.core cn) a n || s.imageProtected cn a n

/-- A byte of some physical pieces lies in a line of a sequence that is OPEN or STOPPED (R148). -/
def State.globalProtected (s : State) (ps : List (Nat × Nat)) : Bool :=
  ps.any fun (a, n) => (span (a / 64) ((a + n + 63) / 64 - a / 64)).any fun j => s.lineProtected (s.homeOf (64 * j)) (64 * j) 64

/-- The answer to packet i (R121, R132): a reply with slack min(4095, s_arr + RALLOW) sets out to the issuer. -/
def State.reply (s : State) (i : Nat) (p : Packet) (st : Nat) (data : List Word) : State :=
  let s := s.takePacket i p
  let slack := min 4095 (p.slack + p.rallow)
  match p.issuer with
  | some f => s.replyRemote f p.dcn slack p.kind st data
  | none => s.send { p with home := .core p.cn, slack := slack, rallow := 0, marked := false, reply := true, body := .reply st data }

/-! ### Global memory with uncorrectable errors (R68, R121) -/

/-- Byte addresses of physical pieces. -/
def pieceBytes (ps : List (Nat × Nat)) : List Nat := ps.flatMap fun (a, n) => span a n

/-- Writes that need no bad doubleword's value: a bad one that the writes touch without covering it keeps its bytes. -/
def goodWrites (bad : List Nat) (ws : List (Nat × Byte)) : List (Nat × Byte) :=
  let as := ws.map (·.1)
  ws.filter fun w => !bad.contains (w.1 / 8) || (span (w.1 / 8 * 8) 8).all fun a => as.contains a

/-! ### Stores performed late (R167, R172) -/

/-- A memory with a part of a store in it: bit address, width and value; the other bits of its bytes keep their values (R54). -/
def lateWrite (m : Memory) (e : Nat × Nat × Nat) : Memory :=
  let (f, k) := bitSpan e.1 e.2.1
  Memory.setNum m f k (putFld (Memory.num m f k) (e.1 % 8) e.2.1 e.2.2)

/-- A part of a store that a context has left for later is performed: the other bits of its bytes keep the values that they have then
(R54). -/
def Core.performOne (c : Core) (e : Nat × Nat × Nat) : Core :=
  let (f, k) := bitSpan e.1 e.2.1
  c.putAll (goodWrites c.bad ((span f k).zip (leBytes k (putFld (Memory.num c.mem f k) (e.1 % 8) e.2.1 e.2.2))))

/-- The stores of context k are performed. -/
def Core.performAll (c : Core) (k : Nat) : Core :=
  if (c.cx k).late.isEmpty then c else ((c.cx k).late.foldl Core.performOne c).modCx k fun x => { x with late := [] }

/-- What has been read ahead for a context is forgotten: its loads will read anew. -/
def Ctx.forget (x : Ctx) : Ctx := { x with early := [], taint := [], reads := false }
/-- A context whose loads have all been performed, with nothing read ahead. -/
def Ctx.settled (x : Ctx) : Ctx := { x.forget with deferred := [] }

/-- The stores and loads of every context are performed, and nothing stays read ahead. -/
def Core.performEvery (c : Core) : Core :=
  let d := c.ctx.foldl (fun c e => c.performAll e.1) c
  { d with ctx := d.ctx.map fun e => (e.1, e.2.settled) }

/-- A bad doubleword lies in [a, a + n) of global memory. -/
def State.gbadIn (s : State) (a n : Nat) : Bool := s.gbad.any fun d => overlaps a n (8 * d) 8

/-! ### One context's accesses to one byte (R166) -/

/-- How many bytes a request writes or modifies at its target. -/
def Body.span? : Body → Option Nat
  | .put bs => some bs.length
  | .atomic _ w _ _ _ => some w
  | .fpUpdate f _ _ => some (elemBytes f)
  | _ => none

/-- A request of this package that reads or writes bytes at its target: the core that holds them, none for global memory, with
address and number. -/
def Packet.target? (p : Packet) : Option (Option Nat × Nat × Nat) :=
  if p.reply || p.remote.isSome then none
  else p.body.span?.bind fun n => match p.home with
    | .core cn => some (some cn, p.addr, n)
    | .remote _ => none
    | _ => some (none, p.addr, n)

/-- Two requests of one context share a byte at their target; in global memory, one that their addresses translate to as well. -/
def State.clashes (s : State) (p q : Packet) : Bool :=
  p.cn == q.cn && p.ctx == q.ctx && match p.target?, q.target? with
    | some (some t, a, n), some (some u, b, m) => t == u && overlaps a n b m
    | some (none, a, n), some (none, b, m) => s.sharesGlobal p.cn p.part a n b m
    | _, _ => false

/-- An earlier request of the same context to a byte of packet i's target is in flight: the context's accesses to one byte are
performed in its program order (R166). -/
def State.behindOwn (s : State) (i : Nat) (p : Packet) : Bool := s.net.any fun e => decide (e.1 < i) && s.clashes e.2 p

/-! ### PUT (R119) -/

/-- A PUT at a core: status and state. -/
def State.putAtCore (s : State) (cn a : Nat) (bs : List Byte) : Nat × State :=
  if s.coreRefuses cn a bs.length then (4, s)
  else if (s.core cn).badPartly a bs.length then
    (5, (s.countUnc cn).modCore cn fun c => c.putAll (goodWrites c.bad ((span a bs.length).zip bs)))
  else (0, s.modCore cn fun c => c.put a bs)

/-- A PUT at a global address. -/
def State.putAtGlobal (s : State) (cn part va : Nat) (bs : List Byte) : Nat × State :=
  match s.translateRange (some cn) part va bs.length .write with
  | (.error _, s) => (3, s)
  | (.ok ps, s) =>
    if s.globalProtected ps then (4, s)
    else
      let ws := (pieceBytes ps).zip bs
      let good := goodWrites s.gbad ws
      (if good.length < ws.length then 5 else 0, s.putGlobal good)

/-- PUT_AT_TARGET (R119, R121). -/
def execPutAtTarget (i : Nat) (s : State) : Out :=
  match s.packet i with
  | none => .refused .notEnabled
  | some p =>
    if s.behindOwn i p then .refused .notEnabled
    else match p.reply, p.body, p.home with
    | false, .put bs, .core cn =>
      match s.door p cn with
      | .hold => .refused .notEnabled
      | .refuse => .next (s.reply i p 4 [])
      | .accept => let (st, s) := s.putAtCore cn p.addr bs; .next (s.reply i p st [])
    | false, .put _, .remote _ => .refused .notEnabled
    | false, .put bs, _ => let (st, s) := s.putAtGlobal p.cn p.part p.addr bs; .next (s.reply i p st [])
    | _, _, _ => .refused .notEnabled

/-! ### Read-modify-writes (R118, R120, R316) -/

/-- new of R120 for operands of w bytes. -/
def AtomicOp.apply (op : AtomicOp) (w old a c : Nat) : Nat :=
  let lt := decide (sgn (8 * w) old < sgn (8 * w) a)
  (match op with
  | .add => old + a
  | .smin => if lt then old else a
  | .smax => if lt then a else old
  | .umin => min old a
  | .umax => max old a
  | .and => old &&& a
  | .or => old ||| a
  | .xor => old ^^^ a
  | .swap => a
  | .cas => if old = c then a else old) % 2 ^ (8 * w)

/-- An operation of w bytes by the memory-side atomic unit of the home that packet p names: status, old value, state.
The checks are made in this order: the refusals of the core, the capability, the translation, the protected line, the
uncorrectable error (DESIGN CHOICE, log entry 24). -/
def State.atHome (s : State) (p : Packet) (w cap : Nat) (f : Nat → Nat) : Nat × Nat × State :=
  let lacks := fld (s.ipOf 0x04C).toNat cap 1 == 0
  match p.home with
  | .core cn =>
    if s.coreRefuses cn p.addr w then (4, 0, s)
    else if lacks then (2, 0, s)
    else if (s.core cn).badIn p.addr w then (5, 0, s.countUnc cn)
    else
      let old := Memory.num (s.core cn).mem p.addr w
      (0, old, (s.modCore cn fun c => c.put p.addr (leBytes w (f old))).watchAfter s cn)
  | _ =>
    if lacks then (2, 0, s)
    else match s.translate (some p.cn) p.part p.addr .rmw with
      | (.ok pa, s) =>
        if inHost pa || s.lineProtected (s.homeOf pa) pa w then (4, 0, s)
        else if s.gbadIn pa w then (5, 0, s)
        else
          let old := Memory.num s.gmem pa w
          (0, old, s.putGlobal ((span pa w).zip (leBytes w (f old))))
      | (_, s) => (3, 0, s)

/-- Packet i's request of w bytes is performed at its home and answered. -/
def State.performRmw (s : State) (i : Nat) (p : Packet) (w cap : Nat) (f : Nat → Nat) (fetch : Bool) : Out :=
  let go : Out :=
    let (st, old, s) := s.atHome p w cap f
    .next (s.reply i p st (if fetch && st == 0 then [.ofNat 64 old] else []))
  if s.behindOwn i p then .refused .notEnabled
  else match p.home with
  | .core cn =>
    match s.door p cn with
    | .hold => .refused .notEnabled
    | .refuse => .next (s.reply i p 4 [])
    | .accept => go
  | .remote _ => .refused .notEnabled
  | _ => go

/-- ATOMIC_AT_HOME (R120). -/
def execAtomicAtHome (i : Nat) (s : State) : Out :=
  match s.packet i with
  | none => .refused .notEnabled
  | some p =>
    match p.reply, p.body with
    | false, .atomic op w a c fetch => s.performRmw i p w op.cap (fun old => op.apply w old a.toNat c.toNat) fetch
    | _, _ => .refused .notEnabled

/-- RoundTo(f, x + u, m) of two codes of format f, with no flag (R87, R88, R95). -/
def addCodes (f m x u : Nat) : Nat := (roundTo f (addV (decode f x) (decode f u) m).1 m 0).1

/-- FP_UPDATE_AT_HOME (R316). -/
def execFpUpdateAtHome (i : Nat) (s : State) : Out :=
  match s.packet i with
  | none => .refused .notEnabled
  | some p =>
    match p.reply, p.body with
    | false, .fpUpdate f m u => s.performRmw i p (elemBytes f) (updateCap 4 f) (fun x => addCodes f m x u) false
    | _, _ => .refused .notEnabled

/-! ### Halo blocks (R67, R175, R321) -/

/-- A packet is a halo transfer. -/
def Packet.halo? (p : Packet) : Bool := match p.body with
  | .halo _ _ => !p.reply
  | _ => false

/-- HALO_ARRIVAL (R67, R175, R321): in issue order of the sending core toward this neighbour, the block is written and
counted, or refused. -/
def execHaloArrival (i : Nat) (s : State) : Out :=
  match s.packet i with
  | none => .refused .notEnabled
  | some p =>
    match p.reply, p.body, p.home with
    | false, .halo side bs, .core cn =>
      if s.door p cn == .hold || s.net.any fun e => decide (e.1 < i) && e.2.halo? && e.2.cn == p.cn && e.2.home == p.home then
        .refused .notEnabled
      else
        let ok := s.door p cn == .accept && !s.coreRefuses cn p.addr bs.length
        let s := if ok then s.modCore cn fun c =>
            (c.put p.addr bs).setHx side (.ofNat 64 (((SMap.get (0 : Word) c.hx side).toNat + 1) % 2 ^ 32))
          else s
        let ack : Body := .haloAck (if ok then 0 else 4)
        .next ((s.takePacket i p).send { p with home := .core p.cn, slack := min 4095 (p.slack + p.rallow), marked := false,
                                                reply := true, body := ack })
    | _, _, _ => .refused .notEnabled

/-! ### Replies and notices at the issuer -/

/-- The outstanding transaction of a packet's issuer. -/
def State.txOf (s : State) (p : Packet) : Option Tx := (s.core p.cn).txs.find? fun t => t.seq == p.seq

/-- One more exhausted packet of core cn (R133, R134); the first of a transaction places a notice if NEN = 1. For a record
operation or a request to a sequence's part R133 lists no KIND: the field is a free value (log entry 67). -/
def State.exhausted (s : State) (p : Packet) : State :=
  let s := s.modCore p.cn fun c => { c with slkx := c.slkx + 1 }
  if !slkNen p.slk || (s.core p.cn).noticed.contains p.first then s
  else
    let kind := if p.kind = 15 then Config.freeChoice s.fresh % 16 else p.kind
    let s : State := { s with fresh := if p.kind = 15 then s.fresh + 1 else s.fresh }
    (s.modCore p.cn fun c => { c with noticed := c.noticed ++ [p.first] }).notice
      p.cn 1 p.cls p.slk (p.xfer.getD p.first) { info1 := kind, pc := p.pc }

/-- A reply leaves the network: a marked one counts on its arrival (R133). -/
def State.takeReply (s : State) (i : Nat) (p : Packet) : State :=
  let s := { s with net := SMap.del s.net i }
  if p.marked then s.exhausted p else s

/-- HALO_ACKNOWLEDGEMENT (R321). -/
def execHaloAcknowledgement (i : Nat) (s : State) : Out :=
  match s.packet i with
  | none => .refused .notEnabled
  | some p =>
    match p.body, s.txOf p with
    | .haloAck st, some t =>
      let s := (s.takeReply i p).modCore p.cn fun c => { c.completeTx p.seq with halos := c.halos - 1 }
      .next (if st = 0 then s else s.async p.cn (statusRec st t.report))
    | _, _ => .refused .notEnabled

/-- Context k of a core, if it waits for the answer numbered id, waits for w instead. -/
def Core.rewait (c : Core) (k id : Nat) (w : Wait) : Core :=
  if (c.cx k).wait = .sent id then c.modCx k fun x => { x with wait := w } else c

/-- A copy that waits for the update with sequence n is in phase f instead. -/
def Core.recopy (c : Core) (n : Nat) (f : CopyPhase) : Core :=
  { c with copies := c.copies.map fun o => if o.phase = .waiting n then { o with phase := f } else o }

/-- The line that the data of a copy's reply hold: eight doublewords, and a bit for each bad one. -/
def dataLine (data : List Word) : List (Option Byte) :=
  (((data.take 8).flatMap fun w => leBytes 8 w.toNat).zipIdx).map fun (b, i) => if wbit (data.getD 8 0) (i / 8) then none else some b

/-- The answer to a request of a copy: a line that it waits for is consumed by the copy unit, which goes on (R110). -/
def Core.copyData (c : Core) (t : Tx) (data : List Word) : Core :=
  match t.body with
  | .copyRead _ byte =>
    { c with copies := c.copies.map fun o =>
        if o.phase = .waiting t.seq then { o with phase := .running, lines := SMap.put o.lines (byte / 64) (dataLine data) } else o }
  | _ => c

/-- A precise cause that ends the blocked instruction of context k of a core is ready as soon as it is known (R343, R344); in
CT it is a DOUBLE_TRAP (R346). -/
def State.raiseAt (s : State) (cn k : Nat) (r : FaultRec) : State :=
  let r := ({ s with curCore := cn, curCtx := k } : State).located r
  if k = 11 then s.doubleTrap cn r
  else s.modCore cn fun c =>
    let c := c.modCx k fun x => { x with held := true, wait := .none, snap := none }
    { c with trap := { c.trap with precise := c.trap.precise ++ [r] } }

/-- A reading of the rank table as a word: 0 for none. -/
def viaWord (via : Option (Nat × Nat)) : Word :=
  match via with
  | some (pkg, part) => .ofNat 64 (part * 65536 + pkg + 1)
  | none => 0

/-- The answer of a ticketed update goes to its copy, or to the instruction that waits for it: status 0 lets it go on, any
other status raises its record (R151, R317). -/
def State.answerUpdate (s : State) (cn st : Nat) (t : Tx) (data : List Word) : State :=
  let s := s.modCore cn fun c => c.recopy t.seq (.answered st data)
  if ((s.core cn).cx t.ctx).wait != .sent (2 * t.seq + 1) then s
  else if st = 0 then
    s.modCore cn fun c => c.rewait t.ctx (2 * t.seq + 1) (.got 0 [t.report.addr, 0, .ofNat 64 t.first, viaWord t.via])
  else s.raiseAt cn t.ctx (ticketRec st (t.report.addr :: data) t.dest)

/-- The sequence of launch l in slot n becomes q. -/
def State.setSeq (s : State) (l : Launch) (n : Nat) (q : Seq) : State :=
  s.modLaunch l.part l.lid fun l => { l with seqs := SMap.put l.seqs n q }
/-- Lines of sequences of a launch that are closed or aborted from now on. -/
def Launch.shutLines (l : Launch) (lines : List Line) : Launch :=
  let ns := lines.map fun ln => (ln.home, ln.addr)
  { l with closedLines := ns ++ l.closedLines.filter fun e => !ns.contains e }
/-- Slot n of launch l is released; its lines are those of a closed sequence from now on. -/
def State.freeSeq (s : State) (l : Launch) (n : Nat) : State :=
  s.modLaunch l.part l.lid fun l =>
    { l.shutLines (((l.seqs.find? fun q => q.1 == n).map (·.2.lines)).getD []) with seqs := SMap.del l.seqs n }
/-- Slot n of launch l is released by a TSOPEN that has opened nothing. -/
def State.dropSeq (s : State) (l : Launch) (n : Nat) : State :=
  s.modLaunch l.part l.lid fun l => { l with seqs := SMap.del l.seqs n }

/-- The sequence that launch l opens in slot n. -/
def Launch.openingIn (l : Launch) (n : Nat) : Option Seq :=
  ((l.seqs.find? fun q => q.1 == n && q.2.state == .opening)).map (·.2)

/-- Every part has answered the TSOPEN of the sequence in slot n (R144, R145): the sequence is open, or every part is released.
The answer is the handle, 0 where capacity was lacking, none after an overlap. -/
def State.endOpening (s : State) (l : Launch) (n : Nat) : Option Word × State :=
  match l.openingIn n with
  | none => (some 0, s)
  | some q =>
    if q.clash then (none, s.dropSeq l n)
    else if !q.shut.isEmpty then (some 0, s.dropSeq l n)
    else
      ((some (.ofNat 64 ((l.serial + 1) % 2 ^ 32 * 256 + n)),
        (s.setSeq l n { q with serial := l.serial + 1, state := .opened, openAt := [] }).modLaunch l.part l.lid fun l =>
          { l with serial := l.serial + 1 }))

/-- A record operation, or the last of the requests to the parts of a sequence, has been answered: the instruction goes on,
or a status other than 0, of whichever part, raises its record (R287, R294, R319). A TSOPEN has opened by then (R379). -/
def State.answerParts (s : State) (cn st : Nat) (t : Tx) (data : List Word) : State :=
  let id := 2 * t.first + 1
  if (s.core cn).txs.any fun u => u.first == t.first && u.kind == 15 then
    if st = 0 then s
    else s.modCore cn fun c => { c with txs := c.txs.map fun u => if u.first = t.first then { u with failed := true } else u }
  else match t.body, s.launchOf cn with
    | .seqOpen n _, some l =>
      match s.endOpening l n with
      | (some h, s) => s.modCore cn fun c => c.rewait t.ctx id (.got 0 [h])
      | (none, s) => if ((s.core cn).cx t.ctx).wait = .sent id then s.raiseAt cn t.ctx { cause := 0x4D } else s
    | _, _ =>
      if ((s.core cn).cx t.ctx).wait != .sent id then s
      else if st = 0 && !t.failed then s.modCore cn fun c => c.rewait t.ctx id (.got 0 data)
      else s.raiseAt cn t.ctx { cause := match t.body with
        | .recFreeze _ _ _ _ => 0x60
        | _ => 0x4E }

/-- The record that the copy unit of core cn has read fills an entry, if a copy still contributes to it and no STSYNC has come in
between (R103, R108). -/
def State.fillRead (s : State) (cn : Nat) (t : Tx) (data : List Word) : State :=
  let c := s.core cn
  match t.body with
  | .recRead n =>
    if c.copies.any (fun o => o.recen && o.recid == n) && data.getD 8 0 == .ofNat 64 c.syncs then
      s.fillEntry cn 15 n ((data.take 8).zipIdx.foldl (fun a (w, i) => a + w.toNat * 2 ^ (64 * i)) 0)
    else s
  | _ => s

/-- The entry that the answer of transaction t fills cannot be had yet (R136). -/
def State.fillWaits (s : State) (cn : Nat) (t : Tx) : Bool :=
  match t.ctx, t.body with
  | 13, .recRead n => (s.fillHeld cn n).isSome
  | _, _ => false

/-- A completed transaction's status is delivered as its kind says (R121, R151, R287, R319); those of a copy's blocks are the
copy unit's. -/
def State.finishTx (s : State) (cn st : Nat) (t : Tx) (data : List Word) : State :=
  if t.ticketed then s.answerUpdate cn st t data
  else if t.ctx = 13 then s.fillRead cn t data
  else if t.kind = 15 then s.answerParts cn st t data
  else if t.copy.isSome then s.modCore cn fun c => c.copyData t data
  else s.deliver cn st t.cls t.slk t.first t.report

/-- A packet carries a host message. -/
def Packet.host? (p : Packet) : Bool := match p.body with
  | .hostMsg _ _ _ => true
  | _ => false

/-- TRANSACTION_COMPLETION (R121, R170): a non-fetching transaction completes with its status, which is delivered. A host
message completes when its record is written, in issue order of its context (R127). -/
def execTransactionCompletion (i : Nat) (s : State) : Out :=
  match s.packet i with
  | none => .refused .notEnabled
  | some p =>
    match p.home, p.body, s.txOf p with
    | .core _, .reply st data, some t =>
      if t.fetch || st == 6 || s.fillWaits p.cn t then .refused .notEnabled
      else .next (((s.takeReply i p).modCore p.cn fun c => c.completeTx t.seq).finishTx p.cn st t data)
    | _, .hostMsg h tag bytes, some t =>
      if s.net.any fun e => decide (e.1 < i) && e.2.host? && e.2.cn == p.cn && e.2.ctx == p.ctx then .refused .notEnabled
      else .next (((s.takePacket i p).writeRing p.cn h t.report (s.hostRecord p.cn h tag bytes)).modCore p.cn fun c => c.completeTx t.seq)
    | _, _, _ => .refused .notEnabled

/-- REPLY_ARRIVAL (R122, R123): the reply of a fetching transaction fills its q3 slot, or an orphan's slot is freed. -/
def execReplyArrival (i : Nat) (s : State) : Out :=
  match s.packet i with
  | none => .refused .notEnabled
  | some p =>
    match p.home, p.body, s.txOf p with
    | .core _, .reply st data, some t =>
      if !t.fetch then .refused .notEnabled
      else
        let orphan := (s.core p.cn).q3.any fun r => r.tx == some t.seq && r.orphan
        let s := (s.takeReply i p).modCore p.cn fun c =>
          { c.completeTx t.seq with
            q3 := if orphan then c.q3.filter fun r => r.tx != some t.seq
              else c.q3.map fun r => if r.tx == some t.seq then { r with answer := some (st, data.getD 0 0) } else r }
        .next (if orphan then s.deliver p.cn st t.cls t.slk t.seq t.report else s)
    | _, _, _ => .refused .notEnabled

/-- A transaction is sent again, after the RETRY p: the same operation with a new transaction id and the slack of its snapshot (R142,
R150, R157). For an update the rank table is read again; any other keeps its reading (R407), and a message its FLOWSEQ (R400). A notice
about the attempt before may still arrive (R133). -/
def State.resend (s : State) (cn : Nat) (p : Packet) (t : Tx) : State :=
  let c := s.core cn
  let seq := c.txSeq.toNat
  let (home, at_) := s.targetOf cn t.dest t.report.addr
  let via := if t.ticketed then s.reading cn t.dest else t.via
  let t' : Tx := { t with seq := seq, retried := true, via := via }
  let s := s.modCore cn fun c =>
    let c := (c.recopy t.seq (.waiting seq)).rewait t.ctx (2 * t.seq + 1) (.sent (2 * seq + 1))
    { c with txs := c.txs.map fun u => if u.seq == t.seq then t' else u, txSeq := c.txSeq + 1,
             closed := if t.lingers then c.closed ++ [t] else c.closed,
             ctx := c.ctx.map fun (j, x) => (j, if j = t.ctx then x.count 4 else x) }
  s.sendOut { cn := cn, seq := seq, ctx := t.ctx, pc := t.report.pc, kind := t.kind, part := s.partOf cn, lid := s.lidOf cn, home := home,
              addr := at_, slack := slkInit t.slk, rallow := slkRallow t.slk, cls := t.cls, slk := t.slk, first := t.first,
              xfer := t.copy, report := t.report, flowSeq := p.flowSeq, body := t.body } (destCn t.dest) via true

/-- RETRY_RESEND (R150): a RETRY has arrived. -/
def execRetryResend (i : Nat) (s : State) : Out :=
  match s.packet i with
  | none => .refused .notEnabled
  | some p =>
    match p.home, p.body, s.txOf p with
    | .core _, .reply 6 _, some t =>
      if (s.launchOf p.cn).isSome then .next ((s.takeReply i p).resend p.cn p t) else .refused .notEnabled
    | _, _, _ => .refused .notEnabled

/-- EXHAUSTION_NOTICE (R133, R134): the issuing core counts a marked request. -/
def execExhaustionNotice (i : Nat) (s : State) : Out :=
  match s.packet i with
  | none => .refused .notEnabled
  | some p =>
    match p.home, p.body with
    | .core _, .exhausted => .next ({ s with net := SMap.del s.net i }.exhausted p)
    | _, _ => .refused .notEnabled

/-- CW(d) of a core is halved and CONGC counts (R136). -/
def Core.congested (c : Core) (key : DestKey) : Core :=
  { c.setWindow key (max 1 (c.window_ key / 2)) with congc := c.congc + 1 }

/-- CONGESTION_NOTICE (R136): a notice reaches its core, whose packet, if the notice is one in flight, is taken. -/
def execCongestionNotice (cn : CoreNo) (key : DestKey) (s : State) : Out :=
  if s.onMesh cn.toNat then
    let s : State := match s.net.find? fun e => e.2.home == .core cn.toNat && e.2.body == .congestion key with
      | some e => { s with net := SMap.del s.net e.1 }
      | none => s
    .next (s.modCore cn.toNat fun c => c.congested key)
  else .refused .notEnabled

/-! ### Messages (R28, R33, R34, R47, R116) -/

/-- A packet carries a message of channel ch. -/
def Packet.message? (p : Packet) (ch : Nat) : Bool := match p.body with
  | .message m => m.chan == ch
  | _ => false

/-- A packet is a congestion notice, which no operation waits for (R136). -/
def Packet.congestion? (p : Packet) : Bool := match p.body with
  | .congestion _ => true
  | _ => false

/-- Core cn belongs to a launch that the packet is for, which has not completed, and its part of it has ended (R28). -/
def State.lateHere (s : State) (p : Packet) (cn : Nat) : Bool :=
  (s.core cn).part == .ended && match s.launchOf cn with
    | some l => l.receives p && !l.done
    | none => false

/-- A message of packet p, numbered i, waits before core cn: an earlier one of its context toward the core and channel is in
flight (R116), or, for one from another package, an earlier one of its flow is in flight or held in the input buffer (R400); or the
input buffer has no room (R34). -/
def State.messageWaits (s : State) (i cn : Nat) (p : Packet) (m : Msg) : Bool :=
  !s.inbufRoom cn m ||
  (s.net.any fun e => decide (e.1 < i) && e.2.home == p.home && e.2.cn == p.cn && match e.2.body with
    | .message q => if p.remote.isSome then e.2.remote.map (·.2) == p.remote.map (·.2) else e.2.remote.isNone && q.chan == m.chan && e.2.ctx == p.ctx
    | _ => false) ||
  ((s.core cn).inbuf.any fun q => match q.ack with
    | some (f, _) => p.remote.map (·.2) == some f.pkg && p.cn == f.cn
    | none => false)

/-- The message as it enters the input buffer: the acknowledgement of one from another package has slack min(4095, s_arr +
RALLOW) (R132). -/
def Packet.arrivingMsg (p : Packet) (m : Msg) : Msg := { m with ack := m.ack.map fun a => (a.1, min 4095 (p.slack + p.rallow)) }

/-- MESSAGE_ARRIVAL (R33, R34, R116): a message enters the input buffer, if it has room, in issue order of its context
toward this core and channel, or of its flow (R400). A message from another package sets RWAKE (R47); at a core whose part of that
launch has ended it is late, and it is refused where its rank does not name its package, or where the core holds no running launch
of its job in that partition (R28, R397, R407). Messages of one core's engines on one channel also keep their sending order
(DESIGN CHOICE, log entry 63). -/
def execMessageArrival (i : Nat) (s : State) : Out :=
  match s.packet i with
  | none => .refused .notEnabled
  | some p =>
    match p.body, p.home with
    | .message m, .core cn =>
      if s.messageWaits i cn p m then .refused .notEnabled
      else match p.remote with
        | some (rank, pkg) =>
          if !s.knowsRank p.part rank pkg then .next (s.reply i p 4 [])
          else if s.door p cn == .hold then .refused .notEnabled
          else if s.door p cn == .refuse && !s.lateHere p cn then .next (s.reply i p 4 [])
          else .next (((s.takePacket i p).modCore cn fun c => c.latch 7).arrive cn (p.arrivingMsg m))
        | none => if s.door p cn == .hold then .refused .notEnabled else .next ((s.takePacket i p).arrive cn m)
    | _, _ => .refused .notEnabled

/-- HELD_MESSAGE_PLACEMENT (R33 to R35): the first held message of a channel is placed, or discarded as undeliverable, or the placement
finds an uncorrectable entry and reports it (R68). -/
def execHeldMessagePlacement (cn : CoreNo) (ch : BitVec 6) (s : State) : Out :=
  let c := s.core cn.toNat
  match c.inbuf.find? fun m => m.chan == ch.toNat with
  | none => .refused .notEnabled
  | some m =>
    match c.control.dstop, c.placement ch.toNat m.bytes.length with
    | false, .at_ _ => .next (s.placeFirst cn.toNat ch.toNat)
    | false, .undeliverable => .next (s.placeFirst cn.toNat ch.toNat)
    | false, .badEntry => .next (s.placeFirst cn.toNat ch.toNat)
    | _, _ => .refused .notEnabled

end Sys2Proof.Machine
end

