-- ==== Sys2Proof/Machine/Tickets.lean ====
section
/-! DEFINITION. Ticket sequences: opening, updates at the home, draining and closing (spec 06, R143 to R157, R430; spec 14,
R319). -/

namespace Sys2Proof.Machine

/-! ### Parts and lines (R145) -/

/-- A number for each home, which names it to the implementation. -/
def Home.number : Home → Nat
  | .core cn => cn
  | .hbm k c => 4096 + 16 * k + c
  | .tier c => 8192 + c
  | .host p => 16384 + p
  | .remote r => 32768 + r
/-- Open parts that a home holds already; a part of a STOPPED sequence counts as well, its reservation being kept for the
resumption (R156; DESIGN CHOICE, log entry 68). -/
def State.openParts (s : State) (h : Home) : Nat :=
  (s.launches.map fun l => (l.seqs.filter fun q => q.2.holdsAt h && q.2.parts.contains h).length).sum
/-- The home has the reorder capacity for one more part: four parts at least (R145). -/
def State.partFits (s : State) (h : Home) : Bool :=
  decide (s.openParts h < 4) || decide (s.openParts h < 4 + Config.extraParts h.number)

/-! ### tsopen (R143 to R145, R319, R430) -/

/-- A sequence descriptor (R143). -/
structure SeqDesc where
  base : Word
  lines : Nat
  p : Nat
  fmt : Nat
  rm : Nat
  lenient : Bool
  deriving DecidableEq, Repr

/-- The descriptor at local address a of the issuing core. -/
def State.seqDesc (s : State) (a : Nat) : SeqDesc :=
  let d1 := Memory.num s.me.mem (a + 8) 8
  let d2 := Memory.num s.me.mem (a + 16) 8
  ⟨Memory.dword s.me.mem a, fld d1 32 32, fld d1 0 32, fld d2 8 4, fld d2 4 3, fld d2 0 1 == 1⟩

/-- The page that translates va under partition p, by its first address and size; 4 KiB where none does (R386). -/
def State.pageOf (s : State) (p va : Nat) : Nat × Nat :=
  let l2 := match s.walk p va with
    | .leaf _ l2 => l2
    | .stop _ => 12
  (va / 2 ^ l2 * 2 ^ l2, 2 ^ l2)

/-- The page of va and each page behind it up to the address top, at most n of them. -/
def State.pagesTo (s : State) (p va top : Nat) : Nat → List (Nat × Nat)
  | 0 => []
  | n + 1 => let g := s.pageOf p va; g :: if g.1 + g.2 < top then s.pagesTo p (g.1 + g.2) top n else []

/-- A global range touches a page of the launch's statistics record table, of whatever size (R100, R144, R386). -/
def State.touchesRecords (s : State) (va n : Nat) : Bool :=
  match s.launchOf s.curCore with
  | some l =>
    let t := wfld l.rtab 0 48
    l.rcount != 0 && (s.pagesTo l.part t (t + 64 * l.rcount) (64 * l.rcount / 4096 + 2)).any fun g => overlaps va n g.1 g.2
  | none => false

/-- R144 rows 1 to 4. -/
def State.openChecks (s : State) (a : Word) : List (Bool × FaultRec) :=
  let d := s.seqDesc a.toNat
  let sp := wfld d.base 61 3
  [chk (a.toNat % 32 != 0 || outOfGeneral a.toNat 32) 0x4C,
   (s.me.badIn a.toNat 32, accessRec 0xA0 a 32 0),
   s.pointerCheck .remote d.base (64 * d.lines) 0,
   chk (!(sp == 2 || sp == 3) || pointerBase d.base % 64 != 0) 0x4C,
   chk (d.lines == 0 || decide (2 ^ 24 < d.lines) || d.p == 0 || decide (0x7FFFFFFF < d.p) || !(d.fmt == 1 || d.fmt == 2 || d.fmt == 4)
     || decide (4 < d.rm) || (sp == 3 && s.touchesRecords (pointerBase d.base) (64 * d.lines))) 0x4C]

/-- The lines of a global range as R430 translates them, or the record of the lowest one that fails; the second list holds
the lines in a host window, which is no home of a part (R385; log entry 26). -/
def State.globalLines (s : State) (part va n : Nat) : Except FaultRec (List Line) × State :=
  let r := (List.range n).foldl (fun (r, s) i =>
    match r with
    | .error e => (.error e, s)
    | .ok (ls, hosts) =>
      match s.translate (some s.curCore) part (va + 64 * i) .rmw with
      | (.ok pa, s) => (.ok (ls ++ [⟨i, s.homeOf pa, pa, 0⟩], if inHost pa then hosts ++ [va + 64 * i] else hosts), s)
      | (_, s) => (.error { cause := 0x80, addr := .ofNat 64 (va + 64 * i), info0 := 3 }, s))
    ((.ok ([], []) : Except FaultRec (List Line × List Nat)), s)
  match r with
  | (.error e, s) => (.error e, s)
  | (.ok (_, a :: _), s) => (.error { cause := 0x48, addr := .ofNat 64 a, info0 := 4 }, s)
  | (.ok (ls, []), s) => (.ok ls, s)

/-- The lines of the range that a descriptor names, with counters at 0. -/
def State.descLines (s : State) (d : SeqDesc) : Except FaultRec (List Line) × State :=
  match s.placeOf s.curCore d.base with
  | .core t o => (.ok ((List.range d.lines).map fun i => ⟨i, .core t, o + 64 * i, 0⟩), s)
  | _ => s.globalLines (s.partOf s.curCore) (pointerBase d.base) d.lines

/-- The wait of an instruction whose requests to the parts of a sequence cannot leave now (R136, R310). -/
def State.partsHeld (s : State) (q : Seq) : Option Wait :=
  if s.me.choked then some .router else ((q.parts.map Home.key).find? fun k => s.me.windowFull k).map .window

/-- One request of the issuing context to a part of a sequence, as a packet of the transaction first (R310, R319). -/
def State.askPart (s : State) (cls first : Nat) (h : Word) (home : Home) (b : Body) : State :=
  let seq := s.me.txSeq.toNat
  let w := s.slkOf cls
  let rec_ : FaultRec := { s.located {} with async := true }
  let t : Tx := { seq := seq, ctx := s.curCtx, report := rec_, kind := 15, cls := cls, slk := w, dest := 0, addr := h, home := home,
                  key := home.key, first := first, body := b }
  (s.modMe fun c => (c.modCx s.curCtx fun x => x.count 4).opens t).send
    { cn := s.curCore, seq := seq, ctx := s.curCtx, pc := s.cx.pc.toNat % 2 ^ 22, kind := 15, part := s.partOf s.curCore,
      lid := s.lidOf s.curCore, home := home, addr := h.toNat, slack := slkInit w, rallow := slkRallow w, cls := cls, slk := w,
      first := first, report := rec_, body := b }

/-- One request to each part sets out, in part order, and the context waits for all the answers (R319). -/
def State.sendQueries (s : State) (cls : Nat) (h : Word) (q : Seq) (b : Nat → Body) : Out :=
  let first := s.me.txSeq.toNat
  (q.parts.zipIdx.foldl (fun s (home, j) => s.askPart cls first h home (b j)) s).block (.sent (2 * first + 1))

/-- tsopen (R319): after its checks it takes a slot, the implementation's choice among the free ones (log entry 6), asks
every part to open, and answers once all have replied. -/
def execTsopen (st : BitVec 3) (d a : BitVec 5) (c : BitVec 2) (s : State) : Out :=
  let ad := s.readG a
  match s.cx.wait with
  | .got _ data => s.result st d (data.getD 0 0) 0
  | _ =>
    s.check (s.openChecks ad)
      (let desc := s.seqDesc ad.toNat
       match s.descLines desc with
       | (.error e, s) => .next (s.raise e)
       | (.ok lines, s) =>
         s.check [chk (lines.any fun ln => s.lineProtected ln.home ln.addr 64) 0x4D]
           (match s.launchOf s.curCore with
            | none => s.result st d 0 0
            | some l =>
              let q : Seq := { serial := 0, base := desc.base, lines := lines, p := desc.p, fmt := desc.fmt, rm := desc.rm,
                               lenient := desc.lenient, state := .opening, dup := 0, held := [], queried := [],
                               desc := (List.range 4).map fun i => Memory.dword s.me.mem (ad.toNat + 8 * i) }
              let free := (List.range 256).filter fun n => !SMap.has l.seqs n
              if free.isEmpty then s.result st d 0 0
              else match s.partsHeld q with
                | some w => s.block w
                | none =>
                  let n := free.getD (Config.freeChoice s.fresh % free.length) 0
                  ({ s with fresh := s.fresh + 1 }.setSeq l n q).sendQueries c.toNat (.ofNat 64 n) q fun j => .seqOpen n j))

/-! ### Updates at the home (R146, R147) -/

/-- A number of n bytes at a home's address. -/
def State.homeNum (s : State) (h : Home) (a n : Nat) : Nat :=
  match h with
  | .core cn => Memory.num (s.core cn).mem a n
  | _ => Memory.num s.gmem a n
/-- The number of n bytes at a home's address becomes x. -/
def State.setHomeNum (s : State) (h : Home) (a n x : Nat) : State :=
  match h with
  | .core cn => s.modCore cn fun c => c.put a (leBytes n x)
  | _ => s.putGlobal ((span a n).zip (leBytes n x))

/-- Apply(L, U): each element named becomes RoundTo(FMT, x + u, RM). -/
def State.applyLanes (s : State) (q : Seq) (ln : Line) (lanes : List (Nat × Nat)) : State :=
  let n := elemBytes q.fmt
  lanes.foldl (fun s (j, u) => s.setHomeNum ln.home (ln.addr + n * j) n (addCodes q.fmt q.rm (s.homeNum ln.home (ln.addr + n * j) n) u)) s

/-- Line i of a sequence. -/
def Seq.line (q : Seq) (i : Nat) : Option Line := q.lines.find? fun ln => ln.index == i
/-- The counter of line i becomes c. -/
def Seq.setCtr (q : Seq) (i c : Nat) : Seq :=
  { q with lines := q.lines.map fun ln => if ln.index = i then { ln with ctr := c } else ln }
/-- Held(L, t). -/
def Seq.heldAt (q : Seq) (i t : Nat) : Option HeldUpdate := q.held.find? fun u => u.line == i && u.ticket == t

/-- One application of an update, which the watches of a core home see (R125, R147). -/
def State.applyUpdate (s : State) (q : Seq) (ln : Line) (lanes : List (Nat × Nat)) : State :=
  match ln.home with
  | .core cn => (s.applyLanes q ln lanes).watchAfter s cn
  | _ => s.applyLanes q ln lanes

/-- Advance(L): the counter passes ticket c, and held updates follow in ticket order, their applications being due; at most n of
them are held. -/
def Seq.advance (q : Seq) (i : Nat) : Nat → Nat → Seq
  | 0, c => q.setCtr i c
  | n + 1, c =>
    match q.heldAt i c with
    | some u => Seq.advance { q with held := q.held.erase u, due := q.due ++ [(i, u.lanes)] } i n (c + 1)
    | none => q.setCtr i c

/-- The applications that are due on the lines that f names are performed, in their order. -/
def State.performDue (s : State) (q : Seq) (f : Line → Bool) : State × Seq :=
  let mine (e : Nat × List (Nat × Nat)) : Bool := ((q.line e.1).map f).getD false
  ((q.due.filter mine).foldl (fun s e =>
      match q.line e.1 with
      | some ln => s.applyUpdate q ln e.2
      | none => s) s,
   { q with due := q.due.filter fun e => !mine e })

/-- R146 for an update of line ln with ticket t, once the sequence, its format and its state allow it: the status, with 6
for RETRY, and the sequence after it; W is given. -/
def Seq.takeUpdate (q : Seq) (w : Nat) (ln : Line) (t : Nat) (lanes : List (Nat × Nat)) : Nat × Seq :=
  let used := (q.held.filter fun u => ((q.line u.line).map (·.home)) == some ln.home).length
  if t < ln.ctr || (q.heldAt ln.index t).isSome then (0, { q with dup := satAdd 32 q.dup 1 })
  else if t = ln.ctr then (0, { q with due := q.due ++ [(ln.index, lanes)] }.advance ln.index q.held.length (t + 1))
  else if ln.ctr + w ≤ t || w - 1 ≤ used then (6, q)
  else (0, { q with held := q.held ++ [⟨ln.index, t, lanes⟩] })

/-- The sequence of a partition, OPEN or STOPPED, whose part at a home holds the line at an address (R146, R397). -/
def State.seqAt (s : State) (part : Nat) (h : Home) (a : Nat) : Option (Launch × Nat × Seq × Line) :=
  s.launches.findSome? fun l => l.seqs.findSome? fun (n, q) =>
    if l.part != part || q.state == .aborted || q.state == .opening then none
    else (q.lines.find? fun ln => ln.home == h && ln.addr == a).map fun ln => (l, n, q, ln)

/-- The reason of a status 4 where no sequence of a partition holds a line (INFO2 of log entry 23): its sequence has closed, or there was
none (R397). -/
def State.noSeqReason (s : State) (part : Nat) (h : Home) (la : Nat) : Nat :=
  if s.launches.any fun l => l.part == part && l.closedLines.contains (h, la) then 4 else 1

/-- A TSCLOSE has queried the part of a sequence at a home: it answers every update with RETRY (R154). -/
def Seq.queriedAt (q : Seq) (h : Home) : Bool := q.queried.any fun e => q.parts[e.1]? == some h

/-- A part answers RETRY: its sequence is STOPPED, or its launch is being stopped, when an update from outside the launch is
refused and one of the launch's own is decided either way (R146, R156; log entry 6). -/
def State.partRetries (s : State) (l : Launch) (q : Seq) (own : Bool) : Bool :=
  q.state == .stopped || (l.state == .stopping && (!own || Config.freeChoice s.fresh % 2 == 1))

/-- Offset in the line at a home's address of the first doubleword with an uncorrectable error that elements of n bytes touch (R68,
R355). -/
def State.lineBad (s : State) (h : Home) (la n : Nat) (lanes : List (Nat × Nat)) : Option Nat :=
  ((List.range 8).map fun i => 8 * i).find? fun i => (lanes.any fun e => overlaps (n * e.1) n i 8) && match h with
    | .core cn => (s.core cn).badIn (la + i) 8
    | _ => s.gbadIn (la + i) 8

/-- An update that reaches the home of line address la, from the sequence's own launch or another: the status, its datum (the
reason of log entry 23, or where the line is bad), and the state. Its applications are performed at once, after those that are due
on the line, or left for later. -/
def State.updateAt (s : State) (h : Home) (la f t : Nat) (lanes : List (Nat × Nat)) (from_ : Nat × Nat) (late : Bool) : Nat × Nat × State :=
  match s.seqAt from_.1 h la with
  | none => (4, s.noSeqReason from_.1 h la, s)
  | some (l, n, q, ln) =>
    let own := decide (from_ = (l.part, l.lid))
    if q.queriedAt h then (6, 0, s)
    else if f != q.fmt then (4, 2, s)
    else if q.p ≤ t then (4, 3, s)
    else if s.partRetries l q own then (6, 0, s)
    else match if t == ln.ctr then s.lineBad h la (elemBytes f) lanes else none with
      | some i => (5, i, match h with
        | .core cn => s.countUnc cn
        | _ => s)
      | none =>
        let (st, q) := q.takeUpdate (s.ipOf 0x043).toNat ln t lanes
        let (s', q) := if late then (s, q) else s.performDue q fun x => x.index == ln.index
        let s' : State := if l.state == .stopping then { s' with fresh := s'.fresh + 1 } else s'
        (st, 0, s'.setSeq l n q)

/-- A home handles the update of packet i as one step and answers it; at a stopped core it answers RETRY (R142, R146). -/
def State.updateArrival (s : State) (i : Nat) (late : Bool) : Out :=
  match s.packet i with
  | none => .refused .notEnabled
  | some p =>
    match p.reply, p.body with
    | false, .ticket f t lanes =>
      let lacks := fld (s.ipOf 0x04C).toNat (updateCap 7 f) 1 == 0
      let from_ : Nat × Nat := if p.remote.isSome then (p.part, 0) else (p.part, p.lid)
      let answer (r : Nat × Nat × State) : Out := .next (r.2.2.reply i p r.1 (if r.2.1 = 0 then [] else [.ofNat 64 r.2.1]))
      match p.home with
      | .remote _ => .refused .notEnabled
      | .core cn =>
        match s.door p cn with
        | .hold => answer (6, 0, s)
        | .refuse => answer (4, s.noSeqReason p.part (.core cn) (alignDown p.addr 64), s)
        | .accept =>
          if lacks then answer (2, 0, s) else answer (s.updateAt (.core cn) (alignDown p.addr 64) f t lanes from_ late)
      | _ =>
        if lacks then answer (2, 0, s)
        else match s.translate (some p.cn) p.part p.addr .rmw with
          | (.ok pa, s) => if inHost pa then answer (4, 1, s) else answer (s.updateAt (s.homeOf pa) (alignDown pa 64) f t lanes from_ late)
          | (e, s) => answer (3, e.code, s)
    | _, _ => .refused .notEnabled

/-- TICKETED_UPDATE_ARRIVAL (R146). -/
def execTicketedUpdateArrival (i : Nat) (s : State) : Out := s.updateArrival i false

/-- The next application that is due on a line of the sequence in slot n of a launch is performed (R176). -/
def State.applyNext (s : State) (part lid n line : Nat) : Out :=
  match (s.launch? part lid).bind fun l => (l.seqs.find? fun q => q.1 == n).map fun q => (l, q.2) with
  | none => .refused .notEnabled
  | some (l, q) =>
    match q.due.find? fun e => e.1 == line, q.line line with
    | some e, some ln => .next ((s.applyUpdate q ln e.2).setSeq l n { q with due := q.due.erase e })
    | _, _ => .refused .notEnabled

/-- Everything that is due on the lines that f names of the sequences of launch l is performed. -/
def State.performDues (s : State) (part lid : Nat) (f : Line → Bool) : State :=
  match s.launch? part lid with
  | none => s
  | some l => l.seqs.foldl (fun s (n, q) =>
      if q.due.isEmpty then s else let (s, q) := s.performDue q f; s.setSeq l n q) s

/-! ### tdrain and tsclose (R153 to R155, R319) -/

/-- The context waits, at a TDRAIN of a handle, for its requests to set out. -/
def Ctx.drains (x : Ctx) (h : Word) : Bool :=
  match x.cur, x.wait with
  | some (.tdrain _ a _), .window _ => x.rg a.toNat == h
  | some (.tdrain _ a _), .router => x.rg a.toNat == h
  | _, _ => false

/-- Requests of TDRAIN for a handle of launch l that no part has answered yet are answered when the sequence leaves OPEN: 0 if
every line had reached P or the sequence was aborted, 4 otherwise; a TDRAIN whose requests have not set out then returns, or finds
no sequence (R153, R319). -/
def State.endDrains (s : State) (l : Launch) (h : Word) (status : Nat) : State :=
  let s : State := { s with net := s.net.map fun (i, p) => (i, match p.body with
    | .seqDrain _ _ =>
      if p.part = l.part ∧ p.lid = l.lid ∧ p.addr = h.toNat then
        { p with home := .core p.cn, slack := min 4095 (p.slack + p.rallow), rallow := 0, reply := true, body := .reply status [] }
      else p
    | _ => p) }
  if status = 0 then l.cores.foldl (fun s cn => s.modCore cn fun c =>
    { c with ctx := c.ctx.map fun (k, x) => (k, if x.drains h then { x with wait := .got 0 [] } else x) }) s
  else s

/-- tdrain (R153, R319): each part answers once its lines are at P. -/
def execTdrain (st : BitVec 3) (a : BitVec 5) (c : BitVec 2) (s : State) : Out :=
  let h := s.readG a
  match s.cx.wait with
  | .got _ _ => s.done st
  | _ =>
    match s.seqOf s.curCore h with
    | none => s.trap 0x4E
    | some (_, n, q) =>
      if q.state == .aborted then s.done st
      else match s.partsHeld q with
        | some w => s.block w
        | none => s.sendQueries c.toNat h q fun j => .seqDrain n j

/-- The tickets that line ln of q misses: those at or above its counter that are not held. -/
def Seq.missing (q : Seq) (ln : Line) : Nat := q.p - ln.ctr - (q.held.filter fun u => u.line == ln.index).length

/-- The held updates of a sequence in ticket order. -/
def Seq.heldInOrder (q : Seq) : List HeldUpdate := q.held.mergeSort fun u v => decide (u.ticket ≤ v.ticket)

/-- A lenient close applies what is held, in ticket order (R154). -/
def State.applyAllHeld (s : State) (q : Seq) : State :=
  q.heldInOrder.foldl (fun s u =>
    match q.line u.line with
    | some ln => s.applyUpdate q ln u.lanes
    | none => s) s

/-- TSCLOSE once every part has answered its query (R154). -/
def State.close (s : State) (st : BitVec 3) (d : BitVec 5) (h : Word) (l : Launch) (n : Nat) (q : Seq) : Out :=
  match q.lines.find? fun ln => ln.ctr < q.p with
  | none => (((s.freeSeq l n).endDrains l h 0).result st d (.ofNat 64 q.dup) 0)
  | some ln =>
    if q.lenient then
      let m := min ((q.lines.map fun ln => q.missing ln).sum) (2 ^ 32 - 1)
      (((s.applyAllHeld q).freeSeq l n).endDrains l h 4).result st d (.ofNat 64 (m * 2 ^ 32 + q.dup)) 0
    else
      .next ((s.setSeq l n { q with queried := q.queried.filter fun e => e.2 != (s.curCore, s.curCtx) }).raise
        { cause := 0x4F, addr := .ofNat 64 (pointerBase q.base + 64 * ln.index), info0 := ln.ctr })

/-- tsclose (R154, R319). -/
def execTsclose (st : BitVec 3) (d a : BitVec 5) (c : BitVec 2) (s : State) : Out :=
  let h := s.readG a
  match s.seqOf s.curCore h with
  | none => s.trap 0x4E
  | some (l, n, q) =>
    if q.state == .aborted then ((s.freeSeq l n).endDrains l h 0).result st d (.allOnes 64) 0
    else match s.cx.wait with
      | .got _ _ => s.close st d h l n q
      | _ =>
        if s.updatesPending s.curCore s.curCtx h then s.block (.updates h)
        else match s.partsHeld q with
          | some w => s.block w
          | none => s.sendQueries c.toNat h q fun j => .seqQuery n j

/-- The answer of a part, packet p numbered i, sets out. -/
def State.partReply (s : State) (i : Nat) (p : Packet) (st : Nat) (data : List Word) : State :=
  (s.takePacket i p).send { p with home := .core p.cn, slack := min 4095 (p.slack + p.rallow), rallow := 0, marked := false,
                                   reply := true, body := .reply st data }

/-- Part j of the sequence that is opened in slot n takes a TSOPEN: it opens with its counters at 0, or has no capacity, or
meets another sequence's line (R144, R145). -/
def State.openPart (s : State) (l : Launch) (n j : Nat) (q : Seq) (h : Home) : State :=
  if (q.lines.filter fun ln => ln.home == h).any fun ln => s.lineProtected h ln.addr 64 then s.setSeq l n { q with clash := true }
  else if !s.partFits h then s.setSeq l n { q with shut := q.shut ++ [j] }
  else s.setSeq l n { q with openAt := q.openAt ++ [j] }

/-- SEQUENCE_PART_QUERY (R145, R153, R154): a part takes the request of a TSOPEN; or, once what is due there is performed, of a
TDRAIN, its lines being at P, or of a TSCLOSE, from when on it answers every update with RETRY until that TSCLOSE has closed or released it. A
request that finds its sequence closed is answered as well. -/
def execSequencePartQuery (i : Nat) (s : State) : Out :=
  match s.packet i with
  | none => .refused .notEnabled
  | some p =>
    match p.body with
    | .seqOpen n j =>
      match (s.launch? p.part p.lid).bind fun l => (l.openingIn n).map fun q => (l, q) with
      | some (l, q) => .next ((s.openPart l n j q p.home).partReply i p 0 [.ofNat 64 n])
      | none => .next (s.partReply i p 0 [.ofNat 64 n])
    | .seqDrain _ _ =>
      match s.seqOf p.cn (.ofNat 64 p.addr) with
      | none => .next (s.partReply i p 4 [])
      | some (l, n, q) =>
        if q.state != .aborted && q.lines.any (fun ln => ln.home == p.home && ln.ctr != q.p) then .refused .notEnabled
        else let (s, q) := s.performDue q fun ln => ln.home == p.home; .next ((s.setSeq l n q).partReply i p 0 [])
    | .seqQuery _ j =>
      match s.seqOf p.cn (.ofNat 64 p.addr) with
      | none => .next (s.partReply i p 4 [])
      | some (l, n, q) =>
        let (s, q) := s.performDue q fun ln => ln.home == p.home
        .next ((s.setSeq l n { q with queried := q.queried ++ [(j, p.cn, p.ctx)] }).partReply i p 0 [])
    | _ => .refused .notEnabled

end Sys2Proof.Machine
end

