-- ==== Sys2Proof/Machine/Sync.lean ====
section
/-! DEFINITION. Barriers, fences and DEADLOCK: what the Organ carries (spec 14, R323 to R326; spec 07, R168 to R171; spec 01,
R41 to R43). -/

namespace Sys2Proof.Machine

/-! ### Barriers (R323 to R325) -/

/-- M(s) of a launch. -/
def Launch.membersOf (l : Launch) (n : Nat) : List Nat := SMap.get [] l.members n
/-- PH(s) of a launch. -/
def Launch.phaseOf (l : Launch) (n : Nat) : BitVec 32 := SMap.get 0 l.phase n

/-- The record of a barrier fault: the slot and PH(s) (R324, R351). -/
def barrierRec (cause n : Nat) (l : Launch) : FaultRec := { cause := cause, info0 := n, info1 := (l.phaseOf n).toNat }

/-- arrive, or arvdrop with drop (R324). After the wait of R311 the checks are made again (DESIGN CHOICE, log entry 83). -/
def State.arriveAt (s : State) (st : BitVec 3) (n : Nat) (drop : Bool) : Out :=
  let cn := s.curCore
  match s.launchOf cn with
  | none => s.trap 0x0F
  | some l =>
    s.check [(!(l.membersOf n).contains cn, barrierRec 0x0F n l), (SMap.get false s.me.arr n, barrierRec 0x10 n l)]
      (s.afterRelease 4
        (let s := s.modMe fun c => { c with arr := SMap.put c.arr n true, last := SMap.put c.last n (l.phaseOf n), ever := SMap.put c.ever n true }
         (s.modLaunch l.part l.lid fun l =>
           { l with arrived := SMap.put l.arrived n (SMap.get 0 l.arrived n + 1),
                    members := if drop then SMap.put l.members n ((l.membersOf n).erase cn) else l.members }).done st))

/-- arrive (R324). -/
def execArrive (st n : BitVec 3) (s : State) : Out := s.arriveAt st n.toNat false
/-- arvdrop (R324). -/
def execArvdrop (st n : BitVec 3) (s : State) : Out := s.arriveAt st n.toNat true

/-- wait (R325): whether ARR(s) = 1 is looked at in each slot in which the context could issue (DESIGN CHOICE, log entry 83). -/
def execWait (st : BitVec 3) (d : BitVec 5) (n : BitVec 3) (s : State) : Out :=
  if !SMap.get false s.me.ever n.toNat then s.result st d 0 0
  else if SMap.get false s.me.arr n.toNat then s.block (.barrier n.toNat)
  else s.result st d (.ofNat 64 (((SMap.get (0 : BitVec 32) s.me.last n.toNat).toNat + 1) % 2 ^ 32)) 0

/-- The launch is not stopped, reserved or on its way there. -/
def Launch.active (l : Launch) : Bool := l.state == .accepting || l.state == .running || l.state == .stopping

/-- BARRIER_PHASE_COMPLETION (R323). -/
def execBarrierPhaseCompletion (p : BitVec 4) (lid : BitVec 32) (n : BitVec 3) (s : State) : Out :=
  match s.launch? p.toNat lid.toNat with
  | none => .refused .notEnabled
  | some l =>
    let k := n.toNat
    let want := SMap.get 0 l.expected k
    if !l.active || want = 0 || SMap.get 0 l.arrived k != want then .refused .notEnabled
    else
      let s := l.cores.foldl (fun s cn => s.modCore cn fun c => { c with arr := SMap.put c.arr k false }) s
      .next (s.modLaunch l.part l.lid fun l =>
        { l with phase := SMap.put l.phase k (l.phaseOf k + 1), arrived := SMap.put l.arrived k 0,
                 expected := SMap.put l.expected k (l.membersOf k).length })

/-! ### Fences (R170, R171, R326) -/

/-- A scope that names an instance (R168). -/
def scopeOk (c : BitVec 3) : Bool := decide (c.toNat < 6)
/-- A fetching transaction of the context has no reply yet. -/
def State.repliesPending (s : State) : Bool := s.me.txs.any fun t => t.ctx == s.curCtx && t.fetch

/-- fence (R170): both rows. -/
def execFence (st c : BitVec 3) (s : State) : Out :=
  s.check [chk (!scopeOk c) 0x02] (s.afterRelease c.toNat (if s.repliesPending then s.block .replies else s.done st))
/-- fence.acq (R170). -/
def execFenceAcq (st c : BitVec 3) (s : State) : Out :=
  s.check [chk (!scopeOk c) 0x02] (if s.repliesPending then s.block .replies else s.done st)
/-- fence.rel (R170). -/
def execFenceRel (st c : BitVec 3) (s : State) : Out := s.check [chk (!scopeOk c) 0x02] (s.afterRelease c.toNat (s.done st))

/-- fence.sc (R170, R171): after its release it is announced, and it retires once its place in the order is fixed. -/
def execFenceSc (st c : BitVec 3) (s : State) : Out :=
  s.check [chk (!scopeOk c) 0x02]
    (if s.cx.wait = .ordered then s.done st
     else s.afterRelease c.toNat
       (match s.launchOf s.curCore with
        | none => s.done st
        | some l => (s.modLaunch l.part l.lid fun l => { l with fences := l.fences ++ [(s.curCore, s.curCtx)] }).block .order))

/-- FENCE_SC_ORDER_FIXED (R171): an announced FENCE.SC takes the next place in the order. -/
def execFenceScOrderFixed (cn : CoreNo) (k : BitVec 4) (s : State) : Out :=
  match s.launchOf cn.toNat with
  | none => .refused .notEnabled
  | some l =>
    let who := (cn.toNat, k.toNat)
    if l.fences.contains who then
      let s := s.modLaunch l.part l.lid fun l => { l with fences := l.fences.erase who }
      .next (s.modCore cn.toNat fun c => c.modCx k.toNat fun x => if x.wait = .order then { x with wait := .ordered } else x)
    else .refused .notEnabled

/-! ### The end of a core's part (R27) -/

/-- A transaction of core cn keeps its part open: every one but a message on this package that has entered its target's input
buffer (R27). -/
def State.keepsOpen (s : State) (cn : Nat) (t : Tx) : Bool :=
  match t.body, t.home with
  | .message _, .core _ => s.net.any fun (_, p) => p.cn == cn && p.seq == t.seq && !p.reply && match p.body with
    | .message _ => true
    | _ => false
  | _, _ => true

/-- A notice that delivers a status to core cn has not entered its input buffer (R27, R121). -/
def State.statusComing (s : State) (cn : Nat) : Bool :=
  s.net.any fun (_, p) => p.home == .core cn && match p.body with
    | .message m => m.status
    | _ => false

/-- The conditions of R27. A statistics flush that a context's contribution has forked is an engine operation (R174, R180). -/
def State.partDone (s : State) (cn : Nat) : Bool :=
  let c := s.core cn
  c.part == .running && (c.cx 0).finishing && (span 1 10).all (fun k => !(c.cx k).live) &&
  (List.range 64).all (fun ch => c.pend ch == 0) && c.copies.isEmpty && c.halos == 0 && c.flushes == 0 && c.susp.isEmpty && !c.txs.any (s.keepsOpen cn) &&
  !s.statusComing cn

/-! ### DEADLOCK (R41, R42) -/

/-- The all-parked line of core cn (R41). A core whose selection GENEND has suspended raises it although an eligible channel is pending
(DESIGN CHOICE, log entry 89). -/
def State.allParked (s : State) (cn : Nat) : Bool :=
  let c := s.core cn
  ((List.range 11).all fun k => !(c.cx k).live || (c.cx k).finishing || s.parked cn k) && !c.trap.busy &&
    (c.control.selOff || c.choose.isNone || c.freeCtx.isNone)

/-- A parked context holds a host wake or a remote wake armed (R40, R243). -/
def Ctx.armed (x : Ctx) : Bool := x.live && match x.wait with
  | .park m => fld m 6 2 != 0
  | .channels _ r h => r || h
  | _ => false

/-- Every message in core cn's input buffer is held, or waits behind a held message of its channel (R34, R42). -/
def State.allHeld (s : State) (cn : Nat) : Bool :=
  let c := s.core cn
  c.inbuf.all fun m => match (c.inbuf.find? fun q => q.chan == m.chan) with
    | some q => c.placement q.chan q.bytes.length == .held || c.placement q.chan q.bytes.length == .badEntry
    | none => true

/-- A packet belongs to a launch: the launch sent it, or it comes from another package for one of its member cores. -/
def Packet.belongs (p : Packet) (l : Launch) : Bool :=
  p.part == l.part && match p.remote, p.home with
    | some _, .core cn => l.member cn
    | _, _ => p.lid == l.lid

/-- A packet of the launch is in flight, other than a message that cannot advance until a held one is placed, be it the one that it
stands behind (R42). -/
def State.packetMoves (s : State) (l : Launch) : Bool :=
  s.net.any fun (i, p) => p.belongs l && !p.congestion? &&
    match p.body, p.home with
    | .message m, .core cn => !(s.allHeld cn && s.messageWaits i cn p m)
    | _, .remote _ => !p.reply
    | _, .core cn => l.member cn || p.cn == cn
    | _, _ => true

/-- An engine operation of core cn is outstanding, or a transaction other than a message to a core of this package, which
a held message leaves open (R34, R42, R174). -/
def Core.working (c : Core) : Bool :=
  !c.copies.isEmpty || c.halos != 0 || c.flushes != 0 || !c.susp.isEmpty || c.txs.any fun t => match t.body, t.home with
    | .message _, .core _ => false
    | _, _ => true

/-- The condition of R42 for a launch. The part of a core on which all of R27 holds has ended, though its report is still due. -/
def State.deadlocked (s : State) (l : Launch) : Bool :=
  let open_ := l.cores.filter fun cn => (s.core cn).part != .ended && !s.partDone cn
  l.state == .running && !open_.isEmpty && open_.all (fun cn => s.allParked cn && (s.core cn).part == .running) &&
    l.cores.all (fun cn =>
      let c := s.core cn
      s.allHeld cn && !c.working && !c.control.halted && !c.control.dstop && !c.control.diverged && !c.control.stopped &&
        (List.range 11).all (fun k => !(c.cx k).armed) && !c.trap.queue.any (fun r => r.cause == 0x16)) &&
    !s.packetMoves l && l.fences.isEmpty

/-- DEADLOCK (R42): each member core's CT receives the record. -/
def execDeadlock (p : BitVec 4) (lid : BitVec 32) (s : State) : Out :=
  match s.launch? p.toNat lid.toNat with
  | none => .refused .notEnabled
  | some l =>
    if s.deadlocked l then .next (l.cores.foldl (fun s cn => s.async cn { cause := 0x16 }) s) else .refused .notEnabled

end Sys2Proof.Machine
end

