-- ==== Sys2Proof/Machine/System.lean ====
section
/-! DEFINITION. System instructions of the trap context, trap entry between instructions, and what the management
controller does to a core (spec 17, R343 to R346, R355 to R361; spec 21, R421, R422). -/

namespace Sys2Proof.Machine

/-! ### Trap entry and return (R343, R357) -/

/-- TRAP_ENTRY (R343): CT of an idle core takes the record that is ready. -/
def execTrapEntry (cn : CoreNo) (s : State) : Out :=
  let c := s.core cn.toNat
  if c.trap.busy || c.control.halted then .refused .notEnabled
  else match c.nextRecord with
    | some (r, c) => .next (s.setCore cn.toNat (c.takeRecord r))
    | none => .refused .notEnabled

/-- The held context k resumes at TPC (R357); pc and cause are those of the record. -/
def Core.resumeHeld (c : Core) (k pc cause : Nat) : Core :=
  c.modCx k fun x =>
    let x := if c.trap.tpc.toNat != pc then { x with stat := clearPend x.stat, pfx := 0 }
      else if cause = 0xA1 ∨ cause = 0xA2 then { x with stat := setFld x.stat 15 1 1 } else x
    { x with held := false, pc := c.trap.tpc.setWidth 64, ready := [], wait := .none, snap := none, stl := 0 }

/-- What tret does beyond the held context for the record's cause: after REPLAY_DIVERGE the core goes on (R426), unless
DSTOP holds it; after STOP_REQUEST issue and selection stay stopped (R379); after DEBUG_STOP the core stays stopped too
(R427). -/
def Core.acknowledge (c : Core) (cause : Nat) : Core :=
  if cause = 0xA4 then
    if c.control.dreq then { c with control := { c.control with diverged := false } }
    else { c with control := { c.control with diverged := false, dstop := false, dlanded := false } }
  else if cause = 0x15 then { c with control := { c.control with stopped := true } }
  else c

/-- tret (R357). -/
def execTret (st : BitVec 3) (a : BitVec 5) (s : State) : Out :=
  let hold := wbit (s.readG a) 0
  let c := (s.retire 4 st.toNat).me
  let tc := c.trap.tcause
  let r0 := SMap.get (0 : Word) c.trap.frec 0
  let cause := wfld r0 56 8
  let c := if wbit tc 62 || hold then c else c.resumeHeld (wfld tc 54 4) (wfld r0 0 22) cause
  let c := (c.acknowledge cause)
  let c := { c with trap := { c.trap with busy := false } }
  .next (s.setCore s.curCore (match c.nextRecord with
    | some (r, c) => c.takeRecord r
    | none => c.modCx 11 fun x => { x with live := false }))

/-! ### xrd and xwr (R359) -/

/-- The selector names no register (R359). -/
def xaccessBad (k file sel : Nat) : Bool :=
  decide (11 < k) || decide (5 < file) || ((file == 2 || file == 3) && decide (7 < sel % 32)) || (file == 4 && decide (3 < sel % 32))

/-- Key and doubleword of the register that a selector of FILE 0 to 4 names. -/
def xaccessKey (file sel : Nat) : Nat × Nat :=
  let n := sel % 32
  match file with
  | 0 => (keyG n, 0)
  | 1 => (keyV n, sel / 32 % 32)
  | 2 => (keyP n, 0)
  | 3 => (keyE n, 0)
  | _ => (keyB n, 0)

/-- The value of the register that a selector of FILE 0 to 4 names. -/
def Ctx.xread (x : Ctx) (file sel : Nat) : Word :=
  let n := sel % 32
  match file with
  | 0 => x.rg n
  | 1 => .ofNat 64 (lane 64 (SMap.get (0 : VReg) x.v n).toNat (sel / 32 % 32))
  | 2 => x.rp n
  | 3 => SMap.get 0 x.e n
  | _ => SMap.get 0 x.b n

/-- The register that a selector of FILE 0 to 4 names takes w; a doubleword written whole is good (R355). A register written
whole holds no earlier producer's result, so that the next instruction may use it (R205); the other doublewords of a v register
keep their producer's obligation. -/
def Ctx.xwrite (x : Ctx) (file sel : Nat) (w : Word) : Ctx :=
  let n := sel % 32
  let (key, j) := xaccessKey file sel
  let x := { x with bad := x.bad.filter fun e => e != key * 32 + j, ready := if file = 1 then x.ready else SMap.del x.ready key }
  match file with
  | 0 => x.wg n w
  | 1 =>
    let old := (SMap.get (0 : VReg) x.v n).toNat
    { x with v := SMap.put x.v n (.ofNat 2048 (old - lane 64 old j * 2 ^ (64 * j) + w.toNat * 2 ^ (64 * j))) }
  | 2 => x.wp n w
  | 3 => { x with e := SMap.put x.e n w }
  | _ => { x with b := SMap.put x.b n w }

/-- xrd (R359). -/
def execXrd (st : BitVec 3) (d a b : BitVec 5) (s : State) : Out :=
  let k := wfld (s.readG a) 0 4
  let file := wfld (s.readG b) 16 3
  let sel := wfld (s.readG b) 0 16
  let (key, j) := xaccessKey file sel
  s.check [chk (xaccessBad k file sel) 0x11]
    (if file = 5 then s.result st d (s.special s.curCore k (sel % 4096)) 0
     else if (s.me.cx k).bad.contains (key * 32 + j) then
       (s.modMe fun c => { c with trap := { c.trap with tcause := setFld c.trap.tcause 61 1 1, hwUnc := c.trap.hwUnc + 1 } }).result st d 0 0
     else s.result st d ((s.me.cx k).xread file sel) 0)

/-- xwr (R359): the value written is what the context's next instruction uses, in CT itself too. -/
def execXwr (st : BitVec 3) (d a b : BitVec 5) (s : State) : Out :=
  let w := s.readG d
  let k := wfld (s.readG a) 0 4
  let file := wfld (s.readG b) 16 3
  let sel := wfld (s.readG b) 0 16
  s.check [chk (xaccessBad k file sel) 0x11, chk (file == 5 && readOnlySpecial (sel % 4096)) 0x08]
    (let t := s.retire 4 st.toNat
     .next (if file = 5 then t.setSpecial t.curCore k (sel % 4096) w true true
       else t.modMe fun c => c.modCx k fun x => x.xwrite file sel w))

/-! ### Suspended operations and invalidation (R360, R361, R392) -/

/-- The group whose suspended transfer core cn serves: its operation id is the group's number (R358; log entry 27). -/
def State.suspendedGroup (s : State) (cn id : Nat) : Option (Nat × Group) :=
  s.groups.find? fun (n, g) => n == id && g.suspended && s.lidOf cn == g.lid && s.partOf cn == g.part && g.members.head? == some cn

/-- eresume (R360). -/
def execEresume (st : BitVec 3) (a : BitVec 5) (s : State) : Out :=
  let kind := wfld (s.readG a) 16 4
  let id := wfld (s.readG a) 0 16
  match kind with
  | 0 =>
    s.check [chk (!s.me.copies.any fun o => o.id == id && o.phase == .suspended) 0x12]
      ((s.modMe fun c => { c with copies := c.copies.map fun o =>
        if o.id = id ∧ o.phase = .suspended then { o with phase := .running } else o }).done st)
  | 1 =>
    match s.suspendedGroup s.curCore id with
    | some (n, g) => { s with groups := SMap.put s.groups n { g with suspended := false } }.done st
    | none => s.trap 0x12
  | _ =>
    s.check [chk (!s.me.susp.any fun x => x.opkind == kind && x.opid == id) 0x12]
      ((s.modMe fun c => { c with susp := c.susp.filter fun x => !(x.opkind == kind && x.opid == id) }).done st)

/-- eabort (R360): a suspended copy ends with STATUS 2. -/
def execEabort (st : BitVec 3) (a : BitVec 5) (s : State) : Out :=
  let kind := wfld (s.readG a) 16 4
  let id := wfld (s.readG a) 0 16
  s.check [chk (kind != 0 || !s.me.copies.any fun o => o.id == id && o.phase == .suspended) 0x12]
    ((s.modMe fun c => { c with copies := c.copies.map fun o =>
      if o.id = id ∧ o.phase = .suspended then { o with phase := .stopped 2 } else o }).done st)

/-- xinv (R361, R392): entries leave the core's cache and every slice. -/
def execXinv (st : BitVec 3) (a b : BitVec 5) (s : State) : Out :=
  let asid := wfld (s.readG a) 0 16
  let va := if wbit (s.readG a) 63 then none else some (wfld (s.readG b) 0 48)
  ((s.modMe fun c => { c with xcache := dropEntries c.xcache asid va }).dropSlices asid va).done st

/-! ### The management path (R355, R421, R422) -/

/-- Core cn halts or is released. -/
def State.setHalt (s : State) (cn : Nat) (h : Bool) : State :=
  s.modCore cn fun c => { c with control := { c.control with halted := h } }

/-- MACHINE_CHECK (R353, R355): the core halts and M receives the record. -/
def execMachineCheck (cn : CoreNo) (s : State) : Out :=
  if s.onMesh cn.toNat then
    .next (s.machineCheck cn.toNat)
  else .refused .notEnabled

/-- CORE_HALT (R422). -/
def execCoreHalt (cn : CoreNo) (s : State) : Out :=
  if s.onMesh cn.toNat then .next (s.setHalt cn.toNat true) else .refused .notEnabled

/-- HALT_RELEASE (R422). -/
def execHaltRelease (cn : CoreNo) (s : State) : Out :=
  if (s.core cn.toNat).control.halted then .next (s.setHalt cn.toNat false) else .refused .notEnabled

/-- MATRIX_ENGINE_POWER_DOWN (R421): while no slot is owned. -/
def execMatrixEnginePowerDown (cn : CoreNo) (s : State) : Out :=
  let m := (s.core cn.toNat).matrix
  if m.powered && m.owner.isEmpty then .next (s.modCore cn.toNat fun c => { c with matrix := { c.matrix with powered := false } })
  else .refused .notEnabled

/-- MATRIX_ENGINE_READY (R421). -/
def execMatrixEngineReady (cn : CoreNo) (s : State) : Out :=
  if (s.core cn.toNat).matrix.powered then .refused .notEnabled
  else .next (s.modCore cn.toNat fun c => { c with matrix := { c.matrix with powered := true } })

end Sys2Proof.Machine
end

