-- ==== Sys2Proof/Machine/CopyUnit.lean ====
section
/-! DEFINITION. The copy unit: the RDS of CP.GO, the blocks of a copy and its completion (spec 02, R61 to R69, R429; spec 03,
R85, R89; spec 04, R101 to R103; spec 14, R320; spec 19, R391, R393). -/

namespace Sys2Proof.Machine

/-! ### The checks of a copy (R63, R89, R320) -/

/-- DFMT is one on which ACC is defined (R89). -/
def accFormat (acc f : Nat) : Bool :=
  match acc with
  | 0 => true
  | 2 => isInt f
  | 5 => f == 1 || f == 2 || f == 4
  | _ => decide (1 ≤ f) && decide (f ≤ 4)

/-- The address that decides a row's group boundary: local, virtual, or, for 3-byte groups, the row's offset from the
operand's first row (R89; log entry 28). -/
def CopyOp.boundary (o : CopyOp) (cn f : Nat) (p first : Word) : Bool :=
  let g := (fmtGroup f).2
  if g = 3 then ((p - first).toInt % 3 == 0)
  else match o.windows.place cn p with
    | .here a => a % g == 0
    | .scratch a => o.windows.scratchAddr a % g == 0
    | .core _ a => a % g == 0
    | .global a => a % g == 0

/-- COPY_PARAM beyond ADDR (R63, R89, R99, R101, R163). -/
def State.copyParamBad (s : State) (o : CopyOp) : Bool :=
  let (sc, ss) := fmtGroup o.sfmt
  let rows := List.range o.rows
  decide (5 < o.acc) || o.note == 3 || (decide (47 < o.chan) && !s.isS) || ((o.sfmt == 0) != (o.dfmt == 0)) ||
  (!o.plain && !o.converts && (o.acc == 0 || o.sfmt == 9)) || !accFormat o.acc o.dfmt ||
  (o.recen && (s.badRecid o.recid || o.acc == 5 || (o.plain && o.len % 4 != 0))) ||
  (!o.plain && (o.len * sc % ss != 0 || o.elems % (max sc (fmtGroup o.dfmt).1) != 0 ||
    rows.any (fun j => !o.boundary s.curCore o.sfmt (o.srcPtr j) o.src) ||
    rows.any (fun j => !o.boundary s.curCore o.dfmt (o.dstPtr j) o.dst)))

/-- COPY_OVERLAP: source and destination bytes in the executing core's memory overlap (R63). -/
def CopyOp.overlapsItself (o : CopyOp) (cn : Nat) : Bool :=
  let rows := List.range o.rows
  let own (p : Word) (n : Nat) : List (Nat × Nat × Nat) := (o.runs cn p n).filter fun r => r.1 == cn
  let dst := rows.flatMap fun j => own (o.dstPtr j) o.dstRow
  rows.any fun j => (own (o.srcPtr j) o.len).any fun a => dst.any fun b => overlaps a.2.1 a.2.2 b.2.1 b.2.2

/-- The capability bit that ACC needs (R140, R320). -/
def accCap : Nat → Option Nat
  | 0 => none
  | 2 => some 11
  | 5 => some 12
  | _ => some 10

/-- The copy that the shadows and the parameter block at ADDR describe (R61, R62, R63). -/
def State.copyOf (s : State) : CopyOp :=
  let x := s.cx
  let m := s.me.mem
  let a := x.cpPblk.toNat
  let d0 := Memory.dword m a
  { id := s.me.nextId.toNat, ctx := s.curCtx,
    report := { s.located {} with async := true, eng := true, opkind := 0, opid := s.me.nextId.toNat },
    src := x.cpSrc, dst := x.cpDst, len := x.cpLen.toNat, shape := x.cpShape, pblk := d0, side := Memory.dword m (a + 8),
    ticket := Memory.num m (a + 24) 4, rm := s.rm, slk := s.slkOf (wfld d0 6 2), stream := streamOf s.rm s.curCtx,
    rndctr := x.rndctr, table := (List.range 13).map fun i => Memory.dword m (0x1100 + 8 * i) }

/-- The checks of R320 after the limit, in their order. The pointer checks over the destination range need the formats: they
take them from the parameter block as it stands, before ADDR itself is checked (DESIGN CHOICE, log entry 72). -/
def State.copyChecks (s : State) (o : CopyOp) : List (Bool × FaultRec) :=
  let a := s.cx.cpPblk.toNat
  let rows := List.range o.rows
  let lacks := match accCap o.acc with
    | some b => fld (s.ipOf 0x04C).toNat b 1 == 0
    | none => false
  let sr := o.converts && s.srForbidden o.rm
  rows.map (fun j => s.pointerCheck .copySrc (o.srcPtr j) o.len 0) ++
  rows.map (fun j => s.pointerCheck .copyDst (o.dstPtr j) (if o.sfmt = 0 ∨ o.dfmt = 0 then o.len else o.dstRow) 0) ++
  [if o.hasSide && o.sfmt != 0 && o.dfmt != 0 then
     s.pointerCheck (if o.sfmt = 9 then .copySrc else .copyDst) o.side (o.sideRow * o.rows) 0
   else (false, {}),
   chk (a % 32 != 0 || outOfGeneral a 32) 0x2D,
   (s.me.badIn a 32, accessRec 0xA0 (.ofNat 64 a) 32 0),
   chk (s.copyParamBad o) 0x2D,
   chk ((o.acc == 1 && s.ordered s.curCore) || sr) 0x0A,
   (lacks, remoteRec 0x46 4 o.dst 0),
   chk (o.overlapsItself s.curCore) 0x2E]

/-- rds gd, CP.GO (R63, R320): the snapshots are taken once fewer than 32 copies are outstanding. -/
def execCopyGo (st : BitVec 3) (d : BitVec 5) (s : State) : Out :=
  if 32 ≤ s.me.copies.length then .next (s.modCx fun x => { x with wait := .copies })
  else
    let o := s.copyOf
    s.check (s.copyChecks o)
      (let o := if o.dstRow = 0 then { o with phase := .stopped 0 } else o
       let s := s.modMe fun c => { c.modCx s.curCtx fun x => x.count 5 with copies := c.copies ++ [o], nextId := c.nextId + 1 }
       let s := if o.converts then s.advance o.rm else s
       s.result st d (.ofNat 64 o.id) 0)

/-! ### Where a block's bytes lie -/

/-- Bytes of cores' local SRAM, as (core, address) pairs, or pieces of global memory. -/
inductive Site where
  | cells (as : List (Nat × Nat))
  | global (ps : List (Nat × Nat))
  deriving DecidableEq, Repr

/-- The cell that a pointer of copy o of core cn names, if it lies in local SRAM. -/
def CopyOp.cell (o : CopyOp) (cn : Nat) (p : Word) : Option (Nat × Nat) :=
  match o.windows.place cn p with
  | .here a => some (cn, a)
  | .scratch a => some (cn, o.windows.scratchAddr a)
  | .core t a => some (t, a)
  | .global _ => none

/-- The key of a virtual address's page among the translations of a part, which reads or writes it. -/
def CopyOp.pageKey (va : Nat) (write : Bool) : Nat := 2 * (va / 4096) + if write then 1 else 0
/-- The physical address of a virtual one, as the part under way has translated it (R391). -/
def CopyOp.physical (o : CopyOp) (va : Nat) (write : Bool) : Nat :=
  SMap.get 0 (o.pages.getD []) (CopyOp.pageKey va write) * 4096 + va % 4096

/-- The site that the part under way writes: n bytes at offset off behind a pointer of copy o of core cn, each at the pointer plus its
own offset (R61). -/
def CopyOp.site (o : CopyOp) (cn : Nat) (p : Word) (off n : Nat) : Site :=
  let q := p + .ofNat 64 off
  match o.windows.place cn q with
  | .here a => .cells ((span a n).map fun a => (cn, a))
  | .core t a => .cells ((span a n).map fun a => (t, a))
  | .scratch _ => .cells ((List.range n).filterMap fun i => o.cell cn (q + .ofNat 64 i))
  | .global va => .global ((pagesOf va n).map fun a => (o.physical a true, min (va + n) ((a / 4096 + 1) * 4096) - a))

/-- The bytes of a site. -/
def State.siteBytes (s : State) : Site → List Byte
  | .cells as => as.map fun (t, a) => Memory.byte (s.core t).mem a
  | .global ps => readPieces s.gmem ps

/-- The indexes of a site's bytes in bad doublewords, each with whether the site covers that doubleword. -/
def State.siteBad (s : State) : Site → List (Nat × Bool)
  | .cells as => as.zipIdx.filterMap fun ((t, a), i) =>
    if (s.core t).bad.contains (a / 8) then some (i, (span (a / 8 * 8) 8).all fun b => as.contains (t, b)) else none
  | .global ps =>
    let as := pieceBytes ps
    as.zipIdx.filterMap fun (a, i) =>
      if s.gbad.contains (a / 8) then some (i, (span (a / 8 * 8) 8).all fun b => as.contains b) else none

/-- The first byte of a site that a read needs from a bad doubleword (R68). -/
def State.readBad (s : State) (x : Site) : Option Nat := (s.siteBad x).head?.map (·.1)
/-- The first byte of a site whose bad doubleword a write does not cover. -/
def State.writeBad (s : State) (x : Site) : Option Nat := ((s.siteBad x).find? fun e => !e.2).map (·.1)

/-- A write to a site is refused at the target (R429). -/
def State.siteRefuses (s : State) (x : Site) (accumulates : Bool) : Bool :=
  match x with
  | .cells as => as.any fun (t, a) => (s.core t).part == .ended || s.coreRefuses t a 1
  | .global ps => s.globalProtected ps || (accumulates && ps.any fun p => inHost p.1)

/-- Bytes written at a site. -/
def State.putSite (s : State) (x : Site) (bs : List Byte) : State :=
  match x with
  | .cells as =>
    (as.map (·.1)).eraseDups.foldl (fun s t =>
      s.modCore t fun c => c.putAll ((as.zip bs).filterMap fun (e, b) => if e.1 = t then some (e.2, b) else none)) s
  | .global ps => s.putGlobal ((pieceBytes ps).zip bs)

/-- Bytes [i, i + n) of a site as a site. -/
def Site.slice (x : Site) (i n : Nat) : Site :=
  match x with
  | .cells as => .cells ((as.drop i).take n)
  | .global ps => .global (((pieceBytes ps).drop i).take n |>.map fun a => (a, 1))

/-! ### Source bytes (R100, R105, R110)

A byte of global memory has its physical address as its number, one of another core's SRAM a number behind them all. -/

/-- The number of the byte that a pointer of copy o of core cn names, which the part under way reads or writes, if the copy unit has to
request it from another home. -/
def CopyOp.far (o : CopyOp) (cn : Nat) (p : Word) (write : Bool) : Option Nat :=
  match o.windows.place cn p with
  | .core t a => if t = cn then none else some (2 ^ 50 + t * 2 ^ 22 + a)
  | .global va => some (o.physical va write)
  | _ => none

/-- Home and address of a byte by its number (R110). -/
def State.farHome (s : State) (byte : Nat) : Home × Nat :=
  if byte < 2 ^ 50 then (s.homeOf byte, byte) else (.core ((byte - 2 ^ 50) / 2 ^ 22), (byte - 2 ^ 50) % 2 ^ 22)

/-- The line of 64 bytes at an address of a memory; a byte of a bad doubleword is none. -/
def lineBytes (m : Memory) (bad : List Nat) (a : Nat) : List (Option Byte) :=
  (span (a / 64 * 64) 64).map fun b => if bad.contains (b / 8) then none else some (Memory.byte m b)

/-- The line that a byte lies in, as its home holds it. -/
def State.farLine (s : State) (byte : Nat) : List (Option Byte) :=
  if byte < 2 ^ 50 then lineBytes s.gmem s.gbad byte
  else
    let c := s.core ((byte - 2 ^ 50) / 2 ^ 22)
    lineBytes c.mem c.bad ((byte - 2 ^ 50) % 2 ^ 22)

/-- A line as the data of a reply: its bytes, and a bit for each bad doubleword. -/
def lineData (x : List (Option Byte)) : List Word :=
  dwords (x.map fun b => b.getD 0) ++ [.ofNat 64 ((List.range 8).foldl (fun a j => if (x.getD (8 * j) none).isNone then a + 2 ^ j else a) 0)]

/-- The line of number n, as the copy unit has it: one of a record that an earlier part has read comes first. -/
def CopyOp.line? (o : CopyOp) (n : Nat) : Option (List (Option Byte)) :=
  if SMap.has o.kept n then some (SMap.get [] o.kept n) else if SMap.has o.lines n then some (SMap.get [] o.lines n) else none

/-- n bytes at offset off behind a pointer of copy o of core cn, as the copy unit has them. -/
def State.copyBytes (s : State) (cn : Nat) (o : CopyOp) (p : Word) (off n : Nat) : List (Option Byte) :=
  (List.range n).map fun i =>
    let q := p + .ofNat 64 (off + i)
    match o.far cn q false, o.cell cn q with
    | some b, _ => ((o.line? (b / 64)).getD []).getD (b % 64) none
    | none, some (t, a) => if (s.core t).bad.contains (a / 8) then none else some (Memory.byte (s.core t).mem a)
    | none, none => none

/-- A line of global memory is a record of a launch, by whatever address it is read (R99, R100). -/
def State.recordLine (s : State) (line : Nat) : Bool :=
  s.launches.any fun l => (pagesOf (l.recordVa 0) (64 * l.rcount)).any fun va => match s.walk l.part va with
    | .leaf pte l2 =>
      overlaps (64 * line) 64 (ptePage pte + va % 2 ^ l2) (min (l.recordVa 0 + 64 * l.rcount) ((va / 4096 + 1) * 4096) - va)
    | .stop _ => false

/-! ### One block (R65) -/

/-- The local or virtual address of the copy's next destination byte. -/
def CopyOp.dstAddr (o : CopyOp) (cn : Nat) : Nat :=
  match o.windows.place cn (o.dstPtr o.row + .ofNat 64 o.off) with
  | .here a => a
  | .core _ a => a
  | .global a => a
  | .scratch a => o.windows.scratchAddr a

/-- The next block: bytes [off, off + n) of a row, within one aligned 64-byte block of the destination; a scratch row goes
on at the span's base (R58), and behind the last offset at another owner's pointers (R61). -/
def CopyOp.nextLen (o : CopyOp) (cn : Nat) : Nat :=
  let n := min (o.dstRow - o.off) (64 - o.dstAddr cn % 64)
  match o.windows.place cn (o.dstPtr o.row + .ofNat 64 o.off) with
  | .scratch a => let size := 2 ^ fld (Memory.num o.windows.mem 0x1160 8) 32 6; min n (min (size - a % size) (2 ^ 50 - a))
  | _ => n

/-- Elements whose bits lie in destination bytes [off, off + n): first and one past the last; of a B4X destination whole
blocks, since each is scaled as one (R77). -/
def CopyOp.elemRange (o : CopyOp) (n : Nat) : Nat × Nat :=
  let w := fmtBits o.dfmt
  let lo := 8 * o.off / w
  let hi := ceilDiv (8 * (o.off + n)) w
  if o.converts && o.dfmt == 9 then (lo / 32 * 32, ceilDiv hi 32 * 32) else (lo, hi)

/-- Source bytes that elements [lo, hi) of a row occupy: first byte and number. -/
def CopyOp.srcSpan (o : CopyOp) (lo hi : Nat) : Nat × Nat :=
  let w := fmtBits o.sfmt
  (lo * w / 8, ceilDiv (hi * w) 8 - lo * w / 8)

/-- Element i of a bit stream of w-bit elements that starts at element lo, whose first byte holds its first bit. -/
def streamElem (w x lo i : Nat) : Nat := fld x (i * w - lo * w / 8 * 8) w

/-- The value of a code of a scalar format, float or integer. -/
def valueOf (f c : Nat) : Val := if isInt f then valOfInt (intOf (fmtBits f) (isSigned f) c) else decode f c

/-- The value of source element i, from the bytes of elements from lo on and, for B4X, of their side entries. -/
def CopyOp.srcValue (o : CopyOp) (x side lo i : Nat) : Val :=
  let c := streamElem (fmtBits o.sfmt) x lo i
  if o.sfmt = 9 then b4xValue (fld side (16 * (i / 32 - lo / 32)) 8) (fld side (16 * (i / 32 - lo / 32) + 8) 8) c else valueOf o.sfmt c

/-- The draw of element i of the row (R82). -/
def CopyOp.drawOf (o : CopyOp) (seed cn i : Nat) : Nat :=
  if stochastic o.rm then mixerBits seed cn o.stream o.rndctr.toNat (o.row * o.elems + i) else 0

/-- The code of DFMT for source element i, DFMT not being B4X (R86, R89). -/
def CopyOp.dstCode (o : CopyOp) (seed cn x side lo i : Nat) : Nat :=
  if !o.converts then streamElem (fmtBits o.sfmt) x lo i
  else if o.sfmt = 9 then
    let v := o.srcValue x side lo i
    if isInt o.dfmt then
      intCode (fmtBits o.dfmt) (roundInt v (intLo (fmtBits o.dfmt) (isSigned o.dfmt)) (intHi (fmtBits o.dfmt) (isSigned o.dfmt)) o.rm (o.drawOf seed cn i)).1
    else (roundTo o.dfmt v o.rm (o.drawOf seed cn i)).1
  else (convert o.sfmt o.dfmt (streamElem (fmtBits o.sfmt) x lo i) o.rm (o.drawOf seed cn i)).1

/-- Codes of elements [lo, hi), and the side bytes of their blocks for a B4X destination (R77). -/
def CopyOp.codes (o : CopyOp) (seed cn x side lo hi : Nat) : List Nat × List Byte :=
  if o.converts && o.dfmt == 9 then
    let blocks := (List.range ((hi - lo) / 32)).map fun k =>
      let first := lo + 32 * k
      quantBlock 9 ((List.range 32).map fun i => o.srcValue x side lo (first + i)) none o.rm fun i => o.drawOf seed cn (first + i)
    (blocks.flatMap fun b => b.elems.map (·.code), blocks.flatMap fun b => [.ofNat 8 b.scale, .ofNat 8 b.special])
  else ((List.range (hi - lo)).map fun i => o.dstCode seed cn x side lo (lo + i), [])

/-- Destination bytes [off, off + n) of the row from the codes of elements from lo on. -/
def CopyOp.blockBytes (o : CopyOp) (codes : List Nat) (lo n : Nat) : List Byte :=
  let w := fmtBits o.dfmt
  let x := codes.zipIdx.foldl (fun a (c, i) => a + c % 2 ^ w * 2 ^ (lo * w - lo * w / 8 * 8 + w * i)) 0
  (leBytes (o.off + n - lo * w / 8) x).drop (o.off - lo * w / 8)

/-- new of an accumulate mode on codes of DFMT (R62, R85). -/
def CopyOp.combine (o : CopyOp) (old u : Nat) : Nat :=
  match o.acc with
  | 1 => addCodes o.dfmt (if stochastic o.rm then 0 else o.rm) old u
  | 2 => (old + u) % 2 ^ fmtBits o.dfmt
  | 3 => (numberOf true o.dfmt old u).1
  | _ => (numberOf false o.dfmt old u).1

/-- Elements that end in destination bytes [off, off + n): those that the block performs. -/
def CopyOp.performed (o : CopyOp) (lo hi n : Nat) : List Nat :=
  let w := fmtBits o.dfmt
  (span lo (hi - lo)).filter fun i => let e := (w * (i + 1) - 1) / 8; decide (o.off ≤ e) && decide (e < o.off + n)

/-- The values that the block contributes to its record (R101): with a conversion and an accumulate mode both, the
accumulated destination elements (DESIGN CHOICE, log entry 73). -/
def CopyOp.contributions (o : CopyOp) (x side lo hi n : Nat) (new : List Byte) : List Val :=
  if o.plain && o.acc == 0 then
    let all := o.tail ++ new
    (List.range (all.length / 4)).map fun i => decode 2 (leNat ((all.drop (4 * i)).take 4))
  else if o.acc != 0 then
    let w := fmtBits o.dfmt / 8
    (List.range (n / w)).map fun i => valueOf o.dfmt (leNat ((new.drop (w * i)).take w))
  else (o.performed lo hi n).map fun i => o.srcValue x side lo i

/-- The copy after a block of n bytes: the next block, the next row, or the end with its STATUS (R66). -/
def CopyOp.advanced (o : CopyOp) (n : Nat) (new : List Byte) : CopyOp :=
  let all := o.tail ++ new
  let o := { o with bytes := o.bytes + n, block := o.block + 1, phase := .running }
  if o.off + n < o.dstRow then { o with off := o.off + n, tail := if o.plain then all.drop (all.length / 4 * 4) else [] }
  else if o.row + 1 < o.rows then { o with off := 0, row := o.row + 1, tail := [] }
  else { o with phase := .stopped (if o.ovf then 3 else 0) }

/-- Copy o of core cn replaced. -/
def State.setCopy (s : State) (cn : Nat) (o : CopyOp) : State :=
  s.modCore cn fun c => { c with copies := c.copies.map fun q => if q.id = o.id then o else q }

/-- The copy is suspended at its block, whose part will begin anew (R360), and CT receives the record (R351, R393). -/
def State.suspendCopy (s : State) (cn : Nat) (o : CopyOp) (va : Nat) (x : Xlated) (write : Bool) : State :=
  (s.setCopy cn { o with phase := .suspended, pages := none, lines := [] }).async cn
    { o.report with cause := xlateCause x, addr := .ofNat 64 va, info0 := o.block, info1 := if write then 1 else 0 }

/-- The copy stops at its block with STATUS 4 (R429); INFO2 holds the reason of a refused update (DESIGN CHOICE, log entry
23). -/
def State.refuseCopy (s : State) (cn : Nat) (o : CopyOp) (reason : Nat) : State :=
  (s.setCopy cn { o with phase := .stopped 4 }).async cn
    { o.report with cause := 0x48, addr := o.dstPtr o.row + .ofNat 64 o.off, info0 := 4, info1 := 4, info2 := reason }

/-- The copy stops at its block with STATUS 1 (R69); the record of an error in global memory names the address p of the byte
(R351), and one in a core's SRAM counts there (R355). -/
def State.breakCopy (s : State) (cn : Nat) (o : CopyOp) (p : Word) (write : Bool) : State :=
  let s := s.setCopy cn { o with phase := .stopped 1 }
  match o.cell cn p with
  | some (t, _) => (s.countUnc t).report cn { o.report with cause := 0xA0 }
  | none => s.async cn { o.report with cause := 0x84, addr := .ofNat 64 (wfld p 0 48), info0 := o.block, info1 := if write then 1 else 0 }

/-- Everything about a block that is settled before it is performed: its source bytes, and the sites that it writes. -/
structure BlockPlan where
  n : Nat
  lo : Nat
  hi : Nat
  src : List (Option Byte)
  srcSide : List (Option Byte)
  dst : Site
  dstSide : Site
  deriving DecidableEq, Repr

/-- The bytes of the next block, as offsets behind their pointers and lengths: source, source side, destination side; with
its elements. -/
structure BlockSpan where
  n : Nat
  lo : Nat
  hi : Nat
  src : Nat × Nat
  srcSide : Nat × Nat
  dstSide : Nat × Nat
  deriving DecidableEq, Repr

/-- The spans of the next block. -/
def CopyOp.blockSpan (o : CopyOp) (cn : Nat) : BlockSpan :=
  let n := o.nextLen cn
  let (lo, hi) := if o.plain then (0, 0) else o.elemRange n
  let side (b : Bool) : Nat × Nat := if b then (o.row * o.sideRow + lo / 32 * 2, (ceilDiv hi 32 - lo / 32) * 2) else (0, 0)
  ⟨n, lo, hi, if o.plain then (o.off, n) else o.srcSpan lo hi, side (o.converts && o.sfmt == 9), side (o.converts && o.dfmt == 9)⟩

/-- The global addresses among n bytes at offset off behind a pointer of copy o of core cn. -/
def CopyOp.globals (o : CopyOp) (cn : Nat) (p : Word) (off n : Nat) : List Nat :=
  (List.range n).filterMap fun i => match o.windows.place cn (p + .ofNat 64 (off + i)) with
    | .global va => some va
    | _ => none

/-- The global addresses of the next part, with what it does there: its source bytes, then those that it writes (R391). The update that
a copy with ACC = 5 sends is translated at its home. -/
def CopyOp.uses (o : CopyOp) (cn : Nat) : List (Nat × Access) :=
  let b := o.blockSpan cn
  (o.globals cn (o.srcPtr o.row) b.src.1 b.src.2).map (·, .read) ++ (o.globals cn o.side b.srcSide.1 b.srcSide.2).map (·, .read) ++
  (if o.acc = 5 then [] else (o.globals cn (o.dstPtr o.row) o.off b.n).map (·, if o.acc = 0 then .write else .rmw)) ++
  (o.globals cn o.side b.dstSide.1 b.dstSide.2).map (·, .write)

/-- The translations of the next part's pages, made together; or the first address that fails, and whether it is written (R391). -/
def State.translatePart (s : State) (cn : Nat) (o : CopyOp) : Except (Nat × Xlated × Bool) (SMap Nat) × State :=
  (o.uses cn).foldl (fun (r, s) (va, acc) =>
    let w := acc != .read
    match r with
    | .error e => (.error e, s)
    | .ok m =>
      if SMap.has m (CopyOp.pageKey va w) then (.ok m, s)
      else match s.translate (some cn) (s.partOf cn) va acc with
        | (.ok pa, s) => (.ok (SMap.put m (CopyOp.pageKey va w) (pa / 4096)), s)
        | (x, s) => (.error (va, x, w), s)) (.ok [], s)

/-- The next part of a copy begins: its pages are translated, or the copy is suspended there (R391, R393). -/
def State.beginPart (s : State) (cn : Nat) (o : CopyOp) : State :=
  match s.translatePart cn o with
  | (.error (va, x, w), s) => s.suspendCopy cn o va x w
  | (.ok m, s) => s.setCopy cn { o with pages := some m }

/-- The next block's source bytes, its destination and its destination side. -/
def State.plan (s : State) (cn : Nat) (o : CopyOp) : BlockPlan :=
  let b := o.blockSpan cn
  ⟨b.n, b.lo, b.hi, s.copyBytes cn o (o.srcPtr o.row) b.src.1 b.src.2, s.copyBytes cn o o.side b.srcSide.1 b.srcSide.2,
    if o.acc = 5 then .cells [] else o.site cn (o.dstPtr o.row) o.off b.n, o.site cn o.side b.dstSide.1 b.dstSide.2⟩

/-- The first byte that the next block reads from another home and that the copy unit does not have yet. -/
def CopyOp.missing (o : CopyOp) (cn : Nat) : Option Nat :=
  let b := o.blockSpan cn
  let first (p : Word) (off n : Nat) : Option Nat := (List.range n).findSome? fun i =>
    (o.far cn (p + .ofNat 64 (off + i)) false).bind fun k => if (o.line? (k / 64)).isSome then none else some k
  (first (o.srcPtr o.row) b.src.1 b.src.2).orElse fun _ => first o.side b.srcSide.1 b.srcSide.2

/-- The bytes of other homes that the next block's requests name: its first byte, and the first of its side entries. -/
def CopyOp.farDsts (o : CopyOp) (cn : Nat) : List Nat :=
  let b := o.blockSpan cn
  (o.far cn (o.dstPtr o.row + .ofNat 64 o.off) true).toList ++
  if b.dstSide.2 = 0 then [] else (o.far cn (o.side + .ofNat 64 b.dstSide.1) true).toList

/-- The request packets of a copy that are in flight, by their numbers. -/
def State.blockRequests (s : State) (cn : Nat) (o : CopyOp) : List (Nat × Packet) :=
  s.net.filter fun (i, p) => p.cn == cn && !p.reply && p.xfer == some o.id && (s.packet i).isSome && match p.body with
    | .copyRead _ _ => true
    | .copyBlock _ => true
    | _ => false

/-- The next request packets of a running copy, each with its home and address: one for a line that its next block reads from another
home, then one for each other home that the block writes in (R65, R110); none where the copy unit does all itself, or sends an update. -/
def State.nextRequests (s : State) (cn : Nat) (o : CopyOp) : List (Home × Nat × Body) :=
  let ask (b : Body) (k : Nat) : Home × Nat × Body := let (h, a) := s.farHome k; (h, a, b)
  match o.missing cn, o.farDsts cn with
  | some k, _ => [ask (.copyRead o.id k) k]
  | none, ks =>
    if o.acc = 5 then []
    else match ks.map (ask (.copyBlock o.id)) with
      | [x, y] => if x.1 = y.1 then [x] else [x, y]
      | xs => xs

/-- The request packet of the next block sets out toward a home, and the copy waits for what it does there (R110, R111,
R133). -/
def State.sendCopyPacket (s : State) (cn : Nat) (o : CopyOp) (t : Tx) (at_ : Nat) : State :=
  (s.modCore cn fun c => { c.opens t with
      copies := c.copies.map fun q => if q.id = o.id then { q with phase := .waiting t.seq, first := some t.first } else q }).send
    { cn := cn, seq := t.seq, ctx := o.ctx, pc := o.report.pc, kind := 4, part := s.partOf cn, lid := s.lidOf cn, home := t.home, addr := at_,
      slack := slkInit o.slk, rallow := slkRallow o.slk, cls := o.cls, slk := o.slk, first := t.first, xfer := some o.id,
      report := t.report, body := t.body }

/-- The transaction of a copy's next request packet. -/
def State.copyTx (s : State) (cn : Nat) (o : CopyOp) (home : Home) (b : Body) : Tx :=
  let seq := (s.core cn).txSeq.toNat
  { seq := seq, ctx := o.ctx, report := { o.report with info1 := 4 }, kind := 4, cls := o.cls, slk := o.slk, dest := 0, addr := 0,
    home := home, key := home.key, copy := some o.id, first := o.first.getD seq, body := b }

/-- The update of one destination line that a copy with ACC = 5 sends (R146, R151). -/
def State.sendCopyUpdate (s : State) (cn : Nat) (o : CopyOp) (lanes : List (Nat × Nat)) : State :=
  let p := o.dstPtr o.row + .ofNat 64 o.off
  let d : Word := .ofNat 64 (3 * 2 ^ 62)
  let (home, at_) := s.targetOf cn d p
  let t := s.copyTx cn o home (.ticket o.dfmt o.ticket lanes)
  s.sendCopyPacket cn o { t with report := { t.report with addr := p }, dest := d, addr := p, ticketed := true } at_

/-- The homes of the next request packets of a copy that is running; none where its next block needs no packet. -/
def State.nextHomes (s : State) (cn : Nat) (o : CopyOp) : List Home :=
  if (o.missing cn).isNone && o.acc == 5 then [(s.targetOf cn (.ofNat 64 (3 * 2 ^ 62)) (o.dstPtr o.row + .ofNat 64 o.off)).1]
  else (s.nextRequests cn o).map (·.1)

/-- The copy unit holds its next request packets: the window toward a home of theirs is full, or the router refuses them (R136,
R310). -/
def State.copyHeld (s : State) (cn : Nat) (o : CopyOp) : Bool :=
  o.pages.isSome && (s.nextHomes cn o).any fun h => (s.heldBack cn h).isSome

/-- The source elements u are combined with the elements of a destination site of w bytes each (R62, R85). The watches of its
core see each aligned doubleword as the block leaves it, because a copy writes those indivisibly (R125, R165). -/
def State.accumulate (s : State) (o : CopyOp) (x : Site) (w : Nat) (codes : List Nat) : State :=
  let s' := codes.zipIdx.foldl (fun s (u, i) =>
    let e := x.slice (w * i) w
    s.putSite e (leBytes w (o.combine (leNat (s.siteBytes e)) u))) s
  match x with
  | .cells ((t, _) :: _) => s'.watchAfter s t
  | _ => s'

/-- The copy after its block: of the part's lines, those of records stay. -/
def State.pastBlock (s : State) (cn : Nat) (o : CopyOp) (n : Nat) (new : List Byte) : State :=
  s.setCopy cn { o.advanced n new with
    pages := none, lines := [], kept := (o.lines.filter fun e => s.recordLine e.1).foldl (fun m e => SMap.put m e.1 e.2) o.kept }

/-- A block whose plan holds is performed: its bytes are converted, combined and written, and contribute (R65, R101, R125). -/
def State.performBlock (s : State) (cn : Nat) (o : CopyOp) (b : BlockPlan) : State :=
  let bs := b.src.map fun x => x.getD 0
  let x := leNat bs
  let side := leNat (b.srcSide.map fun x => x.getD 0)
  let (codes, sides) := if o.plain then ([], []) else o.codes (s.core cn).seed.toNat cn x side b.lo b.hi
  let w := elemBytes o.dfmt
  if o.acc = 5 then s.sendCopyUpdate cn o (codes.zipIdx.map fun (c, i) => ((o.dstAddr cn % 64 + w * i) / w, c))
  else
    let s' := if o.acc = 0 then s.putSite b.dst (if o.plain then bs else o.blockBytes codes b.lo b.n) else s.accumulate o b.dst w codes
    let new := s'.siteBytes b.dst
    let vs := if o.recen then o.contributions x side b.lo b.hi b.n new else []
    let (s', o) := match (s'.core cn).statEntry o.recid with
      | some e =>
        let (e, k) := e.contributeAll vs
        if vs.isEmpty then (s', o) else (s'.modCore cn fun c => c.setEntry e, { o with ovf := o.ovf || k != 0 })
      | none => (s', o)
    (s'.putSite b.dstSide sides).pastBlock cn o b.n new

/-- The next block of copy o of core cn, its source bytes being there: it is performed, or the copy stops there before anything of
the block is written (R69, R429). -/
def State.copyBlock (s : State) (cn : Nat) (o : CopyOp) : State :=
  let b := o.blockSpan cn
  let lost (xs : List (Option Byte)) : Option Nat := xs.findIdx? fun x => x.isNone
  let broken (p : Word) (off i : Nat) (w : Bool) : State := s.breakCopy cn o (p + .ofNat 64 (off + i)) w
  let p := s.plan cn o
  let dst := if o.acc = 0 then s.writeBad p.dst else s.readBad p.dst
  match lost p.src, lost p.srcSide, dst, s.writeBad p.dstSide with
  | some i, _, _, _ => broken (o.srcPtr o.row) b.src.1 i false
  | _, some i, _, _ => broken o.side b.srcSide.1 i false
  | _, _, some i, _ => broken (o.dstPtr o.row) o.off i true
  | _, _, _, some i => broken o.side b.dstSide.1 i true
  | none, none, none, none =>
    if s.siteRefuses p.dst (o.acc != 0) || s.siteRefuses p.dstSide false then s.refuseCopy cn o 0 else s.performBlock cn o p

/-- The status of an update of a copy with ACC = 5 is acted on (R69, R393, R429): 2 stops the copy as a refusal does (log
entry 29). -/
def State.copyAnswered (s : State) (cn : Nat) (o : CopyOp) (st : Nat) (data : List Word) : State :=
  let n := o.nextLen cn
  let p := o.dstPtr o.row + .ofNat 64 o.off
  match st with
  | 0 => s.pastBlock cn o n []
  | 3 => s.suspendCopy cn o (wfld p 0 48) (xlatedOf (data.getD 0 0).toNat) true
  | 5 => s.breakCopy cn o (p + .ofNat 64 ((data.getD 0 0).toNat - o.dstAddr cn % 64)) true
  | _ => s.refuseCopy cn o (data.getD 0 0).toNat

/-- A read of record n by the copy unit of core cn is under way. -/
def Core.recordComing (c : Core) (n : Nat) : Bool := c.txs.any fun t => t.ctx == 13 && t.body == .recRead n

/-- The copy goes on if it contributes to no record, or its core's accumulator has the entry; else the copy unit reads the record
first (R103), once its request may set out (R136). -/
def State.unlessUnfilled (s : State) (cn : Nat) (o : CopyOp) (k : Out) : Out :=
  let p := s.recordPacket cn 13 o.recid (.recRead o.recid)
  if !o.recen || ((s.core cn).statEntry o.recid).isSome then k
  else if (s.core cn).recordComing o.recid || (s.heldBack cn p.home).isSome then .refused .notEnabled
  else .next (s.sendRecordTx p 13 (some o.id))

/-- The next request packets of a copy set out together. -/
def State.sendRequests (s : State) (cn : Nat) (o : CopyOp) (rs : List (Home × Nat × Body)) : State :=
  let first := o.first.getD (s.core cn).txSeq.toNat
  rs.foldl (fun s (h, a, b) => s.sendCopyPacket cn o { s.copyTx cn o h b with first := first } a) s

/-- A running copy goes on: its part begins, its next request packets set out, or its block is performed at once if it needs no other
home. -/
def State.startBlock (s : State) (cn : Nat) (o : CopyOp) : Out :=
  if o.pages.isNone then .next (s.beginPart cn o)
  else match s.nextRequests cn o with
  | [] => s.unlessUnfilled cn o (.next (s.copyBlock cn o))
  | rs => if (o.missing cn).isSome then .next (s.sendRequests cn o rs) else s.unlessUnfilled cn o (.next (s.sendRequests cn o rs))

/-- COPY_BLOCK_WRITE (R65): the copy unit reads, converts and writes the next destination block. The pages of the block and of its
source bytes are translated (R391); source lines of other homes are requested, and come back with the replies; then the block is written,
by a request where it lies in another home, and one more where its side entries lie in a third, which perform it together and are answered
(R69, R110, R132). -/
def execCopyBlockWrite (cn : CoreNo) (id : BitVec 16) (s : State) : Out :=
  let cn := cn.toNat
  match (s.core cn).copies.find? fun o => o.id == id.toNat with
  | none => .refused .notEnabled
  | some o =>
    match o.phase, s.blockRequests cn o with
    | .answered st data, _ => .next (s.copyAnswered cn o st data)
    | .waiting _, (i, p) :: rest =>
      match p.body with
      | .copyRead _ byte => .next (s.reply i p 0 (lineData (s.farLine byte)))
      | _ => s.unlessUnfilled cn o (.next (((i, p) :: rest).foldl (fun s (i, p) => s.reply i p 0 []) (s.copyBlock cn o)))
    | .running, _ => if s.copyHeld cn o then .refused .notEnabled else s.startBlock cn o
    | _, _ => .refused .notEnabled

/-! ### Completion (R66) -/

/-- The payload of a completion message. -/
def CopyOp.payload (o : CopyOp) (st : Nat) : List Byte :=
  leBytes 8 (min o.bytes (2 ^ 32 - 1) * 2 ^ 32 + st * 2 ^ 24 + o.id)

/-- A copy with delivery outstanding in its phase, or gone when nothing is. -/
def CopyOp.deliver (o : CopyOp) (q0 msg : Bool) : Option CopyOp :=
  if q0 || msg then some { o with phase := .delivering q0 msg } else none

/-- COPY_COMPLETION (R66): once its packets are answered, the completion message sets out and the id is pushed to q0 once it
has room, as NOTE says. -/
def execCopyCompletion (cn : CoreNo) (id : BitVec 16) (s : State) : Out :=
  let cn := cn.toNat
  let c := s.core cn
  match c.copies.find? fun o => o.id == id.toNat with
  | none => .refused .notEnabled
  | some o =>
    let room := decide (c.q0.length < 32)
    let push (s : State) : State := s.modCore cn fun c => { c with q0 := c.q0 ++ [.ofNat 64 o.id] }
    let leave (s : State) (q : Option CopyOp) : State :=
      s.modCore cn fun c => { c with copies := c.copies.filterMap fun x => if x.id == o.id then q else some x }
    match o.phase with
    | .stopped st =>
      let wantsQ := o.note != 0
      let wantsM := o.note != 1
      if c.txs.any (fun t => t.copy == some o.id) || (!wantsM && !room) then .refused .notEnabled
      else
        let s := if wantsM then s.engineMsg cn { chan := o.chan, tag := o.id, bytes := o.payload st, src := sourceId 2 (s.jobRank cn) cn, copy := some o.id }
          else s
        let s := if wantsQ && room then push s else s
        .next (leave s (o.deliver (wantsQ && !room) wantsM))
    | .delivering true m => if room then .next (leave (push s) (o.deliver false m)) else .refused .notEnabled
    | _ => .refused .notEnabled

end Sys2Proof.Machine
end

