-- ==== Sys2Proof/Machine/Shawm.lean ====
section
/-! DEFINITION. The Shawm: population groups, the generation boundary, genome regions, lineage, resumption and migration
(spec 08, R181 to R195; spec 14, R327 to R329; spec 19, R393). -/

namespace Sys2Proof

/-! ### Immigrants as payload (R193)

The spec gives no layout of a batch: the model carries one of its own, cut into requests of at most 2,048 payload bytes, each with the
sequence of the first, its number and their count in a doubleword before its part (DESIGN CHOICE, log entry 62). -/

/-- A region image: index, format, length; its bytes. -/
def RegionImage.words (x : RegionImage) : List Word :=
  .ofNat 64 (x.index.toNat + x.fmt.toNat * 2 ^ 8 + x.len.toNat * 2 ^ 16 + x.bytes.length * 2 ^ 40) :: dwords x.bytes

/-- An immigrant: FIT, cn, position; its regions. -/
def Immigrant.words (m : Immigrant) : List Word :=
  .ofNat 64 (m.fit.toNat + m.cn.toNat * 2 ^ 32 + m.position % 256 * 2 ^ 48 + m.regions.length % 256 * 2 ^ 56) ::
    m.regions.flatMap RegionImage.words

/-- A batch: groups, GEN, members. -/
def Batch.words (b : Batch) : List Word :=
  .ofNat 64 (b.group.toNat + b.sgroup.toNat * 2 ^ 8 + b.members.length % 2 ^ 16 * 2 ^ 16 + b.sgen.toNat * 2 ^ 32) ::
    b.members.flatMap Immigrant.words

/-- At most n region images read from words, with the words behind them. -/
def readRegions : Nat → List Word → List RegionImage × List Word
  | 0, ws => ([], ws)
  | _ + 1, [] => ([], [])
  | n + 1, w :: ws =>
    let len := wfld w 40 24
    let k := ceilDiv len 8
    let r := readRegions n (ws.drop k)
    (⟨.ofNat 3 (wfld w 0 3), .ofNat 22 (wfld w 16 22), .ofNat 4 (wfld w 8 4), ((ws.take k).flatMap fun x => leBytes 8 x.toNat).take len⟩ :: r.1,
     r.2)

/-- At most n immigrants read from words. -/
def readImmigrants : Nat → List Word → List Immigrant
  | 0, _ => []
  | _ + 1, [] => []
  | n + 1, w :: ws =>
    let r := readRegions (wfld w 56 8) ws
    ⟨.ofNat 32 (wfld w 0 32), .ofNat 11 (wfld w 32 11), wfld w 48 8, r.1⟩ :: readImmigrants n r.2

/-- The batch that words hold, from a sender's job rank. -/
def readBatch (srank : Nat) (ws : List Word) : Batch :=
  let w := ws.getD 0 0
  ⟨.ofNat 6 (wfld w 0 6), .ofNat 32 srank, .ofNat 6 (wfld w 8 6), .ofNat 32 (wfld w 32 32), readImmigrants (wfld w 16 16) (ws.drop 1)⟩

/-- The parts of a batch's words, of at most 255 doublewords each. -/
def Batch.cut (b : Batch) : List (List Word) :=
  let ws := b.words
  (List.range (max 1 (ceilDiv ws.length 255))).map fun k => (ws.drop (255 * k)).take 255

end Sys2Proof

namespace Sys2Proof.Machine

/-! ### Groups (R181, R182) -/

/-- Group n. -/
def State.group (s : State) (n : Nat) : Option Group := (s.groups.find? fun g => g.1 == n).map (·.2)
/-- The state with group n replaced. -/
def State.setGroup (s : State) (n : Nat) (q : Group) : State := { s with groups := SMap.put s.groups n q }
/-- The number of core cn's group (GEN.INGRP, GEN.GROUP). -/
def Core.groupNo (c : Core) : Option Nat := if wbit c.gen 63 then some (wfld c.gen 32 6) else none

def Group.k (q : Group) : Nat := wfld (q.dws.getD 0 0) 0 11
def Group.migin (q : Group) : Bool := wbit (q.dws.getD 0 0) 14
def Group.even (q : Group) : Bool := wbit (q.dws.getD 0 0) 15
/-- EVCHAN, which an accepted descriptor may hold outside its range of 0 to 47: the message goes to that channel all the same (R181;
DESIGN CHOICE, log entry 92). -/
def Group.evchan (q : Group) : Nat := wfld (q.dws.getD 0 0) 16 6
def Group.seed (q : Group) : Nat := (q.dws.getD 1 0).toNat
def Group.logBase (q : Group) : Nat := wfld (q.dws.getD 2 0) 0 48
def Group.logCap (q : Group) : Nat := wfld (q.dws.getD 3 0) 0 32
/-- The origin core of the group. -/
def Group.origin (q : Group) : Nat := q.members.headD 0
/-- All members have arrived (R184). -/
def Group.full (q : Group) : Bool := decide (q.members.length = q.fits.length)

/-! ### Genome regions (R185, R186) -/

/-- A genome region descriptor with VALID = 1. -/
structure Region where
  index : Nat
  base : Nat
  len : Nat
  fmt : Nat
  recen : Bool
  recid : Nat
  prob : Nat
  sigma : Nat
  deriving DecidableEq, Repr

/-- Doublewords 0 to 2 of a core's eight descriptors. -/
def Core.regionDws (c : Core) : List Word :=
  (List.range 8).flatMap fun r => (List.range 3).map fun j => Memory.dword c.mem (0x1000 + 32 * r + 8 * j)

/-- The descriptors with VALID = 1 among such doublewords. -/
def regionsOf (dws : List Word) : List Region :=
  (List.range 8).filterMap fun r =>
    let d0 := dws.getD (3 * r) 0
    let d1 := dws.getD (3 * r + 1) 0
    if wbit d0 63 then
      some ⟨r, wfld d0 0 22, wfld d0 32 22, wfld d1 32 4, wbit d1 43, wfld d1 44 20, wfld d1 0 16, wfld (dws.getD (3 * r + 2) 0) 0 32⟩
    else none

/-- Bytes of an element of a region format; none for a code that R185 does not list. -/
def regionElem : Nat → Option Nat
  | 0 => some 1
  | 2 => some 4
  | 3 => some 2
  | 4 => some 2
  | 5 => some 1
  | 6 => some 1
  | _ => none

/-- The region is valid among the others of its core, with the launch's record count (R186). -/
def Region.valid (r : Region) (all : List Region) (rcount : Nat) : Bool :=
  match regionElem r.fmt with
  | none => false
  | some e =>
    decide (0 < r.len) && r.base % e == 0 && r.len % e == 0 && !outOfGeneral r.base r.len &&
    all.all (fun q => q.index == r.index || !overlaps r.base r.len q.base q.len) &&
    (r.fmt != 0 || !r.recen) && (!(r.fmt == 5 || r.fmt == 6) || r.recen) && (!r.recen || decide (r.recid < rcount))

/-- The valid regions among descriptor doublewords. -/
def validRegions (dws : List Word) (rcount : Nat) : List Region :=
  let all := regionsOf dws
  all.filter fun r => r.valid all rcount

/-! ### genend (R183, R327) -/

/-- The lowest-numbered invalid descriptor of the issuing core. One with an uncorrectable error is read as its bytes stand (R68, R327;
DESIGN CHOICE, log entry 96). -/
def State.badRegion (s : State) : Option Region :=
  let all := regionsOf s.me.regionDws
  let rcount := ((s.launchOf s.curCore).map (·.rcount)).getD 0
  all.find? fun r => !r.valid all rcount

/-- The checks of genend. -/
def State.genendChecks (s : State) : List (Bool × FaultRec) :=
  [chk (s.curCtx != 0) 0x06, chk s.me.groupNo.isNone 0x0B, chk ((span 1 10).any fun k => (s.me.cx k).live) 0x0C,
   match s.badRegion with
   | some r => (true, { cause := 0x0D, addr := .ofNat 64 (0x1000 + 32 * r.index), info0 := r.index })
   | none => (false, {})]

/-- The member arrives with its FIT and its descriptors, and waits for the Shawm; at the last arrival the immigrants
received so far are those of this boundary (R183, R194, R195). -/
def State.genendArrive (s : State) : Out :=
  let c := s.me
  match c.groupNo.bind fun n => (s.group n).map fun q => (n, q) with
  | none => s.trap 0x0B
  | some (n, q) =>
    let q := { q with fits := SMap.put q.fits s.curCore c.fit.toNat, descs := SMap.put q.descs s.curCore c.regionDws }
    let q := if q.full then { q with counted := q.held.length } else q
    (s.setGroup n q).block .shawm

/-- The wait for the transactions and engine operations, and the flush with its wait (R183). -/
def State.genendQuiet (s : State) : Out :=
  let c := s.me
  if !c.txs.isEmpty || !c.copies.isEmpty || c.halos != 0 then s.block .quiet
  else
    let s := s.flushAll s.curCore s.curCtx
    match s.flushWait s.curCore with
    | some w => s.block w
    | none => if s.me.flushes != 0 then s.block .merges else s.genendArrive

/-- genend (R183, R327): it is resumed by GENERATION_RESUMPTION. -/
def execGenend (_st : BitVec 3) (s : State) : Out :=
  match s.cx.wait with
  | .quiet => s.genendQuiet
  | .window _ => s.genendQuiet
  | .router => s.genendQuiet
  | .merges => s.genendArrive
  | .shawm => s.block .shawm
  | _ => s.check s.genendChecks ((s.modMe fun c => { c with control := { c.control with selOff := true } }).genendQuiet)

/-! ### genq and migrate (R181, R193, R328, R329) -/

/-- genq (R328). -/
def execGenq (st : BitVec 3) (d q : BitVec 5) (s : State) : Out :=
  let grp := s.me.groupNo.bind s.group
  s.check [chk (decide (6 < q.toNat)) 0x02, chk (q.toNat != 0 && grp.isNone) 0x0B]
    (let g := grp.getD { part := 0, lid := 0, dws := [], members := [] }
     let w : Word := match q.toNat with
       | 0 => s.me.gen
       | 5 => g.logidx
       | 6 => .ofNat 64 g.held.length
       | n => g.dws.getD (n - 1) 0
     s.result st d w 0)

/-- migrate (R193, R329). In its REMOTE_OP_UNSUPPORTED record ADDR, INFO1 and DETAIL0 are zero (DESIGN CHOICE, log entry 98). -/
def execMigrate (st : BitVec 3) (d a : BitVec 5) (s : State) : Out :=
  let w := s.readG a
  let rank := wfld w 16 32
  let j := wfld w 0 5
  let grp := s.me.groupNo.bind fun n => (s.group n).map fun q => (n, q)
  let size := (grp.map fun g => g.2.members.length).getD 0
  let ranks := ((s.launchOf s.curCore).map fun l => (l.rank, l.ranks)).getD (0, 1)
  let dest : Word := .ofNat 64 (2 ^ 62 + rank * 2 ^ 16)
  s.check [chk (s.curCtx != 0) 0x06, chk grp.isNone 0x0B, chk (j == 0 || decide (min 16 (size / 2) < j)) 0x0E,
           chk (rank == ranks.1 || decide (ranks.2 ≤ rank)) 0x41, chk (s.capMissing dest 13) 0x46]
    (match grp with
     | none => s.trap 0x0B
     | some (n, q) =>
       if q.export_.isSome then s.result st d 0 0
       else (s.setGroup n { q with export_ := some ⟨rank, wfld w 8 6, j, s.slkOf 0⟩ }).result st d 1 0)

/-! ### Ranking and mutation (R184, R187, R188) -/

/-- The member with FIT x on core a is ranked before the one with FIT y on core b (R184). -/
def fitBefore (x a y b : Nat) : Bool :=
  let u := decode 2 x
  let v := decode 2 y
  if isNan u || isNan v then (isNan v && (!isNan u || decide (a < b))) else ltV v u || (eqV u v && decide (a < b))

/-- The members in rank order. -/
def Group.ranked (q : Group) : List Nat :=
  q.members.insertionSort fun a b => fitBefore (SMap.get 0 q.fits a) a (SMap.get 0 q.fits b) b = true

/-- A code of a region format as FP32, with the scale byte of its record (R188). -/
def genomeDecode (f b c : Nat) : Nat :=
  if f = 2 then c else (roundTo 2 (if f = 5 ∨ f = 6 then timesE8 (decode f c) b else decode f c) 0 0).1

/-- An FP32 code as a code of a region format. -/
def genomeEncode (f b x : Nat) : Nat :=
  if f = 2 then x else (roundTo f (if f = 5 ∨ f = 6 then overE8 (decode 2 x) b else decode 2 x) 0 0).1

/-- z of R187 from the draw y. -/
def noise (y : Nat) : Nat :=
  let sum : Int := (fld y 0 16 + fld y 16 16 + fld y 32 16 + fld y 48 16 : Nat)
  (roundTo 2 (mulV (valOfInt (sum - 131070)) (decode 2 0x37DDB3D7)).1 0 0).1

/-- Element i of region r of the source, with code c: the code written and the value contributed (R187, R188). -/
def Region.transfer (r : Region) (kd b i c : Nat) : Nat × Val :=
  let x := genomeDecode r.fmt b c
  if mixer kd (r.index * 2 ^ 56 + 2 * i) % 65536 < r.prob then
    let z := noise (mixer kd (r.index * 2 ^ 56 + (2 * i + 1)))
    let x' := (roundTo 2 (addV (mulV (decode 2 r.sigma) (decode 2 z)).1 (decode 2 x) 0).1 0 0).1
    (genomeEncode r.fmt b x', decode 2 x')
  else (c, decode 2 x)

/-- The bytes that a region's transfer writes from the source's bytes, and the values it contributes. -/
def Region.image (r : Region) (kd b : Nat) (src : List Byte) : List Byte × List Val :=
  match regionElem r.fmt with
  | none => (src, [])
  | some e =>
    if r.fmt = 0 then (src, [])
    else
      let out := (List.range (src.length / e)).map fun i => r.transfer kd b i (leNat ((src.drop (e * i)).take e))
      (out.flatMap fun o => leBytes e o.1, if r.recen then out.map (·.2) else [])

/-! ### The Shawm's accumulator (R102 to R104) -/

/-- An entry of the Shawm's accumulator is flushed for a generation: of the group of launch l with an origin core, if it is
that launch's. -/
def State.flushFor (s : State) (l : Launch) (origin : Nat) (e : StatEntry) : State :=
  s.flushShawm (if e.recid / 2 ^ 20 = l.part * 2 ^ 32 + l.lid then some origin else none) e

/-- Values contributed to record n of launch l through the Shawm's accumulator, in the generation of the group with an origin
core; img is the record as the generation read it. The last answer says whether an excess occurred. -/
def State.shawmContribute (s : State) (l : Launch) (origin n img : Nat) (vs : List Val) : State × Bool :=
  if vs.isEmpty then (s, false)
  else
    let id := shawmId l.part l.lid n
    let s := if (s.shawmStats.any fun e => e.recid == id) || decide (s.shawmStats.length < 8) then s
      else match s.shawmStats[Config.freeChoice s.fresh % 8]? with
        | some v => { s.flushFor l origin v with fresh := s.fresh + 1 }
        | none => s
    let old := (s.shawmStats.find? fun e => e.recid == id).getD (entryOf id img)
    let (e, n) := old.contributeAll vs
    ({ s with shawmStats := (s.shawmStats.filter fun x => x.recid != id) ++ [e] }, n != 0)

/-! ### The generation boundary (R184, R187, R189, R193, R194) -/

/-- What a boundary works with: the launch, the group and its number, GEN before the increment, the regions of each
member, the records that the regions name, the members in rank order. -/
structure Boundary where
  launch : Launch
  num : Nat
  group : Group
  gen : Nat
  records : SMap Nat
  order : List Nat
  deriving DecidableEq, Repr

/-- The valid regions that the descriptors of a member name. -/
def Boundary.regions (b : Boundary) (cn : Nat) : List Region := validRegions (SMap.get [] b.group.descs cn) b.launch.rcount
/-- Latched FIT of a member. -/
def Boundary.fit (b : Boundary) (cn : Nat) : Nat := SMap.get 0 b.group.fits cn

/-- A lineage record (R189). -/
def Boundary.lineage (b : Boundary) (kind : Nat) (mism ovf : Bool) (dst src srcFit kd srcRank sigma : Nat) : List Word :=
  [.ofNat 64 (b.gen * 2 ^ 32 + b.num * 2 ^ 26 + kind * 2 ^ 24 + (if mism then 2 ^ 23 else 0) + (if ovf then 2 ^ 22 else 0)
     + dst * 2 ^ 11 + src),
   .ofNat 64 (b.fit dst * 2 ^ 32 + srcFit), .ofNat 64 kd, .ofNat 64 (srcRank * 2 ^ 32 + sigma)]

/-- One replacement: member dst becomes a mutated copy of member src (R187, R188). -/
def Boundary.replace (b : Boundary) (s : State) (src dst : Nat) : State × List Word × List Role :=
  let k0 := mixer (b.launch.seed.toNat ^^^ 3 * 2 ^ 56) b.group.seed
  let kd := mixer k0 ((b.gen * 2 ^ 11 ||| dst) % 2 ^ 64)
  let rs := b.regions dst
  let (s, ovf) := rs.foldl (fun (s, ovf) r =>
    let img := SMap.get 0 b.records r.recid
    let (bytes, vs) := r.image kd (recordScale img) (Memory.read (s.core src).mem r.base r.len)
    let s := s.modCore dst fun c => c.put r.base bytes
    let (s, x) := s.shawmContribute b.launch b.group.origin r.recid img vs
    (s, ovf || x)) (s, false)
  let sigma := ((rs.find? fun r => r.fmt != 0).map (·.sigma)).getD 0
  (s, b.lineage 0 false ovf dst src (b.fit src) kd b.launch.rank sigma, [⟨dst, 1, src, b.launch.rank, ovf⟩, ⟨src, 2, dst, b.launch.rank, false⟩])

/-- One immigrant is installed on member dst (R194). -/
def Boundary.install (b : Boundary) (s : State) (dst rank : Nat) (im : Immigrant) : State × List Word × List Role :=
  let rs := b.regions dst
  let fits (x : RegionImage) (r : Region) : Bool := r.index == x.index.toNat && r.len == x.len.toNat && r.fmt == x.fmt.toNat
  let (s, mism) := im.regions.foldl (fun (s, mism) x =>
    match rs.find? (fits x) with
    | some r => (s.modCore dst fun c => c.put r.base ((x.bytes ++ List.replicate r.len 0).take r.len), mism)
    | none => (s, true)) (s, false)
  let mism := mism || rs.any fun r => !im.regions.any fun x => fits x r
  (s, b.lineage 1 mism false dst im.cn.toNat im.fit.toNat 0 rank 0, [⟨dst, 3, im.cn.toNat, rank, false⟩])

/-- Order of immigrants: sender rank, sender group, sender GEN, position (R194). -/
def immigrantBefore (x y : Nat × Nat × Nat × Immigrant) : Bool :=
  let (r, g, n, i) := x
  let (r', g', n', i') := y
  decide (r < r') || (r == r' && (decide (g < g') || (g == g' && (decide (n < n') || (n == n' && decide (i.position ≤ i'.position))))))

/-- Replacements, then immigrants, with the lineage records and roles they leave (R184). -/
def Boundary.transfers (b : Boundary) (s : State) : State × List (List Word) × List Role :=
  let n := b.order.length
  let js := (b.group.held.take b.group.counted).insertionSort fun x y => immigrantBefore x y = true
  let kk := min b.group.k ((n - js.length) / 2)
  let add (r : State × List (List Word) × List Role) (x : State × List Word × List Role) : State × List (List Word) × List Role :=
    (x.1, r.2.1 ++ [x.2.1], r.2.2 ++ x.2.2)
  let r := (List.range kk).foldl (fun r i => add r (b.replace r.1 (b.order.getD i 0) (b.order.getD (n - js.length - 1 - i) 0))) (s, [], [])
  js.zipIdx.foldl (fun r x => add r (b.install r.1 (b.order.getD (n - js.length + x.2) 0) x.1.1 x.1.2.2.2)) r

/-- The records that the regions of the members name are read, once each; or the address that fails to translate (R188). -/
def State.readRecords (s : State) (l : Launch) (ids : List Nat) : Except Nat (SMap Nat) × State :=
  ids.foldl (fun (r, s) n =>
    match r with
    | .error e => (.error e, s)
    | .ok m =>
      match s.translate none l.part (l.recordVa n) .read with
      | (.ok pa, s) => (.ok (SMap.put m n (Memory.num s.gmem pa 64)), s)
      | (_, s) => (.error (l.recordVa n), s)) (.ok [], s)

/-- A record read of the Shawm is suspended, and the CT of the group's origin core receives STATS_XLATE (R358, R393). -/
def State.suspendRead (s : State) (n : Nat) (q : Group) (va : Nat) : State :=
  let i := s.nextPkt
  let s : State := { s with nextPkt := i + 1 }
  let s := (s.setGroup n { q with reading := some i }).modCore q.origin fun c =>
    { c with susp := c.susp ++ [⟨2, i % 65536, i⟩] }
  s.async q.origin { cause := 0x86, eng := true, addr := .ofNat 64 va, opkind := 2, opid := i % 65536 }

/-- The lineage records still to be written, until one fails to translate: then the group is suspended (R189, R393). An address that
passes 2^48 goes on at 0 (DESIGN CHOICE, log entry 91). -/
def State.writeLineage (s : State) (n : Nat) (q : Group) (part : Nat) : List (List Word) → State × Group
  | [] => (s, { q with log := [] })
  | dws :: rest =>
    let total := (q.roles.filter fun r => r.role == 1 || r.role == 3).length
    let index := q.logidx.toNat + (total - (rest.length + 1))
    let va := (q.logBase + 32 * (index % max 1 q.logCap)) % 2 ^ 48
    match s.translate none part va .write with
    | (.ok pa, s) =>
      let s := s.putBytes pa (dws.flatMap fun w => leBytes 8 w.toNat)
      s.writeLineage n q part rest
    | (_, s) =>
      (s.async q.origin { cause := 0x85, eng := true, addr := .ofNat 64 va, info1 := 1, opkind := 1, opid := n },
       { q with log := dws :: rest, suspended := true })

/-- MIGST of a status (R190). -/
def migstOf (st : Nat) : Nat := if st = 0 then 1 else if st = 1 then 3 else 2

/-- The genomes of ranks 1 to j set out as one or more requests, or are answered without being sent (R193, R396, R401). From then on
no export is pending for the group (DESIGN CHOICE, log entry 80). -/
def Boundary.sendExport (b : Boundary) (s : State) (q : Group) (x : Export) : State × Group :=
  let q := { q with export_ := none }
  let cn := q.origin
  match s.route cn x.rank 0 none with
  | .error st => (s, { q with migst := migstOf st })
  | .ok (pkg, dpart, port) =>
    let member (i : Nat) : Immigrant :=
      let m := b.order.getD i 0
      { fit := .ofNat 32 (b.fit m), cn := .ofNat 11 m, position := i + 1,
        regions := (b.regions m).map fun r =>
          { index := .ofNat 3 r.index, len := .ofNat 22 r.len, fmt := .ofNat 4 r.fmt, bytes := Memory.read (s.core m).mem r.base r.len } }
    let batch : Batch := { group := .ofNat 6 x.group, srank := .ofNat 32 b.launch.rank, sgroup := .ofNat 6 b.num, sgen := .ofNat 32 b.gen,
                           members := (List.range x.count).map member }
    let first := (s.core cn).txSeq.toNat
    let n := batch.cut.length
    (batch.cut.zipIdx.foldl (fun s (ws, k) =>
      (s.modCore cn fun c => { c with txSeq := c.txSeq + 1 }).send
        { cn := cn, seq := (s.core cn).txSeq.toNat, ctx := 12, pc := 0, kind := 15, part := b.launch.part, lid := b.launch.lid,
          home := .remote x.rank, addr := b.num, slack := slkInit x.slk, rallow := slkRallow x.slk, cls := 0, slk := x.slk,
          first := first, remote := some (x.rank, pkg), dpart := dpart, own := s.ownPackage cn, port := some port,
          body := .immigrants first k n ws }) s,
     { q with exports := q.exports ++ [(first, n, 0)] })

/-- A request of an export of group n has been answered; the last answer gives the outcome, the greatest status of all (R190, R193;
log entry 62). -/
def State.exportDone (s : State) (n first st : Nat) : State :=
  match s.group n with
  | none => s
  | some q =>
    match q.exports.find? fun e => e.1 == first with
    | none => s
    | some (_, left, worst) =>
      let rest := q.exports.filter fun e => e.1 != first
      let worst := max worst st
      s.setGroup n (if left ≤ 1 then { q with exports := rest, migst := migstOf worst }
        else { q with exports := rest ++ [(first, left - 1, worst)] })

/-- What remains of a boundary after its transfers: the log, the export, the flush of the Shawm's accumulator. -/
def Boundary.finish (b : Boundary) (s : State) (q : Group) : State :=
  let (s, q) := s.writeLineage b.num q b.launch.part q.log
  if q.suspended then s.setGroup b.num q
  else
    let (s, q) := match q.export_ with
      | some x => b.sendExport s q x
      | none => (s, q)
    (s.shawmStats.foldl (fun s e => s.flushFor b.launch q.origin e) s).setGroup b.num { q with transferred := true }

/-- GENERATION_BOUNDARY (R184): all members have arrived; or a suspended boundary goes on. -/
def execGenerationBoundary (g : BitVec 6) (s : State) : Out :=
  let n := g.toNat
  match s.group n with
  | none => .refused .notEnabled
  | some q =>
    match s.launch? q.part q.lid with
    | none => .refused .notEnabled
    | some l =>
      let stuck := match q.reading with
        | some i => (s.core q.origin).suspended i
        | none => false
      if !q.full || q.transferred || q.suspended || stuck || !l.active then .refused .notEnabled
      else
        let gen := wfld (s.core q.origin).gen 0 32
        let b : Boundary := { launch := l, num := n, group := q, gen := gen, records := [], order := q.ranked }
        if q.begun then .next (b.finish s q)
        else
          let ids := (q.members.flatMap fun cn => (b.regions cn).filterMap fun r => if r.recen then some r.recid else none).eraseDups
          match s.readRecords l ids with
          | (.error va, s) => .next (s.suspendRead n q va)
          | (.ok m, s) =>
            let b := { b with records := m }
            let (s, log, roles) := b.transfers s
            .next (b.finish s { q with begun := true, log := log, roles := roles, held := q.held.drop q.counted, counted := 0, reading := none })

/-! ### Resumption (R190) -/

/-- A flush of the Shawm for a launch has not been merged. -/
def State.shawmFlushing (s : State) (part lid : Nat) : Bool :=
  s.net.any fun (_, p) => p.ctx == 12 && p.part == part && p.lid == lid && match p.body with
    | .flush _ _ => true
    | _ => false

/-- PEERID: the layout of R25. -/
def Role.peerId (r : Role) : Word :=
  if r.role = 0 then 0 else sourceId (if r.role = 3 then 1 else 0) r.peerRank r.peer

/-- One member goes on in the next generation (R190): its event message is placed before it resumes, or held; with no room
in the input buffer it stays on its way (R34). -/
def State.resumeMember (s : State) (q : Group) (cn : Nat) : State :=
  let c := s.core cn
  let r := (q.roles.find? fun r => r.cn == cn).getD ⟨cn, 0, 0, 0, false⟩
  let gen := (wfld c.gen 0 32 + 1) % 2 ^ 32
  let lost := decide (8 ≤ c.q2.length)
  let ev := gen * 2 ^ 32 + r.role * 2 ^ 30 + (if r.ovf then 2 ^ 29 else 0) + q.migst * 2 ^ 27 + (if lost then 2 ^ 26 else 0) + r.peer
  let stl := fld (c.insnAt (c.cx 0).pc.toNat).1 28 3
  let s := s.modCore cn fun c =>
    let c : Core := { c with gen := setFld c.gen 0 32 gen, q2 := (if lost then c.q2.drop 1 else c.q2) ++ [.ofNat 64 ev],
                             control := { c.control with selOff := false } }
    c.modCx 0 fun x =>
      if x.wait = .shawm then
        (((((x.wg 1 (.ofNat 64 r.role)).written (keyG 1) 0).wg 2 r.peerId).written (keyG 2) 0).goto (x.pc + 4) stl).forget
      else x
  if q.even then
    let m : Msg := { chan := q.evchan, tag := gen % 65536, bytes := leBytes 8 ev, src := sourceId 3 (s.jobRank cn) 0 }
    if s.inbufRoom cn m then s.arrive cn m else s.engineMsg cn m
  else s

/-- GENERATION_RESUMPTION (R190). -/
def execGenerationResumption (g : BitVec 6) (s : State) : Out :=
  match s.group g.toNat with
  | none => .refused .notEnabled
  | some q =>
    if !q.transferred || s.shawmFlushing q.part q.lid then .refused .notEnabled
    else
      let s := q.members.foldl (fun s cn => s.resumeMember q cn) s
      let done := (q.roles.filter fun r => r.role == 1 || r.role == 3).length
      .next (s.setGroup g.toNat { q with logidx := q.logidx + .ofNat 64 done, fits := [], descs := [], begun := false, roles := [],
                                         transferred := false, migst := 0 })

/-! ### Immigrants (R193, R194) -/

/-- What a group does with an arriving batch for its partition: accepts it (0), finds the capability lacking (2), or refuses
it (4). -/
def State.batchStatus (s : State) (part : Nat) (b : Batch) : Nat :=
  match s.group b.group.toNat with
  | none => 4
  | some q =>
    if q.part ≠ part then 4
    else if !wbit (s.ipOf 0x04C) 13 then 2
    else if !q.migin || decide (q.members.length / 2 < q.held.length + b.members.length) then 4
    else 0

/-- A launch of a partition that is being stopped, or is stopped, has the group of a batch: the batch waits (R142, R379, R397). -/
def State.batchWaits (s : State) (part : Nat) (b : Batch) : Bool :=
  match s.group b.group.toNat with
  | some q => q.part == part && match s.launch? q.part q.lid with
    | some l => l.state == .stopping || l.state == .stopped || l.state == .reserved
    | none => false
  | none => false

/-- The batch that has arrived from another package with packet p, the first of its requests, and with the others, if all are there;
with those requests. -/
def State.batchOf (s : State) (p : Packet) : Option (Batch × List (Nat × Packet)) :=
  match p.body, p.remote with
  | .immigrants first 0 n _, some (rank, _) =>
    if p.reply || p.home != .core p.dcn then none
    else
      let words (q : Packet) (k : Nat) : Option (List Word) := match q.body with
        | .immigrants f j m ws => if f = first ∧ j = k ∧ m = n then some ws else none
        | _ => none
      let part (k : Nat) : Option ((Nat × Packet) × List Word) := s.net.findSome? fun e =>
        if !e.2.reply && e.2.cn == p.cn && e.2.part == p.part && e.2.remote == p.remote && e.2.home == p.home then
          (words e.2 k).map fun ws => (e, ws)
        else none
      ((List.range (max 1 n)).mapM part).map fun es => (readBatch rank (es.flatMap fun e => e.2), es.map fun e => e.1)
  | _, _ => none

/-- IMMIGRANT_BATCH (R194): a batch that has arrived from another package, with all its requests, is held, or refused, and its
requests are answered (R138, R141, R397). A batch for a stopped launch waits (R142). -/
def execImmigrantBatch (b : Batch) (s : State) : Out :=
  match s.net.findSome? fun e => (s.batchOf e.2).bind fun r => if r.1 = b then some (e.2.part, r.2) else none with
  | none => .refused .notEnabled
  | some (part, es) =>
    if s.batchWaits part b then .refused .notEnabled
    else
      let known := es.all fun e => match e.2.remote with
        | some (rank, pkg) => s.knowsRank part rank pkg
        | none => true
      let st := if known then s.batchStatus part b else 4
      let s := match st, s.group b.group.toNat with
        | 0, some q => s.setGroup b.group.toNat { q with held := q.held ++ b.members.map fun m =>
            (b.srank.toNat, b.sgroup.toNat, b.sgen.toNat, m) }
        | _, _ => s
      .next (es.foldl (fun s e => s.reply e.1 e.2 st []) s)

end Sys2Proof.Machine
end

