-- ==== Sys2Proof/Machine/Launch.lean ====
section
/-! DEFINITION. The launch sequencer: queues, acceptance, the start of a launch, completion (spec 18, R362 to R376; spec 01,
R15 to R28; spec 06, R159; spec 08, R373; spec 21, R420, R424 to R426). -/

namespace Sys2Proof.Machine

/-! ### Structures in device memory (R362, R363, R366, R395) -/

/-- Cluster of a core (R16). -/
def clusterOf (cn : Nat) : Nat := cn / 256 * 16 + cn % 64 / 4
/-- The die of a core: dies 0 to 3 give the first G logical rows, dies 4 to 7 the other G, 16 columns each (R416). -/
def State.dieOf (s : State) (cn : Nat) : Nat := cn % 64 / 16 + (if cn / 64 < s.meshRows / 2 then 0 else 4)
/-- The die that a cluster's counter reports to: that of its first row, where the rows of a cluster lie on two dies (DESIGN
CHOICE, log entry 77). -/
def State.clusterDie (s : State) (cluster : Nat) : Nat := s.dieOf (cluster / 16 * 256 + cluster % 16 * 4)
/-- Core (x, y) is on the mesh and in partition p. -/
def State.inPartition (s : State) (p x y : Nat) : Bool :=
  let c := y / 4 * 16 + x / 4
  decide (x < 64) && decide (y < s.meshRows) && (if c < 64 then wbit (s.partDw p 0) c else wbit (s.partDw p 1) (c - 64))

/-- A field of partition p's queue table. -/
def State.qfield (s : State) (p off n : Nat) : Nat := Memory.num s.gmem (s.qtab p + off) n
/-- The sequencer writes a field of partition p's queue table. -/
def State.setQfield (s : State) (p off n x : Nat) : State := { s with gmem := Memory.setNum s.gmem (s.qtab p + off) n x }

/-- A global generic pointer whose range of n bytes is in form (R57 rows 1 and 2). -/
def globalForm (w : Word) (n : Nat) : Bool := wfld w 61 3 == 3 && wfld w 48 13 == 0 && decide (wfld w 0 48 + n ≤ 2 ^ 48)

/-- The n bytes that a global pointer names, read by an agent of the package for a partition; or the offset of the first
byte that cannot be read. -/
def State.readBlock (s : State) (part : Nat) (w : Word) (n : Nat) : Except Nat (List Byte) × State :=
  if n = 0 then (.ok [], s)
  else if !globalForm w n then (.error 0, s)
  else match s.translateRange none part (wfld w 0 48) n .read with
    | (.error (a, _), s) => (.error (a - wfld w 0 48), s)
    | (.ok ps, s) =>
      match (pieceBytes ps).findIdx? fun a => s.gbad.contains (a / 8) with
      | some i => (.error i, s)
      | none => (.ok (readPieces s.gmem ps), s)

/-- Bytes written through a global pointer by the launch sequencer; none if it is not in form or does not translate. -/
def State.writeBlock (s : State) (part : Nat) (w : Word) (bs : List Byte) : Option State :=
  if !globalForm w bs.length then none
  else match s.translateRange none part (wfld w 0 48) bs.length .write with
  | (.error _, _) => none
  | (.ok ps, s) => some { s with gmem := writePieces s.gmem ps bs }

/-- The commit bit that slot i of a ring of 2 ^ l2 slots holds once it is committed (R366, R377, R392). -/
def commitBit (i l2 : Nat) : Bool := i / 2 ^ l2 % 2 == 0

/-- Queue q of a partition: its slot at index ACC as a record, if the queue is ready; with its priority. -/
def State.readyHead (s : State) (p q : Nat) : Option (Nat × List Word) :=
  let at_ := 0x240 + 32 * q
  let d1 := s.qfield p (at_ + 8) 8
  let acc := s.qfield p (at_ + 16) 4
  let base : Word := .ofNat 64 (s.qfield p at_ 8)
  let l2 := fld d1 40 4
  if fld d1 63 1 = 0 then none
  else match (s.readBlock p (base + .ofNat 64 (256 * (acc % 2 ^ l2))) 256).1 with
    | .ok bs =>
      let dws := dwords bs
      if wbit (dws.getD 31 0) 63 = commitBit acc l2 then some (fld d1 48 2, dws) else none
    | .error _ => none

/-- The queue whose head the next decision takes up, with the head (R367). -/
def State.chooseHead (s : State) (p : Nat) : Option (Nat × Nat × List Word) :=
  [3, 2, 1, 0].findSome? fun pri =>
    ((List.range 64).map fun i => (SMap.get 0 s.lptr (p * 4 + pri) + i) % 64).findSome? fun q =>
      match s.readyHead p q with
      | some (r, dws) => if r = pri then some (q, pri, dws) else none
      | none => none

/-- The head of queue q at priority pri is taken: Ptr and ACC advance (R367). -/
def State.takeHead (s : State) (p q pri : Nat) : State :=
  let off := 0x240 + 32 * q + 16
  { s with lptr := SMap.put s.lptr (p * 4 + pri) ((q + 1) % 64) }.setQfield p off 4 ((s.qfield p off 4 + 1) % 2 ^ 32)

/-- The next command of partition p's ring, if one is committed: its address and its doublewords (R377). -/
def State.nextCommand (s : State) (p : Nat) : Option (Word × List Word) :=
  let ctl := s.qfield p 0x010 8
  let l2 := fld ctl 0 4
  let j := SMap.get 0 s.cmds p
  let at_ : Word := .ofNat 64 (s.qfield p 0x008 8) + .ofNat 64 (32 * (j % 2 ^ l2))
  if fld ctl 63 1 = 0 then none
  else match (s.readBlock p at_ 32).1 with
    | .ok bs => if wbit ((dwords bs).getD 3 0) 63 = commitBit j l2 then some (at_, dwords bs) else none
    | .error _ => none

/-- What the firmware starts (R420): a row by its die and its logical number there. -/
inductive PowerUnit where
  | ioDie (n : Nat)
  | stack (n : Nat)
  | row (die n : Nat)
  | sutre (port : Nat)
  | ethernet (port : Nat)
  deriving DecidableEq, Repr

/-- The units in the order in which the firmware starts them (R420). -/
def State.units (s : State) : List PowerUnit :=
  [.ioDie 0, .ioDie 1] ++ (List.range 8).map .stack ++
  (List.range 8).flatMap (fun d => (List.range (s.meshRows / 2)).map fun r => .row d r) ++
  (ones (s.ipOf 0x04A).toNat 36).map .sutre ++ (ones (s.ipOf 0x04B).toNat 16).map .ethernet
/-- A unit is powered and has reported ready. -/
def State.unitReady (s : State) (u : PowerUnit) : Bool := (s.units.take s.mgmt.started).contains u
/-- How many units the firmware starts. -/
def State.unitCount (s : State) : Nat := s.units.length

/-! ### The launch record (R364, R365) -/

/-- Doubleword k of a record. -/
def dwOf (r : List Word) (k : Nat) : Word := r.getD k 0
def recW (r : List Word) : Nat := wfld (dwOf r 1) 16 8
def recH (r : List Word) : Nat := wfld (dwOf r 1) 24 8
def recX (r : List Word) : Nat := wfld (dwOf r 1) 0 8
def recY (r : List Word) : Nat := wfld (dwOf r 1) 8 8
def recFixed (r : List Word) : Bool := wbit (dwOf r 0) 52
def recIlo (r : List Word) : Nat := wfld (dwOf r 5) 0 22
def recIlen (r : List Word) : Nat := wfld (dwOf r 5) 32 22
def recEntry (r : List Word) : Nat := wfld (dwOf r 3) 0 22
def recK (r : List Word) : Nat := wfld (dwOf r 8) 0 8
def recCount (r : List Word) : Nat := wfld (dwOf r 11) 0 21

def isPow2 (n : Nat) : Bool := decide (0 < n) && n == 2 ^ Nat.log2 n

/-- The lowest offset of those whose field fails (R375: DETAIL). -/
def firstBad (cs : List (Bool × Nat)) : Option Nat :=
  (cs.filter fun c => c.1).foldl (fun best c => match best with
    | some b => some (min b c.2)
    | none => some c.2) none

/-- Step 1 of R370: the offset of the first failing field. -/
def stepOne (r : List Word) : Option Nat :=
  firstBad [(wfld (dwOf r 0) 56 8 != 1, 0x07), (decide (224 < recK r), 0x40), (wfld (dwOf r 2) 32 32 == 0, 0x14),
    (wfld (dwOf r 2) 32 32 != 0 && decide (wfld (dwOf r 2) 32 32 ≤ wfld (dwOf r 2) 0 32), 0x10), (decide (2 ^ 20 < recCount r), 0x58),
    (wfld (dwOf r 7) 0 3 != 0, 0x38), (wfld (dwOf r 9) 0 6 != 0, 0x48), (wfld (dwOf r 10) 0 6 != 0, 0x50), (wfld (dwOf r 13) 0 5 != 0, 0x68)]

/-- Step 2: the size, or the fixed origin, breaks R17. -/
def State.stepTwo (s : State) (r : List Word) : Bool :=
  !isPow2 (recW r) || decide (64 < recW r) || !isPow2 (recH r) || decide (32 < recH r) ||
  (recFixed r && (recX r % recW r != 0 || recY r % recH r != 0 || decide (s.meshRows < recY r + recH r)))

/-- The candidate origins of R369 in their order that lie within the partition. -/
def State.candidates (s : State) (p : Nat) (r : List Word) : List (Nat × Nat) :=
  let w := recW r
  let h := recH r
  let all := if recFixed r then [(recX r, recY r)]
    else (List.range (32 / h)).flatMap fun j => (List.range (64 / w)).map fun i => (i * w, j * h)
  all.filter fun (x, y) => (List.range h).all fun j => (List.range w).all fun i => s.inPartition p (x + i) (y + j)

/-- Step 4: the image range or the entry address. -/
def stepFour (r : List Word) : Option Nat :=
  let lo := recIlo r
  let n := recIlen r
  let e := recEntry r
  firstBad [(decide (lo < 0x800) || lo % 2 != 0 || decide (Config.localTop < lo + n), 0x28), (n % 2 != 0, 0x2C),
    (e % 2 != 0 || decide (e < 0x2000) || decide (Config.localTop ≤ e), 0x18)]

/-- Which of SX, SY, SW, SH (0 to 3) is the first that keeps a rectangle from being an aligned sub-rectangle of w by h (R18). -/
def subRectFault (w h sx sy sw sh : Nat) : Option Nat :=
  let okW := isPow2 sw && w % sw == 0
  let okH := isPow2 sh && h % sh == 0
  if okW && (sx % sw != 0 || decide (w < sx + sw)) then some 0
  else if okH && (sy % sh != 0 || decide (h < sy + sh)) then some 1
  else if !okW then some 2
  else if !okH then some 3
  else none

/-- Base, size and fault offset of doubleword k of a window table (R51, R52), given the spans before it. -/
def windowFault (k : Nat) (d : Word) (before : List (Nat × Nat)) : Option Nat × List (Nat × Nat) :=
  let base := wfld d 0 22
  let size := wfld d 32 22
  if k = 12 && d == 0 then (none, before)
  else if k != 12 && size == 0 then (none, before)
  else
    let span_ := if k = 12 then 2 ^ (size % 64) else size
    let badSize := if k = 12 then decide (size < 6) || decide (21 < size) else size % 8 != 0
    let badBase := if k = 12 then !badSize && base % span_ != 0 else base % 8 != 0
    let range := !badSize && (outOfGeneral base span_ || before.any fun b => overlaps base span_ b.1 b.2)
    (if badBase || range then some (8 * k) else if badSize then some (8 * k + 4) else none, before ++ [(base, span_)])

/-- The first failing offset of a window table of 13 doublewords. -/
def windowsFault (ext : List Word) : Option Nat :=
  ((List.range 13).foldl (fun (r : Option Nat × List (Nat × Nat)) k =>
    match r.1 with
    | some _ => r
    | none => windowFault k (ext.getD k 0) r.2) (none, [])).1

/-- Barrier word n of a record (R364): V, and the sub-rectangle. -/
def barWord (r : List Word) (n : Nat) : Nat := wfld (dwOf r (19 + n / 2)) (32 * (n % 2)) 32
def barRect (b : Nat) : Nat × Nat × Nat × Nat := (fld b 0 8, fld b 8 8, 2 ^ fld b 16 4, 2 ^ fld b 20 4)

/-- The first failing barrier word's offset in the record. -/
def barsFault (r : List Word) : Option Nat :=
  (List.range 8).findSome? fun n =>
    let b := barWord r n
    let (sx, sy, sw, sh) := barRect b
    if fld b 31 1 = 0 then none
    else (subRectFault (recW r) (recH r) sx sy sw sh).map fun f => 152 + 4 * n + min f 2

/-- Group g's rectangle in an extension block: SX, SY, SW, SH. -/
def groupRect (ext : List Word) (g : Nat) : Nat × Nat × Nat × Nat :=
  let d := ext.getD (16 + 8 * g) 0
  (wfld d 32 8, wfld d 40 8, wfld d 48 8, wfld d 56 8)
/-- Population groups in an extension block. -/
def groupCount (ext : List Word) : Nat := wfld (ext.getD 13 0) 0 7

/-- The first failing offset of the group descriptors of an extension block (R181, R370 step 5). -/
def groupsFault (w h : Nat) (ext : List Word) : Option Nat :=
  (List.range (groupCount ext)).findSome? fun g =>
    let at_ := 0x80 + 64 * g
    let (sx, sy, sw, sh) := groupRect ext g
    let logb := ext.getD (16 + 8 * g + 2) 0
    let cap := wfld (ext.getD (16 + 8 * g + 3) 0) 0 32
    match subRectFault w h sx sy sw sh with
    | some f => some (at_ + 4 + f)
    | none =>
      if (List.range g).any fun k =>
        let (tx, ty, tw, th) := groupRect ext k
        overlaps sx sw tx tw && overlaps sy sh ty th then some (at_ + 4)
      else if !globalForm logb 1 || wfld logb 0 5 != 0 then some (at_ + 16)
      else if !isPow2 cap || decide (2 ^ 31 < cap) then some (at_ + 24)
      else none

/-- The first record image whose AMAX is not +0 or a positive finite FP32 (R96, R373). -/
def imagesFault (n : Nat) (imgs : List Byte) : Option Nat :=
  ((List.range n).find? fun i => decide (0x7F7FFFFF < leNat ((imgs.drop (64 * i)).take 4))).map (64 * ·)

/-- The blocks that a record names. -/
structure Blocks where
  ext : List Word
  consts : List Word
  image : List Byte
  records : List Byte
  deriving DecidableEq, Repr

/-- Step 5's reading of the blocks; or the BLK and DETAIL of the first that cannot be read. -/
def State.readBlocks (s : State) (p : Nat) (r : List Word) : Except (Nat × Nat) Blocks × State :=
  match s.readBlock p (dwOf r 9) 0x80 with
  | (.error o, s) => (.error (1, o), s)
  | (.ok h, s) =>
    match s.readBlock p (dwOf r 9) (0x80 + 64 * groupCount (dwords h)) with
    | (.error o, s) => (.error (1, o), s)
    | (.ok ext, s) =>
      match s.readBlock p (dwOf r 7) (8 * recK r) with
      | (.error o, s) => (.error (2, o), s)
      | (.ok consts, s) =>
        match s.readBlock p (dwOf r 4) (recIlen r) with
        | (.error o, s) => (.error (3, o), s)
        | (.ok image, s) =>
          match s.readBlock p (dwOf r 12) (if dwOf r 12 = 0 then 0 else 64 * recCount r) with
          | (.error o, s) => (.error (4, o), s)
          | (.ok records, s) => (.ok ⟨dwords ext, dwords consts, image, records⟩, s)

/-- Step 5's checks of what the blocks hold: BLK and DETAIL. -/
def stepFive (r : List Word) (b : Blocks) : Option (Nat × Nat) :=
  match windowsFault b.ext, barsFault r, groupsFault (recW r) (recH r) b.ext, imagesFault (recCount r) b.records with
  | some o, _, _, _ => some (1, o)
  | none, some o, _, _ => some (0, o)
  | none, none, some o, _ => some (1, o)
  | none, none, none, some o => some (4, o)
  | none, none, none, none => none

/-- Group numbers that no group holds, ascending. -/
def State.freeGroups (s : State) : List Nat := (List.range 64).filter fun n => (s.group n).isNone

/-- Steps 1 to 6 of R370: the blocks, or the refusal's STATUS, BLK and DETAIL; a record whose CPL cannot be written is refused. -/
def State.checkRecord (s : State) (p : Nat) (r : List Word) : Except (Nat × Nat × Nat) Blocks × State :=
  match stepOne r with
  | some o => (.error (3, 0, o), s)
  | none =>
    if s.stepTwo r then (.error (1, 0, 0), s)
    else if (s.candidates p r).isEmpty then (.error (4, 0, 0), s)
    else match stepFour r with
      | some o => (.error (3, 0, o), s)
      | none =>
        match s.readBlocks p r with
        | (.error (k, o), s) => (.error (3, k, o), s)
        | (.ok b, s) =>
          match stepFive r b with
          | some (k, o) => (.error (3, k, o), s)
          | none => if s.freeGroups.length < groupCount b.ext then (.error (5, 0, 0), s)
            else if (s.writeBlock p (dwOf r 13) (List.replicate 32 0)).isNone then (.error (3, 0, 0x68), s)
            else (.ok b, s)

/-! ### Refusal (R370, R375) -/

/-- The completion record's bytes. -/
def completionBytes (lid status queue : Nat) (tag : Word) (faults blk detail openSeq : Nat) (prom : Bool) : List Byte :=
  leBytes 8 (lid * 2 ^ 32 + status * 2 ^ 24 + queue * 2 ^ 16) ++ leBytes 8 tag.toNat
    ++ leBytes 8 (faults * 2 ^ 32 + blk * 2 ^ 28 + detail % 2 ^ 28) ++ leBytes 8 (min openSeq 255 * 256 + if prom then 1 else 0)

/-- A refusal: the completion record with LID 0, or one more in ERRCNT; then the head is taken. -/
def State.refuseHead (s : State) (p q pri : Nat) (r : List Word) (status blk detail : Nat) : State :=
  let bs := completionBytes 0 status q (dwOf r 27) 0 blk detail 0 false
  let s := match s.writeBlock p (dwOf r 13) bs with
    | some s => s
    | none => s.setQfield p 0x028 4 ((s.qfield p 0x028 4 + 1) % 2 ^ 32)
  s.takeHead p q pri

/-! ### Preparing the cores (R19, R21, R159, R160, R371) -/

/-- The promise of an image: ORDERED unless some decoded word is rfadd, recvany, or a pfx that supplies SR (R159); n
bounds the words. -/
def promiseOf : Nat → List Byte → Bool
  | 0, _ => true
  | n + 1, bs =>
    if bs.length < 2 then true
    else
      let h := leNat (bs.take 2)
      if fld h 15 1 = 0 then promiseOf n (bs.drop 2)
      else if bs.length < 4 then true
      else
        let w := h * 65536 + leNat ((bs.drop 2).take 2)
        let major := fld w 22 6
        !((major == 0x2C && fld w 0 5 == 3) || (major == 0x0E && fld w 0 7 == 12) ||
          (major == 0x11 && fld w 8 1 == 1 && fld w 9 3 == 5)) && promiseOf n (bs.drop 4)

/-- Identity words 224 to 234 of core cn (R21). -/
def identityWords (l : Launch) (cn : Nat) (mesh : Word) : List Nat :=
  let x := cn % 64
  let y := cn / 64
  [cn, y * 256 + x, l.y0 * 256 + l.x0, l.h * 256 + l.w, ((y - l.y0) * l.w + (x - l.x0)) * 65536 + (y - l.y0) * 256 + (x - l.x0),
   (y % 4 * 4 + x % 4) * 256 + clusterOf cn, l.ranks * 2 ^ 32 + l.rank, l.part * 2 ^ 32 + l.lid, l.entry, if l.ordered then 1 else 0,
   mesh.toNat]

/-- The core holds the image that a record with RES = 1 names (R371): its promise. -/
def Core.holdsImage (c : Core) (r : List Word) : Option Bool :=
  match c.image with
  | some (id, lo, len, same, pr) =>
    if wbit (dwOf r 0) 54 && id == dwOf r 6 && lo == recIlo r && len == recIlen r && same then some pr else none
  | none => none

/-- A window table doubleword as written: bits that R51 does not list read zero. -/
def windowWord (d : Word) : Nat := wfld d 32 22 * 2 ^ 32 + wfld d 0 22

/-- Local SRAM after steps 1 to 5 of R19 and the window table of step 10: old is what entries 48 to 63 keep, and with
held = true the image bytes in the general area. -/
def launchMem (old : Memory) (l : Launch) (cn : Nat) (mesh : Word) (b : Blocks) (held : Bool) : Memory :=
  let imgIn (a : Nat) : Bool := decide (max l.ilo 0x2000 ≤ a) && decide (a < l.ilo + l.ilen)
  let kept := old.filter fun e => (decide (0xE00 ≤ e.1) && decide (e.1 < 0x1000)) || (held && imgIn e.1)
  let m := Memory.write kept 0 (b.consts.flatMap fun w => leBytes 8 w.toNat)
  let m := Memory.write m 0x700 ((identityWords l cn mesh).flatMap fun w => leBytes 8 w)
  let m := b.image.zipIdx.foldl (fun m (x, i) =>
    let a := l.ilo + i
    if (decide (0xE00 ≤ a) && decide (a < 0x1000)) || (decide (0x1100 ≤ a) && decide (a < 0x2000)) || (held && decide (0x2000 ≤ a)) then m
    else Memory.setByte m a x) m
  Memory.write m 0x1100 ((List.range 13).flatMap fun k => leBytes 8 (windowWord (b.ext.getD k 0)))

/-- CT without what belongs to a launch: its queue and the reception slot that it holds (R19, R44). -/
def Ctx.detached (x : Ctx) : Ctx := { x with q1 := [], rslot := none }

/-- CT idle at a launch start: the record that it handles is not taken again (R19, R342; DESIGN CHOICE, log entry 88). -/
def Ctx.idled (x : Ctx) : Ctx := { x.detached with live := false, wait := .none, snap := none, cur := none, stl := 0 }

/-- Core cn prepared for launch l (R19, R373); gen is its GEN register, and tvec the TVEC that the launch gives it, of which
the spec states no value (R11, R349; log entry 76). -/
def prepareCore (old : Core) (l : Launch) (cn : Nat) (mesh : Word) (r : List Word) (b : Blocks) (fresh : Bool) (gen : Word)
    (tvec : BitVec 22) : Core :=
  let held := old.holdsImage r
  let img (a : Nat) : Bool := decide (max l.ilo 0x2000 ≤ a) && decide (a < l.ilo + l.ilen)
  let c : Core := { old with
    mem := launchMem old.mem l cn mesh b held.isSome,
    bad := old.bad.filter fun d => (decide (0xE00 ≤ 8 * d) && decide (8 * d < 0x1000)) || (held.isSome && img (8 * d)),
    ctx := (old.ctx.filter fun x => x.1 == 11).map fun x => (x.1, x.2.idled),
    rorg := .ofNat 16 (l.y0 * 256 + l.x0), rsize := .ofNat 16 (l.h * 256 + l.w),
    fmt := fmtWrite old.fmt (dwOf r 14), seed := l.seed, fit := 0, gen := gen,
    slk := (List.range 4).map fun i => (i, .ofNat 64 (wfld (dwOf r (15 + i)) 0 31)),
    slkx := 0, congc := 0, hx := [], q0 := [], q2 := [], q3 := [], nextId := 0, flowSeq := [], ptr := [], issuePtr := 0, placed := [],
    inbuf := [], arrivals := 0, zwatch := [], stats := [], syncs := 0, flushes := 0, windows := [], arr := [], last := [], ever := [],
    matrix := { powered := old.matrix.powered },
    control := { halted := old.control.halted, traced := old.control.traced },
    copies := [], halos := 0, txs := [], noticed := [], closed := [], ending := [], susp := [],
    trap := { old.trap with tvec := tvec, busy := false }, job := some (l.part, l.lid), part := .prepared,
    image := some (dwOf r 6, l.ilo, l.ilen, true, held.getD fresh) }
  (List.range 64).foldl (fun c ch => c.setStatus ch (c.inboxBase ch)) c

/-! ### Acceptance (R369 to R373) -/

/-- Core cn belongs to a launch that occupies it (R369, R375, R381). -/
def State.occupied (s : State) (cn : Nat) : Bool := s.launches.any fun l => (l.holds || l.state == .reserved) && l.member cn

/-- The origin at which a record can be placed now (R369). -/
def State.place (s : State) (p : Nat) (r : List Word) : Option (Nat × Nat) :=
  (s.candidates p r).find? fun (x, y) =>
    (List.range (recH r)).all fun j => (List.range (recW r)).all fun i => !s.occupied ((y + j) * 64 + (x + i))

/-- The core numbers of a sub-rectangle of a launch. -/
def Launch.sub (l : Launch) (sx sy sw sh : Nat) : List Nat :=
  (List.range sh).flatMap fun j => (List.range sw).map fun i => (l.y0 + sy + j) * 64 + l.x0 + sx + i

/-- The launch that a record makes at an origin (R364, R372). -/
def State.newLaunch (s : State) (p q : Nat) (r : List Word) (x0 y0 : Nat) : Launch :=
  let d := s.debugOf p
  let l : Launch := {
    part := p, lid := s.qfield p 0x020 4, state := .accepting, x0 := x0, y0 := y0, w := recW r, h := recH r,
    ranks := wfld (dwOf r 2) 32 32, rank := wfld (dwOf r 2) 0 32, entry := recEntry r, schk := wbit (dwOf r 0) 53, ordered := false,
    seed := .ofNat 64 (s.qfield p 0 8), hosttag := dwOf r 27, cpl := dwOf r 13, queue := q, rtab := dwOf r 10, rcount := recCount r,
    ilo := recIlo r, ilen := recIlen r, imgid := dwOf r 6, regions := [dwOf r 23, dwOf r 24, dwOf r 25, dwOf r 26],
    perf := if wbit d.perfctl 63 then some (wfld d.perfctl 0 4) else none, rpctl := if wfld d.rpctl 0 2 = 3 then 0 else d.rpctl, rpbase := d.rpbase.toNat }
  let members := (List.range 8).map fun n =>
    let (sx, sy, sw, sh) := barRect (barWord r n)
    (n, if fld (barWord r n) 31 1 = 1 then l.sub sx sy sw sh else [])
  { l with members := members, expected := members.map fun (n, m) => (n, m.length) }

/-- The groups of an extension block under the lowest free numbers (R373). -/
def State.newGroups (s : State) (l : Launch) (ext : List Word) : List (Nat × Group) :=
  (List.range (groupCount ext)).map fun g =>
    let (sx, sy, sw, sh) := groupRect ext g
    let d0 := ext.getD (16 + 8 * g) 0
    (s.freeGroups.getD g 0,
     { part := l.part, lid := l.lid, members := l.sub sx sy sw sh,
       dws := [d0 &&& 0xFFFFFFFF003FC7FF, ext.getD (17 + 8 * g) 0, ext.getD (18 + 8 * g) 0, ext.getD (19 + 8 * g) 0 &&& 0xFFFFFFFF] })

/-- Record n of the images, 64 bytes; FLAGS holds only FROZEN and RSTRAP (R97: OVF is 0 at reset, bits 7 to 3 read zero). -/
def imageRecord (imgs : List Byte) (n : Nat) : List Byte :=
  (((imgs.drop (64 * n)).take 64 ++ List.replicate 64 0).take 64).zipIdx.map fun (b, i) => if i = 11 then b &&& 3 else b

/-- The record table written from its images, or with zeros (R373); a record whose page does not translate is left. -/
def State.writeRecords (s : State) (l : Launch) (imgs : List Byte) : State :=
  (List.range l.rcount).foldl (fun s n =>
    match s.translate none l.part (l.recordVa n) .read with
    | (.ok pa, s) => { s with gmem := Memory.write s.gmem pa (imageRecord imgs n) }
    | (_, s) => s) s

/-- Steps 8 to 12 of R370 at an origin: the launch is accepted and its wake sets out, or refused with STATUS 2. -/
def State.acceptHead (s : State) (p q pri : Nat) (r : List Word) (b : Blocks) (x0 y0 : Nat) : State :=
  let l := s.newLaunch p q r x0 y0
  let s := s.setQfield p 0x020 4 (if l.lid + 1 < 2 ^ 32 then l.lid + 1 else 1)
  let fresh := promiseOf b.image.length b.image
  let l := { l with ordered := l.cores.all fun cn => ((s.core cn).holdsImage r).getD fresh }
  let gs := s.newGroups l b.ext
  let genOf (cn : Nat) : Word := match gs.find? fun g => g.2.members.contains cn with
    | some (n, _) => .ofNat 64 (2 ^ 63 + n * 2 ^ 32)
    | none => 0
  let mesh := s.ipOf 0x042
  let tvec := Config.launchTvec s.fresh / 2 * 2
  let s : State := { s with fresh := s.fresh + 1 }
  let s := l.cores.foldl (fun s cn => s.modCore cn fun c => prepareCore c l cn mesh r b fresh (genOf cn) tvec) s
  if wbit (dwOf r 0) 55 && !l.ordered then
    (l.cores.foldl (fun s cn => s.modCore cn fun c => { c with job := none, part := .none }) s).refuseHead p q pri r 2 0 0
  else
    let s : State := { s with launches := s.launches ++ [l], groups := gs.foldl (fun m (n, g) => SMap.put m n g) s.groups }
    (s.writeRecords l b.records).takeHead p q pri

/-- LAUNCH_RECORD (R370): the head that the decision takes up is refused, or accepted once it can be placed; until then
it waits (R367). No partition accepts a launch before every unit is started (R420). -/
def execLaunchRecord (p : BitVec 4) (s : State) : Out :=
  let p := p.toNat
  if !s.partEn p || (s.nextCommand p).isSome || decide (s.mgmt.started < s.unitCount) then .refused .notEnabled
  else match s.chooseHead p with
    | none => .refused .notEnabled
    | some (q, pri, r) =>
      match s.checkRecord p r with
      | (.error (st, k, o), s) => .next (s.refuseHead p q pri r st k o)
      | (.ok b, s) =>
        match s.place p r with
        | some (x, y) => .next (s.acceptHead p q pri r b x y)
        | none => .refused .notEnabled

/-! ### Wakes, selections, the end of a core's part (R19, R24, R27, R28, R37, R40) -/

/-- WAKE_ARRIVAL (R19, R24, R425): C0 of a prepared core starts. -/
def execWakeArrival (cn : CoreNo) (s : State) : Out :=
  let n := cn.toNat
  match s.launchOf n with
  | none => .refused .notEnabled
  | some l =>
    if (s.core n).part != .prepared || !l.active then .refused .notEnabled
    else
      let s := s.modCore n fun c =>
        { c with part := .running, ctx := (c.ctx.filter fun x => x.1 == 11) }.modCx 0 fun x =>
          { freshCtx x (.ofNat 64 l.entry) 0 0 0 0 l.schk with perf := [] }
      .next (s.modLaunch l.part l.lid fun l => if l.state = .accepting then { l with state := .running } else l)

/-- SELECTION (R37). -/
def execSelection (cn : CoreNo) (s : State) : Out :=
  if (s.core cn.toNat).selectionDue then .next (s.select cn.toNat) else .refused .notEnabled

/-- HOST_WAKE (R40): HWAKE is latched on every context of the core. -/
def execHostWake (cn : CoreNo) (s : State) : Out :=
  if s.onMesh cn.toNat then .next (s.modCore cn.toNat fun c => c.latch 6) else .refused .notEnabled

/-- Slot 0 of core cn's replay log in record mode, after n activations (R426). -/
def State.closeLog (s : State) (l : Launch) (cn n : Nat) : State :=
  let (mode, l2, base) := l.replayLog cn
  if mode = 1 then s.putBytes base (leBytes 8 (min n (2 ^ l2 - 1) + (if 2 ^ l2 - 1 < n then 2 ^ 32 else 0)))
  else s

/-- Core cn's part of its launch ends (R27, R28, R104, R426): held messages are discarded with their records, and every
accumulator entry is flushed. -/
def State.endPart (s : State) (cn : Nat) : State :=
  let held := (s.core cn).inbuf
  let s := s.modCore cn fun c => { c with part := .ended, inbuf := [] }
  let s := held.foldl (fun s m => (s.async cn (msgRec 0x13 m)).taken cn m) s
  let s := s.flushAll cn 15
  match s.launchOf cn with
  | some l => s.closeLog l cn (s.core cn).control.acts
  | none => s

/-- CORE_PART_END (R27): the core's part ends and its report sets out. -/
def execCorePartEnd (cn : CoreNo) (s : State) : Out :=
  let n := cn.toNat
  match s.launchOf n with
  | none => .refused .notEnabled
  | some l =>
    if s.partDone n then
      let s := s.endPart n
      .next { s with reports := s.reports ++ [⟨l.part, l.lid, some n, clusterOf n⟩] }
    else .refused .notEnabled

/-! ### Completion (R374, R375, R425) -/

/-- Clusters that hold member cores. -/
def Launch.clusterList (l : Launch) : List Nat := (l.cores.map clusterOf).eraseDups

/-- COMPLETION_REPORT (R374): report i reaches a cluster's or a die's counter, which passes it up when it is complete. A
core reports only once its flushes are merged (R104). -/
def execCompletionReport (i : Nat) (s : State) : Out :=
  match s.reports[i]? with
  | none => .refused .notEnabled
  | some r =>
    match s.launch? r.part r.lid with
    | none => .refused .notEnabled
    | some l =>
      let s' : State := { s with reports := s.reports.eraseIdx i }
      match r.core with
      | some cn =>
        if (s.core cn).flushes != 0 || !(s.core cn).stats.isEmpty then .refused .notEnabled
        else
          let n := SMap.get 0 l.clusters r.cluster + 1
          let s' := s'.modLaunch l.part l.lid fun l => { l with clusters := SMap.put l.clusters r.cluster n }
          if n = (l.cores.filter fun c => clusterOf c == r.cluster).length then
            .next { s' with reports := s'.reports ++ [⟨r.part, r.lid, none, r.cluster⟩] }
          else .next s'
      | none =>
        let d := s.clusterDie r.cluster
        let n := SMap.get 0 l.dies d + 1
        let all := (l.clusterList.filter fun c => s.clusterDie c == d).length
        .next (s'.modLaunch l.part l.lid fun l =>
          { l with dies := SMap.put l.dies d n, reported := if n = all then l.reported ++ [d] else l.reported })

/-- Every die of the launch has reported. -/
def State.allReported (s : State) (l : Launch) : Bool := (l.clusterList.map s.clusterDie).all fun d => l.reported.contains d

/-- A packet of the launch is in flight. -/
def State.inFlight (s : State) (l : Launch) : Bool :=
  s.net.any fun (_, p) => p.part == l.part && (p.remote.isNone || !p.reply) && p.lid == l.lid && !p.congestion?

/-- The launch may complete: every die has reported, or an END has taken hold; no packet and no flush remains (R180). -/
def State.mayComplete (s : State) (l : Launch) : Bool :=
  !l.done && !s.inFlight l && !s.shawmFlushing l.part l.lid &&
  (((l.state == .running || l.state == .stopping) && s.allReported l) ||
   (l.state == .completing && (!l.holds || l.cores.all fun cn => (s.core cn).flushes == 0 && (s.core cn).stats.isEmpty)))

/-- The counters of context k over the member cores (R425). -/
def State.sumPerf (s : State) (l : Launch) (k n : Nat) : Nat :=
  (l.cores.map fun cn =>
    let c := if l.holds then s.core cn else SMap.get {} l.saved cn
    (SMap.get (0 : Word) (c.cx k).perf n).toNat).sum

/-- The counter record of a launch, in the ring of the size that its acceptance found (R424, R425). -/
def State.writePerf (s : State) (l : Launch) : State :=
  let d := s.debugOf l.part
  match l.perf with
  | none => s
  | some l2 =>
    let dws := (l.lid * 2 ^ 32) :: (List.range 11).flatMap fun k => (List.range 6).map fun n => s.sumPerf l k n
    let at_ := d.perfbase.toNat + 576 * (d.perfprod.toNat % 2 ^ l2)
    let bs := dws.flatMap (leBytes 8)
    ({ s with debugBlocks := SMap.put s.debugBlocks l.part { d with perfprod := d.perfprod + 1 } } : State).putBytes at_
      (bs ++ List.replicate (576 - bs.length) 0)

/-- The RESULT of a command, and one more in CMDACC (R377). -/
def State.commandResult (s : State) (p : Nat) (at_ : Word) (result : Nat) : State :=
  let s := match s.writeBlock p (at_ + 16) (leBytes 1 result) with
    | some s => s
    | none => s
  s.setQfield p 0x018 4 ((s.qfield p 0x018 4 + 1) % 2 ^ 32)

/-- R375 steps 1 to 3, once every application that is due is performed (R180). -/
def State.complete (s : State) (l : Launch) : State :=
  let s := (s.performDues l.part l.lid fun _ => true).writePerf l
  let (st, detail) := match l.ending with
    | some e => (6, e)
    | none => (0, 0)
  let bs := completionBytes l.lid st l.queue l.hosttag l.faults 0 detail l.seqs.length l.ordered
  let s : State := { s with groups := s.groups.filter fun g => !(g.2.part == l.part && g.2.lid == l.lid),
                            shawmStats := s.shawmStats.filter fun e => e.recid / 2 ^ 20 != l.part * 2 ^ 32 + l.lid }
  let s := match s.writeBlock l.part l.cpl bs with
    | some s => s
    | none => s
  let s := match l.stopCmd with
    | some at_ => s.commandResult l.part at_ 3
    | none => s
  s.modLaunch l.part l.lid fun l =>
    { l with state := .completing, done := true, seqs := [], members := [], phase := [], expected := [], arrived := [], stopCmd := none }

/-- LAUNCH_COMPLETION (R375). -/
def execLaunchCompletion (p : BitVec 4) (lid : BitVec 32) (s : State) : Out :=
  match s.launch? p.toNat lid.toNat with
  | none => .refused .notEnabled
  | some l => if s.mayComplete l then .next (s.complete l) else .refused .notEnabled

/-- CT of a core has taken every record of its launch and returned (R375). -/
def Core.quietTrap (c : Core) : Bool :=
  !c.trap.busy && c.trap.queue.isEmpty && c.trap.late.isEmpty && c.trap.precise.isEmpty

/-- A core that belongs to no launch any more. -/
def Core.vacated (c : Core) : Core :=
  { c with job := none, part := .none, control := { halted := c.control.halted, traced := c.control.traced } }

/-- RECTANGLE_RELEASE (R375): the rectangle becomes unoccupied. -/
def execRectangleRelease (p : BitVec 4) (lid : BitVec 32) (s : State) : Out :=
  match s.launch? p.toNat lid.toNat with
  | none => .refused .notEnabled
  | some l =>
    if !l.done || (l.holds && !l.cores.all fun cn => (s.core cn).quietTrap) then .refused .notEnabled
    else
      let s := if l.holds then l.cores.foldl (fun s cn => s.modCore cn Core.vacated) s else s
      .next { s with launches := s.launches.filter fun q => !(q.part == l.part && q.lid == l.lid) }

end Sys2Proof.Machine
end

