-- ==== Sys2Proof/Machine/Commands.lean ====
section
/-! DEFINITION. The runtime's commands: STOP, RESUME and END, and what a stop drains, saves and restores (spec 18, R377 to
R382; spec 01, R44, R45; spec 05, R142; spec 06, R155 to R157). -/

namespace Sys2Proof.Machine

/-! ### Taking a command (R377, R378) -/

/-- The next command of partition p, if its OP is one of ops: its address, LID, ARG, and the state with it taken. -/
def State.takeCommand (s : State) (p : Nat) (ok : Nat → Bool) : Option (Word × Nat × Word × State) :=
  match s.nextCommand p with
  | some (at_, dws) =>
    if s.partEn p && ok (wfld (dws.getD 0 0) 56 8) then
      some (at_, wfld (dws.getD 0 0) 0 32, dws.getD 1 0, { s with cmds := SMap.put s.cmds p (SMap.get 0 s.cmds p + 1) })
    else none
  | none => none

/-- RESULT for a command that names no launch in a state that takes it: 1 none with that LID, 3 completed first, 2 another
state (R377, R378). -/
def State.refusedResult (s : State) (p lid : Nat) : Nat :=
  match s.launch? p lid with
  | none => 1
  | some l => if l.state = .completing then 3 else 2

/-! ### STOP (R379, R380) -/

/-- A RETRY reply that core cn has not acted on yet (R150, R157). -/
def State.retryWaits (s : State) (cn seq : Nat) : Bool :=
  s.net.any fun (_, p) => p.cn == cn && p.seq == seq && p.reply && match p.body with
    | .reply 6 _ => true
    | _ => false

/-- A copy that a stop may leave as it is: suspended, waiting on a RETRY, or waiting for room for its completion (R379). -/
def State.copyRests (s : State) (cn : Nat) (o : CopyOp) : Bool :=
  match o.phase with
  | .suspended => true
  | .waiting n => s.retryWaits cn n
  | .delivering _ _ => true
  | .stopped _ => o.note == 1 && decide (32 ≤ (s.core cn).q0.length)
  | _ => false

/-- A transaction that a stop may leave as it is: an update refused with RETRY, a message that waits in or before its
target's input buffer, the request of a TDRAIN that stays blocked, or a statistics flush, which step 4 looks after (R157, R379). -/
def State.txRests (s : State) (cn : Nat) (t : Tx) : Bool :=
  (t.ticketed && s.retryWaits cn t.seq) || match t.body, t.home with
    | .message _, .core _ => true
    | .seqDrain _ _, _ => true
    | .flush _ _, _ => true
    | _, _ => false

/-- A packet that a stop may leave as it is: a RETRY reply, the request of a TDRAIN, a message that its target's input buffer
has no room for, or a congestion notice. -/
def State.packetRests (s : State) (i : Nat) (p : Packet) : Bool :=
  match p.body, p.home with
  | .message m, .core cn => s.allHeld cn && s.messageWaits i cn p m
  | .reply 6 _, .core _ => true
  | .flush _ _, _ => true
  | .seqDrain _ _, _ => !p.reply
  | .congestion _, _ => true
  | _, _ => false

/-- Steps 1 to 3 of a stop are done on core cn: it has acknowledged STOP_REQUEST or its part has ended, and its operations
are complete or suspended (R379). -/
def State.coreDrained (s : State) (cn : Nat) : Bool :=
  let c := s.core cn
  (c.part == .ended || (c.part == .running && c.control.stopped)) && c.quietTrap && c.halos == 0 &&
  c.copies.all (s.copyRests cn) && c.txs.all (s.txRests cn) && s.allHeld cn

/-- A generation of the launch has all its arrivals and has not resumed (R192). -/
def State.generating (s : State) (l : Launch) : Bool :=
  s.groups.any fun g => g.2.part == l.part && g.2.lid == l.lid && g.2.full

/-- The launch is drained (R379 steps 1 to 3). -/
def State.drained (s : State) (l : Launch) : Bool :=
  l.cores.all (fun cn => s.coreDrained cn) && !s.generating l && l.fences.isEmpty &&
  s.net.all fun (i, p) => !(p.part == l.part && p.lid == l.lid && (p.remote.isNone || !p.reply)) || s.packetRests i p

/-- Local address ranges that a stop saves, as far as they lie in local SRAM (R380). -/
def Launch.savedRanges (l : Launch) (c : Core) : List (Nat × Nat) :=
  let ranges := (0, 0x2000) :: (l.ilo, l.ilen) :: ((List.range 64).map fun ch => (c.inboxBase ch, c.inboxSize ch)) ++
  ((List.range 12).map fun k => c.window k) ++
  (if c.hasScratch then [((c.window 12).1, 2 ^ ((c.window 12).2 % 64))] else []) ++
  ((validRegions c.regionDws l.rcount).map fun r => (r.base, r.len)) ++ l.regions.map fun d => (wfld d 0 22, wfld d 32 22)
  (ranges.map fun r => (r.1, min r.2 (Config.localTop - r.1))).filter fun r => r.2 != 0

/-- What is kept of a core: its state with the saved bytes, every other byte of the general area zero, windows at 32 and
no image held (R142, R380, R381). -/
def Launch.savedCore (l : Launch) (c : Core) : Core :=
  let rs := l.savedRanges c
  { c with mem := c.mem.filter fun e => decide (e.1 < 0x2000) || rs.any fun r => decide (r.1 ≤ e.1) && decide (e.1 < r.1 + r.2),
           windows := [], stats := [], image := none }

/-- A core whose launch has left it: what the core's registers and contexts held belongs to the saved state (R379). -/
def Core.emptied (c : Core) : Core :=
  { c.vacated with ctx := (c.ctx.filter fun x => x.1 == 11).map fun x => (x.1, x.2.detached), q0 := [], q2 := [], q3 := [], placed := [], inbuf := [], zwatch := [],
                   copies := [], txs := [], susp := [], windows := [], gen := 0, matrix := { powered := c.matrix.powered } }

/-- A held update as an entry of a save block (R156): line within the part, ticket, element mask, element data. -/
def Seq.spillEntry (q : Seq) (lines : List Line) (u : HeldUpdate) : List Byte :=
  let n := elemBytes q.fmt
  leBytes 4 ((lines.findIdx? fun ln => ln.index == u.line).getD 0) ++ leBytes 4 u.ticket
    ++ leBytes 8 ((u.lanes.map fun e => 2 ^ e.1).sum)
    ++ leBytes 64 ((u.lanes.map fun e => e.2 % 2 ^ (8 * n) * 2 ^ (8 * n * e.1)).sum)

/-- The save block of the part of a sequence at a home, for the sequence in slot n (R156); its held entries stand in the order of their
tickets, those of one ticket in that of their lines, as R336 lists them (DESIGN CHOICE, log entry 56: R156 gives no order). -/
def Seq.spillPart (q : Seq) (n : Nat) (h : Home) : List Byte :=
  let lines := q.lines.filter fun ln => ln.home == h
  let held := (q.held.filter fun u => lines.any fun ln => ln.index == u.line).mergeSort fun u v =>
    decide (u.ticket < v.ticket) || (u.ticket == v.ticket && decide (u.line ≤ v.line))
  let first : Word := q.base + .ofNat 64 (64 * ((lines.map (·.index)).headD 0))
  (q.desc.flatMap fun w => leBytes 8 w.toNat) ++ leBytes 8 (q.serial % 2 ^ 32 * 256 + n)
    ++ leBytes 4 lines.length ++ leBytes 4 held.length ++ leBytes 8 q.dup ++ leBytes 8 first.toNat
    ++ (lines.flatMap fun ln => leBytes 4 ln.ctr) ++ List.replicate (lines.length % 2 * 4) 0
    ++ held.flatMap (q.spillEntry lines)

/-- The save blocks of the open sequences of a launch, part by part (R156, R379 step 5). -/
def Launch.spillSeqs (l : Launch) : List (List Byte) :=
  l.seqs.flatMap fun (n, q) => if q.state = .opened then q.parts.map (q.spillPart n) else []

/-- The offsets below top that no range covers, as ranges; the ranges in ascending order. -/
def gaps (top : Nat) (ranges : List (Nat × Nat)) : List (Nat × Nat) :=
  let r := ranges.foldl (fun (r : Nat × List (Nat × Nat)) x =>
    (max r.1 (x.1 + x.2), if r.1 < x.1 then r.2 ++ [(r.1, x.1 - r.1)] else r.2)) (0, [])
  if r.1 < top then r.2 ++ [(r.1, top - r.1)] else r.2

/-- Bytes written from a global pointer on, page by page, as far as their pages can be written. -/
def State.putPages (s : State) (part : Nat) (w : Word) (bs : List Byte) : State :=
  let a := wfld w 0 48
  (span (a / 4096) ((a + bs.length + 4095) / 4096 - a / 4096)).foldl (fun s p =>
    let o := max a (4096 * p) - a
    let n := 4096 * (p + 1) - a - o
    (s.writeBlock part (w + .ofNat 64 o) ((bs.drop o).take n)).getD s) s

/-- A save block of R156 is written whole: in the first of the free ranges that holds it, the rest of which stays free; where none does,
at a location that the spec leaves open (DESIGN CHOICE, log entry 56). -/
def State.putSpill (r : State × List (Word × Nat)) (part : Nat) (bs : List Byte) : State × List (Word × Nat) :=
  match r.2.findIdx? fun g => decide (bs.length ≤ g.2) with
  | some i =>
    let g := r.2.getD i (0, 0)
    (r.1.putPages part g.1 bs, r.2.set i (g.1 + .ofNat 64 bs.length, g.2 - bs.length))
  | none => ({ r.1 with fresh := r.1.fresh + 1 }.putBytes (Config.spillAt r.1.fresh) bs, r.2)

/-- Steps 5 and 6 write the save block (R380): the saved bytes of core rr at its part's offsets that are their local
addresses, and the sequences' save blocks, each in one piece, in the bytes of the parts that are left (DESIGN CHOICE, log entry 56: the
format is private). -/
def State.writeSaved (s : State) (l : Launch) : State :=
  let at_ (rr a : Nat) : Word := l.saveArg + .ofNat 64 (4 * 2 ^ 20 * rr + a)
  let s' := l.cores.zipIdx.foldl (fun s (cn, rr) =>
    let c := s.core cn
    (l.savedRanges c).foldl (fun s r => s.putPages l.part (at_ rr r.1) (Memory.read c.mem r.1 r.2)) s) s
  let room := l.cores.zipIdx.flatMap fun (cn, rr) =>
    (gaps (4 * 2 ^ 20) ((l.savedRanges (s.core cn)).mergeSort fun x y => decide (x.1 ≤ y.1))).map fun g => (at_ rr g.1, g.2)
  (l.spillSeqs.foldl (fun r bs => State.putSpill r l.part bs) (s', room)).1

/-- A core of partition p leaves its launch, which its trace shows (R379, R423). -/
def State.leaves (s : State) (p cn : Nat) : State :=
  let t := s.modCore cn Core.emptied
  if s.traces then t.traceChange p cn else t

/-- Steps 5 and 6 of a stop: the contexts' local stores and the applications that are due are performed, open sequences are spilled and STOPPED, the member cores
are saved and unoccupied, and the command has finished (R156, R379). -/
def State.saveLaunch (s : State) (l : Launch) : State :=
  let s := (l.cores.foldl (fun s cn => s.modCore cn Core.performEvery) s).performDues l.part l.lid fun _ => true
  let l := (s.launch? l.part l.lid).getD l
  let s := s.writeSaved l
  let saved := l.cores.foldl (fun m cn => SMap.put m cn (l.savedCore (s.core cn))) ([] : SMap Core)
  let s := l.cores.foldl (fun s cn => s.leaves l.part cn) s
  let s := match l.stopCmd with
    | some at_ => s.commandResult l.part at_ 0
    | none => s
  s.modLaunch l.part l.lid fun l =>
    { l with state := .stopped, holds := false, saved := saved, stopCmd := none, spills := l.spillSeqs,
             seqs := l.seqs.map fun (n, q) => (n, if q.state = .opened then { q with state := .stopped } else q) }

/-- The sequences of a launch that ends are ABORTED: they release their lines, counters and reservations (R155, R382). -/
def Launch.aborted (l : Launch) (reason : Nat) : Launch :=
  { l.shutLines (l.seqs.flatMap fun q => q.2.lines) with
    state := .completing, ending := some reason, spills := [],
    seqs := l.seqs.map fun (n, q) => (n, { q with state := .aborted, held := [], lines := [], queried := [] }) }

/-- An END takes hold of a launch whose cores it does not hold: the save block is discarded, the parts of its cores end with
their replay logs, and its sequences become ABORTED (R382, R426). -/
def State.endSaved (s : State) (l : Launch) (reason : Nat) : State :=
  let s : State := { s with net := s.net.filter fun (_, p) => !(p.part == l.part && p.lid == l.lid && p.remote.isNone) }
  let s := l.saved.foldl (fun s (cn, c) => if c.part == .ended then s else s.closeLog l cn c.control.acts) s
  s.modLaunch l.part l.lid fun l => l.aborted reason

/-- The next phase of a stop that is under way, if it can be taken (R379). -/
def State.stopPhase (s : State) (l : Launch) : Option State :=
  if l.state != .stopping || !s.drained l then none
  else if l.cores.any fun cn => !(s.core cn).stats.isEmpty then
    if l.cores.any fun cn => (s.core cn).stats.any fun e => (s.flushHeld cn e).isNone then
      some (l.cores.foldl (fun s cn => s.flushAll cn 15) s)
    else none
  else if l.cores.any fun cn => decide (((s.core cn).susp.filter fun x => x.opkind == 2).length < (s.core cn).flushes) then none
  else
    let t := s.saveLaunch l
    some (match l.ending, t.launch? l.part l.lid with
      | some e, some l' => t.endSaved l' e
      | _, _ => t)

/-- A STOP command with the save block arg is taken: each member core receives STOP_REQUEST (R378, R379). -/
def State.beginStop (s : State) (l : Launch) (at_ arg : Word) : State :=
  let s := s.modLaunch l.part l.lid fun l => { l with state := .stopping, stopCmd := some at_, saveArg := arg }
  l.cores.foldl (fun s cn => s.async cn { cause := 0x15 }) s

/-- STOP (R379): a stop under way goes on, or the next command of the partition's ring is taken. -/
def execStopCmd (p : BitVec 4) (s : State) : Out :=
  let p := p.toNat
  match (s.launches.filter fun l => l.part == p).findSome? fun l => s.stopPhase l with
  | some t => .next t
  | none =>
    match s.takeCommand p (fun op => op == 1) with
    | none => .refused .notEnabled
    | some (at_, lid, arg, s) =>
      match s.launch? p lid with
      | some l => if l.state = .running then .next (s.beginStop l at_ arg) else .next (s.commandResult p at_ (s.refusedResult p lid))
      | none => .next (s.commandResult p at_ 1)

/-! ### RESUME (R381) -/

/-- RESUME (R381): a stopped launch is marked reserved. -/
def execResumeCmd (p : BitVec 4) (s : State) : Out :=
  let p := p.toNat
  match s.takeCommand p (fun op => op == 2) with
  | none => .refused .notEnabled
  | some (at_, lid, _, s) =>
    match s.launch? p lid with
    | some l =>
      if l.state = .stopped then .next ((s.modLaunch p lid fun l => { l with state := .reserved }).commandResult p at_ 0)
      else .next (s.commandResult p at_ (s.refusedResult p lid))
    | none => .next (s.commandResult p at_ 1)

/-- A saved core comes back: its contexts are as at the stop, CT among them, which was idle then and is idle again (R44, R342, R379;
a record that it handles now is not taken again, log entry 88); what belongs to the core and not to the launch, its trap registers and
record queues among it, stays as it is now (R138, R381); every register of a context is satisfied (R208). The bytes that
are restored or zeroed cover every doubleword, and clear its error (R68). -/
def restoreCore (now saved : Core) : Core :=
  { saved with ctx := saved.ctx.map fun (k, x) => (k, { x with ready := [] }),
               trap := { now.trap with busy := false },
               control := { saved.control with halted := now.control.halted, traced := now.control.traced, stopped := false },
               txSeq := now.txSeq, xcache := now.xcache, choked := now.choked, bad := [],
               matrix := { saved.matrix with powered := now.matrix.powered } }

/-- LAUNCH_RESUMPTION (R381). -/
def execLaunchResumption (p : BitVec 4) (lid : BitVec 32) (s : State) : Out :=
  match s.launch? p.toNat lid.toNat with
  | none => .refused .notEnabled
  | some l =>
    let free := l.cores.all fun cn => !s.launches.any fun q => q.holds && q.member cn
    if l.state != .reserved || !free then .refused .notEnabled
    else
      let s := l.saved.foldl (fun s (cn, c) => s.modCore cn fun now => restoreCore now c) s
      .next (s.modLaunch l.part l.lid fun l =>
        { l with state := .running, holds := true, saved := [], spills := [],
                 seqs := l.seqs.map fun (n, q) => (n, if q.state = .stopped then { q with state := .opened } else q) })

/-! ### END (R382) -/

/-- A request of core cn's copy unit that is still to be performed. -/
def Packet.copyAsks (p : Packet) (cn : Nat) : Bool := p.cn == cn && p.remote.isNone && !p.reply && match p.body with
  | .copyRead _ _ => true
  | .copyBlock _ => true
  | .recRead _ => p.ctx == 13
  | _ => false

/-- The copies of core cn stop at a block boundary: what they have requested and is not performed yet is dropped, and a reply under way
is still taken (R382). -/
def State.dropCopies (s : State) (cn : Nat) : State :=
  let gone := s.net.filter fun e => e.2.copyAsks cn
  let s : State := { s with net := s.net.filter fun e => !e.2.copyAsks cn }
  s.modCore cn fun c => { c with copies := [], txs := c.txs.filter (fun t => !gone.any fun e => e.2.seq == t.seq),
                                 susp := c.susp.filter fun x => !gone.any fun e => e.1 == x.pkt }

/-- A running launch is ended on core cn: issue, selection and copies stop, and the core's part ends. -/
def State.endCore (s : State) (cn : Nat) : State :=
  if (s.core cn).part == .ended then s
  else
    (((s.dropCopies cn).modCore cn Core.performEvery).modCore cn fun c =>
      { c with ctx := c.ctx.map fun (k, x) => (k, if k < 11 then { x with live := false, finishing := false, held := false, wait := .none } else x),
               control := { c.control with stopped := true } }).endPart cn

/-- END (R382). -/
def execEndCmd (p : BitVec 4) (s : State) : Out :=
  let p := p.toNat
  match s.takeCommand p (fun op => op == 3) with
  | none => .refused .notEnabled
  | some (at_, lid, arg, s) =>
    let reason := wfld arg 0 8
    match s.launch? p lid with
    | none => .next (s.commandResult p at_ 1)
    | some l =>
      match l.state with
      | .running => .next ((((l.cores.foldl (fun s cn => s.endCore cn) s).performDues p lid fun _ => true).modLaunch p lid fun l => l.aborted reason).commandResult p at_ 0)
      | .stopping => .next ((s.modLaunch p lid fun l => { l with ending := some reason }).commandResult p at_ 0)
      | .stopped => .next ((s.endSaved l reason).commandResult p at_ 0)
      | .reserved => .next ((s.endSaved l reason).commandResult p at_ 0)
      | .accepting => .next (s.commandResult p at_ 2)
      | .completing => .next (s.commandResult p at_ 3)

/-- COMMAND_MALFORMED (R377). -/
def execCommandMalformed (p : BitVec 4) (s : State) : Out :=
  match s.takeCommand p.toNat (fun op => !(op == 1 || op == 2 || op == 3)) with
  | none => .refused .notEnabled
  | some (at_, _, _, s) => .next (s.commandResult p.toNat at_ 4)

end Sys2Proof.Machine
end

