-- ==== Sys2Proof/Machine/Wire.lean ====
section
/-! DEFINITION. Packets toward and from other packages as they stand on a Sutre port or in an Ethernet frame (spec 20, R399 to
R404; spec 08, R193). -/

namespace Sys2Proof

/-! ### The header (R401) -/

def SutreHeader.ver (h : SutreHeader) : Nat := wfld h.dw0 60 4
def SutreHeader.type (h : SutreHeader) : Nat := wfld h.dw0 56 4
def SutreHeader.slack (h : SutreHeader) : Nat := wfld h.dw0 44 12
def SutreHeader.dpart (h : SutreHeader) : Nat := wfld h.dw0 40 4
def SutreHeader.kind (h : SutreHeader) : Nat := wfld h.dw0 36 4
def SutreHeader.dpkg (h : SutreHeader) : Nat := wfld h.dw0 16 16
def SutreHeader.spkg (h : SutreHeader) : Nat := wfld h.dw0 0 16
def SutreHeader.seq (h : SutreHeader) : Nat := wfld h.dw1 32 32
def SutreHeader.scn (h : SutreHeader) : Nat := wfld h.dw1 16 11
def SutreHeader.dcn (h : SutreHeader) : Nat := wfld h.dw1 0 11
def SutreHeader.srank (h : SutreHeader) : Nat := wfld h.dw2 32 32
def SutreHeader.flowSeq (h : SutreHeader) : Nat := wfld h.dw2 16 16
def SutreHeader.len (h : SutreHeader) : Nat := wfld h.dw2 0 12
def SutreHeader.major (h : SutreHeader) : Nat := wfld h.dw3 58 6
def SutreHeader.minor (h : SutreHeader) : Nat := wfld h.dw3 51 7
def SutreHeader.chan (h : SutreHeader) : Nat := wfld h.dw3 44 6
def SutreHeader.tag (h : SutreHeader) : Nat := wfld h.dw3 28 16
def SutreHeader.addr (h : SutreHeader) : Nat := wfld h.dw3 0 22
def SutreHeader.status (h : SutreHeader) : Nat := wfld h.dw3 0 8

end Sys2Proof

namespace Sys2Proof.Machine

/-- A packet that leaves the package: a request, reply or notice for another one. -/
def Packet.leaves (p : Packet) : Bool := match p.home with
  | .remote _ => true
  | _ => false

/-- A request on its way to another package. -/
def Packet.outgoing (p : Packet) : Bool := !p.reply && p.leaves

/-- The number of the package that a leaving packet goes to. -/
def Packet.dpkg (p : Packet) : Nat := (p.remote.map (·.2)).getD 0

/-- SCN of a leaving packet: its issuer, or the core that answers (R401). -/
def Packet.scn (p : Packet) : Nat := if p.reply then p.addr else p.cn

/-- TYPE of a leaving packet. -/
def Packet.type (p : Packet) : Nat :=
  match p.body with
  | .exhausted => 2
  | .congestion _ => 2
  | _ => if p.reply then 1 else 0

/-! ### What leaves (R401, R402) -/

/-- The operands or data that follow a leaving packet's header, in the order in which its instruction reads them. -/
def Packet.payload (p : Packet) : List Word :=
  match p.body with
  | .message m => dwords m.bytes
  | .put bytes => dwords bytes
  | .atomic op _ a c _ => if op = .cas then [a, c] else [a]
  | .fpUpdate _ _ v => [.ofNat 64 v]
  | .ticket f t lanes =>
    let n := elemBytes f
    if fld p.report.word 0 5 = 5 then
      dwords (leBytes 64 ((lanes.map fun e => e.2 % 2 ^ (8 * n) * 2 ^ (8 * n * e.1)).sum)) ++
        [.ofNat 64 t, .ofNat 64 ((lanes.map fun e => 2 ^ e.1).sum)]
    else lanes.map (fun e => .ofNat 64 e.2) ++ [.ofNat 64 t]
  | .reply _ data => data
  | .immigrants first k n ws => .ofNat 64 (first * 2 ^ 32 + k * 2 ^ 16 + n) :: ws
  | _ => []

/-- Payload bytes (LEN). -/
def Packet.payloadLen (p : Packet) : Nat :=
  match p.body with
  | .message m => m.bytes.length
  | .put bytes => bytes.length
  | _ => 8 * p.payload.length

/-- Doubleword 3 of a leaving packet's header: major and minor of the issuing instruction, channel, tag, address; or the
status. The Shawm sends an export as MIGRATE. -/
def Packet.headerDw3 (p : Packet) : Nat :=
  let major := if p.ctx = 12 then 0x2F else fld p.report.word 22 6
  let minor := if p.ctx = 12 then 6 else fld p.report.word 0 5
  match p.body with
  | .reply st _ => st
  | .exhausted => 0
  | .congestion _ => 1
  | .message m => major * 2 ^ 58 + minor * 2 ^ 51 + m.chan % 64 * 2 ^ 44 + m.tag % 65536 * 2 ^ 28
  | _ => major * 2 ^ 58 + minor * 2 ^ 51 + p.addr % 2 ^ 22

/-- SRANK of a leaving packet: the job rank of the transaction's issuer. -/
def State.issuerRank (s : State) (p : Packet) : Nat :=
  if p.reply then (p.remote.map (·.1)).getD 0 else ((s.launch? p.part p.lid).map (·.rank)).getD 0

/-- The header of a leaving packet (R401). -/
def State.headerOf (s : State) (p : Packet) : SutreHeader where
  dw0 := .ofNat 64 (2 ^ 60 + p.type * 2 ^ 56 + p.slack % 4096 * 2 ^ 44 + p.dpart % 16 * 2 ^ 40 + p.kind % 16 * 2 ^ 36
    + p.dpkg % 65536 * 2 ^ 16 + p.own % 65536)
  dw1 := .ofNat 64 (p.seq % 2 ^ 32 * 2 ^ 32 + p.scn % 2048 * 2 ^ 16 + p.dcn % 2048)
  dw2 := .ofNat 64 (s.issuerRank p % 2 ^ 32 * 2 ^ 32 + p.flowSeq % 65536 * 2 ^ 16 + p.payloadLen % 4096)
  dw3 := .ofNat 64 p.headerDw3

/-- H of a leaving packet, from its own header (R399). -/
def Packet.hash (p : Packet) : Nat := pathHash p.own p.dpkg p.scn p.dcn

/-- A frame of an Ethernet port as far as the spec fixes it: the endpoint's address, the UDP ports, one Sutre packet (R402,
R403). -/
structure Frame where
  address : List Byte
  source : Nat
  destination : Nat
  header : SutreHeader
  payload : List Word
  deriving DecidableEq, Repr

/-- UDPPORT of the configuration record (R415). -/
def State.udpPort (s : State) : Nat := leNat ((s.mgmt.config.drop 0x88).take 2)

/-- The frame in which a packet leaves by an Ethernet port (R402, R403). -/
def State.frameOf (s : State) (p : Packet) : Frame where
  address := Memory.read s.gmem (s.endpointAt p.dpkg) 16
  source := 49152 + p.hash % 16384
  destination := s.udpPort
  header := s.headerOf p
  payload := p.payload

end Sys2Proof.Machine
end

