-- ==== Sys2Proof/Machine/Fabric.lean ====
section
/-! DEFINITION. Switches, packets to and from other packages, lost links and packages, translation on its own and the
invalidation ring (spec 05, R130 to R139; spec 19, R388 to R392; spec 20, R398 to R408; spec 17, R355). -/

namespace Sys2Proof.Machine

/-! ### Arbitration (R130, R133) -/

/-- Buffer class of a packet: 0 request, 1 reply, 2 notice (R130). -/
def Packet.bufferClass (p : Packet) : Nat := p.type

/-- The contenders that join an output in this round: packets in flight at inputs that have no contender of their class. -/
def State.joinOutput (s : State) (o : Output) (joins : List (Nat × Nat)) : Output :=
  joins.foldl (fun o (input, id) =>
    match s.packet id with
    | none => o
    | some p =>
      let c := p.bufferClass
      if decide (s.ipOf 0x046 ≤ .ofNat 64 input) || o.waiting.any fun x => x.pkt == id || (x.input == input && x.cls == c) then o
      else { o with waiting := o.waiting ++ [⟨input, id, SMap.get 0 o.rounds c, c⟩] }) o

/-- Slack of a contender's packet. -/
def State.slackOf (s : State) (x : Contender) : Nat := ((s.packet x.pkt).map (·.slack)).getD 0

/-- The contender that a round grants: among exhausted ones the earliest head round, else the least slack; ties go to the
first input at or after the pointer. -/
def State.grant (s : State) (ptr inputs : Nat) (cs : List Contender) : Option Contender :=
  let dead := cs.filter fun x => s.slackOf x == 0
  let pool := if dead.isEmpty then cs else dead
  let key (x : Contender) : Nat := if dead.isEmpty then s.slackOf x else x.head
  let dist (x : Contender) : Nat := (x.input + inputs - ptr) % inputs
  pool.foldl (fun best x => match best with
    | none => some x
    | some b => if decide (key x < key b) || (key x == key b && decide (dist x < dist b)) then some x else best) none

/-- A packet loses a round: its slack falls, and from 1 to 0 marks it (R130, R133). -/
def State.loseRound (s : State) (x : Contender) : State :=
  match s.packet x.pkt with
  | some p => { s with net := SMap.put s.net x.pkt { p with slack := p.slack - 1, marked := p.marked || p.slack == 1 } }
  | none => s

/-- The class that an output serves next: the first from its turn on with a contender and downstream credit (R130). -/
def Output.nextClass (o : Output) : Option Nat :=
  ((List.range 3).map fun i => (o.cls + i) % 3).find? fun c => !o.starved.contains c && o.waiting.any fun x => x.cls == c

/-- ARBITRATION_ROUND (R130): output o serves the next class with a contender and credit, and grants one of them. The
pointer is one per output, for its three classes together (DESIGN CHOICE, log entry 74). -/
def execArbitrationRound (o : Nat) (joins : List (Nat × Nat)) (s : State) : Out :=
  let out := s.joinOutput (SMap.get {} s.outputs o) joins
  let out := { out with waiting := out.waiting.filter fun x => (s.packet x.pkt).isSome }
  let inputs := (s.ipOf 0x046).toNat
  match out.nextClass with
  | none => .refused .notEnabled
  | some c =>
    match s.grant out.ptr inputs (out.waiting.filter fun x => x.cls == c) with
    | none => .refused .notEnabled
    | some g =>
      let rest := out.waiting.erase g
      let s := (rest.filter fun x => x.cls == c).foldl (fun s x => s.loseRound x) s
      .next { s with outputs := SMap.put s.outputs o { out with
          ptr := (g.input + 1) % inputs, rounds := SMap.put out.rounds c (SMap.get 0 out.rounds c + 1), cls := (c + 1) % 3, waiting := rest } }

/-- A switch output has, or has not, downstream credit for a class (R130). -/
def State.setCredit (s : State) (o cls : Nat) (has : Bool) : State :=
  let out := SMap.get {} s.outputs o
  let rest := out.starved.filter fun c => c != cls
  { s with outputs := SMap.put s.outputs o { out with starved := if has then rest else rest ++ [cls] } }

/-! ### Congestion notices (R135, R404) -/

/-- A congestion notice about a request packet sets out to its source core, here or on another package, with the request's
destination key. -/
def State.congestionNotice (s : State) (p : Packet) : State :=
  match p.issuer, p.leaves with
  | some f, false => s.send (s.remoteReply f p.dcn 0 p.kind (.congestion p.home.key))
  | _, _ => s.send { p with home := .core p.cn, slack := 0, rallow := 0, marked := false, remote := none, port := none,
                            body := .congestion p.home.key }

/-! ### Outgoing packets (R138, R142, R399, R405, R408) -/

/-- The Shawm's export i toward another package is sent again, as a new transaction with the slack of its snapshot: its target
answered RETRY (R142; log entry 62). -/
def State.resendExport (s : State) (i : Nat) (p : Packet) : State :=
  let seq := (s.core p.cn).txSeq
  let s := s.modCore p.cn fun c => { c with txSeq := c.txSeq + 1 }
  { s with net := SMap.put s.net i { p with seq := seq.toNat, slack := slkInit p.slk, marked := false } }

/-- The request i to another package ends with a status that the fabric or its target reports; the reply to one of the Shawm's counts here
if it is marked (R133). -/
def State.endRequest (s : State) (i : Nat) (p : Packet) (slack st : Nat) (data : List Word) (marked : Bool := false) : State :=
  if p.ctx = 12 then
    let s := if st = 6 then s.resendExport i p else { s with net := SMap.del s.net i }.exportDone p.addr p.first st
    if marked then s.exhausted p else s
  else { s with net := SMap.put s.net i { p with home := .core p.cn, slack := slack, rallow := 0, marked := marked, reply := true, body := .reply st data } }

/-- Packet i leaves anew by a port of the live map toward its package; without one a request ends with status 1, and a reply
or notice waits without a port (R138, R399). -/
def State.reroute (s : State) (i : Nat) (p : Packet) : State :=
  match s.portOf p.own p.dpkg p.scn p.dcn with
  | some port => { s with net := SMap.put s.net i { p with port := some port } }
  | none => if p.reply then { s with net := SMap.put s.net i { p with port := none } } else s.endRequest i p 0 1 []

/-- RETRANSMISSION (R138): a lost packet sets out again with its transaction id. -/
def execRetransmission (i : Nat) (s : State) : Out :=
  match s.packet i with
  | some p => if p.leaves then .next (s.reroute i p) else .refused .notEnabled
  | none => .refused .notEnabled

/-- Running launches of the package (R405, R408). -/
def State.runningLaunches (s : State) : List Launch := s.launches.filter fun l => l.state == .running
/-- The origin core of a launch. -/
def Launch.originCore (l : Launch) : Nat := l.y0 * 64 + l.x0

/-- The ranks of a partition's table that name a package with V = 1 (R396). -/
def State.ranksOf (s : State) (part pkg : Nat) : List Nat :=
  (List.range (wfld (s.partDw part 7) 0 32)).filter fun r => let e := s.rankEntry part r; e.1 && e.2.2.1 == pkg

/-- A package is lost (R408): the rank table entries that name it take no transaction toward it until they are rewritten, the requests
in flight toward it end with status 1, and each running launch whose table names it receives RANK_FAILED. -/
def State.losePackage (s : State) (n : Nat) : State :=
  let es := s.parts.flatMap fun e => (s.ranksOf e.1 n).map fun r => (e.1, r, n)
  let s : State := { s with lost := s.lost ++ es.filter fun e => !s.lost.contains e }
  let dead := s.net.filter fun (_, p) => p.outgoing && p.remote.map (·.2) == some n
  let s := dead.foldl (fun s (i, p) => s.endRequest i p 0 1 []) s
  s.runningLaunches.foldl (fun s l => (s.ranksOf l.part n).foldl (fun s r =>
    s.async l.originCore { cause := 0xAA, addr := .ofNat 64 n, info0 := r }) s) s

/-- PACKAGE_LOST (R408). -/
def execPackageLost (pkg : BitVec 16) (s : State) : Out := .next (s.losePackage pkg.toNat)

/-- The packages that the running launches' rank tables name, of this package's own domain or of others, to which no port is
left now (R399, R402, R408). -/
def State.cutOff (s : State) (near : Bool) : List Nat :=
  (s.runningLaunches.flatMap fun l =>
    let own := (s.rankEntry l.part l.rank).2.2.1
    (List.range (wfld (s.partDw l.part 7) 0 32)).filterMap fun r =>
      let e := s.rankEntry l.part r
      if e.1 && e.2.2.1 != own && (e.2.2.1 / 4096 == own / 4096) == near then some e.2.2.1 else none).eraseDups

/-- PORT_RETRY_EXHAUSTED (R405): the port leaves the live map, its packets leave by other ports, and each running launch
receives SUTRE_LINK_DOWN. Once no port of its kind is left, the packages behind them are lost (R408). -/
def execPortRetryExhausted (eth : Bool) (port : BitVec 6) (s : State) : Out :=
  let n := port.toNat
  if !wbit (if eth then s.enetLive else s.sutreLive) n then .refused .notEnabled
  else
    let s : State := if eth then { s with enetLive := setFld s.enetLive n 1 0 } else { s with sutreLive := setFld s.sutreLive n 1 0 }
    let held := s.net.filter fun (_, p) => p.leaves && p.port == some (if eth then 64 + n else n)
    let s := held.foldl (fun s (i, p) => s.reroute i p) s
    let s := s.runningLaunches.foldl (fun s l => s.async l.originCore
      { cause := 0xA9, info0 := n, info1 := if eth then 1 else 0, detail0 := if eth then s.enetLive else s.sutreLive }) s
    .next (if (if eth then s.enetLive else s.sutreLive) = 0 then (s.cutOff !eth).foldl (fun s p => s.losePackage p) s else s)

/-- MESH_LINK_ERROR (R355): the link between two adjacent cores is mapped out. -/
def execMeshLinkError (a b : CoreNo) (s : State) : Out :=
  if s.onMesh a.toNat && s.onMesh b.toNat && (List.range 4).any fun d => s.neighbour a.toNat d == some b.toNat then
    .next ((s.async a.toNat { cause := 0xA8 }).async b.toNat { cause := 0xA8 })
  else .refused .notEnabled

/-! ### Incoming packets (R138, R400, R401, R404, R407) -/

/-- The operation of an atomic's minor (R315), with whether it fetches. -/
def atomicOf (minor : Nat) : Option (AtomicOp × Bool) :=
  if minor = 16 then some (.swap, true)
  else if minor = 17 then some (.cas, true)
  else match ([.add, .smin, .smax, .umin, .umax, .and, .or, .xor] : List AtomicOp)[minor / 2]? with
    | some op => some (op, minor % 2 == 1)
    | none => none

/-- The element format of an arriving update. The header carries none: it is a free value among FP64, FP32 and BF16, of which
the format of the sequence that holds the line, or else the one that LEN's value bytes name, stands first (log entry 30). -/
def State.arrivingFmt (s : State) (h : SutreHeader) : Nat :=
  let guess := match s.seqAt h.dpart (.core h.dcn) (alignDown h.addr 64) with
    | some (_, _, q, _) => q.fmt
    | none => if h.len = 8 then 1 else if h.len = 2 then 4 else 2
  ((guess :: [1, 2, 4].filter fun f => f != guess)[Config.freeChoice s.fresh % 3]?).getD guess

/-- The rounding mode of an arriving rfadd, which the header does not carry either: a free value (R85; log entry 30). -/
def State.arrivingMode (s : State) : Nat := Config.freeChoice (s.fresh + 1) % 5

/-- RALLOW of an arriving request, which the header does not carry: a free value (R132; log entry 30). -/
def State.arrivingRallow (s : State) : Nat := Config.freeChoice (s.fresh + 2) % 4096

/-- A packet that arrives with slack 0 was marked exhausted on its way, or was issued so. The header does not say which: a free
value (R133; DESIGN CHOICE, log entry 78). -/
def State.arrivingMark (s : State) (h : SutreHeader) : Bool := h.slack == 0 && Config.freeChoice (s.fresh + 3) % 2 == 1

/-- The issuer that an arriving request's header names. -/
def issuerOf (h : SutreHeader) : Issuer := ⟨h.dpart, h.dpkg, h.spkg, h.srank, h.scn, h.seq⟩

/-- The endpoint takes a request that it does not deliver; for a marked one an exhaustion notice returns (R133). -/
def State.arrivalNotice (s : State) (h : SutreHeader) : State :=
  let t : State := { s with fresh := s.fresh + 4 }
  if s.arrivingMark h then t.send (s.remoteReply (issuerOf h) h.dcn 0 h.kind .exhausted) else t

/-- What an arriving request carries (R401): its operands follow the header as doublewords. -/
def State.arrivingBody (s : State) (h : SutreHeader) (payload : List Word) : Option Body :=
  let bytes := (payload.flatMap fun w => leBytes 8 w.toNat).take h.len
  let w (i : Nat) : Nat := (payload.getD i 0).toNat
  let f := s.arrivingFmt h
  let n := elemBytes f
  match h.major, h.minor with
  | 0x2C, 0 => some (.message { chan := h.chan, tag := h.tag, bytes := bytes, src := sourceId 1 h.srank h.scn,
                                ack := some (issuerOf h, 0) })
  | 0x2C, 2 => some (.put bytes)
  | 0x2C, 3 => some (.fpUpdate f s.arrivingMode (w 0 % 2 ^ (8 * n)))
  | 0x2C, 4 => some (.ticket f (w 1 % 2 ^ 32) [(h.addr % 64 / n, w 0 % 2 ^ (8 * n))])
  | 0x2C, 5 => some (.ticket f (w 8 % 2 ^ 32)
      ((ones (w 9) (64 / n)).map fun j => (j, leNat (((payload.flatMap fun x => leBytes 8 x.toNat).drop (n * j)).take n))))
  | 0x2C, 8 => some (.ticket f (w 0 % 2 ^ 32) [])
  | 0x2D, m => (atomicOf m).map fun (op, fetch) => .atomic op 4 (.ofNat 64 (w 0 % 2 ^ 32)) (.ofNat 64 (w 1 % 2 ^ 32)) fetch
  | 0x2E, m => (atomicOf m).map fun (op, fetch) => .atomic op 8 (.ofNat 64 (w 0)) (.ofNat 64 (w 1)) fetch
  | 0x2F, 6 => some (.immigrants (wfld (payload.getD 0 0) 32 32) (wfld (payload.getD 0 0) 16 16) (wfld (payload.getD 0 0) 0 16) (payload.drop 1))
  | _, _ => none

/-- Early messages of a flow whose turn has come enter the package, at most n of them (R400). -/
def State.releaseEarly (s : State) (flow : Nat × Nat × Nat) : Nat → State
  | 0 => s
  | n + 1 =>
    let want := ((s.flows.find? fun f => f.1 == flow).map (·.2)).getD 0
    match s.early.find? fun p => (p.remote.map (·.2)) == some flow.1 && p.cn == flow.2.1 && p.home == .core flow.2.2 && p.flowSeq == want with
    | none => s
    | some p =>
      let s : State := { s with early := s.early.erase p,
                                flows := (flow, (want + 1) % 65536) :: s.flows.filter fun f => f.1 != flow }
      (s.send p).releaseEarly flow n

/-- An arriving message takes its place in its flow: earlier ones of the flow first; one that has been delivered already
is dropped (R400). -/
def State.arriveInFlow (s : State) (p : Packet) (spkg dcn : Nat) : State :=
  let flow := (spkg, p.cn, dcn)
  let want := ((s.flows.find? fun f => f.1 == flow).map (·.2)).getD 0
  if (p.flowSeq + 65536 - want) % 65536 < 2 ^ 15 && !s.early.contains p then
    { s with early := s.early ++ [p] }.releaseEarly flow (s.early.length + 1)
  else s

/-- The flow of a core of another package toward a core here goes on with a FLOWSEQ: its count starts at 0 with each launch of the
sender, and is kept with a launch that is stopped, which the header does not name (R400; log entry 57). -/
def State.setFlow (s : State) (pkg scn dcn next : Nat) : State :=
  let flow := (pkg, scn, dcn)
  { s with flows := (flow, next) :: s.flows.filter fun f => f.1 != flow }.releaseEarly flow s.early.length

/-- A request of another package enters the package, with the free values that stand for what its header does not carry. -/
def State.acceptRequest (s : State) (h : SutreHeader) (payload : List Word) : State :=
  match s.arrivingBody h payload with
  | none => s
  | some b =>
    let p : Packet := { cn := h.scn, seq := h.seq, ctx := 15, pc := 0, kind := h.kind, part := h.dpart, lid := 0, home := .core h.dcn,
                        addr := h.addr, slack := h.slack, rallow := s.arrivingRallow, marked := s.arrivingMark h, cls := 0,
                        remote := some (h.srank, h.spkg), dcn := h.dcn, own := h.dpkg, flowSeq := h.flowSeq, body := b }
    let s : State := { s with fresh := s.fresh + 4 }
    match b with
    | .message _ => s.arriveInFlow p h.spkg h.dcn
    | _ => s.send p

/-- A request of another package arrives: a duplicate receives the first reply or waits for it (R138); one whose partition does
not exist, or whose rank does not name its package now, is not performed and receives status 4 (R397, R407), a message in its flow's
order; any other is delivered. An answer has slack min(4095, s_arr + RALLOW) (R132), and a marked request is noticed (R133). -/
def State.arriveRequest (s : State) (h : SutreHeader) (payload : List Word) : State :=
  let f := issuerOf h
  let key := filterKey h.dpart h.spkg h.srank
  let known := s.filter.find? fun e => e.1 == key && e.2.1 == h.scn && e.2.2.1 == h.seq
  let same (p : Packet) : Bool := p.issuer == some f && !p.reply && !p.leaves
  let slack := min 4095 (h.slack + s.arrivingRallow)
  match known with
  | some r =>
    let data := if s.knowsRank h.dpart h.srank h.spkg then (r.2.2.2.1, r.2.2.2.2) else (4, [])
    (s.arrivalNotice h).send (s.remoteReply f h.dcn slack h.kind (.reply data.1 data.2))
  | none =>
    if s.net.any (fun e => same e.2) || s.early.any same then s.arrivalNotice h
    else if s.knowsRank h.dpart h.srank h.spkg || (h.major == 0x2C && h.minor == 0) then s.acceptRequest h payload
    else (s.arrivalNotice h).replyRemote f h.dcn slack h.kind 4 []

/-- An issuer confirms the receipt of a reply: the duplicate filter and the fabric keep it no longer (R138). -/
def State.confirmed (s : State) (part pkg rank cn seq : Nat) : State :=
  { s with filter := s.filter.filter fun e => !(e.1 == filterKey part pkg rank && e.2.1 == cn && e.2.2.1 == seq),
           net := s.net.filter fun (_, p) => !(p.reply && p.leaves && p.part == part && p.remote == some (rank, pkg) && p.cn == cn &&
             p.seq == seq) }

/-- A reply of another package ends the request that it answers; with none in flight it is a duplicate (R138). -/
def State.arriveReply (s : State) (h : SutreHeader) (payload : List Word) : State :=
  match s.net.find? fun (_, p) => p.outgoing && p.cn == h.dcn && p.seq == h.seq && p.part == h.dpart && p.remote.map (·.2) == some h.spkg with
  | some (i, p) => if decide (6 < h.status) then s else { s with fresh := s.fresh + 4 }.endRequest i p h.slack h.status payload (s.arrivingMark h)
  | none => s

/-- The packet that a notice of another package becomes on its way to the core that it names. -/
def State.noticeAt (s : State) (h : SutreHeader) (b : Body) : Packet :=
  { cn := h.dcn, seq := h.seq, ctx := 15, pc := 0, kind := h.kind, part := h.dpart, lid := s.lidOf h.dcn, home := .core h.dcn,
    addr := 0, slack := h.slack, rallow := 0, cls := 0, first := h.seq, body := b }

/-- A notice of another package for a core that runs a launch of its partition (R397): exhaustion, about a transaction of
that core (R133), or congestion with the rank as the key (R136, R404). -/
def State.arriveNotice (s : State) (h : SutreHeader) : State :=
  let c := s.core h.dcn
  if c.job.map (·.1) != some h.dpart then s
  else if h.status = 0 then
    let p := s.noticeAt h .exhausted
    match (c.txs ++ c.closed).find? fun t => t.seq == h.seq with
    | some t => s.send { p with ctx := t.ctx, pc := t.report.pc, kind := t.kind, cls := t.cls, slk := t.slk, first := t.first,
                                xfer := t.copy }
    | none => s.send p
  else match h.status, s.ranksOf h.dpart h.spkg with
    | 1, r :: _ => s.send (s.noticeAt h (.congestion (.rank (.ofNat 32 r))))
    | _, _ => s

/-- The congestion notice that answers a packet with the CE mark, to its source core (R404). -/
def State.markedNotice (s : State) (h : SutreHeader) : State :=
  let rank := if h.type = 0 then some h.srank else (s.ranksOf h.dpart h.spkg).head?
  match rank with
  | some r => s.send (s.remoteReply ⟨h.dpart, h.dpkg, h.spkg, r, h.scn, h.seq⟩ h.dcn 0 h.kind
      (.congestion (.rank (.ofNat 32 (s.jobRank h.dcn)))))
  | none => s

/-- A Sutre packet arrives (R401). -/
def State.arrivePacket (s : State) (h : SutreHeader) (payload : List Word) : State :=
  if h.ver != 1 then s
  else match h.type with
    | 0 => s.arriveRequest h payload
    | 1 => s.arriveReply h payload
    | 2 => s.arriveNotice h
    | _ => s

/-- An Ethernet frame with a Sutre packet arrives (R402, R404). -/
def State.arriveFrame (s : State) (ce : Bool) (h : SutreHeader) (payload : List Word) : State :=
  (if ce && h.ver == 1 && decide (h.type < 3) then s.markedNotice h else s).arrivePacket h payload

/-- SUTRE_PACKET_ARRIVAL (R401). -/
def execSutrePacketArrival (h : SutreHeader) (payload : List Word) (s : State) : Out := .next (s.arrivePacket h payload)

/-! ### Walks and invalidation (R388 to R392) -/

/-- PAGE_WALK (R388): a walk for a translation that core cn's cache misses; its entries are kept in the slice, and the leaf in
the core's cache (R389). -/
def execPageWalk (cn : CoreNo) (va : BitVec 48) (s : State) : Out :=
  let n := cn.toNat
  match (s.core n).job with
  | none => .refused .notEnabled
  | some (p, _) =>
    let asid := s.asid p
    if (cacheHit (s.core n).xcache .read asid va.toNat).isSome then .refused .notEnabled
    else match s.dieWalk p va.toNat with
      | .leaf pte l2 =>
        let e : XEntry := ⟨asid, va.toNat / 2 ^ l2, l2, pte⟩
        .next ((s.keepWalk p va.toNat e).fillCore n e)
      | .stop _ => .next s

/-- INVRING of a partition. -/
def State.invRing (s : State) (p : Nat) : Nat := wfld (s.partDw p 6) 5 41 * 32
/-- INVDONE, the index of the next entry (R392). -/
def State.invDone (s : State) (p : Nat) : Nat := Memory.num s.gmem (s.invRing p - 8) 4

/-- The next entry of partition p's invalidation ring, if one is committed: its address, OP and VA (R392). -/
def State.nextInvalidation (s : State) (p : Nat) : Option (Nat × Nat × Nat) :=
  let l2 := wfld (s.partDw p 2) 16 4
  let j := s.invDone p
  let at_ := s.invRing p + 32 * (j % 2 ^ l2)
  if s.partEn p && fld (Memory.num s.gmem (at_ + 24) 8) 63 1 == (if commitBit j l2 then 1 else 0) then
    some (at_, fld (Memory.num s.gmem at_ 8) 56 8, fld (Memory.num s.gmem (at_ + 8) 8) 0 48)
  else none

/-- Entries of partition p's address space leave every slice and the cache of every core of the partition. -/
def State.invalidate (s : State) (p : Nat) (va : Option Nat) : State :=
  let asid := s.asid p
  let s := s.dropSlices asid va
  { s with cores := s.cores.map fun (cn, c) =>
      (cn, if s.inPartition p (cn % 64) (cn / 64) then { c with xcache := dropEntries c.xcache asid va } else c) }

/-- RESULT of the entry at at_, and one more in INVDONE. -/
def State.invalidated (s : State) (p at_ result : Nat) : State :=
  (s.putBytes (at_ + 16) (leBytes 1 result)).putBytes (s.invRing p - 8) (leBytes 4 ((s.invDone p + 1) % 2 ^ 32))

/-- INVALIDATE_PAGE (R392). -/
def execInvalidatePage (p : BitVec 4) (s : State) : Out :=
  match s.nextInvalidation p.toNat with
  | some (at_, 1, va) => .next ((s.invalidate p.toNat (some va)).invalidated p.toNat at_ 0)
  | _ => .refused .notEnabled

/-- INVALIDATE_ASID (R392). -/
def execInvalidateAsid (p : BitVec 4) (s : State) : Out :=
  match s.nextInvalidation p.toNat with
  | some (at_, 2, _) => .next ((s.invalidate p.toNat none).invalidated p.toNat at_ 0)
  | _ => .refused .notEnabled

/-- INVALIDATE_MALFORMED (R392). -/
def execInvalidateMalformed (p : BitVec 4) (s : State) : Out :=
  match s.nextInvalidation p.toNat with
  | some (at_, op, _) => if op = 1 ∨ op = 2 then .refused .notEnabled else .next (s.invalidated p.toNat at_ 2)
  | none => .refused .notEnabled

end Sys2Proof.Machine
end

