-- ==== Sys2Proof/Machine/Mgmt.lean ====
section
/-! DEFINITION. The management controller: boot, mailbox, attestation, unit start, semaphores, partition descriptors, and the
debug stop (spec 21, R412 to R427; spec 18, R384; spec 19, R395). -/

namespace Sys2Proof.Machine

/-! ### Boot (R413 to R416) -/

/-- The n-byte field at offset o of some bytes. -/
def field (bs : List Byte) (o n : Nat) : Nat := leNat ((bs.drop o).take n)

/-- An image or a configuration record verifies under a key (R414). -/
def verifies (bs : List Byte) (magic : Nat) (key : List Byte) : Bool :=
  let len := field bs 0x08 4
  field bs 0 4 == magic && field bs 4 4 == 1 && len % 8 == 0 && decide (len + 96 ≤ bs.length) &&
  ecdsaVerify key (bs.take len) ((bs.drop len).take 96)

/-- Both items verify: the image under the vendor key, the configuration record under the key that the image names
(R413). -/
def bootable (image config : List Byte) : Bool :=
  verifies image 0x42584657 Config.vendorKey && verifies config 0x42584346 (Config.imageKey image (field config 0x0C 4))

/-- The good physical rows of die d that the configuration record allows, ascending (R415, R416). -/
def goodRowList (config : List Byte) (d : Nat) : List Nat := ones (field config (0x48 + 4 * d) 4 &&& Config.testsPass d) 17
/-- g of R416. -/
def goodRows (config : List Byte) (d : Nat) : Nat := (goodRowList config d).length
/-- G of R416. -/
def rowsPerDie (config : List Byte) : Nat := ((List.range 8).map (goodRows config)).foldl min 16
/-- The physical row that gives logical row n of die d: the lowest-numbered good ones are used, in ascending order (R416). -/
def physicalRow (config : List Byte) (d n : Nat) : Option Nat := ((goodRowList config d).take (rowsPerDie config))[n]?
/-- The die of core cn and its physical row there (R416). -/
def State.siteOf (s : State) (cn : Nat) : Nat × Option Nat :=
  (s.dieOf cn, physicalRow s.mgmt.config (s.dieOf cn) (cn / 64 % (s.meshRows / 2)))
/-- Core cn's row is powered: its wave has been started (R416, R420). -/
def State.corePowered (s : State) (cn : Nat) : Bool := s.unitReady (.row (s.dieOf cn) (cn / 64 % (s.meshRows / 2)))

/-- The implementation parameters under a configuration record (R4, R415 to R417). With fewer than 14 good rows on some die
the package is not offered, and IP.MESH stays as it is. -/
def ipOfConfig (ip : SMap Word) (config : List Byte) : SMap Word :=
  let chans (s : Nat) : Nat := field config (0x68 + 2 * s) 2 &&& Config.testsPass (8 + s) % 65536
  let hbm (k : Nat) : Word := .ofNat 64 ((List.range 4).foldl (fun a i => a + chans (k + i) * 2 ^ (16 * i)) 0)
  ((if rowsPerDie config < 14 then [] else [(0x042, .ofNat 64 (64 * 256 + 2 * rowsPerDie config))]) ++
   [(0x041, .ofNat 64 (field config 0x40 4)), (0x049, hbm 0),
    (0x04A, .ofNat 64 ((field config 0x78 8 &&& Config.testsPass 16) % 2 ^ 36)),
    (0x04B, .ofNat 64 ((field config 0x80 4 &&& Config.testsPass 17) % 2 ^ 16)),
    (0x04D, .ofNat 64 (min (field config 0x84 4) (min (Config.testsPass 18) 1048576))), (0x04E, hbm 4)] : SMap Word).foldl
    (fun m (k, w) => SMap.put m k w) ip

/-- Huajo firmware starts with an image and a configuration record (R413 step 5); with fewer than 14 rows on some die the
package is not offered (R416). -/
def State.boot (s : State) (image config : List Byte) : State :=
  let ip := ipOfConfig s.ip config
  let few := decide (rowsPerDie config < 14)
  { s with ip := ip, sutreLive := SMap.get 0 ip 0x04A, enetLive := SMap.get 0 ip 0x04B,
           mgmt := { s.mgmt with running := true, recovery := false, firmware := image, config := config, started := 0, area := [],
                                 withheld := few, status := if few then 2 else 0 } }

/-- PACKAGE_RESET (R413): the state after reset, then the boot ROM starts the firmware or enters recovery mode. -/
def execPackageReset (s : State) : Out :=
  let (image, config) := Config.bootFlash
  let r : State := { State.reset with moves := s.moves, turn := s.turn, fresh := s.fresh }
  .next (if bootable image config then r.boot image config
    else { r with mgmt := { r.mgmt with recovery := true, status := 0x100 } })

/-- UNIT_START (R420): the next unit in order. -/
def execUnitStart (s : State) : Out :=
  if s.mgmt.running && !s.mgmt.withheld && decide (s.mgmt.started < s.unitCount) then
    .next { s with mgmt := { s.mgmt with started := s.mgmt.started + 1 } }
  else .refused .notEnabled

/-! ### Mailbox (R412, R414, R419) -/

/-- The command in CMD is waiting, and its number is c. -/
def Management.commands (m : Management) (c : Nat) : Bool := m.asked && m.cmd == .ofNat 32 c
/-- The command is taken, and STATUS says how it ended (R412). -/
def Management.answered (m : Management) (st : Nat) : Management := { m with asked := false, status := .ofNat 32 st }

/-- RECOVERY_LOAD (R414): CMD 1 in recovery mode. -/
def execRecoveryLoad (s : State) : Out :=
  if s.mgmt.recovery && s.mgmt.commands 1 then
    let size := Memory.num s.mgmt.area 0x08 4 + 96
    let image := Memory.read s.mgmt.area 0 (min size 0x80000)
    let at_ := (size + 4095) / 4096 * 4096
    let config := Memory.read s.mgmt.area at_ (min (Memory.num s.mgmt.area (at_ + 0x08) 4 + 96) 0x80000)
    .next (if bootable image config then { s with mgmt := { s.mgmt with asked := false } }.boot image config
      else { s with mgmt := s.mgmt.answered 3 })
  else .refused .notEnabled

/-- d of R418, from the seed S as a big-endian number (DESIGN CHOICE, log entry 12). -/
def identityD : Nat := beNat (sha384 Config.identitySram) % (curveN - 1) + 1
/-- The identity public key, 97 bytes (R418, R419). -/
def identityKey : List Byte := (Point.mul identityD basePoint).bytes

/-- The signed part of an attestation report (R419); data offsets are counted from the start of the mailbox (R412; log entry
58). -/
def State.reportBytes (s : State) : List Byte :=
  Memory.read s.mgmt.data 0x100 48 ++ sha384 s.mgmt.firmware ++ sha384 s.mgmt.config ++ leBytes 8 (s.ipOf 0x040).toNat
    ++ identityKey ++ List.replicate 7 0

/-- ATTESTATION (R419). -/
def execAttestation (s : State) : Out :=
  if s.mgmt.running && s.mgmt.commands 0x10 then
    let r := s.reportBytes
    .next { s with mgmt := { s.mgmt.answered 0 with data := Memory.write s.mgmt.data 0x200 (r ++ ecdsaSign identityD r) } }
  else .refused .notEnabled

/-- MAILBOX_UNKNOWN_COMMAND (R412). -/
def execMailboxUnknownCommand (s : State) : Out :=
  let m := s.mgmt
  if m.asked && ((m.recovery && m.cmd != 1) || (m.running && m.cmd != 0x10)) then .next { s with mgmt := m.answered 1 }
  else .refused .notEnabled

/-! ### Semaphores (R384) -/

/-- A read of semaphore n by a port (2 for M). -/
def Management.readSem (m : Management) (port n : Nat) : Management :=
  let old := SMap.get 0 m.hsem n
  if old / 256 % 2 = 0 then
    { m with hsem := SMap.put m.hsem n (256 + port), returned := m.returned ++ [(port, .ofNat 64 (2 ^ 16 + 256 + port))] }
  else { m with returned := m.returned ++ [(port, .ofNat 64 old)] }

/-- Semaphore n is free again. -/
def Management.freeSem (m : Management) (n : Nat) : Management := { m with hsem := SMap.put m.hsem n 0 }

/-- HSEM_READ (R384): the reads of one step; at a tie the ports take turns in going first. -/
def execHsemRead (reads : List (BitVec 2 × BitVec 5)) (s : State) : Out :=
  let of (p : Nat) := reads.filter fun r => r.1.toNat == p
  let tied := !(of 0).isEmpty && !(of 1).isEmpty
  let order := if tied && s.mgmt.tie == 1 then of 1 ++ of 0 ++ of 2 else of 0 ++ of 1 ++ of 2
  let m : Management := { s.mgmt with returned := [], tie := if tied then 1 - s.mgmt.tie else s.mgmt.tie }
  .next { s with mgmt := order.foldl (fun m r => m.readSem r.1.toNat r.2.toNat) m }

/-- A write of w to semaphore n by a port: HELD = 0 by the owner or by M frees it; any other is discarded. -/
def Management.writeSem (m : Management) (port n : Nat) (w : Word) : Management :=
  let old := SMap.get 0 m.hsem n
  if !wbit w 8 && (port == 2 || (old / 256 % 2 == 1 && old % 4 == port)) then m.freeSem n else m

/-- HSEM_WRITE (R384). -/
def execHsemWrite (port : BitVec 2) (n : BitVec 5) (w : Word) (s : State) : Out :=
  .next { s with mgmt := s.mgmt.writeSem port.toNat n.toNat w }

/-- HOST_LINK_RESET (R384). -/
def execHostLinkReset (port : BitVec 1) (s : State) : Out :=
  .next { s with mgmt := ((s.mgmt.hsem.filter fun e => e.2 == 256 + port.toNat).map (·.1)).foldl (fun m n => m.freeSem n) s.mgmt }

/-! ### Debug stops (R427) -/

/-- The member cores of a launch changed by f: those that it holds, or what a stop has saved of them. -/
def State.modMembers (s : State) (part lid : Nat) (f : Core → Core) : State :=
  match s.launch? part lid with
  | some l =>
    if l.holds then l.cores.foldl (fun s cn => s.modCore cn f) s
    else s.modLaunch part lid fun l => { l with saved := l.saved.map fun (cn, c) => (cn, f c) }
  | none => s

/-- Core cn is asked to stop; a core on which a divergence's stop has landed already reports at once (R426, R427). -/
def State.requestStop (s : State) (cn : Nat) : State :=
  let k := (s.core cn).control
  let s := s.modCore cn fun c => { c with control := { c.control with dstop := true, dreq := true } }
  if k.dlanded && !k.dreq then s.async cn { cause := 0xA3 } else s

/-- A core that a stop has saved is asked to stop: the stop lands, and is reported, once the launch is resumed (R427). -/
def Core.stopLater (c : Core) : Core :=
  { c with control := { c.control with dstop := true, dreq := true, dlanded := c.control.dlanded && c.control.dreq } }

/-- A LID is written to DSTOP of partition p (R424, R427). -/
def State.dstopTo (s : State) (p : Nat) (lid : BitVec 32) : State :=
  let s : State := { s with debugBlocks := SMap.put s.debugBlocks p { s.debugOf p with dstop := lid } }
  match s.launch? p lid.toNat with
  | some l => if l.holds then l.cores.foldl (fun s cn => s.requestStop cn) s else s.modMembers p lid.toNat Core.stopLater
  | none => s

/-- DSTOP_WRITE (R427). -/
def execDstopWrite (p : BitVec 4) (lid : BitVec 32) (s : State) : Out := .next (s.dstopTo p.toNat lid)

/-- DEBUG_STOP (R427): the stop lands once no activation context is live and unblocked; CT receives DEBUG_STOP where DSTOP
asked for it, and REPLAY_DIVERGE after a divergence (R426). -/
def execDebugStop (cn : CoreNo) (s : State) : Out :=
  let n := cn.toNat
  let c := (s.core n).control
  if c.dstop && !c.dlanded && !(span 1 10).any fun k => s.unblocked n k then
    let s := s.modCore n fun c => { c with control := { c.control with dlanded := true } }
    let s := if c.diverged then s.async n { cause := 0xA4 } else s
    .next (if c.dreq then s.async n { cause := 0xA3 } else s)
  else .refused .notEnabled

/-- A LID is written to DREL of partition p: placement, selection and issue restart; a core that has diverged waits for its
tret (R424, R426, R427). -/
def State.drelTo (s : State) (p : Nat) (lid : BitVec 32) : State :=
  let s : State := { s with debugBlocks := SMap.put s.debugBlocks p { s.debugOf p with drel := lid } }
  s.modMembers p lid.toNat fun c =>
    if c.control.diverged then { c with control := { c.control with dreq := false } }
    else { c with control := { c.control with dstop := false, dlanded := false, dreq := false } }

/-- DREL_WRITE (R427). -/
def execDrelWrite (p : BitVec 4) (lid : BitVec 32) (s : State) : Out := .next (s.drelTo p.toNat lid)

/-! ### Partition descriptors (R395) -/

/-- Two descriptors share a cluster or an ASID. -/
def sharesWith (a b : List Word) : Bool :=
  wbit (a.getD 2 0) 63 && wbit (b.getD 2 0) 63 &&
  (a.getD 0 0 &&& b.getD 0 0 != 0 || a.getD 1 0 &&& b.getD 1 0 != 0 || wfld (a.getD 2 0) 0 16 == wfld (b.getD 2 0) 0 16)

/-- M may write the descriptor now (R395); a package that is not offered has no partition (R416). -/
def State.mayDescribe (s : State) (p : Nat) (dws : List Word) : Bool :=
  dws.length == 8 && !s.mgmt.withheld && !(s.launches.any fun l => l.part == p && l.state != .completing) &&
  (!s.partEn p || (List.range 64).all fun q => fld (s.qfield p (0x240 + 32 * q + 8) 8) 63 1 == 0) &&
  s.parts.all fun e => e.1 == p || !sharesWith e.2 dws

/-- The queue table's sequencer fields and the partition's indices as they are at setup (R362, R363, R367, R377). -/
def State.setUp (s : State) (p : Nat) : State :=
  let s := ((s.setQfield p 0x018 4 0).setQfield p 0x020 4 1).setQfield p 0x028 4 0
  let s := (List.range 64).foldl (fun s q => s.setQfield p (0x240 + 32 * q + 16) 4 0) s
  { s with lptr := s.lptr.filter fun e => e.1 / 4 != p, cmds := SMap.del s.cmds p, rings := s.rings.filter fun e => e.1 / 16 != p }

/-- PARTITION_DESCRIPTOR_WRITE (R395): a change of ROOT or ASID acts as an invalidation of every entry of the
ASID, of the old one in the cores that the partition had and of the new one in those that it has. -/
def execPartitionDescriptorWrite (p : BitVec 4) (dws : List Word) (s : State) : Out :=
  let n := p.toNat
  if !s.mayDescribe n dws then .refused .notEnabled
  else
    let old := s.partEn n
    let moved := s.asid n != wfld (dws.getD 2 0) 0 16 || wfld (s.partDw n 3) 12 34 != wfld (dws.getD 3 0) 12 34
    let drop (s : State) : State := if moved then s.invalidate n none else s
    let s := drop s
    let s := drop { s with parts := SMap.put s.parts n dws }
    .next (if !old && wbit (dws.getD 2 0) 63 then s.setUp n else s)

end Sys2Proof.Machine
end

