-- ==== Sys2Proof/Machine/Dispatch.lean ====
section
/-! DEFINITION. The dispatch of every instruction and event to its meaning. -/

namespace Sys2Proof.Machine

/-- What an instruction or event does. -/
def exec (i : Instr) (s : State) : Host.Outcome State Fault Refusal :=
  match i with
  | .add st d a b => Sys2Proof.Machine.execAdd st d a b s
  | .sub st d a b => Sys2Proof.Machine.execSub st d a b s
  | .and st d a b => Sys2Proof.Machine.execAnd st d a b s
  | .or st d a b => Sys2Proof.Machine.execOr st d a b s
  | .xor st d a b => Sys2Proof.Machine.execXor st d a b s
  | .andn st d a b => Sys2Proof.Machine.execAndn st d a b s
  | .sll st d a b => Sys2Proof.Machine.execSll st d a b s
  | .srl st d a b => Sys2Proof.Machine.execSrl st d a b s
  | .sra st d a b => Sys2Proof.Machine.execSra st d a b s
  | .rol st d a b => Sys2Proof.Machine.execRol st d a b s
  | .ror st d a b => Sys2Proof.Machine.execRor st d a b s
  | .slt st d a b => Sys2Proof.Machine.execSlt st d a b s
  | .sltu st d a b => Sys2Proof.Machine.execSltu st d a b s
  | .seq st d a b => Sys2Proof.Machine.execSeq st d a b s
  | .min st d a b => Sys2Proof.Machine.execMin st d a b s
  | .max st d a b => Sys2Proof.Machine.execMax st d a b s
  | .minu st d a b => Sys2Proof.Machine.execMinu st d a b s
  | .maxu st d a b => Sys2Proof.Machine.execMaxu st d a b s
  | .mul st d a b => Sys2Proof.Machine.execMul st d a b s
  | .mulh st d a b => Sys2Proof.Machine.execMulh st d a b s
  | .mulhu st d a b => Sys2Proof.Machine.execMulhu st d a b s
  | .div st d a b => Sys2Proof.Machine.execDiv st d a b s
  | .divu st d a b => Sys2Proof.Machine.execDivu st d a b s
  | .rem st d a b => Sys2Proof.Machine.execRem st d a b s
  | .remu st d a b => Sys2Proof.Machine.execRemu st d a b s
  | .clz st d a => Sys2Proof.Machine.execClz st d a s
  | .ctz st d a => Sys2Proof.Machine.execCtz st d a s
  | .popc st d a => Sys2Proof.Machine.execPopc st d a s
  | .bext st d a b => Sys2Proof.Machine.execBext st d a b s
  | .bins st d a b => Sys2Proof.Machine.execBins st d a b s
  | .bswap st d a => Sys2Proof.Machine.execBswap st d a s
  | .sext st d a b => Sys2Proof.Machine.execSext st d a b s
  | .addi st d a im => Sys2Proof.Machine.execAddi st d a im s
  | .andi st d a im => Sys2Proof.Machine.execAndi st d a im s
  | .ori st d a im => Sys2Proof.Machine.execOri st d a im s
  | .xori st d a im => Sys2Proof.Machine.execXori st d a im s
  | .slti st d a im => Sys2Proof.Machine.execSlti st d a im s
  | .slli st d a h => Sys2Proof.Machine.execSlli st d a h s
  | .srli st d a h => Sys2Proof.Machine.execSrli st d a h s
  | .srai st d a h => Sys2Proof.Machine.execSrai st d a h s
  | .rori st d a h => Sys2Proof.Machine.execRori st d a h s
  | .lih st d a im => Sys2Proof.Machine.execLih st d a im s
  | .adpc st d im => Sys2Proof.Machine.execAdpc st d im s
  | .ldc st d c => Sys2Proof.Machine.execLdc st d c s
  | .ldcx st d a c => Sys2Proof.Machine.execLdcx st d a c s
  | .addc st d a c => Sys2Proof.Machine.execAddc st d a c s
  | .eldc st d c => Sys2Proof.Machine.execEldc st d c s
  | .vldc st d c => Sys2Proof.Machine.execVldc st d c s
  | .beqz st a o => Sys2Proof.Machine.execBeqz st a o s
  | .bnez st a o => Sys2Proof.Machine.execBnez st a o s
  | .bltz st a o => Sys2Proof.Machine.execBltz st a o s
  | .bgez st a o => Sys2Proof.Machine.execBgez st a o s
  | .bgtz st a o => Sys2Proof.Machine.execBgtz st a o s
  | .blez st a o => Sys2Proof.Machine.execBlez st a o s
  | .bpany st a o => Sys2Proof.Machine.execBpany st a o s
  | .bpnone st a o => Sys2Proof.Machine.execBpnone st a o s
  | .br st o => Sys2Proof.Machine.execBr st o s
  | .call st o => Sys2Proof.Machine.execCall st o s
  | .jr st a => Sys2Proof.Machine.execJr st a s
  | .callr st a => Sys2Proof.Machine.execCallr st a s
  | .ret st => Sys2Proof.Machine.execRet st s
  | .exit st => Sys2Proof.Machine.execExit st s
  | .start st d a b => Sys2Proof.Machine.execStart st d a b s
  | .park st d a => Sys2Proof.Machine.execPark st d a s
  | .yield st => Sys2Proof.Machine.execYield st s
  | .setpri st a b => Sys2Proof.Machine.execSetpri st a b s
  | .chmset st d a => Sys2Proof.Machine.execChmset st d a s
  | .chmclr st d a => Sys2Proof.Machine.execChmclr st d a s
  | .qrd st d q => Sys2Proof.Machine.execQrd st d q s
  | .qwr st q a => Sys2Proof.Machine.execQwr st q a s
  | .recvany st d a b => Sys2Proof.Machine.execRecvany st d a b s
  | .recvanyT st d a b => Sys2Proof.Machine.execRecvanyT st d a b s
  | .ewr st d a => Sys2Proof.Machine.execEwr st d a s
  | .erd st d a => Sys2Proof.Machine.execErd st d a s
  | .rds st d n => Sys2Proof.Machine.execRds st d n s
  | .wrs st a n => Sys2Proof.Machine.execWrs st a n s
  | .copyGo st d => Sys2Proof.Machine.execCopyGo st d s
  | .pfx st f p g q r t => Sys2Proof.Machine.execPfx st f p g q r t s
  | .nop st h => Sys2Proof.Machine.execNop st h s
  | .ldb st d a im => Sys2Proof.Machine.execLdb st d a im s
  | .ldbu st d a im => Sys2Proof.Machine.execLdbu st d a im s
  | .ldh st d a im => Sys2Proof.Machine.execLdh st d a im s
  | .ldhu st d a im => Sys2Proof.Machine.execLdhu st d a im s
  | .ldw st d a im => Sys2Proof.Machine.execLdw st d a im s
  | .ldwu st d a im => Sys2Proof.Machine.execLdwu st d a im s
  | .ldd st d a im => Sys2Proof.Machine.execLdd st d a im s
  | .stb st d a im => Sys2Proof.Machine.execStb st d a im s
  | .sth st d a im => Sys2Proof.Machine.execSth st d a im s
  | .stw st d a im => Sys2Proof.Machine.execStw st d a im s
  | .std st d a im => Sys2Proof.Machine.execStd st d a im s
  | .ldxb st d a b => Sys2Proof.Machine.execLdxb st d a b s
  | .ldxbu st d a b => Sys2Proof.Machine.execLdxbu st d a b s
  | .ldxh st d a b => Sys2Proof.Machine.execLdxh st d a b s
  | .ldxhu st d a b => Sys2Proof.Machine.execLdxhu st d a b s
  | .ldxw st d a b => Sys2Proof.Machine.execLdxw st d a b s
  | .ldxwu st d a b => Sys2Proof.Machine.execLdxwu st d a b s
  | .ldxd st d a b => Sys2Proof.Machine.execLdxd st d a b s
  | .stxb st d a b => Sys2Proof.Machine.execStxb st d a b s
  | .stxh st d a b => Sys2Proof.Machine.execStxh st d a b s
  | .stxw st d a b => Sys2Proof.Machine.execStxw st d a b s
  | .stxd st d a b => Sys2Proof.Machine.execStxd st d a b s
  | .bld st d n b => Sys2Proof.Machine.execBld st d n b s
  | .bst st d n b => Sys2Proof.Machine.execBst st d n b s
  | .bldI st d n w => Sys2Proof.Machine.execBldI st d n w s
  | .bstI st d n w => Sys2Proof.Machine.execBstI st d n w s
  | .bpset st n a => Sys2Proof.Machine.execBpset st n a s
  | .bprd st d n => Sys2Proof.Machine.execBprd st d n s
  | .bpadd st n a => Sys2Proof.Machine.execBpadd st n a s
  | .gldb st d a b => Sys2Proof.Machine.execGldb st d a b s
  | .gldh st d a b => Sys2Proof.Machine.execGldh st d a b s
  | .gldw st d a b => Sys2Proof.Machine.execGldw st d a b s
  | .gldd st d a b => Sys2Proof.Machine.execGldd st d a b s
  | .gstb st d a b => Sys2Proof.Machine.execGstb st d a b s
  | .gsth st d a b => Sys2Proof.Machine.execGsth st d a b s
  | .gstw st d a b => Sys2Proof.Machine.execGstw st d a b s
  | .gstd st d a b => Sys2Proof.Machine.execGstd st d a b s
  | .sptst st d a => Sys2Proof.Machine.execSptst st d a s
  | .spcst st d a c => Sys2Proof.Machine.execSpcst st d a c s
  | .spmk st d a b => Sys2Proof.Machine.execSpmk st d a b s
  | .iflush st a b => Sys2Proof.Machine.execIflush st a b s
  | .vld st d a p z => Sys2Proof.Machine.execVld st d a p z s
  | .vst st d a p => Sys2Proof.Machine.execVst st d a p s
  | .vlds st d a b p z => Sys2Proof.Machine.execVlds st d a b p z s
  | .vsts st d a b p => Sys2Proof.Machine.execVsts st d a b p s
  | .vldg st d a b p z => Sys2Proof.Machine.execVldg st d a b p z s
  | .vstsc st d a b p => Sys2Proof.Machine.execVstsc st d a b p s
  | .vadd st d a b p z => Sys2Proof.Machine.execVadd st d a b p z s
  | .vsub st d a b p z => Sys2Proof.Machine.execVsub st d a b p z s
  | .vmul st d a b p z => Sys2Proof.Machine.execVmul st d a b p z s
  | .vfma st d a b p z => Sys2Proof.Machine.execVfma st d a b p z s
  | .vfms st d a b p z => Sys2Proof.Machine.execVfms st d a b p z s
  | .vfnma st d a b p z => Sys2Proof.Machine.execVfnma st d a b p z s
  | .vmin st d a b p z => Sys2Proof.Machine.execVmin st d a b p z s
  | .vmax st d a b p z => Sys2Proof.Machine.execVmax st d a b p z s
  | .vdiv st d a b p z => Sys2Proof.Machine.execVdiv st d a b p z s
  | .vsqrt st d a p z => Sys2Proof.Machine.execVsqrt st d a p z s
  | .vexp2 st d a p z => Sys2Proof.Machine.execVexp2 st d a p z s
  | .vlog2 st d a p z => Sys2Proof.Machine.execVlog2 st d a p z s
  | .vrcpe st d a p z => Sys2Proof.Machine.execVrcpe st d a p z s
  | .vrsqe st d a p z => Sys2Proof.Machine.execVrsqe st d a p z s
  | .vabs st d a p z => Sys2Proof.Machine.execVabs st d a p z s
  | .vneg st d a p z => Sys2Proof.Machine.execVneg st d a p z s
  | .vcmpeq st d a b p z => Sys2Proof.Machine.execVcmpeq st d a b p z s
  | .vcmpne st d a b p z => Sys2Proof.Machine.execVcmpne st d a b p z s
  | .vcmplt st d a b p z => Sys2Proof.Machine.execVcmplt st d a b p z s
  | .vcmple st d a b p z => Sys2Proof.Machine.execVcmple st d a b p z s
  | .vcmpun st d a b p z => Sys2Proof.Machine.execVcmpun st d a b p z s
  | .vsel st d a b p => Sys2Proof.Machine.execVsel st d a b p s
  | .vcpsgn st d a b p z => Sys2Proof.Machine.execVcpsgn st d a b p z s
  | .vrint st d a p z => Sys2Proof.Machine.execVrint st d a p z s
  | .viadd st d a b p z => Sys2Proof.Machine.execViadd st d a b p z s
  | .visub st d a b p z => Sys2Proof.Machine.execVisub st d a b p z s
  | .vimul st d a b p z => Sys2Proof.Machine.execVimul st d a b p z s
  | .vimin st d a b p z => Sys2Proof.Machine.execVimin st d a b p z s
  | .vimax st d a b p z => Sys2Proof.Machine.execVimax st d a b p z s
  | .viminu st d a b p z => Sys2Proof.Machine.execViminu st d a b p z s
  | .vimaxu st d a b p z => Sys2Proof.Machine.execVimaxu st d a b p z s
  | .viabs st d a p z => Sys2Proof.Machine.execViabs st d a p z s
  | .vand st d a b p z => Sys2Proof.Machine.execVand st d a b p z s
  | .vor st d a b p z => Sys2Proof.Machine.execVor st d a b p z s
  | .vxor st d a b p z => Sys2Proof.Machine.execVxor st d a b p z s
  | .vandn st d a b p z => Sys2Proof.Machine.execVandn st d a b p z s
  | .vshl st d a b p z => Sys2Proof.Machine.execVshl st d a b p z s
  | .vshr st d a b p z => Sys2Proof.Machine.execVshr st d a b p z s
  | .vsar st d a b p z => Sys2Proof.Machine.execVsar st d a b p z s
  | .viaddsat st d a b p z => Sys2Proof.Machine.execViaddsat st d a b p z s
  | .vicmpeq st d a b p z => Sys2Proof.Machine.execVicmpeq st d a b p z s
  | .vicmpne st d a b p z => Sys2Proof.Machine.execVicmpne st d a b p z s
  | .vicmplt st d a b p z => Sys2Proof.Machine.execVicmplt st d a b p z s
  | .vicmpltu st d a b p z => Sys2Proof.Machine.execVicmpltu st d a b p z s
  | .vicmple st d a b p z => Sys2Proof.Machine.execVicmple st d a b p z s
  | .vicmpleu st d a b p z => Sys2Proof.Machine.execVicmpleu st d a b p z s
  | .vimulh st d a b p z => Sys2Proof.Machine.execVimulh st d a b p z s
  | .vimulhu st d a b p z => Sys2Proof.Machine.execVimulhu st d a b p z s
  | .vperm st d a b p z => Sys2Proof.Machine.execVperm st d a b p z s
  | .vslideup st d a b p z => Sys2Proof.Machine.execVslideup st d a b p z s
  | .vslidedn st d a b p z => Sys2Proof.Machine.execVslidedn st d a b p z s
  | .vbcast st d a p z => Sys2Proof.Machine.execVbcast st d a p z s
  | .vext st d a b => Sys2Proof.Machine.execVext st d a b s
  | .vins st d a b => Sys2Proof.Machine.execVins st d a b s
  | .vzip st d a b p z => Sys2Proof.Machine.execVzip st d a b p z s
  | .vunzip st d a b p z => Sys2Proof.Machine.execVunzip st d a b p z s
  | .vredadd st d a p => Sys2Proof.Machine.execVredadd st d a p s
  | .vredmax st d a p => Sys2Proof.Machine.execVredmax st d a p s
  | .vredmin st d a p => Sys2Proof.Machine.execVredmin st d a p s
  | .viredadd st d a p => Sys2Proof.Machine.execViredadd st d a p s
  | .viredmax st d a p => Sys2Proof.Machine.execViredmax st d a p s
  | .viredmin st d a p => Sys2Proof.Machine.execViredmin st d a p s
  | .vredand st d a p => Sys2Proof.Machine.execVredand st d a p s
  | .vredor st d a p => Sys2Proof.Machine.execVredor st d a p s
  | .vcvt st d a p z => Sys2Proof.Machine.execVcvt st d a p z s
  | .vcvtfi st d a p z => Sys2Proof.Machine.execVcvtfi st d a p z s
  | .vcvtif st d a p z => Sys2Proof.Machine.execVcvtif st d a p z s
  | .vnarrow st d a p z => Sys2Proof.Machine.execVnarrow st d a p z s
  | .vwiden st d a p z => Sys2Proof.Machine.execVwiden st d a p z s
  | .vrand st d a p z => Sys2Proof.Machine.execVrand st d a p z s
  | .dmask st d a b p z => Sys2Proof.Machine.execDmask st d a b p z s
  | .vmov st d a p z => Sys2Proof.Machine.execVmov st d a p z s
  | .pand st d a b => Sys2Proof.Machine.execPand st d a b s
  | .por st d a b => Sys2Proof.Machine.execPor st d a b s
  | .pxor st d a b => Sys2Proof.Machine.execPxor st d a b s
  | .pandn st d a b => Sys2Proof.Machine.execPandn st d a b s
  | .pnot st d a => Sys2Proof.Machine.execPnot st d a s
  | .pmov st d a => Sys2Proof.Machine.execPmov st d a s
  | .pget st d a => Sys2Proof.Machine.execPget st d a s
  | .pcnt st d a => Sys2Proof.Machine.execPcnt st d a s
  | .pfirst st d a => Sys2Proof.Machine.execPfirst st d a s
  | .rand st d a => Sys2Proof.Machine.execRand st d a s
  | .qnt st d a e => Sys2Proof.Machine.execQnt st d a e s
  | .qntb st d a e => Sys2Proof.Machine.execQntb st d a e s
  | .dqnt st d a e => Sys2Proof.Machine.execDqnt st d a e s
  | .strd st d e => Sys2Proof.Machine.execStrd st d e s
  | .stclr st e => Sys2Proof.Machine.execStclr st e s
  | .stfrz st e => Sys2Proof.Machine.execStfrz st e s
  | .stsync st c => Sys2Proof.Machine.execStsync st c s
  | .vstS st d a e => Sys2Proof.Machine.execVstS st d a e s
  | .vstsS st d a b e => Sys2Proof.Machine.execVstsS st d a b e s
  | .vstscS st d a b e => Sys2Proof.Machine.execVstscS st d a b e s
  | .oclm st d a => Sys2Proof.Machine.execOclm st d a s
  | .orel st a => Sys2Proof.Machine.execOrel st a s
  | .old st o a b e => Sys2Proof.Machine.execOld st o a b e s
  | .mma st d o q e => Sys2Proof.Machine.execMma st d o q e s
  | .mmaZ st d o q e => Sys2Proof.Machine.execMmaZ st d o q e s
  | .ard st d a b => Sys2Proof.Machine.execArd st d a b s
  | .asto st d a b e => Sys2Proof.Machine.execAsto st d a b e s
  | .arel st a => Sys2Proof.Machine.execArel st a s
  | .send st d a b c => Sys2Proof.Machine.execSend st d a b c s
  | .sendhost st d a b c => Sys2Proof.Machine.execSendhost st d a b c s
  | .put st d a b c => Sys2Proof.Machine.execPut st d a b c s
  | .rfadd st d a b c => Sys2Proof.Machine.execRfadd st d a b c s
  | .rfaddT st d a b c => Sys2Proof.Machine.execRfaddT st d a b c s
  | .vfaddT st d a b c => Sys2Proof.Machine.execVfaddT st d a b c s
  | .tsopen st d a c => Sys2Proof.Machine.execTsopen st d a c s
  | .tsclose st d a c => Sys2Proof.Machine.execTsclose st d a c s
  | .tskip st d a b c => Sys2Proof.Machine.execTskip st d a b c s
  | .tdrain st a c => Sys2Proof.Machine.execTdrain st a c s
  | .halo st d a b c => Sys2Proof.Machine.execHalo st d a b c s
  | .zwatch st d a b => Sys2Proof.Machine.execZwatch st d a b s
  | .aaddW st d a b c => Sys2Proof.Machine.execAaddW st d a b c s
  | .aaddfW st d a b c => Sys2Proof.Machine.execAaddfW st d a b c s
  | .asminW st d a b c => Sys2Proof.Machine.execAsminW st d a b c s
  | .asminfW st d a b c => Sys2Proof.Machine.execAsminfW st d a b c s
  | .asmaxW st d a b c => Sys2Proof.Machine.execAsmaxW st d a b c s
  | .asmaxfW st d a b c => Sys2Proof.Machine.execAsmaxfW st d a b c s
  | .auminW st d a b c => Sys2Proof.Machine.execAuminW st d a b c s
  | .auminfW st d a b c => Sys2Proof.Machine.execAuminfW st d a b c s
  | .aumaxW st d a b c => Sys2Proof.Machine.execAumaxW st d a b c s
  | .aumaxfW st d a b c => Sys2Proof.Machine.execAumaxfW st d a b c s
  | .aandW st d a b c => Sys2Proof.Machine.execAandW st d a b c s
  | .aandfW st d a b c => Sys2Proof.Machine.execAandfW st d a b c s
  | .aorW st d a b c => Sys2Proof.Machine.execAorW st d a b c s
  | .aorfW st d a b c => Sys2Proof.Machine.execAorfW st d a b c s
  | .axorW st d a b c => Sys2Proof.Machine.execAxorW st d a b c s
  | .axorfW st d a b c => Sys2Proof.Machine.execAxorfW st d a b c s
  | .aswapW st d a b c => Sys2Proof.Machine.execAswapW st d a b c s
  | .acasW st d a b c => Sys2Proof.Machine.execAcasW st d a b c s
  | .aaddD st d a b c => Sys2Proof.Machine.execAaddD st d a b c s
  | .aaddfD st d a b c => Sys2Proof.Machine.execAaddfD st d a b c s
  | .asminD st d a b c => Sys2Proof.Machine.execAsminD st d a b c s
  | .asminfD st d a b c => Sys2Proof.Machine.execAsminfD st d a b c s
  | .asmaxD st d a b c => Sys2Proof.Machine.execAsmaxD st d a b c s
  | .asmaxfD st d a b c => Sys2Proof.Machine.execAsmaxfD st d a b c s
  | .auminD st d a b c => Sys2Proof.Machine.execAuminD st d a b c s
  | .auminfD st d a b c => Sys2Proof.Machine.execAuminfD st d a b c s
  | .aumaxD st d a b c => Sys2Proof.Machine.execAumaxD st d a b c s
  | .aumaxfD st d a b c => Sys2Proof.Machine.execAumaxfD st d a b c s
  | .aandD st d a b c => Sys2Proof.Machine.execAandD st d a b c s
  | .aandfD st d a b c => Sys2Proof.Machine.execAandfD st d a b c s
  | .aorD st d a b c => Sys2Proof.Machine.execAorD st d a b c s
  | .aorfD st d a b c => Sys2Proof.Machine.execAorfD st d a b c s
  | .axorD st d a b c => Sys2Proof.Machine.execAxorD st d a b c s
  | .axorfD st d a b c => Sys2Proof.Machine.execAxorfD st d a b c s
  | .aswapD st d a b c => Sys2Proof.Machine.execAswapD st d a b c s
  | .acasD st d a b c => Sys2Proof.Machine.execAcasD st d a b c s
  | .arrive st n => Sys2Proof.Machine.execArrive st n s
  | .wait st d n => Sys2Proof.Machine.execWait st d n s
  | .arvdrop st n => Sys2Proof.Machine.execArvdrop st n s
  | .fence st c => Sys2Proof.Machine.execFence st c s
  | .fenceAcq st c => Sys2Proof.Machine.execFenceAcq st c s
  | .fenceRel st c => Sys2Proof.Machine.execFenceRel st c s
  | .fenceSc st c => Sys2Proof.Machine.execFenceSc st c s
  | .genend st => Sys2Proof.Machine.execGenend st s
  | .genq st d q => Sys2Proof.Machine.execGenq st d q s
  | .migrate st d a => Sys2Proof.Machine.execMigrate st d a s
  | .tret st a => Sys2Proof.Machine.execTret st a s
  | .xrd st d a b => Sys2Proof.Machine.execXrd st d a b s
  | .xwr st d a b => Sys2Proof.Machine.execXwr st d a b s
  | .eresume st a => Sys2Proof.Machine.execEresume st a s
  | .eabort st a => Sys2Proof.Machine.execEabort st a s
  | .xinv st a b => Sys2Proof.Machine.execXinv st a b s
  | .cMv d a => Sys2Proof.Machine.execCMv d a s
  | .cAdd d a => Sys2Proof.Machine.execCAdd d a s
  | .cSub d a => Sys2Proof.Machine.execCSub d a s
  | .cAnd d a => Sys2Proof.Machine.execCAnd d a s
  | .cOr d a => Sys2Proof.Machine.execCOr d a s
  | .cXor d a => Sys2Proof.Machine.execCXor d a s
  | .cAddi d im => Sys2Proof.Machine.execCAddi d im s
  | .cLi d im => Sys2Proof.Machine.execCLi d im s
  | .cSlli d h => Sys2Proof.Machine.execCSlli d h s
  | .cSrli d h => Sys2Proof.Machine.execCSrli d h s
  | .cSrai d h => Sys2Proof.Machine.execCSrai d h s
  | .cLd d a => Sys2Proof.Machine.execCLd d a s
  | .cSd d a => Sys2Proof.Machine.execCSd d a s
  | .cBeqz d o => Sys2Proof.Machine.execCBeqz d o s
  | .cBnez d o => Sys2Proof.Machine.execCBnez d o s
  | .cJ o => Sys2Proof.Machine.execCJ o s
  | .cJr a => Sys2Proof.Machine.execCJr a s
  | .cExit => Sys2Proof.Machine.execCExit s
  | .cHint h => Sys2Proof.Machine.execCHint h s
  | .launchRecord p => Sys2Proof.Machine.execLaunchRecord p s
  | .wakeArrival cn => Sys2Proof.Machine.execWakeArrival cn s
  | .selection cn => Sys2Proof.Machine.execSelection cn s
  | .messageArrival im => Sys2Proof.Machine.execMessageArrival im s
  | .heldMessagePlacement cn c => Sys2Proof.Machine.execHeldMessagePlacement cn c s
  | .corePartEnd cn => Sys2Proof.Machine.execCorePartEnd cn s
  | .completionReport im => Sys2Proof.Machine.execCompletionReport im s
  | .launchCompletion p lid => Sys2Proof.Machine.execLaunchCompletion p lid s
  | .rectangleRelease p lid => Sys2Proof.Machine.execRectangleRelease p lid s
  | .stopCmd p => Sys2Proof.Machine.execStopCmd p s
  | .resumeCmd p => Sys2Proof.Machine.execResumeCmd p s
  | .launchResumption p lid => Sys2Proof.Machine.execLaunchResumption p lid s
  | .endCmd p => Sys2Proof.Machine.execEndCmd p s
  | .commandMalformed p => Sys2Proof.Machine.execCommandMalformed p s
  | .transactionCompletion im => Sys2Proof.Machine.execTransactionCompletion im s
  | .replyArrival im => Sys2Proof.Machine.execReplyArrival im s
  | .retryResend im => Sys2Proof.Machine.execRetryResend im s
  | .putAtTarget im => Sys2Proof.Machine.execPutAtTarget im s
  | .atomicAtHome im => Sys2Proof.Machine.execAtomicAtHome im s
  | .fpUpdateAtHome im => Sys2Proof.Machine.execFpUpdateAtHome im s
  | .ticketedUpdateArrival im => Sys2Proof.Machine.execTicketedUpdateArrival im s
  | .copyBlockWrite cn id => Sys2Proof.Machine.execCopyBlockWrite cn id s
  | .copyCompletion cn id => Sys2Proof.Machine.execCopyCompletion cn id s
  | .haloArrival im => Sys2Proof.Machine.execHaloArrival im s
  | .haloAcknowledgement im => Sys2Proof.Machine.execHaloAcknowledgement im s
  | .arbitrationRound o joins => Sys2Proof.Machine.execArbitrationRound o joins s
  | .exhaustionNotice im => Sys2Proof.Machine.execExhaustionNotice im s
  | .congestionNotice cn key => Sys2Proof.Machine.execCongestionNotice cn key s
  | .retransmission im => Sys2Proof.Machine.execRetransmission im s
  | .sutrePacketArrival h payload => Sys2Proof.Machine.execSutrePacketArrival h payload s
  | .accumulatorFlush owner n => Sys2Proof.Machine.execAccumulatorFlush owner n s
  | .flushMerge im => Sys2Proof.Machine.execFlushMerge im s
  | .barrierPhaseCompletion p lid n => Sys2Proof.Machine.execBarrierPhaseCompletion p lid n s
  | .deadlock p lid => Sys2Proof.Machine.execDeadlock p lid s
  | .generationBoundary g => Sys2Proof.Machine.execGenerationBoundary g s
  | .generationResumption g => Sys2Proof.Machine.execGenerationResumption g s
  | .immigrantBatch b => Sys2Proof.Machine.execImmigrantBatch b s
  | .trapEntry cn => Sys2Proof.Machine.execTrapEntry cn s
  | .hostWake cn => Sys2Proof.Machine.execHostWake cn s
  | .pageWalk cn va => Sys2Proof.Machine.execPageWalk cn va s
  | .invalidatePage p => Sys2Proof.Machine.execInvalidatePage p s
  | .invalidateAsid p => Sys2Proof.Machine.execInvalidateAsid p s
  | .invalidateMalformed p => Sys2Proof.Machine.execInvalidateMalformed p s
  | .portRetryExhausted eth port => Sys2Proof.Machine.execPortRetryExhausted eth port s
  | .packageLost pkg => Sys2Proof.Machine.execPackageLost pkg s
  | .meshLinkError a b => Sys2Proof.Machine.execMeshLinkError a b s
  | .machineCheck cn => Sys2Proof.Machine.execMachineCheck cn s
  | .coreHalt cn => Sys2Proof.Machine.execCoreHalt cn s
  | .haltRelease cn => Sys2Proof.Machine.execHaltRelease cn s
  | .matrixEnginePowerDown cn => Sys2Proof.Machine.execMatrixEnginePowerDown cn s
  | .matrixEngineReady cn => Sys2Proof.Machine.execMatrixEngineReady cn s
  | .packageReset => Sys2Proof.Machine.execPackageReset s
  | .unitStart => Sys2Proof.Machine.execUnitStart s
  | .recoveryLoad => Sys2Proof.Machine.execRecoveryLoad s
  | .attestation => Sys2Proof.Machine.execAttestation s
  | .mailboxUnknownCommand => Sys2Proof.Machine.execMailboxUnknownCommand s
  | .hsemRead reads => Sys2Proof.Machine.execHsemRead reads s
  | .hsemWrite port n w => Sys2Proof.Machine.execHsemWrite port n w s
  | .hostLinkReset port => Sys2Proof.Machine.execHostLinkReset port s
  | .dstopWrite p lid => Sys2Proof.Machine.execDstopWrite p lid s
  | .debugStop cn => Sys2Proof.Machine.execDebugStop cn s
  | .drelWrite p lid => Sys2Proof.Machine.execDrelWrite p lid s
  | .recordHomeOperation im => Sys2Proof.Machine.execRecordHomeOperation im s
  | .sequencePartQuery im => Sys2Proof.Machine.execSequencePartQuery im s
  | .fenceScOrderFixed cn k => Sys2Proof.Machine.execFenceScOrderFixed cn k s
  | .partitionDescriptorWrite p dws => Sys2Proof.Machine.execPartitionDescriptorWrite p dws s

end Sys2Proof.Machine
end

