-- ==== Sys2Proof/Decode.lean ====
section
/-! DEFINITION. Reading an instruction from its halfwords (spec 09, R196, R198, R202, R203, R219, R220; spec 17, R356),
and the encoder beside it. Words are natural numbers below 2 ^ 32; a field is fld word low length. -/

noncomputable section

namespace Sys2Proof

/-- What the decoder answers: an instruction with its length in bytes; not allocated (check 1 of R203); or a res0
field that is not zero (check 3). -/
inductive Decoded where
  | ok (i : Instr) (len : Nat)
  | illegal
  | reserved
  deriving DecidableEq, Repr

/-- A row whose res0 fields are zero and whose remaining checks hold is its instruction; otherwise RESERVED_FIELD. -/
def checked (res0 : Bool) (i : Instr) (len : Nat) : Decoded := if res0 && i.wf then .ok i len else .reserved

/-- Major 0x01 by its minor (R219, R220). -/
def decodeMajor01 (w : Nat) : Decoded :=
  match fld w 0 7 with
  | 0 => checked true (.add (.ofNat 3 (fld w 28 3)) (.ofNat 5 (fld w 17 5)) (.ofNat 5 (fld w 12 5)) (.ofNat 5 (fld w 7 5))) 4
  | 1 => checked true (.sub (.ofNat 3 (fld w 28 3)) (.ofNat 5 (fld w 17 5)) (.ofNat 5 (fld w 12 5)) (.ofNat 5 (fld w 7 5))) 4
  | 2 => checked true (.and (.ofNat 3 (fld w 28 3)) (.ofNat 5 (fld w 17 5)) (.ofNat 5 (fld w 12 5)) (.ofNat 5 (fld w 7 5))) 4
  | 3 => checked true (.or (.ofNat 3 (fld w 28 3)) (.ofNat 5 (fld w 17 5)) (.ofNat 5 (fld w 12 5)) (.ofNat 5 (fld w 7 5))) 4
  | 4 => checked true (.xor (.ofNat 3 (fld w 28 3)) (.ofNat 5 (fld w 17 5)) (.ofNat 5 (fld w 12 5)) (.ofNat 5 (fld w 7 5))) 4
  | 5 => checked true (.andn (.ofNat 3 (fld w 28 3)) (.ofNat 5 (fld w 17 5)) (.ofNat 5 (fld w 12 5)) (.ofNat 5 (fld w 7 5))) 4
  | 6 => checked true (.sll (.ofNat 3 (fld w 28 3)) (.ofNat 5 (fld w 17 5)) (.ofNat 5 (fld w 12 5)) (.ofNat 5 (fld w 7 5))) 4
  | 7 => checked true (.srl (.ofNat 3 (fld w 28 3)) (.ofNat 5 (fld w 17 5)) (.ofNat 5 (fld w 12 5)) (.ofNat 5 (fld w 7 5))) 4
  | 8 => checked true (.sra (.ofNat 3 (fld w 28 3)) (.ofNat 5 (fld w 17 5)) (.ofNat 5 (fld w 12 5)) (.ofNat 5 (fld w 7 5))) 4
  | 9 => checked true (.rol (.ofNat 3 (fld w 28 3)) (.ofNat 5 (fld w 17 5)) (.ofNat 5 (fld w 12 5)) (.ofNat 5 (fld w 7 5))) 4
  | 10 => checked true (.ror (.ofNat 3 (fld w 28 3)) (.ofNat 5 (fld w 17 5)) (.ofNat 5 (fld w 12 5)) (.ofNat 5 (fld w 7 5))) 4
  | 11 => checked true (.slt (.ofNat 3 (fld w 28 3)) (.ofNat 5 (fld w 17 5)) (.ofNat 5 (fld w 12 5)) (.ofNat 5 (fld w 7 5))) 4
  | 12 => checked true (.sltu (.ofNat 3 (fld w 28 3)) (.ofNat 5 (fld w 17 5)) (.ofNat 5 (fld w 12 5)) (.ofNat 5 (fld w 7 5))) 4
  | 13 => checked true (.seq (.ofNat 3 (fld w 28 3)) (.ofNat 5 (fld w 17 5)) (.ofNat 5 (fld w 12 5)) (.ofNat 5 (fld w 7 5))) 4
  | 14 => checked true (.min (.ofNat 3 (fld w 28 3)) (.ofNat 5 (fld w 17 5)) (.ofNat 5 (fld w 12 5)) (.ofNat 5 (fld w 7 5))) 4
  | 15 => checked true (.max (.ofNat 3 (fld w 28 3)) (.ofNat 5 (fld w 17 5)) (.ofNat 5 (fld w 12 5)) (.ofNat 5 (fld w 7 5))) 4
  | 16 => checked true (.minu (.ofNat 3 (fld w 28 3)) (.ofNat 5 (fld w 17 5)) (.ofNat 5 (fld w 12 5)) (.ofNat 5 (fld w 7 5))) 4
  | 17 => checked true (.maxu (.ofNat 3 (fld w 28 3)) (.ofNat 5 (fld w 17 5)) (.ofNat 5 (fld w 12 5)) (.ofNat 5 (fld w 7 5))) 4
  | 18 => checked true (.mul (.ofNat 3 (fld w 28 3)) (.ofNat 5 (fld w 17 5)) (.ofNat 5 (fld w 12 5)) (.ofNat 5 (fld w 7 5))) 4
  | 19 => checked true (.mulh (.ofNat 3 (fld w 28 3)) (.ofNat 5 (fld w 17 5)) (.ofNat 5 (fld w 12 5)) (.ofNat 5 (fld w 7 5))) 4
  | 20 => checked true (.mulhu (.ofNat 3 (fld w 28 3)) (.ofNat 5 (fld w 17 5)) (.ofNat 5 (fld w 12 5)) (.ofNat 5 (fld w 7 5))) 4
  | 21 => checked true (.div (.ofNat 3 (fld w 28 3)) (.ofNat 5 (fld w 17 5)) (.ofNat 5 (fld w 12 5)) (.ofNat 5 (fld w 7 5))) 4
  | 22 => checked true (.divu (.ofNat 3 (fld w 28 3)) (.ofNat 5 (fld w 17 5)) (.ofNat 5 (fld w 12 5)) (.ofNat 5 (fld w 7 5))) 4
  | 23 => checked true (.rem (.ofNat 3 (fld w 28 3)) (.ofNat 5 (fld w 17 5)) (.ofNat 5 (fld w 12 5)) (.ofNat 5 (fld w 7 5))) 4
  | 24 => checked true (.remu (.ofNat 3 (fld w 28 3)) (.ofNat 5 (fld w 17 5)) (.ofNat 5 (fld w 12 5)) (.ofNat 5 (fld w 7 5))) 4
  | 25 => checked (fld w 7 5 == 0) (.clz (.ofNat 3 (fld w 28 3)) (.ofNat 5 (fld w 17 5)) (.ofNat 5 (fld w 12 5))) 4
  | 26 => checked (fld w 7 5 == 0) (.ctz (.ofNat 3 (fld w 28 3)) (.ofNat 5 (fld w 17 5)) (.ofNat 5 (fld w 12 5))) 4
  | 27 => checked (fld w 7 5 == 0) (.popc (.ofNat 3 (fld w 28 3)) (.ofNat 5 (fld w 17 5)) (.ofNat 5 (fld w 12 5))) 4
  | 28 => checked true (.bext (.ofNat 3 (fld w 28 3)) (.ofNat 5 (fld w 17 5)) (.ofNat 5 (fld w 12 5)) (.ofNat 5 (fld w 7 5))) 4
  | 29 => checked true (.bins (.ofNat 3 (fld w 28 3)) (.ofNat 5 (fld w 17 5)) (.ofNat 5 (fld w 12 5)) (.ofNat 5 (fld w 7 5))) 4
  | 30 => checked (fld w 7 5 == 0) (.bswap (.ofNat 3 (fld w 28 3)) (.ofNat 5 (fld w 17 5)) (.ofNat 5 (fld w 12 5))) 4
  | 31 => checked true (.sext (.ofNat 3 (fld w 28 3)) (.ofNat 5 (fld w 17 5)) (.ofNat 5 (fld w 12 5)) (.ofNat 5 (fld w 7 5))) 4
  | _ => .illegal

/-- Major 0x07 by its operation, IMM12[11:10] (R228) (R219, R220). -/
def decodeMajor07 (w : Nat) : Decoded :=
  match fld w 10 2 with
  | 0 => checked (fld w 6 4 == 0) (.slli (.ofNat 3 (fld w 28 3)) (.ofNat 5 (fld w 17 5)) (.ofNat 5 (fld w 12 5)) (.ofNat 6 (fld w 0 6))) 4
  | 1 => checked (fld w 6 4 == 0) (.srli (.ofNat 3 (fld w 28 3)) (.ofNat 5 (fld w 17 5)) (.ofNat 5 (fld w 12 5)) (.ofNat 6 (fld w 0 6))) 4
  | 2 => checked (fld w 6 4 == 0) (.srai (.ofNat 3 (fld w 28 3)) (.ofNat 5 (fld w 17 5)) (.ofNat 5 (fld w 12 5)) (.ofNat 6 (fld w 0 6))) 4
  | 3 => checked (fld w 6 4 == 0) (.rori (.ofNat 3 (fld w 28 3)) (.ofNat 5 (fld w 17 5)) (.ofNat 5 (fld w 12 5)) (.ofNat 6 (fld w 0 6))) 4
  | _ => .illegal

/-- Major 0x0A by its minor (R219, R220). -/
def decodeMajor0A (w : Nat) : Decoded :=
  match fld w 0 4 with
  | 0 => checked (fld w 12 5 == 0) (.ldc (.ofNat 3 (fld w 28 3)) (.ofNat 5 (fld w 17 5)) (.ofNat 8 (fld w 4 8))) 4
  | 1 => checked true (.ldcx (.ofNat 3 (fld w 28 3)) (.ofNat 5 (fld w 17 5)) (.ofNat 5 (fld w 12 5)) (.ofNat 8 (fld w 4 8))) 4
  | 2 => checked true (.addc (.ofNat 3 (fld w 28 3)) (.ofNat 5 (fld w 17 5)) (.ofNat 5 (fld w 12 5)) (.ofNat 8 (fld w 4 8))) 4
  | 3 => checked (fld w 12 5 == 0 && fld w 20 2 == 0) (.eldc (.ofNat 3 (fld w 28 3)) (.ofNat 3 (fld w 17 3)) (.ofNat 8 (fld w 4 8))) 4
  | 4 => checked (fld w 12 5 == 0) (.vldc (.ofNat 3 (fld w 28 3)) (.ofNat 5 (fld w 17 5)) (.ofNat 8 (fld w 4 8))) 4
  | _ => .illegal

/-- Major 0x0B by its COND (R201) (R219, R220). -/
def decodeMajor0B (w : Nat) : Decoded :=
  match fld w 19 3 with
  | 0 => checked true (.beqz (.ofNat 3 (fld w 28 3)) (.ofNat 5 (fld w 14 5)) (.ofNat 14 (fld w 0 14))) 4
  | 1 => checked true (.bnez (.ofNat 3 (fld w 28 3)) (.ofNat 5 (fld w 14 5)) (.ofNat 14 (fld w 0 14))) 4
  | 2 => checked true (.bltz (.ofNat 3 (fld w 28 3)) (.ofNat 5 (fld w 14 5)) (.ofNat 14 (fld w 0 14))) 4
  | 3 => checked true (.bgez (.ofNat 3 (fld w 28 3)) (.ofNat 5 (fld w 14 5)) (.ofNat 14 (fld w 0 14))) 4
  | 4 => checked true (.bgtz (.ofNat 3 (fld w 28 3)) (.ofNat 5 (fld w 14 5)) (.ofNat 14 (fld w 0 14))) 4
  | 5 => checked true (.blez (.ofNat 3 (fld w 28 3)) (.ofNat 5 (fld w 14 5)) (.ofNat 14 (fld w 0 14))) 4
  | 6 => checked (fld w 17 2 == 0) (.bpany (.ofNat 3 (fld w 28 3)) (.ofNat 3 (fld w 14 3)) (.ofNat 14 (fld w 0 14))) 4
  | 7 => checked (fld w 17 2 == 0) (.bpnone (.ofNat 3 (fld w 28 3)) (.ofNat 3 (fld w 14 3)) (.ofNat 14 (fld w 0 14))) 4
  | _ => .illegal

/-- Major 0x0E by its minor (R219, R220). -/
def decodeMajor0E (w : Nat) : Decoded :=
  match fld w 0 7 with
  | 0 => checked (fld w 7 5 == 0 && fld w 17 5 == 0) (.jr (.ofNat 3 (fld w 28 3)) (.ofNat 5 (fld w 12 5))) 4
  | 1 => checked (fld w 7 5 == 0 && fld w 17 5 == 0) (.callr (.ofNat 3 (fld w 28 3)) (.ofNat 5 (fld w 12 5))) 4
  | 2 => checked (fld w 7 15 == 0) (.ret (.ofNat 3 (fld w 28 3))) 4
  | 3 => checked (fld w 7 15 == 0) (.exit (.ofNat 3 (fld w 28 3))) 4
  | 4 => checked true (.start (.ofNat 3 (fld w 28 3)) (.ofNat 5 (fld w 17 5)) (.ofNat 5 (fld w 12 5)) (.ofNat 5 (fld w 7 5))) 4
  | 5 => checked (fld w 7 5 == 0) (.park (.ofNat 3 (fld w 28 3)) (.ofNat 5 (fld w 17 5)) (.ofNat 5 (fld w 12 5))) 4
  | 6 => checked (fld w 7 15 == 0) (.yield (.ofNat 3 (fld w 28 3))) 4
  | 7 => checked (fld w 17 5 == 0) (.setpri (.ofNat 3 (fld w 28 3)) (.ofNat 5 (fld w 12 5)) (.ofNat 5 (fld w 7 5))) 4
  | 8 => checked (fld w 7 5 == 0) (.chmset (.ofNat 3 (fld w 28 3)) (.ofNat 5 (fld w 17 5)) (.ofNat 5 (fld w 12 5))) 4
  | 9 => checked (fld w 7 5 == 0) (.chmclr (.ofNat 3 (fld w 28 3)) (.ofNat 5 (fld w 17 5)) (.ofNat 5 (fld w 12 5))) 4
  | 10 => checked (fld w 7 5 == 0 && fld w 14 3 == 0) (.qrd (.ofNat 3 (fld w 28 3)) (.ofNat 5 (fld w 17 5)) (.ofNat 2 (fld w 12 2))) 4
  | 11 => checked (fld w 7 5 == 0 && fld w 19 3 == 0) (.qwr (.ofNat 3 (fld w 28 3)) (.ofNat 2 (fld w 17 2)) (.ofNat 5 (fld w 12 5))) 4
  | 12 => checked true (.recvany (.ofNat 3 (fld w 28 3)) (.ofNat 5 (fld w 17 5)) (.ofNat 5 (fld w 12 5)) (.ofNat 5 (fld w 7 5))) 4
  | 13 => checked true (.recvanyT (.ofNat 3 (fld w 28 3)) (.ofNat 5 (fld w 17 5)) (.ofNat 5 (fld w 12 5)) (.ofNat 5 (fld w 7 5))) 4
  | 14 => checked (fld w 7 5 == 0 && fld w 20 2 == 0) (.ewr (.ofNat 3 (fld w 28 3)) (.ofNat 3 (fld w 17 3)) (.ofNat 5 (fld w 12 5))) 4
  | 15 => checked (fld w 7 5 == 0 && fld w 15 2 == 0) (.erd (.ofNat 3 (fld w 28 3)) (.ofNat 5 (fld w 17 5)) (.ofNat 3 (fld w 12 3))) 4
  | _ => .illegal

/-- Major 0x1E by its minor (R219, R220). -/
def decodeMajor1E (w : Nat) : Decoded :=
  match fld w 0 5 with
  | 0 => checked (fld w 5 2 == 0) (.ldxb (.ofNat 3 (fld w 28 3)) (.ofNat 5 (fld w 17 5)) (.ofNat 5 (fld w 12 5)) (.ofNat 5 (fld w 7 5))) 4
  | 1 => checked (fld w 5 2 == 0) (.ldxbu (.ofNat 3 (fld w 28 3)) (.ofNat 5 (fld w 17 5)) (.ofNat 5 (fld w 12 5)) (.ofNat 5 (fld w 7 5))) 4
  | 2 => checked (fld w 5 2 == 0) (.ldxh (.ofNat 3 (fld w 28 3)) (.ofNat 5 (fld w 17 5)) (.ofNat 5 (fld w 12 5)) (.ofNat 5 (fld w 7 5))) 4
  | 3 => checked (fld w 5 2 == 0) (.ldxhu (.ofNat 3 (fld w 28 3)) (.ofNat 5 (fld w 17 5)) (.ofNat 5 (fld w 12 5)) (.ofNat 5 (fld w 7 5))) 4
  | 4 => checked (fld w 5 2 == 0) (.ldxw (.ofNat 3 (fld w 28 3)) (.ofNat 5 (fld w 17 5)) (.ofNat 5 (fld w 12 5)) (.ofNat 5 (fld w 7 5))) 4
  | 5 => checked (fld w 5 2 == 0) (.ldxwu (.ofNat 3 (fld w 28 3)) (.ofNat 5 (fld w 17 5)) (.ofNat 5 (fld w 12 5)) (.ofNat 5 (fld w 7 5))) 4
  | 6 => checked (fld w 5 2 == 0) (.ldxd (.ofNat 3 (fld w 28 3)) (.ofNat 5 (fld w 17 5)) (.ofNat 5 (fld w 12 5)) (.ofNat 5 (fld w 7 5))) 4
  | 7 => checked (fld w 5 2 == 0) (.stxb (.ofNat 3 (fld w 28 3)) (.ofNat 5 (fld w 17 5)) (.ofNat 5 (fld w 12 5)) (.ofNat 5 (fld w 7 5))) 4
  | 8 => checked (fld w 5 2 == 0) (.stxh (.ofNat 3 (fld w 28 3)) (.ofNat 5 (fld w 17 5)) (.ofNat 5 (fld w 12 5)) (.ofNat 5 (fld w 7 5))) 4
  | 9 => checked (fld w 5 2 == 0) (.stxw (.ofNat 3 (fld w 28 3)) (.ofNat 5 (fld w 17 5)) (.ofNat 5 (fld w 12 5)) (.ofNat 5 (fld w 7 5))) 4
  | 10 => checked (fld w 5 2 == 0) (.stxd (.ofNat 3 (fld w 28 3)) (.ofNat 5 (fld w 17 5)) (.ofNat 5 (fld w 12 5)) (.ofNat 5 (fld w 7 5))) 4
  | 11 => checked (fld w 5 2 == 0 && fld w 14 3 == 0) (.bld (.ofNat 3 (fld w 28 3)) (.ofNat 5 (fld w 17 5)) (.ofNat 2 (fld w 12 2)) (.ofNat 5 (fld w 7 5))) 4
  | 12 => checked (fld w 5 2 == 0 && fld w 14 3 == 0) (.bst (.ofNat 3 (fld w 28 3)) (.ofNat 5 (fld w 17 5)) (.ofNat 2 (fld w 12 2)) (.ofNat 5 (fld w 7 5))) 4
  | 13 => checked (fld w 5 2 == 0 && fld w 14 3 == 0) (.bldI (.ofNat 3 (fld w 28 3)) (.ofNat 5 (fld w 17 5)) (.ofNat 2 (fld w 12 2)) (.ofNat 5 (fld w 7 5))) 4
  | 14 => checked (fld w 5 2 == 0 && fld w 14 3 == 0) (.bstI (.ofNat 3 (fld w 28 3)) (.ofNat 5 (fld w 17 5)) (.ofNat 2 (fld w 12 2)) (.ofNat 5 (fld w 7 5))) 4
  | 15 => checked (fld w 5 7 == 0 && fld w 19 3 == 0) (.bpset (.ofNat 3 (fld w 28 3)) (.ofNat 2 (fld w 17 2)) (.ofNat 5 (fld w 12 5))) 4
  | 16 => checked (fld w 5 7 == 0 && fld w 14 3 == 0) (.bprd (.ofNat 3 (fld w 28 3)) (.ofNat 5 (fld w 17 5)) (.ofNat 2 (fld w 12 2))) 4
  | 17 => checked (fld w 5 7 == 0 && fld w 19 3 == 0) (.bpadd (.ofNat 3 (fld w 28 3)) (.ofNat 2 (fld w 17 2)) (.ofNat 5 (fld w 12 5))) 4
  | 18 => checked (fld w 5 2 == 0) (.gldb (.ofNat 3 (fld w 28 3)) (.ofNat 5 (fld w 17 5)) (.ofNat 5 (fld w 12 5)) (.ofNat 5 (fld w 7 5))) 4
  | 19 => checked (fld w 5 2 == 0) (.gldh (.ofNat 3 (fld w 28 3)) (.ofNat 5 (fld w 17 5)) (.ofNat 5 (fld w 12 5)) (.ofNat 5 (fld w 7 5))) 4
  | 20 => checked (fld w 5 2 == 0) (.gldw (.ofNat 3 (fld w 28 3)) (.ofNat 5 (fld w 17 5)) (.ofNat 5 (fld w 12 5)) (.ofNat 5 (fld w 7 5))) 4
  | 21 => checked (fld w 5 2 == 0) (.gldd (.ofNat 3 (fld w 28 3)) (.ofNat 5 (fld w 17 5)) (.ofNat 5 (fld w 12 5)) (.ofNat 5 (fld w 7 5))) 4
  | 22 => checked (fld w 5 2 == 0) (.gstb (.ofNat 3 (fld w 28 3)) (.ofNat 5 (fld w 17 5)) (.ofNat 5 (fld w 12 5)) (.ofNat 5 (fld w 7 5))) 4
  | 23 => checked (fld w 5 2 == 0) (.gsth (.ofNat 3 (fld w 28 3)) (.ofNat 5 (fld w 17 5)) (.ofNat 5 (fld w 12 5)) (.ofNat 5 (fld w 7 5))) 4
  | 24 => checked (fld w 5 2 == 0) (.gstw (.ofNat 3 (fld w 28 3)) (.ofNat 5 (fld w 17 5)) (.ofNat 5 (fld w 12 5)) (.ofNat 5 (fld w 7 5))) 4
  | 25 => checked (fld w 5 2 == 0) (.gstd (.ofNat 3 (fld w 28 3)) (.ofNat 5 (fld w 17 5)) (.ofNat 5 (fld w 12 5)) (.ofNat 5 (fld w 7 5))) 4
  | 26 => checked (fld w 5 7 == 0) (.sptst (.ofNat 3 (fld w 28 3)) (.ofNat 5 (fld w 17 5)) (.ofNat 5 (fld w 12 5))) 4
  | 27 => checked (fld w 5 2 == 0 && fld w 10 2 == 0) (.spcst (.ofNat 3 (fld w 28 3)) (.ofNat 5 (fld w 17 5)) (.ofNat 5 (fld w 12 5)) (.ofNat 3 (fld w 7 3))) 4
  | 28 => checked (fld w 5 2 == 0) (.spmk (.ofNat 3 (fld w 28 3)) (.ofNat 5 (fld w 17 5)) (.ofNat 5 (fld w 12 5)) (.ofNat 5 (fld w 7 5))) 4
  | 29 => checked (fld w 5 2 == 0 && fld w 17 5 == 0) (.iflush (.ofNat 3 (fld w 28 3)) (.ofNat 5 (fld w 12 5)) (.ofNat 5 (fld w 7 5))) 4
  | _ => .illegal

/-- Major 0x1F by its minor (R219, R220). -/
def decodeMajor1F (w : Nat) : Decoded :=
  match fld w 0 3 with
  | 0 => checked (fld w 7 5 == 0) (.vld (.ofNat 3 (fld w 28 3)) (.ofNat 5 (fld w 17 5)) (.ofNat 5 (fld w 12 5)) (.ofNat 3 (fld w 4 3)) (.ofNat 1 (fld w 3 1))) 4
  | 1 => checked (fld w 3 1 == 0 && fld w 7 5 == 0) (.vst (.ofNat 3 (fld w 28 3)) (.ofNat 5 (fld w 17 5)) (.ofNat 5 (fld w 12 5)) (.ofNat 3 (fld w 4 3))) 4
  | 2 => checked true (.vlds (.ofNat 3 (fld w 28 3)) (.ofNat 5 (fld w 17 5)) (.ofNat 5 (fld w 12 5)) (.ofNat 5 (fld w 7 5)) (.ofNat 3 (fld w 4 3)) (.ofNat 1 (fld w 3 1))) 4
  | 3 => checked (fld w 3 1 == 0) (.vsts (.ofNat 3 (fld w 28 3)) (.ofNat 5 (fld w 17 5)) (.ofNat 5 (fld w 12 5)) (.ofNat 5 (fld w 7 5)) (.ofNat 3 (fld w 4 3))) 4
  | 4 => checked true (.vldg (.ofNat 3 (fld w 28 3)) (.ofNat 5 (fld w 17 5)) (.ofNat 5 (fld w 12 5)) (.ofNat 5 (fld w 7 5)) (.ofNat 3 (fld w 4 3)) (.ofNat 1 (fld w 3 1))) 4
  | 5 => checked (fld w 3 1 == 0) (.vstsc (.ofNat 3 (fld w 28 3)) (.ofNat 5 (fld w 17 5)) (.ofNat 5 (fld w 12 5)) (.ofNat 5 (fld w 7 5)) (.ofNat 3 (fld w 4 3))) 4
  | _ => .illegal

/-- Major 0x20 by its minor (R219, R220). -/
def decodeMajor20 (w : Nat) : Decoded :=
  match fld w 0 3 with
  | 0 => checked true (.vadd (.ofNat 3 (fld w 28 3)) (.ofNat 5 (fld w 17 5)) (.ofNat 5 (fld w 12 5)) (.ofNat 5 (fld w 7 5)) (.ofNat 3 (fld w 4 3)) (.ofNat 1 (fld w 3 1))) 4
  | 1 => checked true (.vsub (.ofNat 3 (fld w 28 3)) (.ofNat 5 (fld w 17 5)) (.ofNat 5 (fld w 12 5)) (.ofNat 5 (fld w 7 5)) (.ofNat 3 (fld w 4 3)) (.ofNat 1 (fld w 3 1))) 4
  | 2 => checked true (.vmul (.ofNat 3 (fld w 28 3)) (.ofNat 5 (fld w 17 5)) (.ofNat 5 (fld w 12 5)) (.ofNat 5 (fld w 7 5)) (.ofNat 3 (fld w 4 3)) (.ofNat 1 (fld w 3 1))) 4
  | 3 => checked true (.vfma (.ofNat 3 (fld w 28 3)) (.ofNat 5 (fld w 17 5)) (.ofNat 5 (fld w 12 5)) (.ofNat 5 (fld w 7 5)) (.ofNat 3 (fld w 4 3)) (.ofNat 1 (fld w 3 1))) 4
  | 4 => checked true (.vfms (.ofNat 3 (fld w 28 3)) (.ofNat 5 (fld w 17 5)) (.ofNat 5 (fld w 12 5)) (.ofNat 5 (fld w 7 5)) (.ofNat 3 (fld w 4 3)) (.ofNat 1 (fld w 3 1))) 4
  | 5 => checked true (.vfnma (.ofNat 3 (fld w 28 3)) (.ofNat 5 (fld w 17 5)) (.ofNat 5 (fld w 12 5)) (.ofNat 5 (fld w 7 5)) (.ofNat 3 (fld w 4 3)) (.ofNat 1 (fld w 3 1))) 4
  | 6 => checked true (.vmin (.ofNat 3 (fld w 28 3)) (.ofNat 5 (fld w 17 5)) (.ofNat 5 (fld w 12 5)) (.ofNat 5 (fld w 7 5)) (.ofNat 3 (fld w 4 3)) (.ofNat 1 (fld w 3 1))) 4
  | 7 => checked true (.vmax (.ofNat 3 (fld w 28 3)) (.ofNat 5 (fld w 17 5)) (.ofNat 5 (fld w 12 5)) (.ofNat 5 (fld w 7 5)) (.ofNat 3 (fld w 4 3)) (.ofNat 1 (fld w 3 1))) 4
  | _ => .illegal

/-- Major 0x21 by its minor (R219, R220). -/
def decodeMajor21 (w : Nat) : Decoded :=
  match fld w 0 3 with
  | 0 => checked true (.vdiv (.ofNat 3 (fld w 28 3)) (.ofNat 5 (fld w 17 5)) (.ofNat 5 (fld w 12 5)) (.ofNat 5 (fld w 7 5)) (.ofNat 3 (fld w 4 3)) (.ofNat 1 (fld w 3 1))) 4
  | 1 => checked (fld w 7 5 == 0) (.vsqrt (.ofNat 3 (fld w 28 3)) (.ofNat 5 (fld w 17 5)) (.ofNat 5 (fld w 12 5)) (.ofNat 3 (fld w 4 3)) (.ofNat 1 (fld w 3 1))) 4
  | 2 => checked (fld w 7 5 == 0) (.vexp2 (.ofNat 3 (fld w 28 3)) (.ofNat 5 (fld w 17 5)) (.ofNat 5 (fld w 12 5)) (.ofNat 3 (fld w 4 3)) (.ofNat 1 (fld w 3 1))) 4
  | 3 => checked (fld w 7 5 == 0) (.vlog2 (.ofNat 3 (fld w 28 3)) (.ofNat 5 (fld w 17 5)) (.ofNat 5 (fld w 12 5)) (.ofNat 3 (fld w 4 3)) (.ofNat 1 (fld w 3 1))) 4
  | 4 => checked (fld w 7 5 == 0) (.vrcpe (.ofNat 3 (fld w 28 3)) (.ofNat 5 (fld w 17 5)) (.ofNat 5 (fld w 12 5)) (.ofNat 3 (fld w 4 3)) (.ofNat 1 (fld w 3 1))) 4
  | 5 => checked (fld w 7 5 == 0) (.vrsqe (.ofNat 3 (fld w 28 3)) (.ofNat 5 (fld w 17 5)) (.ofNat 5 (fld w 12 5)) (.ofNat 3 (fld w 4 3)) (.ofNat 1 (fld w 3 1))) 4
  | 6 => checked (fld w 7 5 == 0) (.vabs (.ofNat 3 (fld w 28 3)) (.ofNat 5 (fld w 17 5)) (.ofNat 5 (fld w 12 5)) (.ofNat 3 (fld w 4 3)) (.ofNat 1 (fld w 3 1))) 4
  | 7 => checked (fld w 7 5 == 0) (.vneg (.ofNat 3 (fld w 28 3)) (.ofNat 5 (fld w 17 5)) (.ofNat 5 (fld w 12 5)) (.ofNat 3 (fld w 4 3)) (.ofNat 1 (fld w 3 1))) 4
  | _ => .illegal

/-- Major 0x22 by its minor (R219, R220). -/
def decodeMajor22 (w : Nat) : Decoded :=
  match fld w 0 3 with
  | 0 => checked (fld w 20 2 == 0) (.vcmpeq (.ofNat 3 (fld w 28 3)) (.ofNat 3 (fld w 17 3)) (.ofNat 5 (fld w 12 5)) (.ofNat 5 (fld w 7 5)) (.ofNat 3 (fld w 4 3)) (.ofNat 1 (fld w 3 1))) 4
  | 1 => checked (fld w 20 2 == 0) (.vcmpne (.ofNat 3 (fld w 28 3)) (.ofNat 3 (fld w 17 3)) (.ofNat 5 (fld w 12 5)) (.ofNat 5 (fld w 7 5)) (.ofNat 3 (fld w 4 3)) (.ofNat 1 (fld w 3 1))) 4
  | 2 => checked (fld w 20 2 == 0) (.vcmplt (.ofNat 3 (fld w 28 3)) (.ofNat 3 (fld w 17 3)) (.ofNat 5 (fld w 12 5)) (.ofNat 5 (fld w 7 5)) (.ofNat 3 (fld w 4 3)) (.ofNat 1 (fld w 3 1))) 4
  | 3 => checked (fld w 20 2 == 0) (.vcmple (.ofNat 3 (fld w 28 3)) (.ofNat 3 (fld w 17 3)) (.ofNat 5 (fld w 12 5)) (.ofNat 5 (fld w 7 5)) (.ofNat 3 (fld w 4 3)) (.ofNat 1 (fld w 3 1))) 4
  | 4 => checked (fld w 20 2 == 0) (.vcmpun (.ofNat 3 (fld w 28 3)) (.ofNat 3 (fld w 17 3)) (.ofNat 5 (fld w 12 5)) (.ofNat 5 (fld w 7 5)) (.ofNat 3 (fld w 4 3)) (.ofNat 1 (fld w 3 1))) 4
  | 5 => checked (fld w 3 1 == 0) (.vsel (.ofNat 3 (fld w 28 3)) (.ofNat 5 (fld w 17 5)) (.ofNat 5 (fld w 12 5)) (.ofNat 5 (fld w 7 5)) (.ofNat 3 (fld w 4 3))) 4
  | 6 => checked true (.vcpsgn (.ofNat 3 (fld w 28 3)) (.ofNat 5 (fld w 17 5)) (.ofNat 5 (fld w 12 5)) (.ofNat 5 (fld w 7 5)) (.ofNat 3 (fld w 4 3)) (.ofNat 1 (fld w 3 1))) 4
  | 7 => checked (fld w 7 5 == 0) (.vrint (.ofNat 3 (fld w 28 3)) (.ofNat 5 (fld w 17 5)) (.ofNat 5 (fld w 12 5)) (.ofNat 3 (fld w 4 3)) (.ofNat 1 (fld w 3 1))) 4
  | _ => .illegal

/-- Major 0x23 by its minor (R219, R220). -/
def decodeMajor23 (w : Nat) : Decoded :=
  match fld w 0 3 with
  | 0 => checked true (.viadd (.ofNat 3 (fld w 28 3)) (.ofNat 5 (fld w 17 5)) (.ofNat 5 (fld w 12 5)) (.ofNat 5 (fld w 7 5)) (.ofNat 3 (fld w 4 3)) (.ofNat 1 (fld w 3 1))) 4
  | 1 => checked true (.visub (.ofNat 3 (fld w 28 3)) (.ofNat 5 (fld w 17 5)) (.ofNat 5 (fld w 12 5)) (.ofNat 5 (fld w 7 5)) (.ofNat 3 (fld w 4 3)) (.ofNat 1 (fld w 3 1))) 4
  | 2 => checked true (.vimul (.ofNat 3 (fld w 28 3)) (.ofNat 5 (fld w 17 5)) (.ofNat 5 (fld w 12 5)) (.ofNat 5 (fld w 7 5)) (.ofNat 3 (fld w 4 3)) (.ofNat 1 (fld w 3 1))) 4
  | 3 => checked true (.vimin (.ofNat 3 (fld w 28 3)) (.ofNat 5 (fld w 17 5)) (.ofNat 5 (fld w 12 5)) (.ofNat 5 (fld w 7 5)) (.ofNat 3 (fld w 4 3)) (.ofNat 1 (fld w 3 1))) 4
  | 4 => checked true (.vimax (.ofNat 3 (fld w 28 3)) (.ofNat 5 (fld w 17 5)) (.ofNat 5 (fld w 12 5)) (.ofNat 5 (fld w 7 5)) (.ofNat 3 (fld w 4 3)) (.ofNat 1 (fld w 3 1))) 4
  | 5 => checked true (.viminu (.ofNat 3 (fld w 28 3)) (.ofNat 5 (fld w 17 5)) (.ofNat 5 (fld w 12 5)) (.ofNat 5 (fld w 7 5)) (.ofNat 3 (fld w 4 3)) (.ofNat 1 (fld w 3 1))) 4
  | 6 => checked true (.vimaxu (.ofNat 3 (fld w 28 3)) (.ofNat 5 (fld w 17 5)) (.ofNat 5 (fld w 12 5)) (.ofNat 5 (fld w 7 5)) (.ofNat 3 (fld w 4 3)) (.ofNat 1 (fld w 3 1))) 4
  | 7 => checked (fld w 7 5 == 0) (.viabs (.ofNat 3 (fld w 28 3)) (.ofNat 5 (fld w 17 5)) (.ofNat 5 (fld w 12 5)) (.ofNat 3 (fld w 4 3)) (.ofNat 1 (fld w 3 1))) 4
  | _ => .illegal

/-- Major 0x24 by its minor (R219, R220). -/
def decodeMajor24 (w : Nat) : Decoded :=
  match fld w 0 3 with
  | 0 => checked true (.vand (.ofNat 3 (fld w 28 3)) (.ofNat 5 (fld w 17 5)) (.ofNat 5 (fld w 12 5)) (.ofNat 5 (fld w 7 5)) (.ofNat 3 (fld w 4 3)) (.ofNat 1 (fld w 3 1))) 4
  | 1 => checked true (.vor (.ofNat 3 (fld w 28 3)) (.ofNat 5 (fld w 17 5)) (.ofNat 5 (fld w 12 5)) (.ofNat 5 (fld w 7 5)) (.ofNat 3 (fld w 4 3)) (.ofNat 1 (fld w 3 1))) 4
  | 2 => checked true (.vxor (.ofNat 3 (fld w 28 3)) (.ofNat 5 (fld w 17 5)) (.ofNat 5 (fld w 12 5)) (.ofNat 5 (fld w 7 5)) (.ofNat 3 (fld w 4 3)) (.ofNat 1 (fld w 3 1))) 4
  | 3 => checked true (.vandn (.ofNat 3 (fld w 28 3)) (.ofNat 5 (fld w 17 5)) (.ofNat 5 (fld w 12 5)) (.ofNat 5 (fld w 7 5)) (.ofNat 3 (fld w 4 3)) (.ofNat 1 (fld w 3 1))) 4
  | 4 => checked true (.vshl (.ofNat 3 (fld w 28 3)) (.ofNat 5 (fld w 17 5)) (.ofNat 5 (fld w 12 5)) (.ofNat 5 (fld w 7 5)) (.ofNat 3 (fld w 4 3)) (.ofNat 1 (fld w 3 1))) 4
  | 5 => checked true (.vshr (.ofNat 3 (fld w 28 3)) (.ofNat 5 (fld w 17 5)) (.ofNat 5 (fld w 12 5)) (.ofNat 5 (fld w 7 5)) (.ofNat 3 (fld w 4 3)) (.ofNat 1 (fld w 3 1))) 4
  | 6 => checked true (.vsar (.ofNat 3 (fld w 28 3)) (.ofNat 5 (fld w 17 5)) (.ofNat 5 (fld w 12 5)) (.ofNat 5 (fld w 7 5)) (.ofNat 3 (fld w 4 3)) (.ofNat 1 (fld w 3 1))) 4
  | 7 => checked true (.viaddsat (.ofNat 3 (fld w 28 3)) (.ofNat 5 (fld w 17 5)) (.ofNat 5 (fld w 12 5)) (.ofNat 5 (fld w 7 5)) (.ofNat 3 (fld w 4 3)) (.ofNat 1 (fld w 3 1))) 4
  | _ => .illegal

/-- Major 0x25 by its minor (R219, R220). -/
def decodeMajor25 (w : Nat) : Decoded :=
  match fld w 0 3 with
  | 0 => checked (fld w 20 2 == 0) (.vicmpeq (.ofNat 3 (fld w 28 3)) (.ofNat 3 (fld w 17 3)) (.ofNat 5 (fld w 12 5)) (.ofNat 5 (fld w 7 5)) (.ofNat 3 (fld w 4 3)) (.ofNat 1 (fld w 3 1))) 4
  | 1 => checked (fld w 20 2 == 0) (.vicmpne (.ofNat 3 (fld w 28 3)) (.ofNat 3 (fld w 17 3)) (.ofNat 5 (fld w 12 5)) (.ofNat 5 (fld w 7 5)) (.ofNat 3 (fld w 4 3)) (.ofNat 1 (fld w 3 1))) 4
  | 2 => checked (fld w 20 2 == 0) (.vicmplt (.ofNat 3 (fld w 28 3)) (.ofNat 3 (fld w 17 3)) (.ofNat 5 (fld w 12 5)) (.ofNat 5 (fld w 7 5)) (.ofNat 3 (fld w 4 3)) (.ofNat 1 (fld w 3 1))) 4
  | 3 => checked (fld w 20 2 == 0) (.vicmpltu (.ofNat 3 (fld w 28 3)) (.ofNat 3 (fld w 17 3)) (.ofNat 5 (fld w 12 5)) (.ofNat 5 (fld w 7 5)) (.ofNat 3 (fld w 4 3)) (.ofNat 1 (fld w 3 1))) 4
  | 4 => checked (fld w 20 2 == 0) (.vicmple (.ofNat 3 (fld w 28 3)) (.ofNat 3 (fld w 17 3)) (.ofNat 5 (fld w 12 5)) (.ofNat 5 (fld w 7 5)) (.ofNat 3 (fld w 4 3)) (.ofNat 1 (fld w 3 1))) 4
  | 5 => checked (fld w 20 2 == 0) (.vicmpleu (.ofNat 3 (fld w 28 3)) (.ofNat 3 (fld w 17 3)) (.ofNat 5 (fld w 12 5)) (.ofNat 5 (fld w 7 5)) (.ofNat 3 (fld w 4 3)) (.ofNat 1 (fld w 3 1))) 4
  | 6 => checked true (.vimulh (.ofNat 3 (fld w 28 3)) (.ofNat 5 (fld w 17 5)) (.ofNat 5 (fld w 12 5)) (.ofNat 5 (fld w 7 5)) (.ofNat 3 (fld w 4 3)) (.ofNat 1 (fld w 3 1))) 4
  | 7 => checked true (.vimulhu (.ofNat 3 (fld w 28 3)) (.ofNat 5 (fld w 17 5)) (.ofNat 5 (fld w 12 5)) (.ofNat 5 (fld w 7 5)) (.ofNat 3 (fld w 4 3)) (.ofNat 1 (fld w 3 1))) 4
  | _ => .illegal

/-- Major 0x26 by its minor (R219, R220). -/
def decodeMajor26 (w : Nat) : Decoded :=
  match fld w 0 3 with
  | 0 => checked true (.vperm (.ofNat 3 (fld w 28 3)) (.ofNat 5 (fld w 17 5)) (.ofNat 5 (fld w 12 5)) (.ofNat 5 (fld w 7 5)) (.ofNat 3 (fld w 4 3)) (.ofNat 1 (fld w 3 1))) 4
  | 1 => checked true (.vslideup (.ofNat 3 (fld w 28 3)) (.ofNat 5 (fld w 17 5)) (.ofNat 5 (fld w 12 5)) (.ofNat 5 (fld w 7 5)) (.ofNat 3 (fld w 4 3)) (.ofNat 1 (fld w 3 1))) 4
  | 2 => checked true (.vslidedn (.ofNat 3 (fld w 28 3)) (.ofNat 5 (fld w 17 5)) (.ofNat 5 (fld w 12 5)) (.ofNat 5 (fld w 7 5)) (.ofNat 3 (fld w 4 3)) (.ofNat 1 (fld w 3 1))) 4
  | 3 => checked (fld w 7 5 == 0) (.vbcast (.ofNat 3 (fld w 28 3)) (.ofNat 5 (fld w 17 5)) (.ofNat 5 (fld w 12 5)) (.ofNat 3 (fld w 4 3)) (.ofNat 1 (fld w 3 1))) 4
  | 4 => checked (fld w 3 4 == 0) (.vext (.ofNat 3 (fld w 28 3)) (.ofNat 5 (fld w 17 5)) (.ofNat 5 (fld w 12 5)) (.ofNat 5 (fld w 7 5))) 4
  | 5 => checked (fld w 3 4 == 0) (.vins (.ofNat 3 (fld w 28 3)) (.ofNat 5 (fld w 17 5)) (.ofNat 5 (fld w 12 5)) (.ofNat 5 (fld w 7 5))) 4
  | 6 => checked true (.vzip (.ofNat 3 (fld w 28 3)) (.ofNat 5 (fld w 17 5)) (.ofNat 5 (fld w 12 5)) (.ofNat 5 (fld w 7 5)) (.ofNat 3 (fld w 4 3)) (.ofNat 1 (fld w 3 1))) 4
  | 7 => checked true (.vunzip (.ofNat 3 (fld w 28 3)) (.ofNat 5 (fld w 17 5)) (.ofNat 5 (fld w 12 5)) (.ofNat 5 (fld w 7 5)) (.ofNat 3 (fld w 4 3)) (.ofNat 1 (fld w 3 1))) 4
  | _ => .illegal

/-- Major 0x27 by its minor (R219, R220). -/
def decodeMajor27 (w : Nat) : Decoded :=
  match fld w 0 3 with
  | 0 => checked (fld w 3 1 == 0 && fld w 7 5 == 0) (.vredadd (.ofNat 3 (fld w 28 3)) (.ofNat 5 (fld w 17 5)) (.ofNat 5 (fld w 12 5)) (.ofNat 3 (fld w 4 3))) 4
  | 1 => checked (fld w 3 1 == 0 && fld w 7 5 == 0) (.vredmax (.ofNat 3 (fld w 28 3)) (.ofNat 5 (fld w 17 5)) (.ofNat 5 (fld w 12 5)) (.ofNat 3 (fld w 4 3))) 4
  | 2 => checked (fld w 3 1 == 0 && fld w 7 5 == 0) (.vredmin (.ofNat 3 (fld w 28 3)) (.ofNat 5 (fld w 17 5)) (.ofNat 5 (fld w 12 5)) (.ofNat 3 (fld w 4 3))) 4
  | 3 => checked (fld w 3 1 == 0 && fld w 7 5 == 0) (.viredadd (.ofNat 3 (fld w 28 3)) (.ofNat 5 (fld w 17 5)) (.ofNat 5 (fld w 12 5)) (.ofNat 3 (fld w 4 3))) 4
  | 4 => checked (fld w 3 1 == 0 && fld w 7 5 == 0) (.viredmax (.ofNat 3 (fld w 28 3)) (.ofNat 5 (fld w 17 5)) (.ofNat 5 (fld w 12 5)) (.ofNat 3 (fld w 4 3))) 4
  | 5 => checked (fld w 3 1 == 0 && fld w 7 5 == 0) (.viredmin (.ofNat 3 (fld w 28 3)) (.ofNat 5 (fld w 17 5)) (.ofNat 5 (fld w 12 5)) (.ofNat 3 (fld w 4 3))) 4
  | 6 => checked (fld w 3 1 == 0 && fld w 7 5 == 0) (.vredand (.ofNat 3 (fld w 28 3)) (.ofNat 5 (fld w 17 5)) (.ofNat 5 (fld w 12 5)) (.ofNat 3 (fld w 4 3))) 4
  | 7 => checked (fld w 3 1 == 0 && fld w 7 5 == 0) (.vredor (.ofNat 3 (fld w 28 3)) (.ofNat 5 (fld w 17 5)) (.ofNat 5 (fld w 12 5)) (.ofNat 3 (fld w 4 3))) 4
  | _ => .illegal

/-- Major 0x28 by its minor (R219, R220). -/
def decodeMajor28 (w : Nat) : Decoded :=
  match fld w 0 3 with
  | 0 => checked (fld w 7 5 == 0) (.vcvt (.ofNat 3 (fld w 28 3)) (.ofNat 5 (fld w 17 5)) (.ofNat 5 (fld w 12 5)) (.ofNat 3 (fld w 4 3)) (.ofNat 1 (fld w 3 1))) 4
  | 1 => checked (fld w 7 5 == 0) (.vcvtfi (.ofNat 3 (fld w 28 3)) (.ofNat 5 (fld w 17 5)) (.ofNat 5 (fld w 12 5)) (.ofNat 3 (fld w 4 3)) (.ofNat 1 (fld w 3 1))) 4
  | 2 => checked (fld w 7 5 == 0) (.vcvtif (.ofNat 3 (fld w 28 3)) (.ofNat 5 (fld w 17 5)) (.ofNat 5 (fld w 12 5)) (.ofNat 3 (fld w 4 3)) (.ofNat 1 (fld w 3 1))) 4
  | 3 => checked (fld w 7 5 == 0) (.vnarrow (.ofNat 3 (fld w 28 3)) (.ofNat 5 (fld w 17 5)) (.ofNat 5 (fld w 12 5)) (.ofNat 3 (fld w 4 3)) (.ofNat 1 (fld w 3 1))) 4
  | 4 => checked (fld w 7 5 == 0) (.vwiden (.ofNat 3 (fld w 28 3)) (.ofNat 5 (fld w 17 5)) (.ofNat 5 (fld w 12 5)) (.ofNat 3 (fld w 4 3)) (.ofNat 1 (fld w 3 1))) 4
  | 5 => checked (fld w 7 5 == 0) (.vrand (.ofNat 3 (fld w 28 3)) (.ofNat 5 (fld w 17 5)) (.ofNat 5 (fld w 12 5)) (.ofNat 3 (fld w 4 3)) (.ofNat 1 (fld w 3 1))) 4
  | 6 => checked (fld w 20 2 == 0) (.dmask (.ofNat 3 (fld w 28 3)) (.ofNat 3 (fld w 17 3)) (.ofNat 5 (fld w 12 5)) (.ofNat 5 (fld w 7 5)) (.ofNat 3 (fld w 4 3)) (.ofNat 1 (fld w 3 1))) 4
  | 7 => checked (fld w 7 5 == 0) (.vmov (.ofNat 3 (fld w 28 3)) (.ofNat 5 (fld w 17 5)) (.ofNat 5 (fld w 12 5)) (.ofNat 3 (fld w 4 3)) (.ofNat 1 (fld w 3 1))) 4
  | _ => .illegal

/-- Major 0x29 by its minor (R219, R220). -/
def decodeMajor29 (w : Nat) : Decoded :=
  match fld w 0 7 with
  | 0 => checked (fld w 10 2 == 0 && fld w 15 2 == 0 && fld w 20 2 == 0) (.pand (.ofNat 3 (fld w 28 3)) (.ofNat 3 (fld w 17 3)) (.ofNat 3 (fld w 12 3)) (.ofNat 3 (fld w 7 3))) 4
  | 1 => checked (fld w 10 2 == 0 && fld w 15 2 == 0 && fld w 20 2 == 0) (.por (.ofNat 3 (fld w 28 3)) (.ofNat 3 (fld w 17 3)) (.ofNat 3 (fld w 12 3)) (.ofNat 3 (fld w 7 3))) 4
  | 2 => checked (fld w 10 2 == 0 && fld w 15 2 == 0 && fld w 20 2 == 0) (.pxor (.ofNat 3 (fld w 28 3)) (.ofNat 3 (fld w 17 3)) (.ofNat 3 (fld w 12 3)) (.ofNat 3 (fld w 7 3))) 4
  | 3 => checked (fld w 10 2 == 0 && fld w 15 2 == 0 && fld w 20 2 == 0) (.pandn (.ofNat 3 (fld w 28 3)) (.ofNat 3 (fld w 17 3)) (.ofNat 3 (fld w 12 3)) (.ofNat 3 (fld w 7 3))) 4
  | 4 => checked (fld w 7 5 == 0 && fld w 15 2 == 0 && fld w 20 2 == 0) (.pnot (.ofNat 3 (fld w 28 3)) (.ofNat 3 (fld w 17 3)) (.ofNat 3 (fld w 12 3))) 4
  | 5 => checked (fld w 7 5 == 0 && fld w 20 2 == 0) (.pmov (.ofNat 3 (fld w 28 3)) (.ofNat 3 (fld w 17 3)) (.ofNat 5 (fld w 12 5))) 4
  | 6 => checked (fld w 7 5 == 0 && fld w 15 2 == 0) (.pget (.ofNat 3 (fld w 28 3)) (.ofNat 5 (fld w 17 5)) (.ofNat 3 (fld w 12 3))) 4
  | 7 => checked (fld w 7 5 == 0 && fld w 15 2 == 0) (.pcnt (.ofNat 3 (fld w 28 3)) (.ofNat 5 (fld w 17 5)) (.ofNat 3 (fld w 12 3))) 4
  | 8 => checked (fld w 7 5 == 0 && fld w 15 2 == 0) (.pfirst (.ofNat 3 (fld w 28 3)) (.ofNat 5 (fld w 17 5)) (.ofNat 3 (fld w 12 3))) 4
  | 9 => checked (fld w 7 5 == 0) (.rand (.ofNat 3 (fld w 28 3)) (.ofNat 5 (fld w 17 5)) (.ofNat 5 (fld w 12 5))) 4
  | _ => .illegal

/-- Major 0x2A by its minor (R219, R220). -/
def decodeMajor2A (w : Nat) : Decoded :=
  match fld w 0 4 with
  | 0 => checked (fld w 7 5 == 0) (.qnt (.ofNat 3 (fld w 28 3)) (.ofNat 5 (fld w 17 5)) (.ofNat 5 (fld w 12 5)) (.ofNat 3 (fld w 4 3))) 4
  | 1 => checked (fld w 7 5 == 0) (.qntb (.ofNat 3 (fld w 28 3)) (.ofNat 5 (fld w 17 5)) (.ofNat 5 (fld w 12 5)) (.ofNat 3 (fld w 4 3))) 4
  | 2 => checked (fld w 7 5 == 0) (.dqnt (.ofNat 3 (fld w 28 3)) (.ofNat 5 (fld w 17 5)) (.ofNat 5 (fld w 12 5)) (.ofNat 3 (fld w 4 3))) 4
  | 3 => checked (fld w 7 10 == 0) (.strd (.ofNat 3 (fld w 28 3)) (.ofNat 5 (fld w 17 5)) (.ofNat 3 (fld w 4 3))) 4
  | 4 => checked (fld w 7 15 == 0) (.stclr (.ofNat 3 (fld w 28 3)) (.ofNat 3 (fld w 4 3))) 4
  | 5 => checked (fld w 7 15 == 0) (.stfrz (.ofNat 3 (fld w 28 3)) (.ofNat 3 (fld w 4 3))) 4
  | 6 => checked (fld w 4 8 == 0 && fld w 15 7 == 0) (.stsync (.ofNat 3 (fld w 28 3)) (.ofNat 3 (fld w 12 3))) 4
  | 7 => checked (fld w 7 5 == 0) (.vstS (.ofNat 3 (fld w 28 3)) (.ofNat 5 (fld w 17 5)) (.ofNat 5 (fld w 12 5)) (.ofNat 3 (fld w 4 3))) 4
  | 8 => checked true (.vstsS (.ofNat 3 (fld w 28 3)) (.ofNat 5 (fld w 17 5)) (.ofNat 5 (fld w 12 5)) (.ofNat 5 (fld w 7 5)) (.ofNat 3 (fld w 4 3))) 4
  | 9 => checked true (.vstscS (.ofNat 3 (fld w 28 3)) (.ofNat 5 (fld w 17 5)) (.ofNat 5 (fld w 12 5)) (.ofNat 5 (fld w 7 5)) (.ofNat 3 (fld w 4 3))) 4
  | _ => .illegal

/-- Major 0x2B by its minor (R219, R220). -/
def decodeMajor2B (w : Nat) : Decoded :=
  match fld w 0 4 with
  | 0 => checked (fld w 4 8 == 0) (.oclm (.ofNat 3 (fld w 28 3)) (.ofNat 5 (fld w 17 5)) (.ofNat 5 (fld w 12 5))) 4
  | 1 => checked (fld w 4 8 == 0 && fld w 17 5 == 0) (.orel (.ofNat 3 (fld w 28 3)) (.ofNat 5 (fld w 12 5))) 4
  | 2 => checked (fld w 21 1 == 0) (.old (.ofNat 3 (fld w 28 3)) (.ofNat 4 (fld w 17 4)) (.ofNat 5 (fld w 12 5)) (.ofNat 5 (fld w 7 5)) (.ofNat 3 (fld w 4 3))) 4
  | 3 => checked (fld w 11 1 == 0 && fld w 16 1 == 0) (.mma (.ofNat 3 (fld w 28 3)) (.ofNat 5 (fld w 17 5)) (.ofNat 4 (fld w 12 4)) (.ofNat 4 (fld w 7 4)) (.ofNat 3 (fld w 4 3))) 4
  | 4 => checked (fld w 11 1 == 0 && fld w 16 1 == 0) (.mmaZ (.ofNat 3 (fld w 28 3)) (.ofNat 5 (fld w 17 5)) (.ofNat 4 (fld w 12 4)) (.ofNat 4 (fld w 7 4)) (.ofNat 3 (fld w 4 3))) 4
  | 5 => checked (fld w 4 3 == 0) (.ard (.ofNat 3 (fld w 28 3)) (.ofNat 5 (fld w 17 5)) (.ofNat 5 (fld w 12 5)) (.ofNat 5 (fld w 7 5))) 4
  | 6 => checked true (.asto (.ofNat 3 (fld w 28 3)) (.ofNat 5 (fld w 17 5)) (.ofNat 5 (fld w 12 5)) (.ofNat 5 (fld w 7 5)) (.ofNat 3 (fld w 4 3))) 4
  | 7 => checked (fld w 4 8 == 0 && fld w 17 5 == 0) (.arel (.ofNat 3 (fld w 28 3)) (.ofNat 5 (fld w 12 5))) 4
  | _ => .illegal

/-- Major 0x2C by its minor (R219, R220). -/
def decodeMajor2C (w : Nat) : Decoded :=
  match fld w 0 5 with
  | 0 => checked true (.send (.ofNat 3 (fld w 28 3)) (.ofNat 5 (fld w 17 5)) (.ofNat 5 (fld w 12 5)) (.ofNat 5 (fld w 7 5)) (.ofNat 2 (fld w 5 2))) 4
  | 1 => checked true (.sendhost (.ofNat 3 (fld w 28 3)) (.ofNat 5 (fld w 17 5)) (.ofNat 5 (fld w 12 5)) (.ofNat 5 (fld w 7 5)) (.ofNat 2 (fld w 5 2))) 4
  | 2 => checked true (.put (.ofNat 3 (fld w 28 3)) (.ofNat 5 (fld w 17 5)) (.ofNat 5 (fld w 12 5)) (.ofNat 5 (fld w 7 5)) (.ofNat 2 (fld w 5 2))) 4
  | 3 => checked true (.rfadd (.ofNat 3 (fld w 28 3)) (.ofNat 5 (fld w 17 5)) (.ofNat 5 (fld w 12 5)) (.ofNat 5 (fld w 7 5)) (.ofNat 2 (fld w 5 2))) 4
  | 4 => checked true (.rfaddT (.ofNat 3 (fld w 28 3)) (.ofNat 5 (fld w 17 5)) (.ofNat 5 (fld w 12 5)) (.ofNat 5 (fld w 7 5)) (.ofNat 2 (fld w 5 2))) 4
  | 5 => checked true (.vfaddT (.ofNat 3 (fld w 28 3)) (.ofNat 5 (fld w 17 5)) (.ofNat 5 (fld w 12 5)) (.ofNat 5 (fld w 7 5)) (.ofNat 2 (fld w 5 2))) 4
  | 6 => checked (fld w 7 5 == 0) (.tsopen (.ofNat 3 (fld w 28 3)) (.ofNat 5 (fld w 17 5)) (.ofNat 5 (fld w 12 5)) (.ofNat 2 (fld w 5 2))) 4
  | 7 => checked (fld w 7 5 == 0) (.tsclose (.ofNat 3 (fld w 28 3)) (.ofNat 5 (fld w 17 5)) (.ofNat 5 (fld w 12 5)) (.ofNat 2 (fld w 5 2))) 4
  | 8 => checked true (.tskip (.ofNat 3 (fld w 28 3)) (.ofNat 5 (fld w 17 5)) (.ofNat 5 (fld w 12 5)) (.ofNat 5 (fld w 7 5)) (.ofNat 2 (fld w 5 2))) 4
  | 9 => checked (fld w 7 5 == 0 && fld w 17 5 == 0) (.tdrain (.ofNat 3 (fld w 28 3)) (.ofNat 5 (fld w 12 5)) (.ofNat 2 (fld w 5 2))) 4
  | 10 => checked true (.halo (.ofNat 3 (fld w 28 3)) (.ofNat 5 (fld w 17 5)) (.ofNat 5 (fld w 12 5)) (.ofNat 5 (fld w 7 5)) (.ofNat 2 (fld w 5 2))) 4
  | 11 => checked (fld w 5 2 == 0) (.zwatch (.ofNat 3 (fld w 28 3)) (.ofNat 5 (fld w 17 5)) (.ofNat 5 (fld w 12 5)) (.ofNat 5 (fld w 7 5))) 4
  | _ => .illegal

/-- Major 0x2D by its minor (R219, R220). -/
def decodeMajor2D (w : Nat) : Decoded :=
  match fld w 0 5 with
  | 0 => checked true (.aaddW (.ofNat 3 (fld w 28 3)) (.ofNat 5 (fld w 17 5)) (.ofNat 5 (fld w 12 5)) (.ofNat 5 (fld w 7 5)) (.ofNat 2 (fld w 5 2))) 4
  | 1 => checked true (.aaddfW (.ofNat 3 (fld w 28 3)) (.ofNat 5 (fld w 17 5)) (.ofNat 5 (fld w 12 5)) (.ofNat 5 (fld w 7 5)) (.ofNat 2 (fld w 5 2))) 4
  | 2 => checked true (.asminW (.ofNat 3 (fld w 28 3)) (.ofNat 5 (fld w 17 5)) (.ofNat 5 (fld w 12 5)) (.ofNat 5 (fld w 7 5)) (.ofNat 2 (fld w 5 2))) 4
  | 3 => checked true (.asminfW (.ofNat 3 (fld w 28 3)) (.ofNat 5 (fld w 17 5)) (.ofNat 5 (fld w 12 5)) (.ofNat 5 (fld w 7 5)) (.ofNat 2 (fld w 5 2))) 4
  | 4 => checked true (.asmaxW (.ofNat 3 (fld w 28 3)) (.ofNat 5 (fld w 17 5)) (.ofNat 5 (fld w 12 5)) (.ofNat 5 (fld w 7 5)) (.ofNat 2 (fld w 5 2))) 4
  | 5 => checked true (.asmaxfW (.ofNat 3 (fld w 28 3)) (.ofNat 5 (fld w 17 5)) (.ofNat 5 (fld w 12 5)) (.ofNat 5 (fld w 7 5)) (.ofNat 2 (fld w 5 2))) 4
  | 6 => checked true (.auminW (.ofNat 3 (fld w 28 3)) (.ofNat 5 (fld w 17 5)) (.ofNat 5 (fld w 12 5)) (.ofNat 5 (fld w 7 5)) (.ofNat 2 (fld w 5 2))) 4
  | 7 => checked true (.auminfW (.ofNat 3 (fld w 28 3)) (.ofNat 5 (fld w 17 5)) (.ofNat 5 (fld w 12 5)) (.ofNat 5 (fld w 7 5)) (.ofNat 2 (fld w 5 2))) 4
  | 8 => checked true (.aumaxW (.ofNat 3 (fld w 28 3)) (.ofNat 5 (fld w 17 5)) (.ofNat 5 (fld w 12 5)) (.ofNat 5 (fld w 7 5)) (.ofNat 2 (fld w 5 2))) 4
  | 9 => checked true (.aumaxfW (.ofNat 3 (fld w 28 3)) (.ofNat 5 (fld w 17 5)) (.ofNat 5 (fld w 12 5)) (.ofNat 5 (fld w 7 5)) (.ofNat 2 (fld w 5 2))) 4
  | 10 => checked true (.aandW (.ofNat 3 (fld w 28 3)) (.ofNat 5 (fld w 17 5)) (.ofNat 5 (fld w 12 5)) (.ofNat 5 (fld w 7 5)) (.ofNat 2 (fld w 5 2))) 4
  | 11 => checked true (.aandfW (.ofNat 3 (fld w 28 3)) (.ofNat 5 (fld w 17 5)) (.ofNat 5 (fld w 12 5)) (.ofNat 5 (fld w 7 5)) (.ofNat 2 (fld w 5 2))) 4
  | 12 => checked true (.aorW (.ofNat 3 (fld w 28 3)) (.ofNat 5 (fld w 17 5)) (.ofNat 5 (fld w 12 5)) (.ofNat 5 (fld w 7 5)) (.ofNat 2 (fld w 5 2))) 4
  | 13 => checked true (.aorfW (.ofNat 3 (fld w 28 3)) (.ofNat 5 (fld w 17 5)) (.ofNat 5 (fld w 12 5)) (.ofNat 5 (fld w 7 5)) (.ofNat 2 (fld w 5 2))) 4
  | 14 => checked true (.axorW (.ofNat 3 (fld w 28 3)) (.ofNat 5 (fld w 17 5)) (.ofNat 5 (fld w 12 5)) (.ofNat 5 (fld w 7 5)) (.ofNat 2 (fld w 5 2))) 4
  | 15 => checked true (.axorfW (.ofNat 3 (fld w 28 3)) (.ofNat 5 (fld w 17 5)) (.ofNat 5 (fld w 12 5)) (.ofNat 5 (fld w 7 5)) (.ofNat 2 (fld w 5 2))) 4
  | 16 => checked true (.aswapW (.ofNat 3 (fld w 28 3)) (.ofNat 5 (fld w 17 5)) (.ofNat 5 (fld w 12 5)) (.ofNat 5 (fld w 7 5)) (.ofNat 2 (fld w 5 2))) 4
  | 17 => checked true (.acasW (.ofNat 3 (fld w 28 3)) (.ofNat 5 (fld w 17 5)) (.ofNat 5 (fld w 12 5)) (.ofNat 5 (fld w 7 5)) (.ofNat 2 (fld w 5 2))) 4
  | _ => .illegal

/-- Major 0x2E by its minor (R219, R220). -/
def decodeMajor2E (w : Nat) : Decoded :=
  match fld w 0 5 with
  | 0 => checked true (.aaddD (.ofNat 3 (fld w 28 3)) (.ofNat 5 (fld w 17 5)) (.ofNat 5 (fld w 12 5)) (.ofNat 5 (fld w 7 5)) (.ofNat 2 (fld w 5 2))) 4
  | 1 => checked true (.aaddfD (.ofNat 3 (fld w 28 3)) (.ofNat 5 (fld w 17 5)) (.ofNat 5 (fld w 12 5)) (.ofNat 5 (fld w 7 5)) (.ofNat 2 (fld w 5 2))) 4
  | 2 => checked true (.asminD (.ofNat 3 (fld w 28 3)) (.ofNat 5 (fld w 17 5)) (.ofNat 5 (fld w 12 5)) (.ofNat 5 (fld w 7 5)) (.ofNat 2 (fld w 5 2))) 4
  | 3 => checked true (.asminfD (.ofNat 3 (fld w 28 3)) (.ofNat 5 (fld w 17 5)) (.ofNat 5 (fld w 12 5)) (.ofNat 5 (fld w 7 5)) (.ofNat 2 (fld w 5 2))) 4
  | 4 => checked true (.asmaxD (.ofNat 3 (fld w 28 3)) (.ofNat 5 (fld w 17 5)) (.ofNat 5 (fld w 12 5)) (.ofNat 5 (fld w 7 5)) (.ofNat 2 (fld w 5 2))) 4
  | 5 => checked true (.asmaxfD (.ofNat 3 (fld w 28 3)) (.ofNat 5 (fld w 17 5)) (.ofNat 5 (fld w 12 5)) (.ofNat 5 (fld w 7 5)) (.ofNat 2 (fld w 5 2))) 4
  | 6 => checked true (.auminD (.ofNat 3 (fld w 28 3)) (.ofNat 5 (fld w 17 5)) (.ofNat 5 (fld w 12 5)) (.ofNat 5 (fld w 7 5)) (.ofNat 2 (fld w 5 2))) 4
  | 7 => checked true (.auminfD (.ofNat 3 (fld w 28 3)) (.ofNat 5 (fld w 17 5)) (.ofNat 5 (fld w 12 5)) (.ofNat 5 (fld w 7 5)) (.ofNat 2 (fld w 5 2))) 4
  | 8 => checked true (.aumaxD (.ofNat 3 (fld w 28 3)) (.ofNat 5 (fld w 17 5)) (.ofNat 5 (fld w 12 5)) (.ofNat 5 (fld w 7 5)) (.ofNat 2 (fld w 5 2))) 4
  | 9 => checked true (.aumaxfD (.ofNat 3 (fld w 28 3)) (.ofNat 5 (fld w 17 5)) (.ofNat 5 (fld w 12 5)) (.ofNat 5 (fld w 7 5)) (.ofNat 2 (fld w 5 2))) 4
  | 10 => checked true (.aandD (.ofNat 3 (fld w 28 3)) (.ofNat 5 (fld w 17 5)) (.ofNat 5 (fld w 12 5)) (.ofNat 5 (fld w 7 5)) (.ofNat 2 (fld w 5 2))) 4
  | 11 => checked true (.aandfD (.ofNat 3 (fld w 28 3)) (.ofNat 5 (fld w 17 5)) (.ofNat 5 (fld w 12 5)) (.ofNat 5 (fld w 7 5)) (.ofNat 2 (fld w 5 2))) 4
  | 12 => checked true (.aorD (.ofNat 3 (fld w 28 3)) (.ofNat 5 (fld w 17 5)) (.ofNat 5 (fld w 12 5)) (.ofNat 5 (fld w 7 5)) (.ofNat 2 (fld w 5 2))) 4
  | 13 => checked true (.aorfD (.ofNat 3 (fld w 28 3)) (.ofNat 5 (fld w 17 5)) (.ofNat 5 (fld w 12 5)) (.ofNat 5 (fld w 7 5)) (.ofNat 2 (fld w 5 2))) 4
  | 14 => checked true (.axorD (.ofNat 3 (fld w 28 3)) (.ofNat 5 (fld w 17 5)) (.ofNat 5 (fld w 12 5)) (.ofNat 5 (fld w 7 5)) (.ofNat 2 (fld w 5 2))) 4
  | 15 => checked true (.axorfD (.ofNat 3 (fld w 28 3)) (.ofNat 5 (fld w 17 5)) (.ofNat 5 (fld w 12 5)) (.ofNat 5 (fld w 7 5)) (.ofNat 2 (fld w 5 2))) 4
  | 16 => checked true (.aswapD (.ofNat 3 (fld w 28 3)) (.ofNat 5 (fld w 17 5)) (.ofNat 5 (fld w 12 5)) (.ofNat 5 (fld w 7 5)) (.ofNat 2 (fld w 5 2))) 4
  | 17 => checked true (.acasD (.ofNat 3 (fld w 28 3)) (.ofNat 5 (fld w 17 5)) (.ofNat 5 (fld w 12 5)) (.ofNat 5 (fld w 7 5)) (.ofNat 2 (fld w 5 2))) 4
  | _ => .illegal

/-- Major 0x2F by its minor (R219, R220). -/
def decodeMajor2F (w : Nat) : Decoded :=
  match fld w 0 7 with
  | 0 => checked (fld w 7 5 == 0 && fld w 15 7 == 0) (.arrive (.ofNat 3 (fld w 28 3)) (.ofNat 3 (fld w 12 3))) 4
  | 1 => checked (fld w 7 5 == 0 && fld w 15 2 == 0) (.wait (.ofNat 3 (fld w 28 3)) (.ofNat 5 (fld w 17 5)) (.ofNat 3 (fld w 12 3))) 4
  | 2 => checked (fld w 7 5 == 0 && fld w 15 7 == 0) (.arvdrop (.ofNat 3 (fld w 28 3)) (.ofNat 3 (fld w 12 3))) 4
  | 3 =>
    match fld w 17 2 with
    | 0 => checked (fld w 7 5 == 0 && fld w 15 2 == 0 && fld w 19 3 == 0) (.fence (.ofNat 3 (fld w 28 3)) (.ofNat 3 (fld w 12 3))) 4
    | 1 => checked (fld w 7 5 == 0 && fld w 15 2 == 0 && fld w 19 3 == 0) (.fenceAcq (.ofNat 3 (fld w 28 3)) (.ofNat 3 (fld w 12 3))) 4
    | 2 => checked (fld w 7 5 == 0 && fld w 15 2 == 0 && fld w 19 3 == 0) (.fenceRel (.ofNat 3 (fld w 28 3)) (.ofNat 3 (fld w 12 3))) 4
    | _ => checked (fld w 7 5 == 0 && fld w 15 2 == 0 && fld w 19 3 == 0) (.fenceSc (.ofNat 3 (fld w 28 3)) (.ofNat 3 (fld w 12 3))) 4
  | 4 => checked (fld w 7 15 == 0) (.genend (.ofNat 3 (fld w 28 3))) 4
  | 5 => checked (fld w 7 5 == 0) (.genq (.ofNat 3 (fld w 28 3)) (.ofNat 5 (fld w 17 5)) (.ofNat 5 (fld w 12 5))) 4
  | 6 => checked (fld w 7 5 == 0) (.migrate (.ofNat 3 (fld w 28 3)) (.ofNat 5 (fld w 17 5)) (.ofNat 5 (fld w 12 5))) 4
  | _ => .illegal

/-- Major 0x3E by its minor (R219, R220). -/
def decodeMajor3E (w : Nat) : Decoded :=
  match fld w 0 7 with
  | 0 => checked (fld w 7 5 == 0 && fld w 17 5 == 0) (.tret (.ofNat 3 (fld w 28 3)) (.ofNat 5 (fld w 12 5))) 4
  | 1 => checked true (.xrd (.ofNat 3 (fld w 28 3)) (.ofNat 5 (fld w 17 5)) (.ofNat 5 (fld w 12 5)) (.ofNat 5 (fld w 7 5))) 4
  | 2 => checked true (.xwr (.ofNat 3 (fld w 28 3)) (.ofNat 5 (fld w 17 5)) (.ofNat 5 (fld w 12 5)) (.ofNat 5 (fld w 7 5))) 4
  | 3 => checked (fld w 7 5 == 0 && fld w 17 5 == 0) (.eresume (.ofNat 3 (fld w 28 3)) (.ofNat 5 (fld w 12 5))) 4
  | 4 => checked (fld w 7 5 == 0 && fld w 17 5 == 0) (.eabort (.ofNat 3 (fld w 28 3)) (.ofNat 5 (fld w 12 5))) 4
  | 5 => checked (fld w 17 5 == 0) (.xinv (.ofNat 3 (fld w 28 3)) (.ofNat 5 (fld w 12 5)) (.ofNat 5 (fld w 7 5))) 4
  | _ => .illegal

/-- A 32-bit word by its major opcode (R219). -/
def decodeWord (w : Nat) : Decoded :=
  match fld w 22 6 with
  | 0x01 => decodeMajor01 w
  | 0x02 => checked true (.addi (.ofNat 3 (fld w 28 3)) (.ofNat 5 (fld w 17 5)) (.ofNat 5 (fld w 12 5)) (.ofNat 12 (fld w 0 12))) 4
  | 0x03 => checked true (.andi (.ofNat 3 (fld w 28 3)) (.ofNat 5 (fld w 17 5)) (.ofNat 5 (fld w 12 5)) (.ofNat 12 (fld w 0 12))) 4
  | 0x04 => checked true (.ori (.ofNat 3 (fld w 28 3)) (.ofNat 5 (fld w 17 5)) (.ofNat 5 (fld w 12 5)) (.ofNat 12 (fld w 0 12))) 4
  | 0x05 => checked true (.xori (.ofNat 3 (fld w 28 3)) (.ofNat 5 (fld w 17 5)) (.ofNat 5 (fld w 12 5)) (.ofNat 12 (fld w 0 12))) 4
  | 0x06 => checked true (.slti (.ofNat 3 (fld w 28 3)) (.ofNat 5 (fld w 17 5)) (.ofNat 5 (fld w 12 5)) (.ofNat 12 (fld w 0 12))) 4
  | 0x07 => decodeMajor07 w
  | 0x08 => checked true (.lih (.ofNat 3 (fld w 28 3)) (.ofNat 5 (fld w 17 5)) (.ofNat 5 (fld w 12 5)) (.ofNat 12 (fld w 0 12))) 4
  | 0x09 => checked (fld w 12 5 == 0) (.adpc (.ofNat 3 (fld w 28 3)) (.ofNat 5 (fld w 17 5)) (.ofNat 12 (fld w 0 12))) 4
  | 0x0A => decodeMajor0A w
  | 0x0B => decodeMajor0B w
  | 0x0C => checked true (.br (.ofNat 3 (fld w 28 3)) (.ofNat 22 (fld w 0 22))) 4
  | 0x0D => checked true (.call (.ofNat 3 (fld w 28 3)) (.ofNat 22 (fld w 0 22))) 4
  | 0x0E => decodeMajor0E w
  | 0x0F => if fld w 0 12 == 0x025 then checked (fld w 12 5 == 0) (.copyGo (.ofNat 3 (fld w 28 3)) (.ofNat 5 (fld w 17 5))) 4 else checked (fld w 12 5 == 0) (.rds (.ofNat 3 (fld w 28 3)) (.ofNat 5 (fld w 17 5)) (.ofNat 12 (fld w 0 12))) 4
  | 0x10 => checked (fld w 17 5 == 0) (.wrs (.ofNat 3 (fld w 28 3)) (.ofNat 5 (fld w 12 5)) (.ofNat 12 (fld w 0 12))) 4
  | 0x11 => checked (fld w 0 8 == 0) (.pfx (.ofNat 3 (fld w 28 3)) (.ofNat 4 (fld w 18 4)) (.ofNat 1 (fld w 17 1)) (.ofNat 4 (fld w 13 4)) (.ofNat 1 (fld w 12 1)) (.ofNat 3 (fld w 9 3)) (.ofNat 1 (fld w 8 1))) 4
  | 0x12 => .ok (.nop (.ofNat 3 (fld w 28 3)) (.ofNat 22 (fld w 0 22))) 4
  | 0x13 => checked true (.ldb (.ofNat 3 (fld w 28 3)) (.ofNat 5 (fld w 17 5)) (.ofNat 5 (fld w 12 5)) (.ofNat 12 (fld w 0 12))) 4
  | 0x14 => checked true (.ldbu (.ofNat 3 (fld w 28 3)) (.ofNat 5 (fld w 17 5)) (.ofNat 5 (fld w 12 5)) (.ofNat 12 (fld w 0 12))) 4
  | 0x15 => checked true (.ldh (.ofNat 3 (fld w 28 3)) (.ofNat 5 (fld w 17 5)) (.ofNat 5 (fld w 12 5)) (.ofNat 12 (fld w 0 12))) 4
  | 0x16 => checked true (.ldhu (.ofNat 3 (fld w 28 3)) (.ofNat 5 (fld w 17 5)) (.ofNat 5 (fld w 12 5)) (.ofNat 12 (fld w 0 12))) 4
  | 0x17 => checked true (.ldw (.ofNat 3 (fld w 28 3)) (.ofNat 5 (fld w 17 5)) (.ofNat 5 (fld w 12 5)) (.ofNat 12 (fld w 0 12))) 4
  | 0x18 => checked true (.ldwu (.ofNat 3 (fld w 28 3)) (.ofNat 5 (fld w 17 5)) (.ofNat 5 (fld w 12 5)) (.ofNat 12 (fld w 0 12))) 4
  | 0x19 => checked true (.ldd (.ofNat 3 (fld w 28 3)) (.ofNat 5 (fld w 17 5)) (.ofNat 5 (fld w 12 5)) (.ofNat 12 (fld w 0 12))) 4
  | 0x1A => checked true (.stb (.ofNat 3 (fld w 28 3)) (.ofNat 5 (fld w 17 5)) (.ofNat 5 (fld w 12 5)) (.ofNat 12 (fld w 0 12))) 4
  | 0x1B => checked true (.sth (.ofNat 3 (fld w 28 3)) (.ofNat 5 (fld w 17 5)) (.ofNat 5 (fld w 12 5)) (.ofNat 12 (fld w 0 12))) 4
  | 0x1C => checked true (.stw (.ofNat 3 (fld w 28 3)) (.ofNat 5 (fld w 17 5)) (.ofNat 5 (fld w 12 5)) (.ofNat 12 (fld w 0 12))) 4
  | 0x1D => checked true (.std (.ofNat 3 (fld w 28 3)) (.ofNat 5 (fld w 17 5)) (.ofNat 5 (fld w 12 5)) (.ofNat 12 (fld w 0 12))) 4
  | 0x1E => decodeMajor1E w
  | 0x1F => decodeMajor1F w
  | 0x20 => decodeMajor20 w
  | 0x21 => decodeMajor21 w
  | 0x22 => decodeMajor22 w
  | 0x23 => decodeMajor23 w
  | 0x24 => decodeMajor24 w
  | 0x25 => decodeMajor25 w
  | 0x26 => decodeMajor26 w
  | 0x27 => decodeMajor27 w
  | 0x28 => decodeMajor28 w
  | 0x29 => decodeMajor29 w
  | 0x2A => decodeMajor2A w
  | 0x2B => decodeMajor2B w
  | 0x2C => decodeMajor2C w
  | 0x2D => decodeMajor2D w
  | 0x2E => decodeMajor2E w
  | 0x2F => decodeMajor2F w
  | 0x3E => decodeMajor3E w
  | _ => .illegal

/-- A 16-bit instruction by its opcode, bits [14:10] (R202). -/
def decodeHalf (w : Nat) : Decoded :=
  match fld w 10 5 with
  | 0 => if w == 0 then .illegal else .ok (.cMv (.ofNat 5 (fld w 5 5)) (.ofNat 5 (fld w 0 5))) 2
  | 1 => checked true (.cAdd (.ofNat 5 (fld w 5 5)) (.ofNat 5 (fld w 0 5))) 2
  | 2 => checked true (.cSub (.ofNat 5 (fld w 5 5)) (.ofNat 5 (fld w 0 5))) 2
  | 3 => checked true (.cAnd (.ofNat 5 (fld w 5 5)) (.ofNat 5 (fld w 0 5))) 2
  | 4 => checked true (.cOr (.ofNat 5 (fld w 5 5)) (.ofNat 5 (fld w 0 5))) 2
  | 5 => checked true (.cXor (.ofNat 5 (fld w 5 5)) (.ofNat 5 (fld w 0 5))) 2
  | 6 => checked true (.cAddi (.ofNat 5 (fld w 5 5)) (.ofNat 5 (fld w 0 5))) 2
  | 7 => checked true (.cLi (.ofNat 5 (fld w 5 5)) (.ofNat 5 (fld w 0 5))) 2
  | 8 => checked true (.cSlli (.ofNat 5 (fld w 5 5)) (.ofNat 5 (fld w 0 5))) 2
  | 9 => checked true (.cSrli (.ofNat 5 (fld w 5 5)) (.ofNat 5 (fld w 0 5))) 2
  | 10 => checked true (.cSrai (.ofNat 5 (fld w 5 5)) (.ofNat 5 (fld w 0 5))) 2
  | 11 => checked true (.cLd (.ofNat 5 (fld w 5 5)) (.ofNat 5 (fld w 0 5))) 2
  | 12 => checked true (.cSd (.ofNat 5 (fld w 5 5)) (.ofNat 5 (fld w 0 5))) 2
  | 13 => checked true (.cBeqz (.ofNat 5 (fld w 5 5)) (.ofNat 5 (fld w 0 5))) 2
  | 14 => checked true (.cBnez (.ofNat 5 (fld w 5 5)) (.ofNat 5 (fld w 0 5))) 2
  | 15 => checked true (.cJ (.ofNat 10 (fld w 0 10))) 2
  | 16 => checked (fld w 5 5 == 0) (.cJr (.ofNat 5 (fld w 0 5))) 2
  | 17 => checked (fld w 0 10 == 0) .cExit 2
  | 18 => checked true (.cHint (.ofNat 10 (fld w 0 10))) 2
  | _ => .illegal

/-- The first halfword says the length: bit 15 = 0 is a 16-bit instruction (R196). -/
def isLong (h : Nat) : Bool := fld h 15 1 == 1

/-- An instruction from its first halfword and the one at the next higher address (R196, R8). -/
def decodeHalves (h0 h1 : Nat) : Decoded :=
  if isLong h0 then decodeWord (h0 * 65536 + h1) else decodeHalf h0

/-- An instruction from the bytes at its address on, and the bytes after it; a list that ends inside the
instruction gives none. -/
def decodeBytes : List Byte → Option (Decoded × List Byte)
  | b0 :: b1 :: rest =>
    let h0 := b0.toNat + 256 * b1.toNat
    if isLong h0 then
      match rest with
      | b2 :: b3 :: rest' => some (decodeHalves h0 (b2.toNat + 256 * b3.toNat), rest')
      | _ => none
    else some (decodeHalf h0, rest)
  | _ => none

/-- The bytes of a halfword in memory, least significant first (R8). -/
def halfBytes (h : Nat) : List Byte := [.ofNat 8 h, .ofNat 8 (h / 256)]

/-- The bytes of an instruction of nbits bits with value w, as memory holds them: a 32-bit instruction stores its
first halfword, bits [31:16], at the lower address (R8). A row of 16 bits stands alone. -/
def layoutWord (nbits w : Nat) : List Byte :=
  if nbits ≤ 16 then halfBytes (w % 65536) else halfBytes (w / 65536 % 65536) ++ halfBytes (w % 65536)

/-- The decoder's answer for a word numbered as the opcode table numbers it. -/
def decodeTableWord (nbits w : Nat) : Option Instr :=
  match decodeBytes (layoutWord nbits w ++ [0, 0]) with
  | some (.ok i _, _) => some i
  | _ => none

/-- A word with fields placed: each pair is a field's value and its lowest bit. -/
def place (base : Nat) : List (Nat × Nat) → Nat
  | [] => base
  | (x, lo) :: fs => place (base + x * 2 ^ lo) fs

/-- The word of an encoded instruction with its length in bits, written from the formats of R198 and R202; an event
has no word. -/
def encode : Instr → Option (Nat × Nat)
  | .add s d a b => some (32, place 0x80400000 [(s.toNat, 28), (d.toNat, 17), (a.toNat, 12), (b.toNat, 7)])
  | .sub s d a b => some (32, place 0x80400001 [(s.toNat, 28), (d.toNat, 17), (a.toNat, 12), (b.toNat, 7)])
  | .and s d a b => some (32, place 0x80400002 [(s.toNat, 28), (d.toNat, 17), (a.toNat, 12), (b.toNat, 7)])
  | .or s d a b => some (32, place 0x80400003 [(s.toNat, 28), (d.toNat, 17), (a.toNat, 12), (b.toNat, 7)])
  | .xor s d a b => some (32, place 0x80400004 [(s.toNat, 28), (d.toNat, 17), (a.toNat, 12), (b.toNat, 7)])
  | .andn s d a b => some (32, place 0x80400005 [(s.toNat, 28), (d.toNat, 17), (a.toNat, 12), (b.toNat, 7)])
  | .sll s d a b => some (32, place 0x80400006 [(s.toNat, 28), (d.toNat, 17), (a.toNat, 12), (b.toNat, 7)])
  | .srl s d a b => some (32, place 0x80400007 [(s.toNat, 28), (d.toNat, 17), (a.toNat, 12), (b.toNat, 7)])
  | .sra s d a b => some (32, place 0x80400008 [(s.toNat, 28), (d.toNat, 17), (a.toNat, 12), (b.toNat, 7)])
  | .rol s d a b => some (32, place 0x80400009 [(s.toNat, 28), (d.toNat, 17), (a.toNat, 12), (b.toNat, 7)])
  | .ror s d a b => some (32, place 0x8040000A [(s.toNat, 28), (d.toNat, 17), (a.toNat, 12), (b.toNat, 7)])
  | .slt s d a b => some (32, place 0x8040000B [(s.toNat, 28), (d.toNat, 17), (a.toNat, 12), (b.toNat, 7)])
  | .sltu s d a b => some (32, place 0x8040000C [(s.toNat, 28), (d.toNat, 17), (a.toNat, 12), (b.toNat, 7)])
  | .seq s d a b => some (32, place 0x8040000D [(s.toNat, 28), (d.toNat, 17), (a.toNat, 12), (b.toNat, 7)])
  | .min s d a b => some (32, place 0x8040000E [(s.toNat, 28), (d.toNat, 17), (a.toNat, 12), (b.toNat, 7)])
  | .max s d a b => some (32, place 0x8040000F [(s.toNat, 28), (d.toNat, 17), (a.toNat, 12), (b.toNat, 7)])
  | .minu s d a b => some (32, place 0x80400010 [(s.toNat, 28), (d.toNat, 17), (a.toNat, 12), (b.toNat, 7)])
  | .maxu s d a b => some (32, place 0x80400011 [(s.toNat, 28), (d.toNat, 17), (a.toNat, 12), (b.toNat, 7)])
  | .mul s d a b => some (32, place 0x80400012 [(s.toNat, 28), (d.toNat, 17), (a.toNat, 12), (b.toNat, 7)])
  | .mulh s d a b => some (32, place 0x80400013 [(s.toNat, 28), (d.toNat, 17), (a.toNat, 12), (b.toNat, 7)])
  | .mulhu s d a b => some (32, place 0x80400014 [(s.toNat, 28), (d.toNat, 17), (a.toNat, 12), (b.toNat, 7)])
  | .div s d a b => some (32, place 0x80400015 [(s.toNat, 28), (d.toNat, 17), (a.toNat, 12), (b.toNat, 7)])
  | .divu s d a b => some (32, place 0x80400016 [(s.toNat, 28), (d.toNat, 17), (a.toNat, 12), (b.toNat, 7)])
  | .rem s d a b => some (32, place 0x80400017 [(s.toNat, 28), (d.toNat, 17), (a.toNat, 12), (b.toNat, 7)])
  | .remu s d a b => some (32, place 0x80400018 [(s.toNat, 28), (d.toNat, 17), (a.toNat, 12), (b.toNat, 7)])
  | .clz s d a => some (32, place 0x80400019 [(s.toNat, 28), (d.toNat, 17), (a.toNat, 12)])
  | .ctz s d a => some (32, place 0x8040001A [(s.toNat, 28), (d.toNat, 17), (a.toNat, 12)])
  | .popc s d a => some (32, place 0x8040001B [(s.toNat, 28), (d.toNat, 17), (a.toNat, 12)])
  | .bext s d a b => some (32, place 0x8040001C [(s.toNat, 28), (d.toNat, 17), (a.toNat, 12), (b.toNat, 7)])
  | .bins s d a b => some (32, place 0x8040001D [(s.toNat, 28), (d.toNat, 17), (a.toNat, 12), (b.toNat, 7)])
  | .bswap s d a => some (32, place 0x8040001E [(s.toNat, 28), (d.toNat, 17), (a.toNat, 12)])
  | .sext s d a b => some (32, place 0x8040001F [(s.toNat, 28), (d.toNat, 17), (a.toNat, 12), (b.toNat, 7)])
  | .addi s d a i => some (32, place 0x80800000 [(s.toNat, 28), (d.toNat, 17), (a.toNat, 12), (i.toNat, 0)])
  | .andi s d a i => some (32, place 0x80C00000 [(s.toNat, 28), (d.toNat, 17), (a.toNat, 12), (i.toNat, 0)])
  | .ori s d a i => some (32, place 0x81000000 [(s.toNat, 28), (d.toNat, 17), (a.toNat, 12), (i.toNat, 0)])
  | .xori s d a i => some (32, place 0x81400000 [(s.toNat, 28), (d.toNat, 17), (a.toNat, 12), (i.toNat, 0)])
  | .slti s d a i => some (32, place 0x81800000 [(s.toNat, 28), (d.toNat, 17), (a.toNat, 12), (i.toNat, 0)])
  | .slli s d a h => some (32, place 0x81C00000 [(s.toNat, 28), (d.toNat, 17), (a.toNat, 12), (h.toNat, 0)])
  | .srli s d a h => some (32, place 0x81C00400 [(s.toNat, 28), (d.toNat, 17), (a.toNat, 12), (h.toNat, 0)])
  | .srai s d a h => some (32, place 0x81C00800 [(s.toNat, 28), (d.toNat, 17), (a.toNat, 12), (h.toNat, 0)])
  | .rori s d a h => some (32, place 0x81C00C00 [(s.toNat, 28), (d.toNat, 17), (a.toNat, 12), (h.toNat, 0)])
  | .lih s d a i => some (32, place 0x82000000 [(s.toNat, 28), (d.toNat, 17), (a.toNat, 12), (i.toNat, 0)])
  | .adpc s d i => some (32, place 0x82400000 [(s.toNat, 28), (d.toNat, 17), (i.toNat, 0)])
  | .ldc s d c => some (32, place 0x82800000 [(s.toNat, 28), (d.toNat, 17), (c.toNat, 4)])
  | .ldcx s d a c => some (32, place 0x82800001 [(s.toNat, 28), (d.toNat, 17), (a.toNat, 12), (c.toNat, 4)])
  | .addc s d a c => some (32, place 0x82800002 [(s.toNat, 28), (d.toNat, 17), (a.toNat, 12), (c.toNat, 4)])
  | .eldc s d c => some (32, place 0x82800003 [(s.toNat, 28), (d.toNat, 17), (c.toNat, 4)])
  | .vldc s d c => some (32, place 0x82800004 [(s.toNat, 28), (d.toNat, 17), (c.toNat, 4)])
  | .beqz s a o => some (32, place 0x82C00000 [(s.toNat, 28), (a.toNat, 14), (o.toNat, 0)])
  | .bnez s a o => some (32, place 0x82C80000 [(s.toNat, 28), (a.toNat, 14), (o.toNat, 0)])
  | .bltz s a o => some (32, place 0x82D00000 [(s.toNat, 28), (a.toNat, 14), (o.toNat, 0)])
  | .bgez s a o => some (32, place 0x82D80000 [(s.toNat, 28), (a.toNat, 14), (o.toNat, 0)])
  | .bgtz s a o => some (32, place 0x82E00000 [(s.toNat, 28), (a.toNat, 14), (o.toNat, 0)])
  | .blez s a o => some (32, place 0x82E80000 [(s.toNat, 28), (a.toNat, 14), (o.toNat, 0)])
  | .bpany s a o => some (32, place 0x82F00000 [(s.toNat, 28), (a.toNat, 14), (o.toNat, 0)])
  | .bpnone s a o => some (32, place 0x82F80000 [(s.toNat, 28), (a.toNat, 14), (o.toNat, 0)])
  | .br s o => some (32, place 0x83000000 [(s.toNat, 28), (o.toNat, 0)])
  | .call s o => some (32, place 0x83400000 [(s.toNat, 28), (o.toNat, 0)])
  | .jr s a => some (32, place 0x83800000 [(s.toNat, 28), (a.toNat, 12)])
  | .callr s a => some (32, place 0x83800001 [(s.toNat, 28), (a.toNat, 12)])
  | .ret s => some (32, place 0x83800002 [(s.toNat, 28)])
  | .exit s => some (32, place 0x83800003 [(s.toNat, 28)])
  | .start s d a b => some (32, place 0x83800004 [(s.toNat, 28), (d.toNat, 17), (a.toNat, 12), (b.toNat, 7)])
  | .park s d a => some (32, place 0x83800005 [(s.toNat, 28), (d.toNat, 17), (a.toNat, 12)])
  | .yield s => some (32, place 0x83800006 [(s.toNat, 28)])
  | .setpri s a b => some (32, place 0x83800007 [(s.toNat, 28), (a.toNat, 12), (b.toNat, 7)])
  | .chmset s d a => some (32, place 0x83800008 [(s.toNat, 28), (d.toNat, 17), (a.toNat, 12)])
  | .chmclr s d a => some (32, place 0x83800009 [(s.toNat, 28), (d.toNat, 17), (a.toNat, 12)])
  | .qrd s d q => some (32, place 0x8380000A [(s.toNat, 28), (d.toNat, 17), (q.toNat, 12)])
  | .qwr s q a => some (32, place 0x8380000B [(s.toNat, 28), (q.toNat, 17), (a.toNat, 12)])
  | .recvany s d a b => some (32, place 0x8380000C [(s.toNat, 28), (d.toNat, 17), (a.toNat, 12), (b.toNat, 7)])
  | .recvanyT s d a b => some (32, place 0x8380000D [(s.toNat, 28), (d.toNat, 17), (a.toNat, 12), (b.toNat, 7)])
  | .ewr s d a => some (32, place 0x8380000E [(s.toNat, 28), (d.toNat, 17), (a.toNat, 12)])
  | .erd s d a => some (32, place 0x8380000F [(s.toNat, 28), (d.toNat, 17), (a.toNat, 12)])
  | .rds s d n => some (32, place 0x83C00000 [(s.toNat, 28), (d.toNat, 17), (n.toNat, 0)])
  | .wrs s a n => some (32, place 0x84000000 [(s.toNat, 28), (a.toNat, 12), (n.toNat, 0)])
  | .copyGo s d => some (32, place 0x83C00025 [(s.toNat, 28), (d.toNat, 17)])
  | .pfx s f p g q r t => some (32, place 0x84400000 [(s.toNat, 28), (f.toNat, 18), (p.toNat, 17), (g.toNat, 13), (q.toNat, 12), (r.toNat, 9), (t.toNat, 8)])
  | .nop s h => some (32, place 0x84800000 [(s.toNat, 28), (h.toNat, 0)])
  | .ldb s d a i => some (32, place 0x84C00000 [(s.toNat, 28), (d.toNat, 17), (a.toNat, 12), (i.toNat, 0)])
  | .ldbu s d a i => some (32, place 0x85000000 [(s.toNat, 28), (d.toNat, 17), (a.toNat, 12), (i.toNat, 0)])
  | .ldh s d a i => some (32, place 0x85400000 [(s.toNat, 28), (d.toNat, 17), (a.toNat, 12), (i.toNat, 0)])
  | .ldhu s d a i => some (32, place 0x85800000 [(s.toNat, 28), (d.toNat, 17), (a.toNat, 12), (i.toNat, 0)])
  | .ldw s d a i => some (32, place 0x85C00000 [(s.toNat, 28), (d.toNat, 17), (a.toNat, 12), (i.toNat, 0)])
  | .ldwu s d a i => some (32, place 0x86000000 [(s.toNat, 28), (d.toNat, 17), (a.toNat, 12), (i.toNat, 0)])
  | .ldd s d a i => some (32, place 0x86400000 [(s.toNat, 28), (d.toNat, 17), (a.toNat, 12), (i.toNat, 0)])
  | .stb s d a i => some (32, place 0x86800000 [(s.toNat, 28), (d.toNat, 17), (a.toNat, 12), (i.toNat, 0)])
  | .sth s d a i => some (32, place 0x86C00000 [(s.toNat, 28), (d.toNat, 17), (a.toNat, 12), (i.toNat, 0)])
  | .stw s d a i => some (32, place 0x87000000 [(s.toNat, 28), (d.toNat, 17), (a.toNat, 12), (i.toNat, 0)])
  | .std s d a i => some (32, place 0x87400000 [(s.toNat, 28), (d.toNat, 17), (a.toNat, 12), (i.toNat, 0)])
  | .ldxb s d a b => some (32, place 0x87800000 [(s.toNat, 28), (d.toNat, 17), (a.toNat, 12), (b.toNat, 7)])
  | .ldxbu s d a b => some (32, place 0x87800001 [(s.toNat, 28), (d.toNat, 17), (a.toNat, 12), (b.toNat, 7)])
  | .ldxh s d a b => some (32, place 0x87800002 [(s.toNat, 28), (d.toNat, 17), (a.toNat, 12), (b.toNat, 7)])
  | .ldxhu s d a b => some (32, place 0x87800003 [(s.toNat, 28), (d.toNat, 17), (a.toNat, 12), (b.toNat, 7)])
  | .ldxw s d a b => some (32, place 0x87800004 [(s.toNat, 28), (d.toNat, 17), (a.toNat, 12), (b.toNat, 7)])
  | .ldxwu s d a b => some (32, place 0x87800005 [(s.toNat, 28), (d.toNat, 17), (a.toNat, 12), (b.toNat, 7)])
  | .ldxd s d a b => some (32, place 0x87800006 [(s.toNat, 28), (d.toNat, 17), (a.toNat, 12), (b.toNat, 7)])
  | .stxb s d a b => some (32, place 0x87800007 [(s.toNat, 28), (d.toNat, 17), (a.toNat, 12), (b.toNat, 7)])
  | .stxh s d a b => some (32, place 0x87800008 [(s.toNat, 28), (d.toNat, 17), (a.toNat, 12), (b.toNat, 7)])
  | .stxw s d a b => some (32, place 0x87800009 [(s.toNat, 28), (d.toNat, 17), (a.toNat, 12), (b.toNat, 7)])
  | .stxd s d a b => some (32, place 0x8780000A [(s.toNat, 28), (d.toNat, 17), (a.toNat, 12), (b.toNat, 7)])
  | .bld s d n b => some (32, place 0x8780000B [(s.toNat, 28), (d.toNat, 17), (n.toNat, 12), (b.toNat, 7)])
  | .bst s d n b => some (32, place 0x8780000C [(s.toNat, 28), (d.toNat, 17), (n.toNat, 12), (b.toNat, 7)])
  | .bldI s d n w => some (32, place 0x8780000D [(s.toNat, 28), (d.toNat, 17), (n.toNat, 12), (w.toNat, 7)])
  | .bstI s d n w => some (32, place 0x8780000E [(s.toNat, 28), (d.toNat, 17), (n.toNat, 12), (w.toNat, 7)])
  | .bpset s n a => some (32, place 0x8780000F [(s.toNat, 28), (n.toNat, 17), (a.toNat, 12)])
  | .bprd s d n => some (32, place 0x87800010 [(s.toNat, 28), (d.toNat, 17), (n.toNat, 12)])
  | .bpadd s n a => some (32, place 0x87800011 [(s.toNat, 28), (n.toNat, 17), (a.toNat, 12)])
  | .gldb s d a b => some (32, place 0x87800012 [(s.toNat, 28), (d.toNat, 17), (a.toNat, 12), (b.toNat, 7)])
  | .gldh s d a b => some (32, place 0x87800013 [(s.toNat, 28), (d.toNat, 17), (a.toNat, 12), (b.toNat, 7)])
  | .gldw s d a b => some (32, place 0x87800014 [(s.toNat, 28), (d.toNat, 17), (a.toNat, 12), (b.toNat, 7)])
  | .gldd s d a b => some (32, place 0x87800015 [(s.toNat, 28), (d.toNat, 17), (a.toNat, 12), (b.toNat, 7)])
  | .gstb s d a b => some (32, place 0x87800016 [(s.toNat, 28), (d.toNat, 17), (a.toNat, 12), (b.toNat, 7)])
  | .gsth s d a b => some (32, place 0x87800017 [(s.toNat, 28), (d.toNat, 17), (a.toNat, 12), (b.toNat, 7)])
  | .gstw s d a b => some (32, place 0x87800018 [(s.toNat, 28), (d.toNat, 17), (a.toNat, 12), (b.toNat, 7)])
  | .gstd s d a b => some (32, place 0x87800019 [(s.toNat, 28), (d.toNat, 17), (a.toNat, 12), (b.toNat, 7)])
  | .sptst s d a => some (32, place 0x8780001A [(s.toNat, 28), (d.toNat, 17), (a.toNat, 12)])
  | .spcst s d a c => some (32, place 0x8780001B [(s.toNat, 28), (d.toNat, 17), (a.toNat, 12), (c.toNat, 7)])
  | .spmk s d a b => some (32, place 0x8780001C [(s.toNat, 28), (d.toNat, 17), (a.toNat, 12), (b.toNat, 7)])
  | .iflush s a b => some (32, place 0x8780001D [(s.toNat, 28), (a.toNat, 12), (b.toNat, 7)])
  | .vld s d a p z => some (32, place 0x87C00000 [(s.toNat, 28), (d.toNat, 17), (a.toNat, 12), (p.toNat, 4), (z.toNat, 3)])
  | .vst s d a p => some (32, place 0x87C00001 [(s.toNat, 28), (d.toNat, 17), (a.toNat, 12), (p.toNat, 4)])
  | .vlds s d a b p z => some (32, place 0x87C00002 [(s.toNat, 28), (d.toNat, 17), (a.toNat, 12), (b.toNat, 7), (p.toNat, 4), (z.toNat, 3)])
  | .vsts s d a b p => some (32, place 0x87C00003 [(s.toNat, 28), (d.toNat, 17), (a.toNat, 12), (b.toNat, 7), (p.toNat, 4)])
  | .vldg s d a b p z => some (32, place 0x87C00004 [(s.toNat, 28), (d.toNat, 17), (a.toNat, 12), (b.toNat, 7), (p.toNat, 4), (z.toNat, 3)])
  | .vstsc s d a b p => some (32, place 0x87C00005 [(s.toNat, 28), (d.toNat, 17), (a.toNat, 12), (b.toNat, 7), (p.toNat, 4)])
  | .vadd s d a b p z => some (32, place 0x88000000 [(s.toNat, 28), (d.toNat, 17), (a.toNat, 12), (b.toNat, 7), (p.toNat, 4), (z.toNat, 3)])
  | .vsub s d a b p z => some (32, place 0x88000001 [(s.toNat, 28), (d.toNat, 17), (a.toNat, 12), (b.toNat, 7), (p.toNat, 4), (z.toNat, 3)])
  | .vmul s d a b p z => some (32, place 0x88000002 [(s.toNat, 28), (d.toNat, 17), (a.toNat, 12), (b.toNat, 7), (p.toNat, 4), (z.toNat, 3)])
  | .vfma s d a b p z => some (32, place 0x88000003 [(s.toNat, 28), (d.toNat, 17), (a.toNat, 12), (b.toNat, 7), (p.toNat, 4), (z.toNat, 3)])
  | .vfms s d a b p z => some (32, place 0x88000004 [(s.toNat, 28), (d.toNat, 17), (a.toNat, 12), (b.toNat, 7), (p.toNat, 4), (z.toNat, 3)])
  | .vfnma s d a b p z => some (32, place 0x88000005 [(s.toNat, 28), (d.toNat, 17), (a.toNat, 12), (b.toNat, 7), (p.toNat, 4), (z.toNat, 3)])
  | .vmin s d a b p z => some (32, place 0x88000006 [(s.toNat, 28), (d.toNat, 17), (a.toNat, 12), (b.toNat, 7), (p.toNat, 4), (z.toNat, 3)])
  | .vmax s d a b p z => some (32, place 0x88000007 [(s.toNat, 28), (d.toNat, 17), (a.toNat, 12), (b.toNat, 7), (p.toNat, 4), (z.toNat, 3)])
  | .vdiv s d a b p z => some (32, place 0x88400000 [(s.toNat, 28), (d.toNat, 17), (a.toNat, 12), (b.toNat, 7), (p.toNat, 4), (z.toNat, 3)])
  | .vsqrt s d a p z => some (32, place 0x88400001 [(s.toNat, 28), (d.toNat, 17), (a.toNat, 12), (p.toNat, 4), (z.toNat, 3)])
  | .vexp2 s d a p z => some (32, place 0x88400002 [(s.toNat, 28), (d.toNat, 17), (a.toNat, 12), (p.toNat, 4), (z.toNat, 3)])
  | .vlog2 s d a p z => some (32, place 0x88400003 [(s.toNat, 28), (d.toNat, 17), (a.toNat, 12), (p.toNat, 4), (z.toNat, 3)])
  | .vrcpe s d a p z => some (32, place 0x88400004 [(s.toNat, 28), (d.toNat, 17), (a.toNat, 12), (p.toNat, 4), (z.toNat, 3)])
  | .vrsqe s d a p z => some (32, place 0x88400005 [(s.toNat, 28), (d.toNat, 17), (a.toNat, 12), (p.toNat, 4), (z.toNat, 3)])
  | .vabs s d a p z => some (32, place 0x88400006 [(s.toNat, 28), (d.toNat, 17), (a.toNat, 12), (p.toNat, 4), (z.toNat, 3)])
  | .vneg s d a p z => some (32, place 0x88400007 [(s.toNat, 28), (d.toNat, 17), (a.toNat, 12), (p.toNat, 4), (z.toNat, 3)])
  | .vcmpeq s d a b p z => some (32, place 0x88800000 [(s.toNat, 28), (d.toNat, 17), (a.toNat, 12), (b.toNat, 7), (p.toNat, 4), (z.toNat, 3)])
  | .vcmpne s d a b p z => some (32, place 0x88800001 [(s.toNat, 28), (d.toNat, 17), (a.toNat, 12), (b.toNat, 7), (p.toNat, 4), (z.toNat, 3)])
  | .vcmplt s d a b p z => some (32, place 0x88800002 [(s.toNat, 28), (d.toNat, 17), (a.toNat, 12), (b.toNat, 7), (p.toNat, 4), (z.toNat, 3)])
  | .vcmple s d a b p z => some (32, place 0x88800003 [(s.toNat, 28), (d.toNat, 17), (a.toNat, 12), (b.toNat, 7), (p.toNat, 4), (z.toNat, 3)])
  | .vcmpun s d a b p z => some (32, place 0x88800004 [(s.toNat, 28), (d.toNat, 17), (a.toNat, 12), (b.toNat, 7), (p.toNat, 4), (z.toNat, 3)])
  | .vsel s d a b p => some (32, place 0x88800005 [(s.toNat, 28), (d.toNat, 17), (a.toNat, 12), (b.toNat, 7), (p.toNat, 4)])
  | .vcpsgn s d a b p z => some (32, place 0x88800006 [(s.toNat, 28), (d.toNat, 17), (a.toNat, 12), (b.toNat, 7), (p.toNat, 4), (z.toNat, 3)])
  | .vrint s d a p z => some (32, place 0x88800007 [(s.toNat, 28), (d.toNat, 17), (a.toNat, 12), (p.toNat, 4), (z.toNat, 3)])
  | .viadd s d a b p z => some (32, place 0x88C00000 [(s.toNat, 28), (d.toNat, 17), (a.toNat, 12), (b.toNat, 7), (p.toNat, 4), (z.toNat, 3)])
  | .visub s d a b p z => some (32, place 0x88C00001 [(s.toNat, 28), (d.toNat, 17), (a.toNat, 12), (b.toNat, 7), (p.toNat, 4), (z.toNat, 3)])
  | .vimul s d a b p z => some (32, place 0x88C00002 [(s.toNat, 28), (d.toNat, 17), (a.toNat, 12), (b.toNat, 7), (p.toNat, 4), (z.toNat, 3)])
  | .vimin s d a b p z => some (32, place 0x88C00003 [(s.toNat, 28), (d.toNat, 17), (a.toNat, 12), (b.toNat, 7), (p.toNat, 4), (z.toNat, 3)])
  | .vimax s d a b p z => some (32, place 0x88C00004 [(s.toNat, 28), (d.toNat, 17), (a.toNat, 12), (b.toNat, 7), (p.toNat, 4), (z.toNat, 3)])
  | .viminu s d a b p z => some (32, place 0x88C00005 [(s.toNat, 28), (d.toNat, 17), (a.toNat, 12), (b.toNat, 7), (p.toNat, 4), (z.toNat, 3)])
  | .vimaxu s d a b p z => some (32, place 0x88C00006 [(s.toNat, 28), (d.toNat, 17), (a.toNat, 12), (b.toNat, 7), (p.toNat, 4), (z.toNat, 3)])
  | .viabs s d a p z => some (32, place 0x88C00007 [(s.toNat, 28), (d.toNat, 17), (a.toNat, 12), (p.toNat, 4), (z.toNat, 3)])
  | .vand s d a b p z => some (32, place 0x89000000 [(s.toNat, 28), (d.toNat, 17), (a.toNat, 12), (b.toNat, 7), (p.toNat, 4), (z.toNat, 3)])
  | .vor s d a b p z => some (32, place 0x89000001 [(s.toNat, 28), (d.toNat, 17), (a.toNat, 12), (b.toNat, 7), (p.toNat, 4), (z.toNat, 3)])
  | .vxor s d a b p z => some (32, place 0x89000002 [(s.toNat, 28), (d.toNat, 17), (a.toNat, 12), (b.toNat, 7), (p.toNat, 4), (z.toNat, 3)])
  | .vandn s d a b p z => some (32, place 0x89000003 [(s.toNat, 28), (d.toNat, 17), (a.toNat, 12), (b.toNat, 7), (p.toNat, 4), (z.toNat, 3)])
  | .vshl s d a b p z => some (32, place 0x89000004 [(s.toNat, 28), (d.toNat, 17), (a.toNat, 12), (b.toNat, 7), (p.toNat, 4), (z.toNat, 3)])
  | .vshr s d a b p z => some (32, place 0x89000005 [(s.toNat, 28), (d.toNat, 17), (a.toNat, 12), (b.toNat, 7), (p.toNat, 4), (z.toNat, 3)])
  | .vsar s d a b p z => some (32, place 0x89000006 [(s.toNat, 28), (d.toNat, 17), (a.toNat, 12), (b.toNat, 7), (p.toNat, 4), (z.toNat, 3)])
  | .viaddsat s d a b p z => some (32, place 0x89000007 [(s.toNat, 28), (d.toNat, 17), (a.toNat, 12), (b.toNat, 7), (p.toNat, 4), (z.toNat, 3)])
  | .vicmpeq s d a b p z => some (32, place 0x89400000 [(s.toNat, 28), (d.toNat, 17), (a.toNat, 12), (b.toNat, 7), (p.toNat, 4), (z.toNat, 3)])
  | .vicmpne s d a b p z => some (32, place 0x89400001 [(s.toNat, 28), (d.toNat, 17), (a.toNat, 12), (b.toNat, 7), (p.toNat, 4), (z.toNat, 3)])
  | .vicmplt s d a b p z => some (32, place 0x89400002 [(s.toNat, 28), (d.toNat, 17), (a.toNat, 12), (b.toNat, 7), (p.toNat, 4), (z.toNat, 3)])
  | .vicmpltu s d a b p z => some (32, place 0x89400003 [(s.toNat, 28), (d.toNat, 17), (a.toNat, 12), (b.toNat, 7), (p.toNat, 4), (z.toNat, 3)])
  | .vicmple s d a b p z => some (32, place 0x89400004 [(s.toNat, 28), (d.toNat, 17), (a.toNat, 12), (b.toNat, 7), (p.toNat, 4), (z.toNat, 3)])
  | .vicmpleu s d a b p z => some (32, place 0x89400005 [(s.toNat, 28), (d.toNat, 17), (a.toNat, 12), (b.toNat, 7), (p.toNat, 4), (z.toNat, 3)])
  | .vimulh s d a b p z => some (32, place 0x89400006 [(s.toNat, 28), (d.toNat, 17), (a.toNat, 12), (b.toNat, 7), (p.toNat, 4), (z.toNat, 3)])
  | .vimulhu s d a b p z => some (32, place 0x89400007 [(s.toNat, 28), (d.toNat, 17), (a.toNat, 12), (b.toNat, 7), (p.toNat, 4), (z.toNat, 3)])
  | .vperm s d a b p z => some (32, place 0x89800000 [(s.toNat, 28), (d.toNat, 17), (a.toNat, 12), (b.toNat, 7), (p.toNat, 4), (z.toNat, 3)])
  | .vslideup s d a b p z => some (32, place 0x89800001 [(s.toNat, 28), (d.toNat, 17), (a.toNat, 12), (b.toNat, 7), (p.toNat, 4), (z.toNat, 3)])
  | .vslidedn s d a b p z => some (32, place 0x89800002 [(s.toNat, 28), (d.toNat, 17), (a.toNat, 12), (b.toNat, 7), (p.toNat, 4), (z.toNat, 3)])
  | .vbcast s d a p z => some (32, place 0x89800003 [(s.toNat, 28), (d.toNat, 17), (a.toNat, 12), (p.toNat, 4), (z.toNat, 3)])
  | .vext s d a b => some (32, place 0x89800004 [(s.toNat, 28), (d.toNat, 17), (a.toNat, 12), (b.toNat, 7)])
  | .vins s d a b => some (32, place 0x89800005 [(s.toNat, 28), (d.toNat, 17), (a.toNat, 12), (b.toNat, 7)])
  | .vzip s d a b p z => some (32, place 0x89800006 [(s.toNat, 28), (d.toNat, 17), (a.toNat, 12), (b.toNat, 7), (p.toNat, 4), (z.toNat, 3)])
  | .vunzip s d a b p z => some (32, place 0x89800007 [(s.toNat, 28), (d.toNat, 17), (a.toNat, 12), (b.toNat, 7), (p.toNat, 4), (z.toNat, 3)])
  | .vredadd s d a p => some (32, place 0x89C00000 [(s.toNat, 28), (d.toNat, 17), (a.toNat, 12), (p.toNat, 4)])
  | .vredmax s d a p => some (32, place 0x89C00001 [(s.toNat, 28), (d.toNat, 17), (a.toNat, 12), (p.toNat, 4)])
  | .vredmin s d a p => some (32, place 0x89C00002 [(s.toNat, 28), (d.toNat, 17), (a.toNat, 12), (p.toNat, 4)])
  | .viredadd s d a p => some (32, place 0x89C00003 [(s.toNat, 28), (d.toNat, 17), (a.toNat, 12), (p.toNat, 4)])
  | .viredmax s d a p => some (32, place 0x89C00004 [(s.toNat, 28), (d.toNat, 17), (a.toNat, 12), (p.toNat, 4)])
  | .viredmin s d a p => some (32, place 0x89C00005 [(s.toNat, 28), (d.toNat, 17), (a.toNat, 12), (p.toNat, 4)])
  | .vredand s d a p => some (32, place 0x89C00006 [(s.toNat, 28), (d.toNat, 17), (a.toNat, 12), (p.toNat, 4)])
  | .vredor s d a p => some (32, place 0x89C00007 [(s.toNat, 28), (d.toNat, 17), (a.toNat, 12), (p.toNat, 4)])
  | .vcvt s d a p z => some (32, place 0x8A000000 [(s.toNat, 28), (d.toNat, 17), (a.toNat, 12), (p.toNat, 4), (z.toNat, 3)])
  | .vcvtfi s d a p z => some (32, place 0x8A000001 [(s.toNat, 28), (d.toNat, 17), (a.toNat, 12), (p.toNat, 4), (z.toNat, 3)])
  | .vcvtif s d a p z => some (32, place 0x8A000002 [(s.toNat, 28), (d.toNat, 17), (a.toNat, 12), (p.toNat, 4), (z.toNat, 3)])
  | .vnarrow s d a p z => some (32, place 0x8A000003 [(s.toNat, 28), (d.toNat, 17), (a.toNat, 12), (p.toNat, 4), (z.toNat, 3)])
  | .vwiden s d a p z => some (32, place 0x8A000004 [(s.toNat, 28), (d.toNat, 17), (a.toNat, 12), (p.toNat, 4), (z.toNat, 3)])
  | .vrand s d a p z => some (32, place 0x8A000005 [(s.toNat, 28), (d.toNat, 17), (a.toNat, 12), (p.toNat, 4), (z.toNat, 3)])
  | .dmask s d a b p z => some (32, place 0x8A000006 [(s.toNat, 28), (d.toNat, 17), (a.toNat, 12), (b.toNat, 7), (p.toNat, 4), (z.toNat, 3)])
  | .vmov s d a p z => some (32, place 0x8A000007 [(s.toNat, 28), (d.toNat, 17), (a.toNat, 12), (p.toNat, 4), (z.toNat, 3)])
  | .pand s d a b => some (32, place 0x8A400000 [(s.toNat, 28), (d.toNat, 17), (a.toNat, 12), (b.toNat, 7)])
  | .por s d a b => some (32, place 0x8A400001 [(s.toNat, 28), (d.toNat, 17), (a.toNat, 12), (b.toNat, 7)])
  | .pxor s d a b => some (32, place 0x8A400002 [(s.toNat, 28), (d.toNat, 17), (a.toNat, 12), (b.toNat, 7)])
  | .pandn s d a b => some (32, place 0x8A400003 [(s.toNat, 28), (d.toNat, 17), (a.toNat, 12), (b.toNat, 7)])
  | .pnot s d a => some (32, place 0x8A400004 [(s.toNat, 28), (d.toNat, 17), (a.toNat, 12)])
  | .pmov s d a => some (32, place 0x8A400005 [(s.toNat, 28), (d.toNat, 17), (a.toNat, 12)])
  | .pget s d a => some (32, place 0x8A400006 [(s.toNat, 28), (d.toNat, 17), (a.toNat, 12)])
  | .pcnt s d a => some (32, place 0x8A400007 [(s.toNat, 28), (d.toNat, 17), (a.toNat, 12)])
  | .pfirst s d a => some (32, place 0x8A400008 [(s.toNat, 28), (d.toNat, 17), (a.toNat, 12)])
  | .rand s d a => some (32, place 0x8A400009 [(s.toNat, 28), (d.toNat, 17), (a.toNat, 12)])
  | .qnt s d a e => some (32, place 0x8A800000 [(s.toNat, 28), (d.toNat, 17), (a.toNat, 12), (e.toNat, 4)])
  | .qntb s d a e => some (32, place 0x8A800001 [(s.toNat, 28), (d.toNat, 17), (a.toNat, 12), (e.toNat, 4)])
  | .dqnt s d a e => some (32, place 0x8A800002 [(s.toNat, 28), (d.toNat, 17), (a.toNat, 12), (e.toNat, 4)])
  | .strd s d e => some (32, place 0x8A800003 [(s.toNat, 28), (d.toNat, 17), (e.toNat, 4)])
  | .stclr s e => some (32, place 0x8A800004 [(s.toNat, 28), (e.toNat, 4)])
  | .stfrz s e => some (32, place 0x8A800005 [(s.toNat, 28), (e.toNat, 4)])
  | .stsync s c => some (32, place 0x8A800006 [(s.toNat, 28), (c.toNat, 12)])
  | .vstS s d a e => some (32, place 0x8A800007 [(s.toNat, 28), (d.toNat, 17), (a.toNat, 12), (e.toNat, 4)])
  | .vstsS s d a b e => some (32, place 0x8A800008 [(s.toNat, 28), (d.toNat, 17), (a.toNat, 12), (b.toNat, 7), (e.toNat, 4)])
  | .vstscS s d a b e => some (32, place 0x8A800009 [(s.toNat, 28), (d.toNat, 17), (a.toNat, 12), (b.toNat, 7), (e.toNat, 4)])
  | .oclm s d a => some (32, place 0x8AC00000 [(s.toNat, 28), (d.toNat, 17), (a.toNat, 12)])
  | .orel s a => some (32, place 0x8AC00001 [(s.toNat, 28), (a.toNat, 12)])
  | .old s o a b e => some (32, place 0x8AC00002 [(s.toNat, 28), (o.toNat, 17), (a.toNat, 12), (b.toNat, 7), (e.toNat, 4)])
  | .mma s d o q e => some (32, place 0x8AC00003 [(s.toNat, 28), (d.toNat, 17), (o.toNat, 12), (q.toNat, 7), (e.toNat, 4)])
  | .mmaZ s d o q e => some (32, place 0x8AC00004 [(s.toNat, 28), (d.toNat, 17), (o.toNat, 12), (q.toNat, 7), (e.toNat, 4)])
  | .ard s d a b => some (32, place 0x8AC00005 [(s.toNat, 28), (d.toNat, 17), (a.toNat, 12), (b.toNat, 7)])
  | .asto s d a b e => some (32, place 0x8AC00006 [(s.toNat, 28), (d.toNat, 17), (a.toNat, 12), (b.toNat, 7), (e.toNat, 4)])
  | .arel s a => some (32, place 0x8AC00007 [(s.toNat, 28), (a.toNat, 12)])
  | .send s d a b c => some (32, place 0x8B000000 [(s.toNat, 28), (d.toNat, 17), (a.toNat, 12), (b.toNat, 7), (c.toNat, 5)])
  | .sendhost s d a b c => some (32, place 0x8B000001 [(s.toNat, 28), (d.toNat, 17), (a.toNat, 12), (b.toNat, 7), (c.toNat, 5)])
  | .put s d a b c => some (32, place 0x8B000002 [(s.toNat, 28), (d.toNat, 17), (a.toNat, 12), (b.toNat, 7), (c.toNat, 5)])
  | .rfadd s d a b c => some (32, place 0x8B000003 [(s.toNat, 28), (d.toNat, 17), (a.toNat, 12), (b.toNat, 7), (c.toNat, 5)])
  | .rfaddT s d a b c => some (32, place 0x8B000004 [(s.toNat, 28), (d.toNat, 17), (a.toNat, 12), (b.toNat, 7), (c.toNat, 5)])
  | .vfaddT s d a b c => some (32, place 0x8B000005 [(s.toNat, 28), (d.toNat, 17), (a.toNat, 12), (b.toNat, 7), (c.toNat, 5)])
  | .tsopen s d a c => some (32, place 0x8B000006 [(s.toNat, 28), (d.toNat, 17), (a.toNat, 12), (c.toNat, 5)])
  | .tsclose s d a c => some (32, place 0x8B000007 [(s.toNat, 28), (d.toNat, 17), (a.toNat, 12), (c.toNat, 5)])
  | .tskip s d a b c => some (32, place 0x8B000008 [(s.toNat, 28), (d.toNat, 17), (a.toNat, 12), (b.toNat, 7), (c.toNat, 5)])
  | .tdrain s a c => some (32, place 0x8B000009 [(s.toNat, 28), (a.toNat, 12), (c.toNat, 5)])
  | .halo s d a b c => some (32, place 0x8B00000A [(s.toNat, 28), (d.toNat, 17), (a.toNat, 12), (b.toNat, 7), (c.toNat, 5)])
  | .zwatch s d a b => some (32, place 0x8B00000B [(s.toNat, 28), (d.toNat, 17), (a.toNat, 12), (b.toNat, 7)])
  | .aaddW s d a b c => some (32, place 0x8B400000 [(s.toNat, 28), (d.toNat, 17), (a.toNat, 12), (b.toNat, 7), (c.toNat, 5)])
  | .aaddfW s d a b c => some (32, place 0x8B400001 [(s.toNat, 28), (d.toNat, 17), (a.toNat, 12), (b.toNat, 7), (c.toNat, 5)])
  | .asminW s d a b c => some (32, place 0x8B400002 [(s.toNat, 28), (d.toNat, 17), (a.toNat, 12), (b.toNat, 7), (c.toNat, 5)])
  | .asminfW s d a b c => some (32, place 0x8B400003 [(s.toNat, 28), (d.toNat, 17), (a.toNat, 12), (b.toNat, 7), (c.toNat, 5)])
  | .asmaxW s d a b c => some (32, place 0x8B400004 [(s.toNat, 28), (d.toNat, 17), (a.toNat, 12), (b.toNat, 7), (c.toNat, 5)])
  | .asmaxfW s d a b c => some (32, place 0x8B400005 [(s.toNat, 28), (d.toNat, 17), (a.toNat, 12), (b.toNat, 7), (c.toNat, 5)])
  | .auminW s d a b c => some (32, place 0x8B400006 [(s.toNat, 28), (d.toNat, 17), (a.toNat, 12), (b.toNat, 7), (c.toNat, 5)])
  | .auminfW s d a b c => some (32, place 0x8B400007 [(s.toNat, 28), (d.toNat, 17), (a.toNat, 12), (b.toNat, 7), (c.toNat, 5)])
  | .aumaxW s d a b c => some (32, place 0x8B400008 [(s.toNat, 28), (d.toNat, 17), (a.toNat, 12), (b.toNat, 7), (c.toNat, 5)])
  | .aumaxfW s d a b c => some (32, place 0x8B400009 [(s.toNat, 28), (d.toNat, 17), (a.toNat, 12), (b.toNat, 7), (c.toNat, 5)])
  | .aandW s d a b c => some (32, place 0x8B40000A [(s.toNat, 28), (d.toNat, 17), (a.toNat, 12), (b.toNat, 7), (c.toNat, 5)])
  | .aandfW s d a b c => some (32, place 0x8B40000B [(s.toNat, 28), (d.toNat, 17), (a.toNat, 12), (b.toNat, 7), (c.toNat, 5)])
  | .aorW s d a b c => some (32, place 0x8B40000C [(s.toNat, 28), (d.toNat, 17), (a.toNat, 12), (b.toNat, 7), (c.toNat, 5)])
  | .aorfW s d a b c => some (32, place 0x8B40000D [(s.toNat, 28), (d.toNat, 17), (a.toNat, 12), (b.toNat, 7), (c.toNat, 5)])
  | .axorW s d a b c => some (32, place 0x8B40000E [(s.toNat, 28), (d.toNat, 17), (a.toNat, 12), (b.toNat, 7), (c.toNat, 5)])
  | .axorfW s d a b c => some (32, place 0x8B40000F [(s.toNat, 28), (d.toNat, 17), (a.toNat, 12), (b.toNat, 7), (c.toNat, 5)])
  | .aswapW s d a b c => some (32, place 0x8B400010 [(s.toNat, 28), (d.toNat, 17), (a.toNat, 12), (b.toNat, 7), (c.toNat, 5)])
  | .acasW s d a b c => some (32, place 0x8B400011 [(s.toNat, 28), (d.toNat, 17), (a.toNat, 12), (b.toNat, 7), (c.toNat, 5)])
  | .aaddD s d a b c => some (32, place 0x8B800000 [(s.toNat, 28), (d.toNat, 17), (a.toNat, 12), (b.toNat, 7), (c.toNat, 5)])
  | .aaddfD s d a b c => some (32, place 0x8B800001 [(s.toNat, 28), (d.toNat, 17), (a.toNat, 12), (b.toNat, 7), (c.toNat, 5)])
  | .asminD s d a b c => some (32, place 0x8B800002 [(s.toNat, 28), (d.toNat, 17), (a.toNat, 12), (b.toNat, 7), (c.toNat, 5)])
  | .asminfD s d a b c => some (32, place 0x8B800003 [(s.toNat, 28), (d.toNat, 17), (a.toNat, 12), (b.toNat, 7), (c.toNat, 5)])
  | .asmaxD s d a b c => some (32, place 0x8B800004 [(s.toNat, 28), (d.toNat, 17), (a.toNat, 12), (b.toNat, 7), (c.toNat, 5)])
  | .asmaxfD s d a b c => some (32, place 0x8B800005 [(s.toNat, 28), (d.toNat, 17), (a.toNat, 12), (b.toNat, 7), (c.toNat, 5)])
  | .auminD s d a b c => some (32, place 0x8B800006 [(s.toNat, 28), (d.toNat, 17), (a.toNat, 12), (b.toNat, 7), (c.toNat, 5)])
  | .auminfD s d a b c => some (32, place 0x8B800007 [(s.toNat, 28), (d.toNat, 17), (a.toNat, 12), (b.toNat, 7), (c.toNat, 5)])
  | .aumaxD s d a b c => some (32, place 0x8B800008 [(s.toNat, 28), (d.toNat, 17), (a.toNat, 12), (b.toNat, 7), (c.toNat, 5)])
  | .aumaxfD s d a b c => some (32, place 0x8B800009 [(s.toNat, 28), (d.toNat, 17), (a.toNat, 12), (b.toNat, 7), (c.toNat, 5)])
  | .aandD s d a b c => some (32, place 0x8B80000A [(s.toNat, 28), (d.toNat, 17), (a.toNat, 12), (b.toNat, 7), (c.toNat, 5)])
  | .aandfD s d a b c => some (32, place 0x8B80000B [(s.toNat, 28), (d.toNat, 17), (a.toNat, 12), (b.toNat, 7), (c.toNat, 5)])
  | .aorD s d a b c => some (32, place 0x8B80000C [(s.toNat, 28), (d.toNat, 17), (a.toNat, 12), (b.toNat, 7), (c.toNat, 5)])
  | .aorfD s d a b c => some (32, place 0x8B80000D [(s.toNat, 28), (d.toNat, 17), (a.toNat, 12), (b.toNat, 7), (c.toNat, 5)])
  | .axorD s d a b c => some (32, place 0x8B80000E [(s.toNat, 28), (d.toNat, 17), (a.toNat, 12), (b.toNat, 7), (c.toNat, 5)])
  | .axorfD s d a b c => some (32, place 0x8B80000F [(s.toNat, 28), (d.toNat, 17), (a.toNat, 12), (b.toNat, 7), (c.toNat, 5)])
  | .aswapD s d a b c => some (32, place 0x8B800010 [(s.toNat, 28), (d.toNat, 17), (a.toNat, 12), (b.toNat, 7), (c.toNat, 5)])
  | .acasD s d a b c => some (32, place 0x8B800011 [(s.toNat, 28), (d.toNat, 17), (a.toNat, 12), (b.toNat, 7), (c.toNat, 5)])
  | .arrive s n => some (32, place 0x8BC00000 [(s.toNat, 28), (n.toNat, 12)])
  | .wait s d n => some (32, place 0x8BC00001 [(s.toNat, 28), (d.toNat, 17), (n.toNat, 12)])
  | .arvdrop s n => some (32, place 0x8BC00002 [(s.toNat, 28), (n.toNat, 12)])
  | .fence s c => some (32, place 0x8BC00003 [(s.toNat, 28), (c.toNat, 12)])
  | .fenceAcq s c => some (32, place 0x8BC20003 [(s.toNat, 28), (c.toNat, 12)])
  | .fenceRel s c => some (32, place 0x8BC40003 [(s.toNat, 28), (c.toNat, 12)])
  | .fenceSc s c => some (32, place 0x8BC60003 [(s.toNat, 28), (c.toNat, 12)])
  | .genend s => some (32, place 0x8BC00004 [(s.toNat, 28)])
  | .genq s d q => some (32, place 0x8BC00005 [(s.toNat, 28), (d.toNat, 17), (q.toNat, 12)])
  | .migrate s d a => some (32, place 0x8BC00006 [(s.toNat, 28), (d.toNat, 17), (a.toNat, 12)])
  | .tret s a => some (32, place 0x8F800000 [(s.toNat, 28), (a.toNat, 12)])
  | .xrd s d a b => some (32, place 0x8F800001 [(s.toNat, 28), (d.toNat, 17), (a.toNat, 12), (b.toNat, 7)])
  | .xwr s d a b => some (32, place 0x8F800002 [(s.toNat, 28), (d.toNat, 17), (a.toNat, 12), (b.toNat, 7)])
  | .eresume s a => some (32, place 0x8F800003 [(s.toNat, 28), (a.toNat, 12)])
  | .eabort s a => some (32, place 0x8F800004 [(s.toNat, 28), (a.toNat, 12)])
  | .xinv s a b => some (32, place 0x8F800005 [(s.toNat, 28), (a.toNat, 12), (b.toNat, 7)])
  | .cMv d a => some (16, place 0x0000 [(d.toNat, 5), (a.toNat, 0)])
  | .cAdd d a => some (16, place 0x0400 [(d.toNat, 5), (a.toNat, 0)])
  | .cSub d a => some (16, place 0x0800 [(d.toNat, 5), (a.toNat, 0)])
  | .cAnd d a => some (16, place 0x0C00 [(d.toNat, 5), (a.toNat, 0)])
  | .cOr d a => some (16, place 0x1000 [(d.toNat, 5), (a.toNat, 0)])
  | .cXor d a => some (16, place 0x1400 [(d.toNat, 5), (a.toNat, 0)])
  | .cAddi d i => some (16, place 0x1800 [(d.toNat, 5), (i.toNat, 0)])
  | .cLi d i => some (16, place 0x1C00 [(d.toNat, 5), (i.toNat, 0)])
  | .cSlli d h => some (16, place 0x2000 [(d.toNat, 5), (h.toNat, 0)])
  | .cSrli d h => some (16, place 0x2400 [(d.toNat, 5), (h.toNat, 0)])
  | .cSrai d h => some (16, place 0x2800 [(d.toNat, 5), (h.toNat, 0)])
  | .cLd d a => some (16, place 0x2C00 [(d.toNat, 5), (a.toNat, 0)])
  | .cSd d a => some (16, place 0x3000 [(d.toNat, 5), (a.toNat, 0)])
  | .cBeqz d o => some (16, place 0x3400 [(d.toNat, 5), (o.toNat, 0)])
  | .cBnez d o => some (16, place 0x3800 [(d.toNat, 5), (o.toNat, 0)])
  | .cJ o => some (16, place 0x3C00 [(o.toNat, 0)])
  | .cJr a => some (16, place 0x4000 [(a.toNat, 0)])
  | .cExit => some (16, place 0x4400 [])
  | .cHint h => some (16, place 0x4800 [(h.toNat, 0)])
  | _ => none

end Sys2Proof

end
end

