-- ==== Sys2Proof/Machine/Latency.lean ====
section
/-! DEFINITION. The registers that an instruction reads, for the stall count check (R205, R208) and for uncorrectable
errors in registers (R355). A write that merges under a predicate is no read of its destination (log entry 31). -/

namespace Sys2Proof

open Machine

/-- The registers that an instruction reads, by the keys of Machine.keyG to Machine.keyB; an event reads none. -/
def Instr.uses : Instr → List Nat
  | .add _ _ a b | .sub _ _ a b | .and _ _ a b | .or _ _ a b | .xor _ _ a b | .andn _ _ a b | .sll _ _ a b | .srl _ _ a b
  | .sra _ _ a b | .rol _ _ a b | .ror _ _ a b | .slt _ _ a b | .sltu _ _ a b | .seq _ _ a b | .min _ _ a b | .max _ _ a b
  | .minu _ _ a b | .maxu _ _ a b | .mul _ _ a b | .mulh _ _ a b | .mulhu _ _ a b | .div _ _ a b | .divu _ _ a b
  | .rem _ _ a b | .remu _ _ a b | .bext _ _ a b | .sext _ _ a b | .start _ _ a b | .setpri _ a b | .recvany _ _ a b
  | .recvanyT _ _ a b | .ldxb _ _ a b | .ldxbu _ _ a b | .ldxh _ _ a b | .ldxhu _ _ a b | .ldxw _ _ a b | .ldxwu _ _ a b
  | .ldxd _ _ a b | .gldb _ _ a b | .gldh _ _ a b | .gldw _ _ a b | .gldd _ _ a b | .spmk _ _ a b | .iflush _ a b
  | .ard _ _ a b | .zwatch _ _ a b | .xrd _ _ a b | .xinv _ a b => [keyG a.toNat, keyG b.toNat]
  | .clz _ _ a | .ctz _ _ a | .popc _ _ a | .bswap _ _ a | .addi _ _ a _ | .andi _ _ a _ | .ori _ _ a _ | .xori _ _ a _
  | .slti _ _ a _ | .slli _ _ a _ | .srli _ _ a _ | .srai _ _ a _ | .rori _ _ a _ | .lih _ _ a _ | .ldcx _ _ a _
  | .addc _ _ a _ | .beqz _ a _ | .bnez _ a _ | .bltz _ a _ | .bgez _ a _ | .bgtz _ a _ | .blez _ a _ | .jr _ a | .callr _ a
  | .park _ _ a | .chmset _ _ a | .chmclr _ _ a | .qwr _ _ a | .ewr _ _ a | .wrs _ a _ | .ldb _ _ a _ | .ldbu _ _ a _
  | .ldh _ _ a _ | .ldhu _ _ a _ | .ldw _ _ a _ | .ldwu _ _ a _ | .ldd _ _ a _ | .bpset _ _ a | .sptst _ _ a | .spcst _ _ a _
  | .pmov _ _ a | .rand _ _ a | .oclm _ _ a | .orel _ a | .arel _ a | .tsopen _ _ a _ | .tsclose _ _ a _ | .tdrain _ a _
  | .migrate _ _ a | .tret _ a | .eresume _ a | .eabort _ a | .cMv _ a | .cLd _ a | .cJr a => [keyG a.toNat]
  | .bins _ d a b | .stxb _ d a b | .stxh _ d a b | .stxw _ d a b | .stxd _ d a b | .gstb _ d a b | .gsth _ d a b
  | .gstw _ d a b | .gstd _ d a b | .send _ d a b _ | .sendhost _ d a b _ | .rfadd _ d a b _ | .tskip _ d a b _
  | .halo _ d a b _ | .aaddW _ d a b _ | .aaddfW _ d a b _ | .asminW _ d a b _ | .asminfW _ d a b _ | .asmaxW _ d a b _
  | .asmaxfW _ d a b _ | .auminW _ d a b _ | .auminfW _ d a b _ | .aumaxW _ d a b _ | .aumaxfW _ d a b _ | .aandW _ d a b _
  | .aandfW _ d a b _ | .aorW _ d a b _ | .aorfW _ d a b _ | .axorW _ d a b _ | .axorfW _ d a b _ | .aswapW _ d a b _
  | .aaddD _ d a b _ | .aaddfD _ d a b _ | .asminD _ d a b _ | .asminfD _ d a b _ | .asmaxD _ d a b _ | .asmaxfD _ d a b _
  | .auminD _ d a b _ | .auminfD _ d a b _ | .aumaxD _ d a b _ | .aumaxfD _ d a b _ | .aandD _ d a b _ | .aandfD _ d a b _
  | .aorD _ d a b _ | .aorfD _ d a b _ | .axorD _ d a b _ | .axorfD _ d a b _ | .aswapD _ d a b _ | .xwr _ d a b
    => [keyG d.toNat, keyG a.toNat, keyG b.toNat]
  | .adpc _ _ _ | .ldc _ _ _ | .eldc _ _ _ | .vldc _ _ _ | .br _ _ | .call _ _ | .exit _ | .yield _ | .qrd _ _ _ | .rds _ _ _
  | .copyGo _ _ | .pfx _ _ _ _ _ _ _ | .nop _ _ | .stsync _ _ | .arrive _ _ | .wait _ _ _ | .arvdrop _ _ | .fence _ _
  | .fenceAcq _ _ | .fenceRel _ _ | .fenceSc _ _ | .genend _ | .genq _ _ _ | .cLi _ _ | .cJ _ | .cExit | .cHint _
  | .launchRecord _ | .wakeArrival _ | .selection _ | .messageArrival _ | .heldMessagePlacement _ _ | .corePartEnd _
  | .completionReport _ | .launchCompletion _ _ | .rectangleRelease _ _ | .stopCmd _ | .resumeCmd _ | .launchResumption _ _
  | .endCmd _ | .commandMalformed _ | .transactionCompletion _ | .replyArrival _ | .retryResend _ | .putAtTarget _
  | .atomicAtHome _ | .fpUpdateAtHome _ | .ticketedUpdateArrival _ | .copyBlockWrite _ _ | .copyCompletion _ _
  | .haloArrival _ | .haloAcknowledgement _ | .arbitrationRound _ _ | .exhaustionNotice _ | .congestionNotice _ _
  | .retransmission _ | .sutrePacketArrival _ _ | .accumulatorFlush _ _ | .flushMerge _ | .barrierPhaseCompletion _ _ _
  | .deadlock _ _ | .generationBoundary _ | .generationResumption _ | .immigrantBatch _ | .trapEntry _ | .hostWake _
  | .pageWalk _ _ | .invalidatePage _ | .invalidateAsid _ | .invalidateMalformed _ | .portRetryExhausted _ _ | .packageLost _
  | .meshLinkError _ _ | .machineCheck _ | .coreHalt _ | .haltRelease _ | .matrixEnginePowerDown _ | .matrixEngineReady _
  | .packageReset | .unitStart | .recoveryLoad | .attestation | .mailboxUnknownCommand | .hsemRead _ | .hsemWrite _ _ _
  | .hostLinkReset _ | .dstopWrite _ _ | .debugStop _ | .drelWrite _ _ | .recordHomeOperation _ | .sequencePartQuery _
  | .fenceScOrderFixed _ _ | .partitionDescriptorWrite _ _ => []
  | .bpany _ a _ | .bpnone _ a _ | .pnot _ _ a | .pget _ _ a | .pcnt _ _ a | .pfirst _ _ a => [keyP a.toNat]
  | .ret _ => [keyG 31]
  | .erd _ _ a => [keyE a.toNat]
  | .stb _ d a _ | .sth _ d a _ | .stw _ d a _ | .std _ d a _ | .cAdd d a | .cSub d a | .cAnd d a | .cOr d a | .cXor d a
  | .cSd d a => [keyG d.toNat, keyG a.toNat]
  | .bld _ _ n b => [keyB n.toNat, keyG b.toNat]
  | .bst _ d n b => [keyG d.toNat, keyB n.toNat, keyG b.toNat]
  | .bldI _ _ n _ | .bprd _ _ n => [keyB n.toNat]
  | .bstI _ d n _ => [keyG d.toNat, keyB n.toNat]
  | .bpadd _ n a => [keyB n.toNat, keyG a.toNat]
  | .vld _ _ a p _ | .vbcast _ _ a p _ | .vrand _ _ a p _ => [keyG a.toNat, keyP p.toNat]
  | .vst _ d a p => [keyV d.toNat, keyG a.toNat, keyP p.toNat]
  | .vlds _ _ a b p _ | .dmask _ _ a b p _ => [keyG a.toNat, keyG b.toNat, keyP p.toNat]
  | .vsts _ d a b p => [keyV d.toNat, keyG a.toNat, keyG b.toNat, keyP p.toNat]
  | .vldg _ _ a b p _ => [keyG a.toNat, keyV b.toNat, keyP p.toNat]
  | .vstsc _ d a b p => [keyV d.toNat, keyG a.toNat, keyV b.toNat, keyP p.toNat]
  | .vadd _ _ a b p _ | .vsub _ _ a b p _ | .vmul _ _ a b p _ | .vmin _ _ a b p _ | .vmax _ _ a b p _ | .vdiv _ _ a b p _
  | .vcmpeq _ _ a b p _ | .vcmpne _ _ a b p _ | .vcmplt _ _ a b p _ | .vcmple _ _ a b p _ | .vcmpun _ _ a b p _
  | .vsel _ _ a b p | .vcpsgn _ _ a b p _ | .viadd _ _ a b p _ | .visub _ _ a b p _ | .vimul _ _ a b p _ | .vimin _ _ a b p _
  | .vimax _ _ a b p _ | .viminu _ _ a b p _ | .vimaxu _ _ a b p _ | .vand _ _ a b p _ | .vor _ _ a b p _ | .vxor _ _ a b p _
  | .vandn _ _ a b p _ | .vshl _ _ a b p _ | .vshr _ _ a b p _ | .vsar _ _ a b p _ | .viaddsat _ _ a b p _
  | .vicmpeq _ _ a b p _ | .vicmpne _ _ a b p _ | .vicmplt _ _ a b p _ | .vicmpltu _ _ a b p _ | .vicmple _ _ a b p _
  | .vicmpleu _ _ a b p _ | .vimulh _ _ a b p _ | .vimulhu _ _ a b p _ | .vperm _ _ a b p _ | .vzip _ _ a b p _
  | .vunzip _ _ a b p _ => [keyV a.toNat, keyV b.toNat, keyP p.toNat]
  | .vfma _ d a b p _ | .vfms _ d a b p _ | .vfnma _ d a b p _ => [keyV d.toNat, keyV a.toNat, keyV b.toNat, keyP p.toNat]
  | .vsqrt _ _ a p _ | .vexp2 _ _ a p _ | .vlog2 _ _ a p _ | .vrcpe _ _ a p _ | .vrsqe _ _ a p _ | .vabs _ _ a p _
  | .vneg _ _ a p _ | .vrint _ _ a p _ | .viabs _ _ a p _ | .vredadd _ _ a p | .vredmax _ _ a p | .vredmin _ _ a p
  | .viredadd _ _ a p | .viredmax _ _ a p | .viredmin _ _ a p | .vredand _ _ a p | .vredor _ _ a p | .vcvt _ _ a p _
  | .vcvtfi _ _ a p _ | .vcvtif _ _ a p _ | .vnarrow _ _ a p _ | .vwiden _ _ a p _ | .vmov _ _ a p _
    => [keyV a.toNat, keyP p.toNat]
  | .vslideup _ _ a b p _ | .vslidedn _ _ a b p _ => [keyV a.toNat, keyG b.toNat, keyP p.toNat]
  | .vext _ _ a b => [keyV a.toNat, keyG b.toNat]
  | .vins _ d a b => [keyV d.toNat, keyG a.toNat, keyG b.toNat]
  | .pand _ _ a b | .por _ _ a b | .pxor _ _ a b | .pandn _ _ a b => [keyP a.toNat, keyP b.toNat]
  | .qnt _ _ a e | .qntb _ _ a e | .dqnt _ _ a e => [keyV a.toNat, keyE e.toNat]
  | .strd _ _ e | .stclr _ e | .stfrz _ e | .mmaZ _ _ _ _ e => [keyE e.toNat]
  | .vstS _ d a e => [keyV d.toNat, keyG a.toNat, keyE e.toNat]
  | .vstsS _ d a b e => [keyV d.toNat, keyG a.toNat, keyG b.toNat, keyE e.toNat]
  | .vstscS _ d a b e => [keyV d.toNat, keyG a.toNat, keyV b.toNat, keyE e.toNat]
  | .old _ _ a b e => [keyG a.toNat, keyG b.toNat, keyE e.toNat]
  | .mma _ d _ _ e => [keyG d.toNat, keyE e.toNat]
  | .asto _ d a b e => [keyG d.toNat, keyG a.toNat, keyG b.toNat, keyE e.toNat]
  | .put _ d a b _ | .rfaddT _ d a b _ | .acasW _ d a b _ | .acasD _ d a b _
    => [keyG d.toNat, keyG a.toNat, keyG b.toNat, keyG (b+1).toNat]
  | .vfaddT _ d a b _ => [keyG d.toNat, keyG (d+1).toNat, keyG a.toNat, keyV b.toNat]
  | .cAddi d _ | .cSlli d _ | .cSrli d _ | .cSrai d _ | .cBeqz d _ | .cBnez d _ => [keyG d.toNat]

namespace Machine

/-- The registers that i reads in this state: a stat-tracked store also reads the predicate that its tensor operand names
(R286, R296). -/
def State.usesOf (s : State) (i : Instr) : List Nat :=
  match i with
  | .vstS _ _ _ e | .vstsS _ _ _ _ e | .vstscS _ _ _ _ e => keyP (tPg (s.readE e)).toNat :: i.uses
  | _ => i.uses

/-- A register that i reads does not satisfy the latency rule at the issuing context (R205); g0 and p0 hold no result. -/
def State.tooEarly (s : State) (i : Instr) : Bool :=
  (s.usesOf i).any fun k => k != keyG 0 && k != keyP 0 && decide (s.cx.clock < SMap.get 0 s.cx.ready k)

/-- R208: STAT.SCHK is 1 and a consumer issues too early. -/
def State.stallShort (s : State) (i : Instr) : Bool := wbit s.cx.stat 13 && s.tooEarly i

/-- The doublewords that n elements of w bits from element j on lie in. -/
def elementDws (w j n : Nat) : List Nat := if n = 0 then [] else span (j * w / 64) (ceilDiv ((j + n) * w) 64 - j * w / 64)

/-- The doublewords that a conversion of elements of x to elements of y reads: those of the elements that it converts (R280, R281). -/
def convertedDws (x y : Nat) : List Nat := elementDws x 0 (2048 / max x y)

/-- The vector registers of which i reads a part only, with the doublewords that it reads: one element, 64 bytes, the elements that a
permutation moves or a conversion takes, whether active or not (R278, R280, R281, R317). -/
def State.readsPart (s : State) : Instr → List (Nat × List Nat)
  | .vext _ _ a b => (s.dataWidth.map fun w => (keyV a.toNat, elementDws w ((s.readG b).toNat % (2048 / w)) 1)).toList
  | .vfaddT _ _ _ b _ => [(keyV b.toNat, List.range 8)]
  | .vzip _ _ a b _ _ => [(keyV a.toNat, List.range 16), (keyV b.toNat, List.range 16)]
  | .vslideup _ _ a b _ _ => (s.dataWidth.map fun w => (keyV a.toNat, elementDws w 0 (2048 / w - (s.readG b).toNat))).toList
  | .vslidedn _ _ a b _ _ => (s.dataWidth.map fun w =>
      (keyV a.toNat, elementDws w (s.readG b).toNat (2048 / w - (s.readG b).toNat))).toList
  | .vperm _ _ a b _ _ => if a = b then [] else (s.dataWidth.map fun w =>
      (keyV a.toNat, (List.range (2048 / w)).map fun i => lane w (s.readV b).toNat i % (2048 / w) * w / 64)).toList
  | .vwiden _ _ a _ _ => (s.intWidth.map fun w => (keyV a.toNat, convertedDws w (2 * w))).toList
  | .vcvt _ _ a _ _ => ((fltTy s.fmt1).bind fun x => (fltTy (s.cx.f2.getD 2)).map fun y => (keyV a.toNat, convertedDws x.bits y.bits)).toList
  | .vcvtfi _ _ a _ _ => ((fltTy s.fmt1).bind fun x => (s.intTy s.cx.f2).map fun y => (keyV a.toNat, convertedDws x.bits y.bits)).toList
  | .vcvtif _ _ a _ _ => ((s.intTy s.cx.f1).bind fun x => (fltTy (s.cx.f2.getD s.vf)).map fun y =>
      (keyV a.toNat, convertedDws x.bits y.bits)).toList
  | _ => []

/-- A register doubleword that i reads holds an uncorrectable error (R355). -/
def State.readsBad (s : State) (i : Instr) : Bool := s.cx.bad.any fun e =>
  (s.usesOf i).contains (e / 32) && ((s.readsPart i).find? fun r => r.1 == e / 32).all fun r => r.2.contains (e % 32)

end Machine

end Sys2Proof
end

