-- ==== Sys2Proof/Machine/Watch.lean ====
section
/-! DEFINITION. Watchpoints and breakpoints (spec 17, R352, R354), and the checks of classes 2 to 6 that stand before an
instruction's own (R197, R203, R218, R353, R428). -/

noncomputable section

namespace Sys2Proof

/-- The instructions that may not be prefixed (R218); of the returns that is ret, and not tret (DESIGN CHOICE, log entry 93). -/
def Instr.unprefixable : Instr → Bool
  | .pfx .. | .beqz .. | .bnez .. | .bltz .. | .bgez .. | .bgtz .. | .blez .. | .bpany .. | .bpnone .. | .br .. | .call ..
  | .jr .. | .callr .. | .ret .. | .exit .. | .cJ .. | .cJr .. | .cBeqz .. | .cBnez .. | .cExit => true
  | _ => false

/-- A hint, to which checks 3 to 6 do not apply (R203). -/
def Instr.isHint : Instr → Bool
  | .nop .. => true
  | _ => false

namespace Machine

/-- Bytes that an instruction accesses: 1 reads, 2 writes, 3 both; first address; how many. -/
abbrev Touch := Nat × Nat × Nat

/-! ### What an instruction accesses (R352) -/

/-- The active elements of a vector access with element addresses addr. -/
def State.touchLanes (s : State) (dir : Nat) (p : BitVec 3) (gather : Bool) (addr : Nat → Nat → Word) : List Touch :=
  match s.memWidth gather with
  | none => []
  | some w => (s.activeLanes p w).map fun i => (dir, (addr w i).toNat, w / 8)

/-- The bytes of a generic access that lie in this core. -/
def State.touchGeneric (s : State) (dir : Nat) (a b : BitVec 5) (n : Nat) : List Touch :=
  let p := s.idxAddr a b
  if wfld p 61 3 < 2 then (s.genericBytes p n).map fun x => (dir, x, 1) else []

/-- A bit-granular access; a store keeps the other bits of its bytes, and counts as both. -/
def touchBits (dir a n : Nat) : List Touch := let (f, k) := bitSpan a n; [(dir, f, k)]

/-- The format of asto's elements, with TGT of the record as memory holds it (R305). -/
def State.astoFormat (s : State) (t : Word) : Nat :=
  s.cx.f1.getD
    (if tRecen t then
      match s.launchOf s.curCore with
      | some l =>
        let va := l.recordVa (tRecid t)
        match s.walk (s.partOf s.curCore) va with
        | .leaf pte l2 => (Memory.byte s.gmem (ptePage pte + va % 2 ^ l2 + 10)).toNat
        | .stop _ => 0
      | none => 0
    else tTgt t)

/-- KIND 0: the local bytes that an instruction itself reads or writes. -/
def State.touchLocal (s : State) (i : Instr) : List Touch :=
  let const_ (k : Nat) : Touch := (1, 8 * (k % 256), 8)
  match i with
  | .ldc _ _ c => [const_ c.toNat]
  | .ldcx _ _ a c => [const_ (c.toNat + (s.readG a).toNat)]
  | .addc _ _ _ c => [const_ c.toNat]
  | .eldc _ _ c => [const_ c.toNat]
  | .vldc _ _ c => (List.range 32).map fun j => const_ (c.toNat + j)
  | .ldb _ _ a i => [(1, (s.immAddr a i 1).toNat, 1)]
  | .ldbu _ _ a i => [(1, (s.immAddr a i 1).toNat, 1)]
  | .ldh _ _ a i => [(1, (s.immAddr a i 2).toNat, 2)]
  | .ldhu _ _ a i => [(1, (s.immAddr a i 2).toNat, 2)]
  | .ldw _ _ a i => [(1, (s.immAddr a i 4).toNat, 4)]
  | .ldwu _ _ a i => [(1, (s.immAddr a i 4).toNat, 4)]
  | .ldd _ _ a i => [(1, (s.immAddr a i 8).toNat, 8)]
  | .stb _ _ a i => [(2, (s.immAddr a i 1).toNat, 1)]
  | .sth _ _ a i => [(2, (s.immAddr a i 2).toNat, 2)]
  | .stw _ _ a i => [(2, (s.immAddr a i 4).toNat, 4)]
  | .std _ _ a i => [(2, (s.immAddr a i 8).toNat, 8)]
  | .cLd _ a => [(1, (s.readG a).toNat, 8)]
  | .cSd _ a => [(2, (s.readG a).toNat, 8)]
  | .ldxb _ _ a b => [(1, (s.idxAddr a b).toNat, 1)]
  | .ldxbu _ _ a b => [(1, (s.idxAddr a b).toNat, 1)]
  | .ldxh _ _ a b => [(1, (s.idxAddr a b).toNat, 2)]
  | .ldxhu _ _ a b => [(1, (s.idxAddr a b).toNat, 2)]
  | .ldxw _ _ a b => [(1, (s.idxAddr a b).toNat, 4)]
  | .ldxwu _ _ a b => [(1, (s.idxAddr a b).toNat, 4)]
  | .ldxd _ _ a b => [(1, (s.idxAddr a b).toNat, 8)]
  | .stxb _ _ a b => [(2, (s.idxAddr a b).toNat, 1)]
  | .stxh _ _ a b => [(2, (s.idxAddr a b).toNat, 2)]
  | .stxw _ _ a b => [(2, (s.idxAddr a b).toNat, 4)]
  | .stxd _ _ a b => [(2, (s.idxAddr a b).toNat, 8)]
  | .bld _ _ n b => touchBits 1 (s.readB n).toNat (wfld (s.readG b) 0 6 + 1)
  | .bst _ _ n b => touchBits 3 (s.readB n).toNat (wfld (s.readG b) 0 6 + 1)
  | .bldI _ _ n w => touchBits 1 (s.readB n).toNat (w.toNat + 1)
  | .bstI _ _ n w => touchBits 3 (s.readB n).toNat (w.toNat + 1)
  | .gldb _ _ a b => s.touchGeneric 1 a b 1
  | .gldh _ _ a b => s.touchGeneric 1 a b 2
  | .gldw _ _ a b => s.touchGeneric 1 a b 4
  | .gldd _ _ a b => s.touchGeneric 1 a b 8
  | .gstb _ _ a b => s.touchGeneric 2 a b 1
  | .gsth _ _ a b => s.touchGeneric 2 a b 2
  | .gstw _ _ a b => s.touchGeneric 2 a b 4
  | .gstd _ _ a b => s.touchGeneric 2 a b 8
  | .vld _ _ a p _ => s.touchLanes 1 p false (s.unitAddr a)
  | .vst _ _ a p => s.touchLanes 2 p false (s.unitAddr a)
  | .vlds _ _ a b p _ => s.touchLanes 1 p false (s.strideAddr a b)
  | .vsts _ _ a b p => s.touchLanes 2 p false (s.strideAddr a b)
  | .vldg _ _ a b p _ => s.touchLanes 1 p true (s.offsetAddr a b)
  | .vstsc _ _ a b p => s.touchLanes 2 p true (s.offsetAddr a b)
  | .vstS _ _ a e => s.touchLanes 2 (tPg (s.readE e)) false (s.unitAddr a)
  | .vstsS _ _ a b e => s.touchLanes 2 (tPg (s.readE e)) false (s.strideAddr a b)
  | .vstscS _ _ a b e => s.touchLanes 2 (tPg (s.readE e)) true (s.offsetAddr a b)
  | .old _ _ a b _ => (List.range 32).map fun r => (1, (s.readG a + .ofNat 64 r * s.readG b).toNat, 128)
  | .asto _ _ a b e =>
    let f := s.astoFormat (s.readE e)
    if 1 ≤ f ∧ f ≤ 6 then (List.range 32).map fun r => (2, (s.readG a + .ofNat 64 r * s.readG b).toNat, 4 * fmtBits f) else []
  | .send _ _ a b _ => [(1, (s.readG a).toNat, wfld (s.readG b) 0 16)]
  | .sendhost _ _ a b _ => [(1, (s.readG a).toNat, wfld (s.readG b) 0 16)]
  | .put _ _ _ b _ => [(1, (s.readG b).toNat, (s.readG (b + 1)).toNat)]
  | .halo _ _ a b _ => [(1, (s.readG a).toNat, wfld (s.readG b) 32 12)]
  | _ => []

/-- The global range behind a generic pointer, if it names global memory. -/
def touchPointer (dir : Nat) (p : Word) (n : Nat) : List Touch := if wfld p 61 3 = 3 then [(dir, wfld p 0 48, n)] else []

/-- The target of an instruction with a destination word d: with DK = 3 the pointer a. -/
def touchTarget (dir : Nat) (d a : Word) (n : Nat) : List Touch := if destDK d = 3 then touchPointer dir a n else []

/-- KIND 1: the global virtual addresses that an instruction names at issue; of vfadd.t the whole line (DESIGN CHOICE, log entry 99). -/
def State.touchGlobal (s : State) (i : Instr) : List Touch :=
  let atomic_ (n : Nat) (d a : BitVec 5) : List Touch := touchTarget 3 (s.readG d) (s.readG a) n
  let elem : Nat := match s.updateFmt with
    | some f => elemBytes f
    | none => 0
  match i with
  | .put _ d a b _ => touchTarget 2 (s.readG d) (s.readG a) (s.readG (b + 1)).toNat
  | .rfadd _ d a _ _ | .rfaddT _ d a _ _ => atomic_ elem d a
  | .vfaddT _ d a _ _ => atomic_ 64 d a
  | .tskip _ d a b _ => atomic_ (64 * wfld (s.readG b) 32 24) d a
  | .aaddW _ d a _ _ | .aaddfW _ d a _ _ | .asminW _ d a _ _ | .asminfW _ d a _ _ | .asmaxW _ d a _ _ | .asmaxfW _ d a _ _
  | .auminW _ d a _ _ | .auminfW _ d a _ _ | .aumaxW _ d a _ _ | .aumaxfW _ d a _ _ | .aandW _ d a _ _ | .aandfW _ d a _ _
  | .aorW _ d a _ _ | .aorfW _ d a _ _ | .axorW _ d a _ _ | .axorfW _ d a _ _ | .aswapW _ d a _ _ | .acasW _ d a _ _ =>
    atomic_ 4 d a
  | .aaddD _ d a _ _ | .aaddfD _ d a _ _ | .asminD _ d a _ _ | .asminfD _ d a _ _ | .asmaxD _ d a _ _ | .asmaxfD _ d a _ _
  | .auminD _ d a _ _ | .auminfD _ d a _ _ | .aumaxD _ d a _ _ | .aumaxfD _ d a _ _ | .aandD _ d a _ _ | .aandfD _ d a _ _
  | .aorD _ d a _ _ | .aorfD _ d a _ _ | .axorD _ d a _ _ | .axorfD _ d a _ _ | .aswapD _ d a _ _ | .acasD _ d a _ _ =>
    atomic_ 8 d a
  | .copyGo _ _ =>
    let o := s.copyOf
    (List.range o.rows).flatMap fun j =>
      touchPointer 1 (o.srcPtr j) o.len ++ touchPointer (if o.acc = 0 then 2 else 3) (o.dstPtr j) o.dstRow ++
        if o.hasSide then touchPointer (if o.sfmt = 9 then 1 else 2) (o.side + .ofNat 64 (j * o.sideRow)) o.sideRow else []
  | _ => []

/-! ### Matching (R352, R354) -/

/-- What watch n of the core matches among accesses that its KIND checks, for context k: the lowest address that an
access shares with the watched block. -/
def Core.watchHit (c : Core) (k n kind : Nat) (ts : List Touch) : Option Nat :=
  let w := SMap.get (0 : Word) c.trap.wpc n
  let size := 2 ^ wfld w 0 6
  let base := alignDown (SMap.get (0 : Word) c.trap.wpa n).toNat size
  if wbit w 63 && wfld w 61 2 == kind && wbit w (32 + k) then
    ts.findSome? fun t =>
      if (kind == 2 || wfld w 59 2 &&& t.1 != 0) && overlaps t.2.1 t.2.2 base size then some (max t.2.1 base) else none
  else none

/-- The record of the lowest watch that matches; ts gives the accesses for each KIND. No instruction of CT matches, and
STAT.WS suppresses all. -/
def State.watched (s : State) (cause : Nat) (kinds : List (Nat × List Touch)) : Option FaultRec :=
  if s.isS || wbit s.cx.stat 15 then none
  else (List.range 4).findSome? fun n => kinds.findSome? fun (kind, ts) =>
    (s.me.watchHit s.curCtx n kind ts).map fun a => { cause := cause, addr := .ofNat 64 a, info0 := n }

/-- Class 2. -/
def State.breakpoint (s : State) : Option FaultRec := s.watched 0xA2 [(2, [(3, s.cx.pc.toNat, 1)])]
/-- Class 6; an armed watch is looked for first. -/
def State.watchpoint (s : State) (i : Instr) : Option FaultRec :=
  if (List.range 4).any fun n => wbit (SMap.get (0 : Word) s.me.trap.wpc n) 63
  then s.watched 0xA1 [(0, s.touchLocal i), (1, s.touchGlobal i)] else none

/-! ### Fetch and decode (R196, R197, R203) -/

/-- The check of R428 on an odd program counter, which stands first as in R232, then class 3, halfword by halfword. -/
def State.fetchFault (s : State) : Option FaultRec :=
  let a := s.cx.pc.toNat
  let c := s.me
  let long := isLong (c.half a)
  if a % 2 != 0 then some { cause := 0x05 }
  else if outOfLocal a 2 then some (accessRec 0x20 (.ofNat 64 a) 2 0)
  else if c.badIn a 2 then some (accessRec 0xA0 (.ofNat 64 a) 2 0)
  else if long && outOfLocal (a + 2) 2 then some (accessRec 0x20 (.ofNat 64 (a + 2)) 2 0)
  else if long && c.badIn (a + 2) 2 then some (accessRec 0xA0 (.ofNat 64 (a + 2)) 2 0)
  else none

/-- What stands at the program counter of the issuing context. -/
def State.fetched (s : State) : Decoded :=
  let a := s.cx.pc.toNat
  decodeHalves (s.me.half a) (s.me.half (a + 2))

/-- The major of the word at the program counter, 0 for a halfword. -/
def State.fetchedMajor (s : State) : Nat :=
  let h := s.me.half s.cx.pc.toNat
  if isLong h then fld h 6 6 else 0

/-- The first check of classes 4 to 6 that the decoded instruction fails. -/
def State.issueFault (s : State) (i : Instr) : Option FaultRec :=
  if i.isHint then none
  else if s.cx.pp && i.unprefixable then some { cause := 0x03 }
  else if s.stallShort i then some { cause := 0x04 }
  else if s.readsBad i then some { cause := 0xA5 }
  else s.watchpoint i

/-- Checks 1 to 3 of R203 on what was fetched: an instruction, or the cause that it raises. -/
def State.decoded (s : State) : Except FaultRec Instr :=
  match s.fetched with
  | .illegal => .error { cause := 0x00 }
  | d =>
    if s.fetchedMajor = 0x3E && !s.isS then .error { cause := 0x01 }
    else match d with
      | .ok i _ => .ok i
      | _ => .error { cause := 0x02 }

/-- An instruction that issues now, or the record of the first check of classes 2 to 6 that fails (R353). -/
def State.freshIssue (s : State) : Except FaultRec Instr :=
  match s.breakpoint with
  | some r => .error r
  | none =>
    match s.fetchFault with
    | some r => .error r
    | none =>
      match s.decoded with
      | .error r => .error r
      | .ok i =>
        match s.issueFault i with
        | some r => .error r
        | none => .ok i

/-- The instruction that the issuing context executes in this slot. A context that has waited at its instruction goes on
with it: it passed these checks when it issued. -/
def State.issued (s : State) : Except FaultRec Instr :=
  match s.cx.wait, s.cx.cur with
  | .none, _ => s.freshIssue
  | _, some i => .ok i
  | _, none => s.freshIssue

end Machine

end Sys2Proof

end
end

