-- ==== Sys2Proof/Machine/Weak.lean ====
section
/-! DEFINITION. How far a context's accesses to its local SRAM leave program order (spec 07, R166, R167, R169, R170, R172; log
entry 7): a store that is performed after later accesses, a load whose bytes are read ahead of earlier ones, and a load that is
performed after later accesses. -/

noncomputable section

namespace Sys2Proof

/-- How an instruction stands to the accesses of its context around it: it keeps them in program order; it orders earlier reads before
later reads, and has earlier stores performed, or one of the two (R167 cases 5 and 6, R170); it is an acquire, which stands before every
later event (R167 case 4); it works on registers; it is a local load or store; it sends a transaction that is no release, and may be
the fork of an application (R167 case 6, R174). -/
inductive Looseness where
  | strict
  | fence (reads writes : Bool)
  | acquire
  | registers
  | access
  | transaction (fork : Bool)
  deriving DecidableEq, Repr

/-- What the majors and minors of 32-bit words are (R219, R220). -/
def loosenessOf (major minor : Nat) : Looseness :=
  if major ∈ [0x0A, 0x13, 0x14, 0x15, 0x16, 0x17, 0x18, 0x19, 0x1A, 0x1B, 0x1C, 0x1D, 0x1F] then .access
  else if major = 0x1E ∧ (minor < 15 ∨ (18 ≤ minor ∧ minor < 26)) ∨ major = 0x2A ∧ 7 ≤ minor ∨ major = 0x2B ∧ minor ∈ [2, 6] then .access
  else if major = 0x1E ∧ minor < 29 ∨ major = 0x0E ∧ minor ∈ [0, 1, 2, 6, 7, 8, 9, 11, 14, 15] then .registers
  else if major = 0x2A ∧ minor < 4 ∨ major = 0x2B ∧ minor ∈ [0, 1, 5, 7] ∨ major = 0x2F ∧ minor = 5 then .registers
  else if major = 0x0E ∧ minor ∈ [5, 10, 12, 13] ∨ major = 0x2C ∧ minor ∈ [7, 9] ∨ major = 0x2F ∧ minor = 1 then .acquire
  else if major = 0x0E ∧ minor = 4 ∨ major = 0x2A ∧ minor ∈ [4, 5] ∨ major = 0x2B ∨ major = 0x2C ∧ minor ∈ [0, 1, 10] ∨
    major = 0x2F ∧ minor ∈ [0, 2] then .fence false true
  else if major = 0x2C ∧ minor ∈ [2, 3, 6] ∨ major = 0x2D ∨ major = 0x2E then .transaction false
  else if major = 0x2C ∧ minor ∈ [4, 5, 8] then .transaction true
  else if (1 ≤ major ∧ major ≤ 0x0D) ∨ (0x0F ≤ major ∧ major ≤ 0x12) ∨ (0x20 ≤ major ∧ major ≤ 0x29) then .registers
  else .strict

/-- The looseness of an instruction; an RDS of HXN to HXW is an acquire, and that of CP.GO a fork (R167). -/
def Instr.looseness (i : Instr) : Looseness :=
  match i with
  | .fence .. => .fence true true
  | .fenceAcq .. => .fence true false
  | .fenceRel .. => .fence false true
  | .fenceSc .. | .cExit => .strict
  | .cLd .. | .cSd .. => .access
  | .rds _ _ n => if 0x015 ≤ n.toNat ∧ n.toNat ≤ 0x018 then .acquire else .registers
  | .copyGo .. => .fence false true
  | i => match encode i with
    | some (32, w) => loosenessOf (fld w 22 6) (fld w 0 5)
    | some _ => .registers
    | none => .strict

/-- A generic access, whose bytes lie where a pointer names them. -/
def Instr.isGeneric : Instr → Bool
  | .gldb .. | .gldh .. | .gldw .. | .gldd .. | .gstb .. | .gsth .. | .gstw .. | .gstd .. => true
  | _ => false

/-- A register result may hold what a record holds (R165). -/
def Instr.readsRecord : Instr → Bool
  | .qnt .. | .qntb .. | .dqnt .. | .strd .. => true
  | _ => false

namespace Machine

/-- A touched range and a range of bytes share one; the touched range lies in it. -/
def Touch.meets (t : Touch) (e : Nat × List Byte) : Bool := overlaps t.2.1 t.2.2 e.1 e.2.length
def Touch.within (t : Touch) (e : Nat × List Byte) : Bool := decide (e.1 ≤ t.2.1) && decide (t.2.1 + t.2.2 ≤ e.1 + e.2.length)

/-- A touched range in the parts that lie in one aligned doubleword each (R54). -/
def Touch.parts (t : Touch) : List Touch :=
  (span (t.2.1 / 8) ((t.2.1 + t.2.2 + 7) / 8 - t.2.1 / 8)).map fun d =>
    (t.1, max t.2.1 (8 * d), min (t.2.1 + t.2.2) (8 * d + 8) - max t.2.1 (8 * d))

/-- A touched range joined with the one before it, if it goes on there. -/
def joinTouch (ts : List Touch) (t : Touch) : List Touch :=
  match ts.getLast? with
  | some u => if u.1 = t.1 ∧ u.2.1 + u.2.2 = t.2.1 then ts.dropLast ++ [(u.1, u.2.1, u.2.2 + t.2.2)] else ts ++ [t]
  | none => [t]

/-- The local bytes that an instruction accesses as it executes now: of asto those of its elements, once it has its record; of tsopen its
descriptor (R143, R305). -/
def State.accesses (s : State) (i : Instr) : List Touch :=
  match i with
  | .asto _ d a b e => (s.astoElements d a b e).map fun x => (2, x.1, x.2.1)
  | .tsopen _ _ a _ => [(1, (s.readG a).toNat, 32)]
  | i => s.touchLocal i

/-- The local bytes that an instruction accesses, in its indivisible parts: a generic access is one within each aligned doubleword, and
each element of a vector is one (R54, R254, R261). -/
def State.accessParts (s : State) (i : Instr) : List Touch :=
  let ts := s.accesses i
  ((if i.isGeneric then ts.foldl joinTouch [] else ts).flatMap Touch.parts).filter fun t => t.2.2 != 0

/-- The parts of a bit-granular store of n bits of w at bit address a, one in each doubleword (R54). -/
def bitPieces (a n w : Nat) : List (Nat × Nat × Nat) :=
  [(a, min n (64 - a % 64), w % 2 ^ min n (64 - a % 64)), (a + (64 - a % 64), n - (64 - a % 64), w % 2 ^ n / 2 ^ (64 - a % 64))].filter
    fun e => e.2.1 != 0

/-- The element stores of a vector store (R261). -/
def State.laneParts (s : State) (d : BitVec 5) (p : BitVec 3) (gather : Bool) (addr : Nat → Nat → Word) : List (Nat × Nat × Nat) :=
  match s.memWidth gather with
  | none => []
  | some w => (s.activeLanes p w).map fun i => (8 * (addr w i).toNat, w, lane w (s.readV d).toNat i)

/-- The parts of what an instruction stores, in their order, each with its own bits (R54, R261, R305); mem is local memory after it. -/
def State.storeParts (s : State) (i : Instr) (mem : Memory) : List (Nat × Nat × Nat) :=
  match i with
  | .bst _ d n b => bitPieces (s.readB n).toNat (wfld (s.readG b) 0 6 + 1) (s.readG d).toNat
  | .bstI _ d n w => bitPieces (s.readB n).toNat (w.toNat + 1) (s.readG d).toNat
  | .vst _ d a p => s.laneParts d p false (s.unitAddr a)
  | .vsts _ d a b p => s.laneParts d p false (s.strideAddr a b)
  | .vstsc _ d a b p => s.laneParts d p true (s.offsetAddr a b)
  | .vstS _ d a e => s.laneParts d (tPg (s.readE e)) false (s.unitAddr a)
  | .vstsS _ d a b e => s.laneParts d (tPg (s.readE e)) false (s.strideAddr a b)
  | .vstscS _ d a b e => s.laneParts d (tPg (s.readE e)) true (s.offsetAddr a b)
  | .asto _ d a b e => (s.astoElements d a b e).map fun x => (8 * x.1, 8 * x.2.1, x.2.2)
  | i => ((s.accessParts i).filter fun t => t.1 != 1).map fun t => (8 * t.2.1, 8 * t.2.2, Memory.num mem t.2.1 t.2.2)

/-- Two parts of stores share a byte. -/
def lateMeets (e f : Nat × Nat × Nat) : Bool :=
  let (a, n) := bitSpan e.1 e.2.1
  let (b, m) := bitSpan f.1 f.2.1
  overlaps a n b m

/-- Of the stores left for later those that f names, with the earlier ones that share a byte with one of them, and the others: one
context's stores to a byte are performed in its program order (R166). -/
def lateClosed (f : Nat × Nat × Nat → Bool) (es : List (Nat × Nat × Nat)) : List (Nat × Nat × Nat) × List (Nat × Nat × Nat) :=
  es.foldr (fun e r => if f e || r.1.any (lateMeets e) then (e :: r.1, r.2) else (r.1, e :: r.2)) ([], [])

/-- The stores of context k that a predicate names are performed, behind the earlier ones to their bytes. -/
def Core.performSome (c : Core) (k : Nat) (f : Nat × Nat × Nat → Bool) : Core :=
  let r := lateClosed f (c.cx k).late
  r.1.foldl Core.performOne (c.modCx k fun x => { x with late := r.2 })

/-- Context k of core cn stands in program order: its accesses are performed, and nothing is read ahead. -/
def State.inOrder (s : State) (cn k : Nat) : State := s.modCore cn fun c => (c.performAll k).modCx k Ctx.settled

/-- A context has nothing out of program order. -/
def Ctx.ordered (x : Ctx) : Bool := x.late.isEmpty && x.early.isEmpty && x.deferred.isEmpty

/-- Local memory with the stores of context k in it, which it may read, whole or in part, before any other agent (R172). -/
def Core.owned (c : Core) (k : Nat) : Memory := (c.cx k).late.foldl lateWrite c.mem

/-- Local memory as context k sees it: with its own stores, and with what was read ahead for it. -/
def Core.seen (c : Core) (k : Nat) : Memory := (c.cx k).early.foldl (fun m e => Memory.write m e.1 e.2) (c.owned k)

/-- The instruction that issues is the one that its context waits at, should it wait. -/
def State.latchInstr (s : State) (i : Instr) : State := s.modCx fun x => { x with cur := some i }

/-- Every register doubleword, as State.bad of a context names them. -/
def everyDw : List Nat := (List.range 84).flatMap fun k => (List.range 32).map fun j => 32 * k + j

/-- The registers that an instruction writes, as the latency rule sees them (R205), and those of them of which it keeps some bits, as
the rule on register errors sees them (R355). -/
def State.writesOf (s : State) (i : Instr) : List Nat × List Nat :=
  match exec i (s.modCx fun x => { x with ready := [], bad := everyDw }) with
  | .next t =>
    let y := (t.core s.curCore).cx s.curCtx
    let ws := y.ready.map (·.1)
    (ws, ws.filter fun r => if r < 32 ∨ 64 ≤ r then y.bad.contains (32 * r) else (List.range 32).any fun j => y.bad.contains (32 * r + j))
  | _ => ([], [])
def State.writes (s : State) (i : Instr) : List Nat := (s.writesOf i).1

/-- The loads left for later are performed where something hangs on them: a register that they write is used or written, or a byte
that they read is accessed again (R166, R167). -/
def Ctx.withoutDeferred (x : Ctx) (regs : List Nat) (ts : List Touch) : Ctx :=
  { x with deferred := x.deferred.filter fun d =>
      !d.writes.any regs.contains && !d.bytes.any fun b => ts.any fun t => overlaps b.1 b.2 t.2.1 t.2.2 }

/-! ### A context's own transactions to its local SRAM (R166) -/

/-- Some bytes of core cn and the target of a request of its context k, which is the core's own SRAM, share one. -/
def Packet.ownAt (p : Packet) (cn k a n : Nat) : Bool :=
  p.cn == cn && p.ctx == k && match p.target? with
    | some (some t, b, m) => t == cn && overlaps a n b m
    | _ => false

/-- A request in flight is performed at its home. -/
def State.performPacket (s : State) (i : Nat) : State :=
  match [execPutAtTarget i s, execAtomicAtHome i s, execFpUpdateAtHome i s].findSome? fun o => match o with
    | .next t => some t
    | _ => none with
  | some t => t
  | none => s

/-- The requests of context k of core cn in flight that write bytes that some accesses touch, behind the earlier ones to the bytes of
those. -/
def State.ownPackets (s : State) (cn k : Nat) (ts : List Touch) : List Nat :=
  (s.net.foldr (fun e r =>
    if e.2.cn == cn && e.2.ctx == k && ((ts.any fun t => e.2.ownAt cn k t.2.1 t.2.2) || r.any fun f => s.clashes e.2 f.2) then e :: r
    else r) []).map (·.1)

/-- The context's own earlier requests to the bytes that its instruction accesses are performed first. -/
def State.ownFirst (s : State) (cn k : Nat) (i : Instr) : State :=
  (s.ownPackets cn k (s.accesses i)).foldl (fun s n => s.performPacket n) s

/-- After context k of core cn has issued its packets from number n on: its earlier stores to the bytes that they write in its own
SRAM are performed before them, and so are its loads; what was read ahead there is read anew. With a fetching request in flight, a
read stands between what was read ahead and the loads after a fence (R170). -/
def State.ownIssued (s : State) (cn k n : Nat) : State :=
  let mine := s.net.filterMap fun e => if n ≤ e.1 ∧ e.2.cn = cn ∧ e.2.ctx = k then some e.2 else none
  let hits (a m : Nat) : Bool := mine.any fun p => p.ownAt cn k a m
  s.modCore cn fun c => (c.performSome k fun e => hits (bitSpan e.1 e.2.1).1 (bitSpan e.1 e.2.1).2).modCx k fun x =>
    { x with early := x.early.filter fun e => !hits e.1 e.2.length,
             deferred := x.deferred.filter fun d => !d.bytes.any fun b => hits b.1 b.2,
             reads := x.reads || c.txs.any fun t => t.ctx == k && t.fetch }

/-! ### Running an instruction -/

/-- An access of context k before it is made: what was
read ahead for a load whose address may come from a later read, for a part of an element, or for bytes that it stores to, is
forgotten (R166, R167 case 1, R54). -/
def State.align (s : State) (cn k : Nat) (i : Instr) (ts : List Touch) : State :=
  let regs := s.usesOf i ++ s.writes i
  s.modCore cn fun c => c.modCx k fun x =>
    let bound := (s.usesOf i).any x.taint.contains
    { x with early := x.early.filter fun e => !ts.any fun t => t.meets e && (t.1 != 1 || bound || !t.within e) }.withoutDeferred regs ts

/-- After an instruction: what was read ahead for it is used up; the registers ws that it wrote may hold what a read returned, and those
among them of which it kept bits still may (R167 case 1). -/
def Ctx.traced (x : Ctx) (ts : List Touch) (from_ : Bool) (ws kept : List Nat) : Ctx :=
  let early := x.early.filter fun e => !ts.any fun t => t.meets e
  if early.isEmpty then x.forget
  else { x with early := early, reads := x.reads || ts.any (fun t => t.1 == 1),
                taint := if from_ then x.taint ++ ws else x.taint.filter fun r => !ws.contains r || kept.contains r }

/-- The stores of an access may be left for later: each part is at most a doubleword of the general area, with no error. -/
def Core.mayDelay (c : Core) (ts : List Touch) : Bool :=
  ts.all fun t => t.1 != 1 && decide (t.2.2 ≤ 8) && decide (0x2000 ≤ t.2.1) && !c.badIn t.2.1 t.2.2

/-- The load of an access may be left for later: it writes registers, and reads the general area, none of it ahead. -/
def Ctx.mayDefer (x : Ctx) (ts : List Touch) (ws : List Nat) : Bool :=
  !ts.isEmpty && !ws.isEmpty && ws.all (fun r => decide (r < 64)) &&
  ts.all fun t => t.1 == 1 && decide (0x2000 ≤ t.2.1) && !x.early.any t.meets

/-- A load that has been made in state s, as one that may be performed later. -/
def State.deferral (s : State) (i : Instr) (ts : List Touch) (ws : List Nat) : Deferred :=
  ⟨i, s.atIssue, s.cx.g, s.cx.v, s.cx.p, s.cx.e, s.cx.b, ts.map (·.2), ws⟩

/-- What an instruction of context k of core cn answers, which retires or blocks, is t; one that does not, because it traps, leaves the
context in program order. -/
def State.settleUnless (t : State) (cn k : Nat) (pc : Word) (f : Bool → State) : State :=
  let y := (t.core cn).cx k
  if y.held || (y.pc == pc && y.wait == .none) then t.inOrder cn k else f (y.wait != .none)

/-- An instruction on registers. -/
def State.runRegisters (s : State) (cn k : Nat) (i : Instr) : Out :=
  let x := (s.core cn).cx k
  let w := s.writesOf i
  let from_ := i.readsRecord || (s.usesOf i).any x.taint.contains
  let v := s.modCore cn fun c => c.modCx k fun x => x.withoutDeferred (s.usesOf i ++ w.1) []
  match exec i (v.latchInstr i) with
  | .next t => .next (t.settleUnless cn k x.pc fun blocked =>
      if blocked then t
      else t.modCore cn fun c => c.modCx k fun y => { y with reads := y.reads || i.readsRecord }.traced [] from_ w.1 w.2)
  | o => o

/-- A fence, a release or a fork: earlier loads are performed, earlier stores with writes, and with reads nothing stays read ahead of a
read (R167, R170). -/
def State.fenced (s : State) (cn k : Nat) (reads writes : Bool) : State :=
  s.modCore cn fun c => (if writes then c.performAll k else c).modCx k fun x =>
    { (if reads && x.reads then x.forget else x) with deferred := [] }

/-- An acquire: nothing stays read ahead; the loads left for later stand before it, as far as its registers bear on them (R167 case 4). -/
def State.acquiring (s : State) (cn k : Nat) (i : Instr) : State :=
  let regs := s.usesOf i ++ s.writes i
  s.modCore cn fun c => c.modCx k fun x => x.forget.withoutDeferred regs []

/-- A fence, a release, a fork or an acquire executes, its context being ready for it. -/
def State.runSync (s : State) (cn k : Nat) (i : Instr) : Out :=
  match exec i (s.latchInstr i) with
  | .next t => .next (t.settleUnless cn k ((s.core cn).cx k).pc fun _ => t)
  | o => o

/-- The packets that set out from state s to state t carry one with such a body. -/
def State.sentSince (t s : State) (f : Body → Bool) : Bool := t.net.any fun e => decide (s.nextPkt ≤ e.1) && f e.2.body

/-- A body of a statistics flush, and of a message. -/
def Body.isFlush : Body → Bool
  | .flush _ _ => true
  | _ => false
def Body.isMessage : Body → Bool
  | .message _ => true
  | _ => false

/-- A local load or store: it works on local memory as its context sees it, and its stores, or the load, are performed now or left for
later. A statistics flush that it triggers is a fork, before which the earlier stores are performed (R174); a message that it sends
stands behind its own stores (R305). -/
def State.runAccess (s : State) (cn k : Nat) (late : Bool) (i : Instr) : Out :=
  let ts := s.accessParts i
  let s := s.align cn k i ts
  let c := s.core cn
  let x := c.cx k
  let v := (s.modCore cn fun c => { c with mem := c.seen k }).latchInstr i
  match exec i v with
  | .next t =>
    let u := t.modCore cn fun d => { d with mem := c.mem }
    .next (u.settleUnless cn k x.pc fun blocked =>
      if blocked then u
      else
        let stores := s.storeParts i (t.core cn).mem
        let w := v.writesOf i
        let delay := late && c.mayDelay ts && !t.sentSince s Body.isMessage
        u.modCore cn fun d =>
          let d := if t.sentSince s Body.isFlush then (d.performAll k).modCx k fun y => { y with deferred := [] } else d
          let d := d.modCx k fun y =>
            { y with late := y.late ++ stores,
                     deferred := if late && x.mayDefer ts w.1 then y.deferred ++ [v.deferral i ts w.1] else y.deferred
              }.traced ts (!ts.isEmpty || (s.usesOf i).any x.taint.contains) w.1 w.2
          if delay || stores.isEmpty then d else d.performSome k stores.contains)
  | o => o

/-- An instruction that sends transactions: its payload is read as its context's stores leave local memory, but not ahead (R166,
R172). -/
def State.runTransaction (s : State) (cn k : Nat) (i : Instr) : Out :=
  let ts := s.accessParts i
  let s := s.modCore cn fun c => c.modCx k fun x =>
    { x with early := x.early.filter fun e => !ts.any fun t => t.meets e }.withoutDeferred (s.usesOf i ++ s.writes i) ts
  let c := s.core cn
  let x := c.cx k
  match exec i ((s.modCore cn fun c => { c with mem := c.owned k }).latchInstr i) with
  | .next t =>
    let u := t.modCore cn fun d => { d with mem := c.mem }
    .next (u.settleUnless cn k x.pc fun _ => u.ownIssued cn k s.nextPkt)
  | o => o

/-- Every load of a core has been performed. -/
def Core.allRead (c : Core) : Core := { c with ctx := c.ctx.map fun e => (e.1, { e.2 with deferred := [] }) }

/-- The state in which context k of core cn is to execute an instruction: its own requests to the bytes that it accesses are performed,
and the trap context finds the loads of every context performed. -/
def State.cleared (s : State) (cn k : Nat) (i : Instr) : State :=
  let s := s.ownFirst cn k i
  if k = 11 then s.modCore cn Core.allRead else s

/-- Context k of core cn executes an instruction; its stores, or the load, may be left for later (R167). -/
def State.run (s : State) (cn k : Nat) (late : Bool) (i : Instr) : Out :=
  let s := s.cleared cn k i
  if !late && ((s.core cn).cx k).ordered then exec i (s.latchInstr i)
  else match i.looseness with
    | .strict => exec i ((s.inOrder cn k).latchInstr i)
    | .fence reads writes => (s.fenced cn k reads writes).runSync cn k i
    | .acquire => (s.acquiring cn k i).runSync cn k i
    | .registers => s.runRegisters cn k i
    | .access => s.runAccess cn k late i
    | .transaction fork => (if fork then s.fenced cn k false true else s).runTransaction cn k i

/-! ### The moves -/

/-- A context that START has started waits for what START orders before its first event (R173). -/
def Ctx.forked (x : Ctx) : Bool := match x.wait with
  | .fork _ => true
  | _ => false

/-- The bytes [a, a + n) may be read ahead for context k of core cn, which has begun: they lie in the general area without an error, and
in none of its own stores or requests, of the loads that it has left for later, or of what it has read ahead. -/
def State.mayRead (s : State) (cn k a n : Nat) : Bool :=
  let c := s.core cn
  let x := c.cx k
  x.live && !x.forked && decide (0x2000 ≤ a) && !outOfLocal a n && !c.badIn a n && decide (0 < n) &&
  !(x.early.any fun e => overlaps a n e.1 e.2.length) && !(x.late.any fun e => lateMeets e (8 * a, 8 * n, 0)) &&
  !(x.deferred.any fun d => d.bytes.any fun b => overlaps a n b.1 b.2) && (s.ownPackets cn k [(1, a, n)]).isEmpty

/-- The j-th part of the stores of context k of core cn is performed, if there is one and no earlier one shares a byte with it. -/
def State.performNth (s : State) (cn k j : Nat) : Out :=
  let x := (s.core cn).cx k
  match x.late[j]? with
  | none => .refused .notEnabled
  | some e =>
    if (x.late.take j).any (lateMeets e) then .refused .notEnabled
    else .next (s.modCore cn fun c => (c.performOne e).modCx k fun x => { x with late := x.late.eraseIdx j })

/-- n bytes at a are read ahead for context k of core cn. -/
def State.readEarly (s : State) (cn k a n : Nat) : Out :=
  if s.mayRead cn k a n then
    .next (s.modCore cn fun c => c.modCx k fun x =>
      { x with early := x.early ++ [(a, Memory.read c.mem a n)], reads := x.reads || c.txs.any fun t => t.ctx == k && t.fetch })
  else .refused .notEnabled

/-- The registers that a load writes take the values that another performance of it gives. -/
def Ctx.take (x y : Ctx) (ws : List Nat) : Ctx :=
  ws.foldl (fun x r => if r < 32 then x.wg r (y.rg r) else { x with v := SMap.put x.v (r - 32) (SMap.get 0 y.v (r - 32)) }) x

/-- The j-th load that context k of core cn has left for later is performed now, with the operands of its issue. -/
def State.readLate (s : State) (cn k j : Nat) : Out :=
  match ((s.core cn).cx k).deferred[j]? with
  | none => .refused .notEnabled
  | some d =>
    let v := ({ s with curCore := cn, curCtx := k } : State).modMe fun c => { c with mem := c.seen k }.modCx k fun x =>
      { x with g := d.g, v := d.v, p := d.p, e := d.e, b := d.b, snap := some d.snap, wait := .none }
    match exec d.instr v with
    | .next t =>
      let y := (t.core cn).cx k
      .next (s.modCore cn fun c => c.modCx k fun x =>
        let x := { x with deferred := x.deferred.eraseIdx j }
        if y.held then x
        else if x.early.isEmpty then x.take y d.writes
        else { x.take y d.writes with taint := x.taint ++ d.writes, reads := true })
    | _ => .refused .notEnabled

end Machine

end Sys2Proof

end
end

