-- ==== Sys2Proof/Machine/Outside.lean ====
section
/-! DEFINITION. What the outside of a core, the host and M do beside the events of the opcode table (log entry 64): the
management path to a halted core (spec 17, R340, R355; spec 21, R422), the management window (R412, R414, R424), device
memory (spec 18, R362), what a core performs out of program order (spec 07, R167), and what the fabric does to a packet or a switch (spec 05, R130, R135, R138; spec 14, R310). -/

noncomputable section

namespace Sys2Proof.Machine

/-! ### The management path to a halted core (R340, R422) -/

/-- What a read of the host or M returns. -/
def State.returning (s : State) (ws : List Word) : State :=
  { s with mgmt := { s.mgmt with returned := ws.map fun w => (3, w) } }

/-- M reaches the registers and the local SRAM of core cn: it is halted (R340). -/
def State.reachable (s : State) (cn : Nat) : Bool := s.onMesh cn && (s.core cn).control.halted

/-- M reads a register by context and by the FILE and SEL of R359. A doubleword with an uncorrectable error reads as a free
value (log entry 64). -/
def State.readRegister (s : State) (cn k file sel : Nat) : State :=
  let s := s.modCore cn Core.allRead
  let (key, j) := xaccessKey file sel
  if file = 5 then s.returning [s.special cn k (sel % 4096)]
  else if ((s.core cn).cx k).bad.contains (key * 32 + j) then
    { s with fresh := s.fresh + 1 }.returning [.ofNat 64 (Config.freeChoice s.fresh)]
  else s.returning [((s.core cn).cx k).xread file sel]

/-- M writes a register, under R11 and R12 as xwr does. -/
def State.writeRegister (s : State) (cn k file sel : Nat) (w : Word) : State :=
  if file = 5 then s.setSpecial cn k (sel % 4096) w true true
  else s.modCore cn fun c => c.modCx k fun x => x.xwrite file sel w

/-- M reads n bytes of local SRAM; a byte with an uncorrectable error reads as a free value (log entry 64). -/
def State.readLocal (s : State) (cn a n : Nat) : State :=
  let c := s.core cn
  let free : Byte := .ofNat 8 (Config.freeChoice s.fresh)
  { s with fresh := s.fresh + 1 }.returning
    (dwords ((span a n).map fun b => if c.bad.contains (b / 8) then free else Memory.byte c.mem b))

/-- M writes bytes of local SRAM. -/
def State.writeLocal (s : State) (cn a : Nat) (bs : List Byte) : State :=
  s.modCore cn fun c => c.putAll ((span a bs.length).zip bs)

/-! ### The management window (R412, R414, R424) -/

/-- The debug block's doublewords in the order of their offsets. -/
def DebugBlock.dws (d : DebugBlock) : List Word :=
  [d.trbase, d.trctl, d.trprod.setWidth 64, d.trdrop.setWidth 64, d.trcons.setWidth 64, d.perfbase, d.perfctl,
   d.perfprod.setWidth 64, d.rpctl, d.rpbase, d.dstop.setWidth 64, d.drel.setWidth 64]

/-- The block after a write that leaves these doublewords: the package's own fields discard it, reserved bits read zero, and
DSTOP and DREL act by themselves (R424). -/
def DebugBlock.withDws (d : DebugBlock) (ws : List Word) : DebugBlock :=
  let w (i : Nat) : Word := ws.getD i 0
  { d with trbase := w 0, trctl := w 1 &&& 0x800000000000001F, trcons := (w 4).setWidth 32, perfbase := w 5,
           perfctl := w 6 &&& 0x800000000000000F, rpctl := w 8 &&& 0x1F0003, rpbase := w 9 }

/-- Byte o of partition p's debug block. -/
def State.debugByte (s : State) (p o : Nat) : Byte := ((s.debugOf p).dws.flatMap fun w => leBytes 8 w.toNat).getD o 0

/-- The byte at an offset of the window (R412). A place with no contents reads zero (DESIGN CHOICE, log entry 58). -/
def State.windowByte (s : State) (off : Nat) : Byte :=
  let m := s.mgmt
  if off < 0x1000 then 0
  else if off < 0x1004 then (leBytes 4 m.cmd.toNat).getD (off - 0x1000) 0
  else if off < 0x1008 then (leBytes 4 m.status.toNat).getD (off - 0x1004) 0
  else if off < 0x1100 then 0
  else if off < 0x2000 then Memory.byte m.data (off - 0x1000)
  else if off < 0x10000 then 0
  else if off < 0x11000 then s.debugByte ((off - 0x10000) / 256) (off % 256)
  else if off < 0x80000 then 0
  else if off < 0x100000 && m.recovery then Memory.byte m.area (off - 0x80000)
  else 0

/-- The part of some bytes at off that lies in the size bytes at base: its offset there, and the bytes. -/
def slice (base size off : Nat) (bs : List Byte) : Nat × List Byte :=
  (off - base, (bs.drop (base - off)).take (base + size - max off base))

/-- An n-byte number whose bytes from o on are replaced. -/
def patchNum (n old o : Nat) (bs : List Byte) : Nat :=
  leNat (((leBytes n old).take o ++ bs ++ (leBytes n old).drop (o + bs.length)).take n)

/-- A write to the mailbox: a write that reaches CMD's first byte asks for the command (R412). -/
def Management.mailbox (m : Management) (off : Nat) (bs : List Byte) : Management :=
  let c := slice 0x1000 4 off bs
  let t := slice 0x1004 4 off bs
  let d := slice 0x1100 0xF00 off bs
  { m with cmd := .ofNat 32 (patchNum 4 m.cmd.toNat c.1 c.2), asked := m.asked || (c.1 == 0 && !c.2.isEmpty),
           status := .ofNat 32 (patchNum 4 m.status.toNat t.1 t.2),
           data := if d.2.isEmpty then m.data else Memory.write m.data (0x100 + d.1) d.2 }

/-- A write to the recovery area, which is there in recovery mode alone (R412, R414). -/
def Management.recover (m : Management) (off : Nat) (bs : List Byte) : Management :=
  let a := slice 0x80000 0x80000 off bs
  if m.recovery && !a.2.isEmpty then { m with area := Memory.write m.area a.1 a.2 } else m

/-- The cores of a partition whose trace starts: each one's first record is of the next change (R423). -/
def State.traceFrom (s : State) (p : Nat) : State :=
  { s with cores := s.cores.map fun (cn, c) =>
      (cn, if s.inPartition p (cn % 64) (cn / 64) then { c with control := { c.control with traced := s.coreState cn } } else c) }

/-- A write to partition p's debug block (R424): a LID written to DSTOP or DREL acts as R427 says. -/
def State.writeDebug (s : State) (p off : Nat) (bs : List Byte) : State :=
  let w := slice (0x10000 + 256 * p) 0x100 off bs
  if w.2.isEmpty then s
  else
    let old := s.debugOf p
    let bytes := old.dws.flatMap fun w => leBytes 8 w.toNat
    let ws := dwords ((bytes.take w.1 ++ w.2 ++ bytes.drop (w.1 + w.2.length)).take 0x60)
    let new := old.withDws ws
    let s : State := { s with debugBlocks := SMap.put s.debugBlocks p new }
    let s := if wbit new.trctl 63 && !wbit old.trctl 63 then s.traceFrom p else s
    let hits (o : Nat) : Bool := overlaps w.1 w.2.length o 4
    let s := if hits 0x50 then s.dstopTo p ((ws.getD 10 0).setWidth 32) else s
    if hits 0x58 then s.drelTo p ((ws.getD 11 0).setWidth 32) else s

/-- The semaphores of which a range of the window touches a byte (R412). -/
def semsAt (off n : Nat) : List Nat := (List.range 32).filter fun k => overlaps (8 * k) 8 off n

/-- A port reads n bytes of the window: a semaphore of which it reads a byte is read (R384, R412). -/
def State.readWindow (s : State) (port off n : Nat) : State :=
  let m := (semsAt off n).foldl (fun m k => m.readSem port k) { s.mgmt with returned := [] }
  let sem (o : Nat) : Byte := (leBytes 8 (((m.returned.map (·.2)).getD (o / 8 - off / 8) 0).toNat)).getD (o % 8) 0
  { s with mgmt := m }.returning (dwords ((span off n).map fun o => if o < 0x100 then sem o else s.windowByte o))

/-- A write to the semaphores of which it reaches a byte: their other bytes are written as they are (R384, R412). -/
def Management.writeSems (m : Management) (port off : Nat) (bs : List Byte) : Management :=
  (semsAt off bs.length).foldl (fun m k =>
    let w := slice (8 * k) 8 off bs
    m.writeSem port k (.ofNat 64 (patchNum 8 (SMap.get 0 m.hsem k) w.1 w.2))) m

/-- A port writes bytes of the window (R412). -/
def State.writeWindow (s : State) (port off : Nat) (bs : List Byte) : State :=
  let s : State := { s with mgmt := ((s.mgmt.mailbox off bs).recover off bs).writeSems port off bs }
  (List.range 16).foldl (fun s p => s.writeDebug p off bs) s

/-! ### The moves -/

/-- The end of a move that changes the state to t, if its condition holds. -/
def allowed (b : Bool) (t : State) : Out := if b then .next t else .refused .notEnabled

/-- What the outside does (log entry 64). Two ports that read a semaphore in one step are HSEM_READ's. -/
def State.outside (s : State) (o : Outside) : Out :=
  match o with
  | .corrected cn =>
    allowed (s.onMesh cn.toNat) (s.modCore cn.toNat fun c => { c with trap := { c.trap with hwCor := c.trap.hwCor + 1 } })
  | .router cn refuses => allowed (s.onMesh cn.toNat) (s.modCore cn.toNat fun c => { c with choked := refuses })
  | .credit output cls has => .next (s.setCredit output cls.toNat has)
  | .congest pkt => match s.packet pkt with
    | some p => allowed (p.type == 0) (s.congestionNotice p)
    | none => .refused .notEnabled
  | .frame ce header payload => .next (s.arriveFrame ce header payload)
  | .readReg cn k sel =>
    allowed (s.reachable cn.toNat && !xaccessBad k.toNat (sel.toNat / 2 ^ 16) (sel.toNat % 2 ^ 16))
      (s.readRegister cn.toNat k.toNat (sel.toNat / 2 ^ 16) (sel.toNat % 2 ^ 16))
  | .writeReg cn k sel w =>
    allowed (s.reachable cn.toNat && !xaccessBad k.toNat (sel.toNat / 2 ^ 16) (sel.toNat % 2 ^ 16))
      (s.writeRegister cn.toNat k.toNat (sel.toNat / 2 ^ 16) (sel.toNat % 2 ^ 16) w)
  | .readSram cn a n => allowed (s.reachable cn.toNat && !outOfLocal a.toNat n.toNat) (s.readLocal cn.toNat a.toNat n.toNat)
  | .writeSram cn a bytes =>
    allowed (s.reachable cn.toNat && !outOfLocal a.toNat bytes.length) (s.writeLocal cn.toNat a.toNat bytes)
  | .readWindow port off n =>
    allowed (decide (port.toNat < 3) && decide (off.toNat + n.toNat ≤ 0x100000)) (s.readWindow port.toNat off.toNat n.toNat)
  | .writeWindow port off bytes =>
    allowed (decide (port.toNat < 3) && decide (off.toNat + bytes.length ≤ 0x100000)) (s.writeWindow port.toNat off.toNat bytes)
  | .writeMemory pa bytes => allowed ((span pa.toNat bytes.length).all s.validPa) (s.putBytes pa.toNat bytes)
  | .perform cn k j => s.performNth cn.toNat k.toNat j
  | .readLate cn k j => s.readLate cn.toNat k.toNat j
  | .readEarly cn k a n => s.readEarly cn.toNat k.toNat a.toNat n.toNat
  | .updateLate pkt => s.updateArrival pkt true
  | .apply part lid slot line => s.applyNext part.toNat lid.toNat slot line
  | .flow pkg scn dcn next => .next (s.setFlow pkg.toNat scn.toNat dcn.toNat next.toNat)
  | .confirm part pkg rank cn seq => .next (s.confirmed part.toNat pkg.toNat rank.toNat cn.toNat seq.toNat)

end Sys2Proof.Machine

end
end

