-- ==== Sys2Proof/Machine/Moves.lean ====
section
/-! DEFINITION. One issue slot of a core, one event, and the move that the model makes when none is listed (log entry 5;
spec 01, R36 to R39; spec 17, R343, R344, R353). -/

noncomputable section

namespace Sys2Proof.Machine

/-! ### An issue slot -/

/-- A record is ready and the trap context is idle (R343). -/
def Core.trapDue (c : Core) : Bool := !c.trap.busy && !c.control.halted && c.nextRecord.isSome

/-- The slot of core cn has passed as far as the issue: context k issues. -/
def State.issuing (s : State) (cn k : Nat) : State := { s.tick cn (some k) with curCore := cn, curCtx := k }

/-- The part of a core on which all of R27 holds ends next. -/
def State.endsNext (s : State) : State :=
  match s.cores.find? fun e => e.2.part == .running && (s.launchOf e.1).isSome && s.partDone e.1 with
  | some e =>
    let m : Move := .event (.corePartEnd (.ofNat 11 e.1))
    if s.moves.head? = some m then s else { s with moves := m :: s.moves }
  | none => s

/-- The end of a slot of core cn: states are traced (R423), and a selection that is due is made next (R36, R37); a core's part that has
come to its end ends before anything else (R27). -/
def State.endSlot (s : State) (cn : Nat) : State :=
  let s := s.traceAll
  (if (s.core cn).selectionDue then { s with moves := .event (.selection (.ofNat 11 cn)) :: s.moves } else s).endsNext

/-- The end of a slot after what its instruction answers. -/
def endSlotOf (o : Out) (cn : Nat) : Out :=
  match o with
  | .next s => .next (s.endSlot cn)
  | o => o

/-- Context k of core cn has the slot: its instruction executes, or a check before the instruction's own raises a cause
(R353). A context that takes a trap has performed its stores. -/
def State.issueStep (s : State) (cn k : Nat) (late : Bool) : Out :=
  let s := s.issuing cn k
  match s.issued with
  | .error r => .next (((s.inOrder cn k).raise r).endSlot cn)
  | .ok i => endSlotOf (s.run cn k late i) cn

/-- One issue slot of core cn, whose stores may be left for later. With a record ready, the record is taken and the slot
comes after it (R343). -/
def State.slotStep (s : State) (cn : CoreNo) (late : Bool := false) : Out :=
  if !s.onMesh cn.toNat then .fault .noSuchCore
  else if (s.core cn.toNat).trapDue then exec (.trapEntry cn) { s with moves := (if late then .slotLate cn else .slot cn) :: s.moves }
  else match s.pick cn.toNat with
    | some k => s.issueStep cn.toNat k late
    | none => .next ((s.tick cn.toNat none).endSlot cn.toNat)

/-! ### An event -/

/-- A term that stands for an event: one that has no encoding and meets its shape. -/
def Instr.isEvent (i : Instr) : Bool := (encode i).isNone && i.wf

/-- The state after an event, with states traced; a core's part that has come to its end ends next (R27). -/
def tracedOf (o : Out) : Out :=
  match o with
  | .next s => .next s.traceAll.endsNext
  | o => o

/-- One event. -/
def State.eventStep (s : State) (i : Instr) : Out :=
  if Instr.isEvent i then tracedOf (exec i s) else .refused .notEnabled

/-- What the outside does, with states traced. -/
def State.outsideStep (s : State) (o : Outside) : Out := tracedOf (s.outside o)

/-! ### The move when none is listed (log entry 5) -/

/-- The events that a packet in flight may bring about. -/
def State.packetEvents (s : State) (i : Nat) (p : Packet) : List Instr :=
  [.messageArrival i, .putAtTarget i, .atomicAtHome i, .fpUpdateAtHome i, .ticketedUpdateArrival i, .haloArrival i,
   .haloAcknowledgement i, .flushMerge i, .recordHomeOperation i, .sequencePartQuery i, .transactionCompletion i,
   .replyArrival i, .exhaustionNotice i, .retryResend i] ++
  match p.home, p.body with
  | .core cn, .congestion key => [.congestionNotice (.ofNat 11 cn) key]
  | _, _ => ((s.batchOf p).map fun r => .immigrantBatch r.1).toList

/-- The events that a core may bring about; the placement of a held message at an uncorrectable entry only takes place when it is
listed. -/
def coreEvents (cn : Nat) (c : Core) : List Instr :=
  let n : CoreNo := .ofNat 11 cn
  List.flatten
    [[.trapEntry n, .debugStop n],
     if c.inbuf.isEmpty then [] else ((List.range 64).filter fun ch => !c.badIn (0x800 + 32 * ch) 32).map fun ch =>
       .heldMessagePlacement n (.ofNat 6 ch),
     c.copies.flatMap fun o => [.copyBlockWrite n (.ofNat 16 o.id), .copyCompletion n (.ofNat 16 o.id)],
     if c.ctx.any fun x => x.2.wait == .order then (List.range 11).map fun k => .fenceScOrderFixed n (.ofNat 4 k) else [],
     if c.matrix.powered then [] else [.matrixEngineReady n],
     if c.part == .prepared then [.wakeArrival n] else if c.part == .running then [.corePartEnd n] else [],
     if c.part == .ended then (List.range c.stats.length).map fun i => .accumulatorFlush (some n) i else []]

/-- The events of an accepted launch. -/
def launchEvents (l : Launch) : List Instr :=
  let p : BitVec 4 := .ofNat 4 l.part
  let d : BitVec 32 := .ofNat 32 l.lid
  (span 0 8).map (fun n => .barrierPhaseCompletion p d (.ofNat 3 n)) ++
  [.deadlock p d, .launchResumption p d, .launchCompletion p d, .rectangleRelease p d]

/-- The events of a partition's queues and rings. -/
def partEvents (p : Nat) : List Instr :=
  let p : BitVec 4 := .ofNat 4 p
  [.launchRecord p, .stopCmd p, .resumeCmd p, .endCmd p, .commandMalformed p, .invalidatePage p, .invalidateAsid p,
   .invalidateMalformed p]

/-- The package's own events that may come about next. -/
def State.ownEvents (s : State) : List Instr :=
  List.flatten
    [s.net.flatMap fun e => s.packetEvents e.1 e.2, s.cores.flatMap fun e => coreEvents e.1 e.2,
     (List.range s.reports.length).map fun i => .completionReport i,
     s.groups.flatMap fun e => [.generationBoundary (.ofNat 6 e.1), .generationResumption (.ofNat 6 e.1)],
     s.launches.flatMap launchEvents, s.parts.flatMap fun e => partEvents e.1, if s.mgmt.running then [.unitStart] else []]

/-- The first of some events that comes about. -/
def State.firstEnabled (s : State) (is : List Instr) : Option Out :=
  is.findSome? fun i =>
    match s.eventStep i with
    | .next t => some (.next t)
    | _ => none

/-- With no move listed, the package's own events and the cores' slots take turns; with nothing to move, nothing
changes but the turn. -/
def State.defaultStep (s : State) : Out :=
  let t := s.turn
  let s := { s with turn := t + 1 }
  match (if t % 2 = 0 then s.firstEnabled s.ownEvents else none) with
  | some o => o
  | none =>
    match s.cores[t / 2 % s.cores.length]? with
    | some e => s.slotStep (.ofNat 11 e.1)
    | none => .next s

/-! ### Placing a word where the next step fetches (log entry 4) -/

/-- The address of the placed word. -/
def placedAt : Nat := 0x2000
/-- The launch that core 0 runs alone while a placed word is run. -/
def placedLaunch : Launch where
  part := 0
  lid := 1
  state := .running
  x0 := 0
  y0 := 0
  w := 1
  h := 1
  ranks := 1
  rank := 0
  entry := placedAt
  schk := false
  ordered := false
  seed := 0
  hosttag := 0
  cpl := 0
  queue := 0
  rtab := 0
  rcount := 0
  ilo := 0
  ilen := 0
  imgid := 0
  regions := []
  perf := none
  rpctl := 0
  rpbase := 0

/-- The FMT that its record gives: MFB and MFA FP16, IW 32 bits, VF FP32, RM to nearest even (R213). -/
def placedFmt : BitVec 24 := 0x330220

/-- Core 0 with a word's bytes at placedAt and context k about to issue there; a system instruction (major 0x3E) issues
in CT, which then handles a record. -/
def placeOn (c : Core) (nbits w : Nat) : Core :=
  let sys := decide (16 < nbits) && fld w 22 6 == 0x3E
  let k := if sys then 11 else 0
  let x : Ctx := { live := true, pc := .ofNat 64 placedAt }
  { c with mem := Memory.write c.mem placedAt (layoutWord nbits w ++ [0, 0]), job := some (0, 1), part := .running, fmt := placedFmt,
           ctx := SMap.put c.ctx k x, trap := { c.trap with busy := sys } }

/-- The state with a word placed on core 0 and a slot of core 0 as the next move. -/
def State.placeWord (s : State) (nbits w : Nat) : State :=
  { s with cores := SMap.put s.cores 0 (placeOn (s.core 0) nbits w),
           launches := placedLaunch :: s.launches.filter fun l => !(l.part == 0 && l.lid == 1), moves := [.slot 0] }

end Sys2Proof.Machine

end
end

