-- ==== Sys2Proof/Machine/Step.lean ====
section
/-! DEFINITION. The step of the machine, and a word placed where the next step fetches (log entries 4 and 5). -/

noncomputable section

namespace Sys2Proof.Machine

/-- One step: the next listed move, or the model's own choice when none is listed. -/
def step (s : State) : Host.Outcome State Fault Refusal :=
  match s.moves with
  | .slot cn :: ms => { s with moves := ms }.slotStep cn
  | .slotLate cn :: ms => { s with moves := ms }.slotStep cn true
  | .event i :: ms => { s with moves := ms }.eventStep i
  | .outside o :: ms => { s with moves := ms }.outsideStep o
  | [] => s.defaultStep

/-- The state with an instruction where the next step fetches. -/
def State.withFetchWord (s : State) (nbits w : Nat) : State := s.placeWord nbits w

end Sys2Proof.Machine

end
end

