-- ==== Sys2Proof/Safety.lean ====
section
/-! DEFINITION. What counts as a safe state and a safe run of the machine, and the words that statements about one
instruction use: what it writes, what it leaves unchanged, where it traps or waits. -/

namespace Sys2Proof

open Machine

/-- Global memory has its canonical form, so that equal memories are equal data. -/
def GlobalOk (s : State) : Prop := Memory.wf s.gmem = true

/-- The local memory of every listed core has its canonical form, and so has every one that a stopped launch has saved. -/
def LocalOk (s : State) : Prop :=
  (∀ e ∈ s.cores, Memory.wf e.2.mem = true) ∧ ∀ l ∈ s.launches, ∀ e ∈ l.saved, Memory.wf e.2.mem = true

/-- An answer is a next state: neither a fault nor a refusal. -/
def Completes (o : Out) : Prop := ∃ t, o = .next t

/-- n steps from s run without a fault or a refusal. -/
def SafeRun (n : Nat) (s : State) : Prop := ∃ t, core.run n s = .next t

/-! ### What an instruction leaves unchanged -/

/-- Every byte of every core's local memory and of global memory reads as before. -/
def MemSame (s t : State) : Prop :=
  (∀ cn a, Memory.byte (t.core cn).mem a = Memory.byte (s.core cn).mem a) ∧
  (∀ a, Memory.byte t.gmem a = Memory.byte s.gmem a)

/-- Every byte of every core's local memory and of global memory reads as before, but for n bytes at a of core cn. -/
def MemSameBut (s t : State) (cn a n : Nat) : Prop :=
  (∀ j b, j ≠ cn ∨ b < a ∨ a + n ≤ b → Memory.byte (t.core j).mem b = Memory.byte (s.core j).mem b) ∧
  (∀ b, Memory.byte t.gmem b = Memory.byte s.gmem b)

/-- t is s but for the issuing context: no memory, no other context, no register of the core or of the package differs. -/
def OnlyContext (s t : State) : Prop := t = (s.modCx fun _ => t.cx) ∧ MemSame s t

/-- The context y is x but for its register files, STAT, RNDCTR and what every retired instruction changes (pc, pending
prefix, issue counters, latency clock, wait): its identity, latches, queue, slots, copy registers are the same. -/
def CtxRest (x y : Ctx) : Prop :=
  y = { x with g := y.g, v := y.v, p := y.p, e := y.e, b := y.b, stat := y.stat, rndctr := y.rndctr, pc := y.pc, pfx := y.pfx,
               wait := y.wait, snap := y.snap, stl := y.stl, clock := y.clock, ready := y.ready, bad := y.bad, perf := y.perf }

/-- The issuing context has retired an instruction of len bytes: the next one follows, the pending prefix is consumed
(R217), nothing waits. -/
def Retired (s t : State) (len : Nat) : Prop :=
  t.cx.pc = s.cx.pc + .ofNat 64 len ∧ t.cx.pfx = (if s.cx.pp then 0 else s.cx.pfx) ∧ t.cx.wait = .none

/-- Every register of the g, v, p, e and b files reads as before, but for those that a list of keys names. -/
def RegsSameBut (s t : State) (keys : List Nat) : Prop :=
  (∀ n, keyG n.toNat ∉ keys → t.readG n = s.readG n) ∧ (∀ n, keyV n.toNat ∉ keys → t.readV n = s.readV n) ∧
  (∀ n, keyP n.toNat ∉ keys → t.readP n = s.readP n) ∧ (∀ n, keyE n.toNat ∉ keys → t.readE n = s.readE n) ∧
  (∀ n, keyB n.toNat ∉ keys → t.readB n = s.readB n)

/-- Flags, level bits and RNDCTR are as before: STAT changes in WS and PP alone, which retiring clears. -/
def FlagsSame (s t : State) : Prop := t.cx.stat = clearPend s.cx.stat ∧ t.cx.rndctr = s.cx.rndctr

/-- An instruction of len bytes that changes nothing but the registers with the given keys. -/
def ChangesRegs (s t : State) (len : Nat) (keys : List Nat) : Prop :=
  OnlyContext s t ∧ CtxRest s.cx t.cx ∧ Retired s t len ∧ FlagsSame s t ∧ RegsSameBut s t keys

/-! ### What an instruction writes

Of the states s, u and t: s is the state before the instruction; u is s with the effect of the instruction beyond the
registers that it writes and its retirement; t is the answer. For an instruction that has no such effect u is s. -/

/-- The instruction answers u with w in g d (g0 still reads zero), retired: nothing else differs from u. -/
def GivesGAfter (i : Instr) (s u : State) (len : Nat) (d : BitVec 5) (w : Word) : Prop :=
  ∃ t, exec i s = .next t ∧ t.readG d = (if d = 0 then 0 else w) ∧ ChangesRegs u t len [keyG d.toNat]

/-- The instruction answers u, retired: nothing else differs from u. -/
def GivesAfter (i : Instr) (s u : State) (len : Nat) : Prop := ∃ t, exec i s = .next t ∧ ChangesRegs u t len []

/-- The instruction answers a state in which g d holds w and nothing else has changed. -/
def GivesG (i : Instr) (s : State) (len : Nat) (d : BitVec 5) (w : Word) : Prop := GivesGAfter i s s len d w

/-- The instruction answers a state in which nothing has changed but that it has retired. -/
def GivesNothing (i : Instr) (s : State) (len : Nat) : Prop := GivesAfter i s s len

/-- The instruction answers a state in which p d holds w (p0 still reads all ones) and nothing else has changed. -/
def GivesP (i : Instr) (s : State) (len : Nat) (d : BitVec 3) (w : Word) : Prop :=
  ∃ t, exec i s = .next t ∧ t.readP d = (if d = 0 then .allOnes 64 else w) ∧ ChangesRegs s t len [keyP d.toNat]

/-- The instruction answers a state in which e d holds w and nothing else has changed. -/
def GivesE (i : Instr) (s : State) (len : Nat) (d : BitVec 3) (w : Word) : Prop :=
  ∃ t, exec i s = .next t ∧ t.readE d = w ∧ ChangesRegs s t len [keyE d.toNat]

/-- The instruction answers a state in which b d holds w and nothing else has changed. -/
def GivesB (i : Instr) (s : State) (len : Nat) (d : BitVec 2) (w : Word) : Prop :=
  ∃ t, exec i s = .next t ∧ t.readB d = w ∧ ChangesRegs s t len [keyB d.toNat]

/-- The instruction answers a state in which v d holds w and nothing else has changed. -/
def GivesV (i : Instr) (s : State) (len : Nat) (d : BitVec 5) (w : VReg) : Prop :=
  ∃ t, exec i s = .next t ∧ t.readV d = w ∧ ChangesRegs s t len [keyV d.toNat]

/-- The instruction answers a state in which the context goes on at target and the registers with the given keys alone
differ. -/
def GoesTo (i : Instr) (s t : State) (target : Word) (keys : List Nat) : Prop :=
  exec i s = .next t ∧ t.cx.pc = target ∧ t.cx.pfx = (if s.cx.pp then 0 else s.cx.pfx) ∧ t.cx.wait = .none ∧ OnlyContext s t ∧
    CtxRest s.cx t.cx ∧ FlagsSame s t ∧ RegsSameBut s t keys

/-- The instruction answers the state in which its context has taken the trap with record r (R343, R346). -/
def Traps (i : Instr) (s : State) (r : FaultRec) : Prop := exec i s = .next (s.raise r)

/-- The instruction answers a state in which its context waits at it: nothing else has changed. -/
def Waits (i : Instr) (s : State) (w : Wait) : Prop :=
  exec i s = .next (s.modCx fun x => { x with wait := w, snap := some s.atIssue })

/-- The instruction of len bytes branches to target when it is taken, and to the next instruction otherwise; a target
outside local SRAM is a LOCAL_RANGE of a taken branch (R201). -/
def Branches (i : Instr) (s : State) (len : Nat) (taken : Prop) (target : Word) : Prop :=
  (¬taken → GivesNothing i s len) ∧
  (taken → target.toNat < 0x300000 → ∃ t, GoesTo i s t target []) ∧
  (taken → 0x300000 ≤ target.toNat → Traps i s { cause := 0x20, addr := target })

/-- The instruction jumps to target, with the return address in g31 when it links; FETCH_ALIGN comes before LOCAL_RANGE
(R232). -/
def Jumps (i : Instr) (s : State) (target : Word) (link : Bool) : Prop :=
  if target.getLsbD 0 then Traps i s { cause := 0x05 }
  else if 0x300000 ≤ target.toNat then Traps i s { cause := 0x20, addr := target }
  else ∃ t, GoesTo i s t target (if link then [keyG 31] else []) ∧ (link = true → t.readG 31 = s.cx.pc + 4)

/-! ### Local loads and stores -/

/-- A load of n bytes at a by an instruction of len bytes that writes f of the number loaded to g d: the checks of R49 and
R50 in their order, then the value. -/
def LoadsG (i : Instr) (s : State) (len : Nat) (d : BitVec 5) (a : Word) (n : Nat) (f : Nat → Word) : Prop :=
  if 0x300000 < a.toNat + n then Traps i s { cause := 0x20, addr := a, info0 := n }
  else if a.toNat % n ≠ 0 then Traps i s { cause := 0x21, addr := a, info0 := n }
  else if s.me.badIn a.toNat n then Traps i s { cause := 0xA0 }
  else GivesG i s len d (f (Memory.num s.me.mem a.toNat n))

/-- What a store may have changed in its core beside the issuing context: memory, bad doublewords, the image mark. -/
def OnlyStored (s t : State) : Prop :=
  t = (s.modMe fun _ => t.me) ∧ t.me = { s.me with ctx := t.me.ctx, mem := t.me.mem, bad := t.me.bad, image := t.me.image } ∧
  (∀ k, k ≠ s.curCtx → t.me.cx k = s.me.cx k) ∧ CtxRest s.cx t.cx ∧ FlagsSame s t ∧ RegsSameBut s t []

/-- Bit j of byte x of local SRAM keeps what is written to it: the system area above the window table reads zero (R48), and so
do bits 63 to 54 and 31 to 22 of a doubleword of the table (R51). -/
def Kept (x j : Nat) : Prop := ¬(0x1168 ≤ x ∧ x < 0x2000) ∧ (0x1100 ≤ x → x < 0x1168 → x % 4 * 8 + j < 22)

/-- A store of the low n bytes of w at a: the checks of R49 and R50 in their order, then the bytes, but for the bits that read
zero; every other byte of memory is as before. -/
def StoresG (i : Instr) (s : State) (len : Nat) (w a : Word) (n : Nat) : Prop :=
  if 0x300000 < a.toNat + n then Traps i s { cause := 0x20, addr := a, info0 := n }
  else if a.toNat % n ≠ 0 then Traps i s { cause := 0x21, addr := a, info0 := n }
  else if s.storeProtected s.curCore s.isS a.toNat n then Traps i s { cause := 0x22, addr := a, info0 := n }
  else if s.me.badPartly a.toNat n then Traps i s { cause := 0xA0 }
  else ∃ t, exec i s = .next t ∧ OnlyStored s t ∧ Retired s t len ∧ MemSameBut s t s.curCore a.toNat n ∧
    ∀ k < n, ∀ j < 8, (Memory.byte t.me.mem (a.toNat + k)).getLsbD j = true ↔ w.getLsbD (8 * k + j) = true ∧ Kept (a.toNat + k) j

/-! ### Vector results -/

/-- The flags of STAT afterwards: those before and those of the list of flag sets; SCHK is kept, WS and PP are clear
(R88, R212). -/
def FlagsAdded (s t : State) (fs : List Nat) : Prop :=
  ∀ k < 64, wbit t.cx.stat k =
    if k < 6 then (wbit s.cx.stat k || fs.any fun f => fld f k 1 == 1) else (wbit s.cx.stat k && k != 14 && k != 15)

/-- An instruction that writes the registers with the given keys, adds flags, and advances RNDCTR by n, and no more. -/
def ChangesFlagged (s t : State) (keys fs : List Nat) (n : Nat) : Prop :=
  OnlyContext s t ∧ CtxRest s.cx t.cx ∧ Retired s t 4 ∧ RegsSameBut s t keys ∧ FlagsAdded s t fs ∧
  t.cx.rndctr = s.cx.rndctr + .ofNat 64 n

/-- An element-wise result of width w in v d (R210, R265): op i gives element i and its flags where it is active; another
element is zero (z = 1) or as before. -/
def GivesLanes (i : Instr) (s : State) (d : BitVec 5) (p : BitVec 3) (z : BitVec 1) (w n : Nat) (op : Nat → Nat × Nat) : Prop :=
  ∃ t, exec i s = .next t ∧
    (∀ k < 2048 / w, lane w (t.readV d).toNat k =
      if s.active p w k then (op k).1 % 2 ^ w else if z = 1 then 0 else lane w (s.readV d).toNat k) ∧
    ChangesFlagged s t [keyV d.toNat] ((s.activeLanes p w).map fun k => (op k).2) n

/-- An element-wise instruction over the float format (R264, R265): formats other than 1 to 4 raise FORMAT_UNSUPPORTED, an
instruction that rounds raises ORDER_VIOLATION where R161 forbids SR, and RNDCTR advances once in a stochastic mode. -/
def FloatLanes (i : Instr) (s : State) (d : BitVec 5) (p : BitVec 3) (z : BitVec 1) (rounds : Bool)
    (op : Nat → Nat → Nat × Nat) : Prop :=
  if s.fmt1 < 1 ∨ 4 < s.fmt1 then Traps i s { cause := 0x60 }
  else if rounds && s.srForbidden s.rm then Traps i s { cause := 0x0A }
  else GivesLanes i s d p z (fmtBits s.fmt1) (if rounds && stochastic s.rm then 1 else 0) (op s.fmt1)

/-- An element-wise instruction over a width that R264 gives, or FORMAT_UNSUPPORTED where it gives none. -/
def WidthLanes (i : Instr) (s : State) (d : BitVec 5) (p : BitVec 3) (z : BitVec 1) (width : Option Nat)
    (op : Nat → Nat → Nat × Nat) : Prop :=
  match width with
  | none => Traps i s { cause := 0x60 }
  | some w => GivesLanes i s d p z w 0 (op w)

/-- A predicate result over elements of width w (R275): bit j holds when every element that it governs, or the element that
spans it, passes; an inactive bit is zero (z = 1) or as before. p0 still reads all ones. -/
def GivesPred (i : Instr) (s : State) (d p : BitVec 3) (z : BitVec 1) (w : Nat) (test : Nat → Bool × Nat) : Prop :=
  ∃ t, exec i s = .next t ∧
    (d ≠ 0 → ∀ j < 64, (t.readP d).getLsbD j =
      if w < 32 then
        if (s.readP p).getLsbD j then decide (∀ e < 2048 / w, e * w / 32 = j → (test e).1 = true)
        else (z == 0 && (s.readP d).getLsbD j)
      else
        if (s.readP p).getLsbD (j * 32 / w * w / 32) then (test (j * 32 / w)).1 else (z == 0 && (s.readP d).getLsbD j)) ∧
    ChangesFlagged s t [keyP d.toNat] ((s.activeLanes p w).map fun k => (test k).2) 0

/-- A float comparison: it passes where holds does for the two values; quiet ones set NV for a signalling NaN only. -/
def FloatCompares (i : Instr) (s : State) (d : BitVec 3) (a b : BitVec 5) (p : BitVec 3) (z : BitVec 1) (quiet : Bool)
    (holds : Val → Val → Bool) : Prop :=
  if s.fmt1 < 1 ∨ 4 < s.fmt1 then Traps i s { cause := 0x60 }
  else GivesPred i s d p z (fmtBits s.fmt1) fun k =>
    let x := decode s.fmt1 (lane (fmtBits s.fmt1) (s.readV a).toNat k)
    let y := decode s.fmt1 (lane (fmtBits s.fmt1) (s.readV b).toNat k)
    (holds x y, if (quiet && (isSnan x || isSnan y)) || (!quiet && (isNan x || isNan y)) then fNV else 0)

/-- An integer comparison over the integer width, of signed or unsigned elements. -/
def IntCompares (i : Instr) (s : State) (d : BitVec 3) (a b : BitVec 5) (p : BitVec 3) (z : BitVec 1) (signed : Bool)
    (holds : Int → Int → Bool) : Prop :=
  match s.intWidth with
  | none => Traps i s { cause := 0x60 }
  | some w => GivesPred i s d p z w fun k =>
    let n (v : VReg) : Int := if signed then sgn w (lane w v.toNat k) else (lane w v.toNat k : Nat)
    (holds (n (s.readV a)) (n (s.readV b)), 0)

/-- A result in g d with flags, and RNDCTR advanced by n. -/
def GivesGFlagged (i : Instr) (s : State) (d : BitVec 5) (w : Word) (fs : List Nat) (n : Nat) : Prop :=
  ∃ t, exec i s = .next t ∧ t.readG d = (if d = 0 then 0 else w) ∧ ChangesFlagged s t [keyG d.toNat] fs n

/-- The active elements of v a of width w, in ascending order (R279). -/
def activeOf (s : State) (p : BitVec 3) (w : Nat) (a : BitVec 5) : List Nat :=
  (s.activeLanes p w).map fun k => lane w (s.readV a).toNat k

/-- A conversion of the lowest elements between widths ws and wd (R280, R281): elements are governed at the wider width,
and destination elements beyond their number are zero. -/
def Converts (i : Instr) (s : State) (d a : BitVec 5) (p : BitVec 3) (z : BitVec 1) (ws wd n : Nat) (op : Nat → Nat → Nat × Nat) :
    Prop :=
  ∃ t, exec i s = .next t ∧
    (∀ k < 2048 / wd, lane wd (t.readV d).toNat k =
      if 2048 / max ws wd ≤ k then 0
      else if s.active p (max ws wd) k then (op k (lane ws (s.readV a).toNat k)).1 % 2 ^ wd
      else if z = 1 then 0 else lane wd (s.readV d).toNat k) ∧
    ChangesFlagged s t [keyV d.toNat] ((s.activeLanes p (max ws wd)).map fun k => (op k (lane ws (s.readV a).toNat k)).2) n

/-- A result in v d with flags, and RNDCTR advanced by n. -/
def GivesVFlagged (i : Instr) (s : State) (d : BitVec 5) (v : VReg) (fs : List Nat) (n : Nat) : Prop :=
  ∃ t, exec i s = .next t ∧ t.readV d = v ∧ ChangesFlagged s t [keyV d.toNat] fs n

/-- f is FMT with the value w written over old: RM keeps its field for 7, VF for 0 and above 4, MFA and MFB for what is not
3 to 9; reserved bits read zero (R79, R213). -/
def FmtSet (old f : BitVec 24) (w : Word) : Prop :=
  f.extractLsb' 0 3 = (if w.extractLsb' 0 3 = 7 then old.extractLsb' 0 3 else w.extractLsb' 0 3) ∧
  f.extractLsb' 4 4 = (if w.extractLsb' 4 4 = 0 ∨ 4 < (w.extractLsb' 4 4).toNat then old.extractLsb' 4 4 else w.extractLsb' 4 4) ∧
  f.extractLsb' 8 2 = w.extractLsb' 8 2 ∧ f.extractLsb' 3 1 = 0 ∧ f.extractLsb' 10 6 = 0 ∧
  ∀ k ∈ [16, 20], f.extractLsb' k 4 =
    if 3 ≤ (w.extractLsb' k 4).toNat ∧ (w.extractLsb' k 4).toNat ≤ 9 then w.extractLsb' k 4 else old.extractLsb' k 4

/-! ### Records and slots -/

/-- The number whose little-endian doublewords are ws. -/
def dwordsNum (ws : List Word) : Nat := ws.foldr (fun w a => w.toNat + 2 ^ 64 * a) 0

/-- A record's home has answered a read with the 64 bytes r; behind them stands the number of STSYNC instructions that the
core had executed when it did (R108, R287). -/
def Answered (s : State) (r syncs : Nat) : Prop :=
  ∃ st data, s.cx.wait = .got st data ∧ data.length = 9 ∧ r = dwordsNum (data.take 8) ∧ data.getD 8 0 = .ofNat 64 syncs

/-- The record that a tensor operand gives its instruction: none where RECEN = 0, otherwise the 64 bytes with which the
record's home has answered (R286, R287). -/
def RecordFor (s : State) (e : Word) (r : Option Nat) : Prop :=
  (tRecen e = false ∧ r = none) ∨ (tRecen e = true ∧ ∃ q n, Answered s q n ∧ r = some q)

/-- An instruction that reads its record and has not been answered yet. -/
def Unread (s : State) (e : Word) : Prop := tRecen e = true ∧ ∀ st data, s.cx.wait ≠ .got st data

/-- u is s but for the matrix engine of the issuing core. -/
def OnlyMatrix (s u : State) : Prop := u = s.modMe fun c => { c with matrix := u.me.matrix }

/-- Bytes of n-byte elements that a store has written: element k of es with number x k at address addr k, in ascending
order, so that of elements that overlap the last one stands, but for the bits that read zero; every other byte of the
core's memory is as before. -/
def ElementsStored (s t : State) (es : List Nat) (n : Nat) (addr : Nat → Word) (x : Nat → Nat) : Prop :=
  (∀ a, (∀ k ∈ es, a < (addr k).toNat ∨ (addr k).toNat + n ≤ a) → Memory.byte t.me.mem a = Memory.byte s.me.mem a) ∧
  ∀ k ∈ es, ∀ a, (addr k).toNat ≤ a → a < (addr k).toNat + n →
    (∀ j ∈ es, k < j → a < (addr j).toNat ∨ (addr j).toNat + n ≤ a) →
    ∀ j < 8, (Memory.byte t.me.mem a).getLsbD j = true ↔ (x k).testBit (8 * (a - (addr k).toNat) + j) = true ∧ Kept a j

/-- An element of n bytes may be stored at an address: the checks of R49 and R50. -/
def Writable (s : State) (n : Nat) (a : Word) : Prop :=
  a.toNat + n ≤ 0x300000 ∧ a.toNat % n = 0 ∧ s.storeProtected s.curCore s.isS a.toNat n = false ∧ s.me.badPartly a.toNat n = false

/-- What a map lists at key k. -/
def listed {α : Type} (m : SMap α) (k : Nat) : Option α := (m.find? fun e => e.1 == k).map (·.2)

/-! ### Instructions that send -/

/-- A REMOTE_* record at issue: KIND, the target operand and DEST (R351). -/
def remoteFault (cause kind : Nat) (a dest : Word) : FaultRec :=
  { cause := cause, addr := a, info1 := kind, detail0 := dest }

/-- The target of an instruction that names a destination word, by the rows of R113 after row 1. mem says that the instruction
names n bytes at a (a PUT, an atomic, an update), with an alignment and a capability bit. -/
structure Target where
  use : DestUse
  kind : Nat
  cls : Nat
  dest : Word
  addr : Word := 0
  bytes : Nat := 1
  align : Nat := 1
  cap : Option Nat := none

/-- The target names bytes of memory. -/
def Target.mem (m : Target) : Bool := m.use == .put || m.use == .atomic

/-- R113: row 1 is given; the first row that fails traps, and otherwise ok holds. -/
def Aimed (i : Instr) (s : State) (m : Target) (badLen : Prop) (ok : Prop) : Prop :=
  let dk := m.dest.toNat / 2 ^ 62
  let remote := fun c => Traps i s (remoteFault c m.kind m.addr m.dest)
  let form := s.destForm m.use m.dest = true
  let chan := m.use = .send ∧ 48 ≤ destChan m.dest ∧ s.isS = false
  let member := m.use ≠ .sendhost ∧ dk = 0 ∧ s.sameLaunch s.curCore (m.dest.toNat % 2048) = false
  let ptr := m.mem = true ∧ dk = 3
  let area := m.mem = true ∧ dk < 2 ∧ (m.addr.toNat < 0x2000 ∨ 0x300000 < m.addr.toNat + m.bytes)
  let align := m.mem = true ∧ m.addr.toNat % m.align ≠ 0
  let cap := ∃ b, m.cap = some b ∧ s.capMissing m.dest b = true
  (badLen → Traps i s { cause := 0x40 }) ∧
  (¬badLen → form → Traps i s { cause := 0x41 }) ∧
  (¬badLen → ¬form → chan → Traps i s { cause := 0x42 }) ∧
  (¬badLen → ¬form → ¬chan → member → remote 0x43) ∧
  (¬badLen → ¬form → ¬chan → ¬member → ptr → ∀ c, s.pointerFault .remote m.addr m.bytes = some c →
    Traps i s (accessRec c (s.pointerAddr c m.addr) m.bytes 0)) ∧
  (¬badLen → ¬form → ¬chan → ¬member → (ptr → s.pointerFault .remote m.addr m.bytes = none) →
    (area → remote 0x44) ∧ (¬area → align → remote 0x45) ∧ (¬area → ¬align → cap → remote 0x46) ∧
    (¬area → ¬align → ¬cap → ok))

/-- The congestion key of the home that a target names (R135, R136). -/
def Target.key (m : Target) (s : State) : DestKey := (s.targetOf s.curCore m.dest m.addr).1.key

/-- A packet of the issuing context with slack class cls sets out: with the slack and RALLOW of the snapshot of its SLK register
(R111, R128), and the sequence and number of its transaction x. -/
def Leaves (s t : State) (p : Packet) (x : Tx) (cls : Nat) : Prop :=
  let slk := (SMap.get (0 : Word) s.atIssue.slk cls).toNat
  t.net = SMap.put s.net s.nextPkt p ∧ t.nextPkt = s.nextPkt + 1 ∧ p.cn = s.curCore ∧ p.seq = x.seq ∧ p.first = x.first ∧
    p.ctx = s.curCtx ∧ p.cls = cls ∧ p.slack = slk % 2 ^ 12 ∧ p.rallow = slk / 2 ^ 12 % 2 ^ 12 ∧ p.marked = false ∧
    x.cls = cls ∧ x.slk = slk ∧ x.ctx = s.curCtx ∧ x.seq = s.me.txSeq.toNat ∧ x.first = s.me.txSeq.toNat

/-- One transaction sets out (R110, R111, R128): it is among the core's outstanding ones under the next sequence number,
with its kind, class, destination and snapshot of the slack register, and one packet with that slack is in flight. A
transaction that stays in the package is in flight with its body to the home that its target names; one toward a package
that cannot be reached is answered at once (R399). A fetching form reserves a reply slot of q3 (R122). -/
def SetsOut (s t : State) (m : Target) (body : Body) (fetch ticketed : Bool) : Prop :=
  let dk := m.dest.toNat / 2 ^ 62
  ∃ (x : Tx) (p : Packet), Leaves s t p x m.cls ∧ t.me.txs = s.me.txs ++ [x] ∧ x.kind = m.kind ∧ p.kind = m.kind ∧
    x.dest = m.dest ∧ x.addr = m.addr ∧ x.fetch = fetch ∧ x.ticketed = ticketed ∧ x.key = m.key s ∧ x.copy = none ∧
    t.me.txSeq = s.me.txSeq + 1 ∧
    (dk ≠ 1 → p.home = x.home ∧ p.reply = false ∧ p.body = body ∧ x.body = body ∧ p.addr = (s.targetOf s.curCore m.dest m.addr).2) ∧
    (fetch = false → t.me.q3 = s.me.q3) ∧
    (fetch = true → ∃ r : Reply, t.me.q3 = s.me.q3 ++ [r] ∧ r.tx = some x.seq ∧ r.owner = s.curCtx ∧ r.answer = none ∧ r.orphan = false)

/-- An instruction that sends changes nothing else: every byte of memory, every register but the pc, and everything of the
core but its transactions, reply slots, flow numbers and counters of outstanding operations. -/
def OnlySent (s t : State) : Prop :=
  MemSame s t ∧ t = { (s.modMe fun _ => t.me) with net := t.net, nextPkt := t.nextPkt } ∧
  t.me = { s.me with ctx := t.me.ctx, txs := t.me.txs, txSeq := t.me.txSeq, noticed := t.me.noticed, closed := t.me.closed,
                     q3 := t.me.q3, flowSeq := t.me.flowSeq, halos := t.me.halos } ∧
  (∀ k, k ≠ s.curCtx → t.me.cx k = s.me.cx k) ∧ CtxRest s.cx t.cx ∧ RegsSameBut s t []

/-- What a first packet waits for (R136, R310): the router that refuses it, then the full window toward key. Once neither holds,
ok. -/
def Admitted (i : Instr) (s : State) (key : DestKey) (ok : Prop) : Prop :=
  (s.me.choked = true → Waits i s .router) ∧
  (s.me.choked = false → s.me.windowFull key = true → Waits i s (.window key)) ∧
  (s.me.choked = false → s.me.windowFull key = false → ok)

/-- The instruction sends its transaction and retires, once it is admitted and, for a fetching form, a reply slot is free
(R122); a payload with an uncorrectable error is met when it is read, behind these waits (R68, R312). -/
def Sends (i : Instr) (s : State) (m : Target) (unreadable : Prop) (body : Body) (fetch : Bool) : Prop :=
  Admitted i s (m.key s)
    ((fetch = true → 32 ≤ s.me.q3.length → Waits i s (.room 3)) ∧
     ((fetch = true → s.me.q3.length < 32) →
       (unreadable → Traps i s { cause := 0xA0 }) ∧
       (¬unreadable → ∃ t, exec i s = .next t ∧ Retired s t 4 ∧ FlagsSame s t ∧ OnlySent s t ∧ SetsOut s t m body fetch false)))

/-- The context sends operation b on record n to its home, as a transaction in class 0, and waits for the answer (R287). -/
def AsksHome (i : Instr) (s : State) (n : Nat) (b : Body) : Prop :=
  let va := s.recordVa s.curCore n
  let home := s.homeAtIssue (s.partOf s.curCore) va
  Admitted i s home.key (∃ (t : State) (x : Tx) (p : Packet), exec i s = .next t ∧ OnlySent s t ∧ Leaves s t p x 0 ∧
    t.me.txs = s.me.txs ++ [x] ∧ t.me.txSeq = s.me.txSeq + 1 ∧ x.key = home.key ∧ x.copy = none ∧ x.fetch = false ∧
    p.body = b ∧ p.home = home ∧ p.addr = va ∧ p.reply = false ∧ t.cx.wait = .sent (2 * s.me.txSeq.toNat + 1) ∧
    t.cx.pc = s.cx.pc ∧ t.cx.stat = s.cx.stat ∧ t.cx.rndctr = s.cx.rndctr)

/-- An entry of core cn's accumulator has left it as a flush: a request of class 0 with a transaction id, which no context
waits for (R104, R138; its form is log entry 38). -/
def Flushed (s t : State) (cn : Nat) (en : StatEntry) : Prop :=
  let c := s.core cn
  let c' := t.core cn
  let va := s.recordVa cn en.recid
  let home := s.homeAtIssue (s.partOf cn) va
  ∃ (x : Tx) (p : Packet), t.net = SMap.put s.net s.nextPkt p ∧ t.nextPkt = s.nextPkt + 1 ∧ p.body = .flush en.recid en.sum ∧ p.cn = cn ∧
    p.home = home ∧ p.addr = va ∧ p.cls = 0 ∧ p.seq = x.seq ∧ p.reply = false ∧ c'.txs = c.txs ++ [x] ∧ x.seq = c.txSeq.toNat ∧ x.ctx = 15 ∧
    x.body = p.body ∧ x.key = home.key ∧ c'.txSeq = c.txSeq + 1 ∧ c'.flushes = c.flushes + 1 ∧
    c'.stats = c.stats.filter fun z => z.recid != en.recid

/-- A ticketed update sets out, and its instruction waits for the status (R151). -/
def Updating (i : Instr) (s : State) (m : Target) (body : Body) : Prop :=
  ∃ t, exec i s = .next t ∧ t.cx.wait = .sent (2 * s.me.txSeq.toNat + 1) ∧
    t.cx.pc = s.cx.pc ∧ t.cx.stat = s.cx.stat ∧ t.cx.rndctr = s.cx.rndctr ∧ OnlySent s t ∧ SetsOut s t m body false true

/-- A ticketed update (R151, R317): its status 0 ends the instruction, another status traps; before that it sends the update
and waits for the status. -/
def Updates (i : Instr) (s : State) (m : Target) (body : Body) : Prop :=
  (∀ data, s.cx.wait = .got 0 data → GivesNothing i s 4) ∧
  (∀ n data, s.cx.wait = .got (n + 1) data → Traps i s (ticketRec (n + 1) data m.dest)) ∧
  ((∀ n data, s.cx.wait ≠ .got n data) → Aimed i s m False (Admitted i s (m.key s) (Updating i s m body)))

/-! ### Events -/

/-- The event or instruction answers a state for which P holds. -/
def Answers (i : Instr) (s : State) (P : State → Prop) : Prop := ∃ t, exec i s = .next t ∧ P t

/-- t is s but for core cn. -/
def OnlyCore (s t : State) (cn : Nat) : Prop := t = s.modCore cn fun _ => t.core cn

/-- No activation of core cn is traced, logged or compared (R423, R426). -/
def Unlogged (s : State) (cn : Nat) : Prop := wbit (s.debugOf (s.partOf cn)).trctl 63 = false ∧ (s.replayLog cn).1 = 0

/-- The bytes bs stand at a of a memory. -/
def Holds (m : Memory) (a : Nat) (bs : List Byte) : Prop := Memory.read m a bs.length = bs

/-- Two memories agree outside [a, a + n). -/
def SameOutside (m m' : Memory) (a n : Nat) : Prop := ∀ b, b < a ∨ a + n ≤ b → Memory.byte m' b = Memory.byte m b

/-- Two local memories agree outside the status doublewords of the handler table (R29, R30). -/
def SameButStatus (m m' : Memory) : Prop := ∀ b, b < 0x800 ∨ 0x1000 ≤ b ∨ b % 32 < 24 → Memory.byte m' b = Memory.byte m b

/-- A reply to packet p with a status and data is in flight to the issuer, with slack min(4095, slack + RALLOW) (R121,
R132). -/
def Replied (s t : State) (p : Packet) (st : Nat) (data : List Word) : Prop :=
  ∃ n, s.nextPkt ≤ n ∧ listed t.net n = some
    { p with home := .core p.cn, slack := min 4095 (p.slack + p.rallow), rallow := 0, marked := false, reply := true, body := .reply st data }

/-- The launch with partition p and LID d afterwards is q. -/
def LaunchIs (t : State) (p : BitVec 4) (d : BitVec 32) (q : Launch) : Prop := t.launch? p.toNat d.toNat = some q

/-- The record queue of core cn holds one more record, with the cause given (R345). -/
def Queued (s t : State) (cn cause : Nat) : Prop :=
  ∃ r, r ∈ (t.core cn).trap.queue ∧ r.cause = cause ∧ r.async = true ∧ r.cn = cn ∧
    (t.core cn).trap.queue.length = (s.core cn).trap.queue.length + 1

end Sys2Proof
end

