-- ==== Sys2Proof/Certificates/Slice0/Obligations.lean ====
section
/-! DEFINITION. The statements for the provers. -/

open Sys2Proof Sys2Proof.Machine

/-! ### Scalar instructions (spec 10, R224 to R230; spec 09, R202) -/

/-- R224: the arithmetic, logic and comparison instructions of two registers write their result and nothing else. R224, R228:
shifts and rotations by bits [5:0] of a register or by an immediate. R228: the words of the immediate forms, whose bits [11:10] say
which, and that a word with one of its bits [9:6] set is none of them. -/
def Obligations.ScalarArithmeticAndShifts : Prop :=
  (∀ (st : BitVec 3) (d a b : BitVec 5) (s : State),
    let A := s.readG a
    let B := s.readG b
    GivesG (.add st d a b) s 4 d (A + B) ∧
    GivesG (.sub st d a b) s 4 d (A - B) ∧
    GivesG (.and st d a b) s 4 d (A &&& B) ∧
    GivesG (.or st d a b) s 4 d (A ||| B) ∧
    GivesG (.xor st d a b) s 4 d (A ^^^ B) ∧
    GivesG (.andn st d a b) s 4 d (A &&& ~~~B) ∧
    GivesG (.slt st d a b) s 4 d (if A.slt B then 1 else 0) ∧
    GivesG (.sltu st d a b) s 4 d (if A.ult B then 1 else 0) ∧
    GivesG (.seq st d a b) s 4 d (if A = B then 1 else 0) ∧
    GivesG (.min st d a b) s 4 d (if A.slt B then A else B) ∧
    GivesG (.max st d a b) s 4 d (if A.slt B then B else A) ∧
    GivesG (.minu st d a b) s 4 d (if A.ult B then A else B) ∧
    GivesG (.maxu st d a b) s 4 d (if A.ult B then B else A)) ∧
  (∀ (st : BitVec 3) (d a b : BitVec 5) (h : BitVec 6) (s : State),
    let A := s.readG a
    let n := (s.readG b).toNat % 64
    GivesG (.sll st d a b) s 4 d (A <<< n) ∧
    GivesG (.srl st d a b) s 4 d (A >>> n) ∧
    GivesG (.sra st d a b) s 4 d (A.sshiftRight n) ∧
    GivesG (.rol st d a b) s 4 d (A.rotateLeft n) ∧
    GivesG (.ror st d a b) s 4 d (A.rotateRight n) ∧
    GivesG (.slli st d a h) s 4 d (A <<< h.toNat) ∧
    GivesG (.srli st d a h) s 4 d (A >>> h.toNat) ∧
    GivesG (.srai st d a h) s 4 d (A.sshiftRight h.toNat) ∧
    GivesG (.rori st d a h) s 4 d (A.rotateRight h.toNat)) ∧
  (∀ (st : BitVec 3) (d a : BitVec 5) (h : BitVec 6),
    let word := fun op : Nat => 2 ^ 31 + st.toNat * 2 ^ 28 + 7 * 2 ^ 22 + d.toNat * 2 ^ 17 + a.toNat * 2 ^ 12 + op * 2 ^ 10 + h.toNat
    decodeTableWord 32 (word 0) = some (.slli st d a h) ∧ decodeTableWord 32 (word 1) = some (.srli st d a h) ∧
    decodeTableWord 32 (word 2) = some (.srai st d a h) ∧ decodeTableWord 32 (word 3) = some (.rori st d a h)) ∧
  (∀ w, w < 2 ^ 32 → fld w 31 1 = 1 → fld w 22 6 = 7 → fld w 6 4 ≠ 0 → decodeTableWord 32 w = none)

/-- R224, R225: products, and quotients and remainders with their zero divisors. R224, R226: counts, bit fields, byte reversal
and sign extension, said bit by bit where the rule does; bins reads its destination too (R205, R226). -/
def Obligations.MultiplyDivideAndBitFields : Prop :=
  (∀ (st : BitVec 3) (d a b : BitVec 5) (s : State),
    let A := s.readG a
    let B := s.readG b
    GivesG (.mul st d a b) s 4 d (A * B) ∧
    GivesG (.mulh st d a b) s 4 d ((A.signExtend 128 * B.signExtend 128).extractLsb' 64 64) ∧
    GivesG (.mulhu st d a b) s 4 d ((A.zeroExtend 128 * B.zeroExtend 128).extractLsb' 64 64) ∧
    GivesG (.div st d a b) s 4 d (if B = 0 then .allOnes 64 else A.sdiv B) ∧
    GivesG (.divu st d a b) s 4 d (if B = 0 then .allOnes 64 else A.udiv B) ∧
    GivesG (.rem st d a b) s 4 d (if B = 0 then A else A.srem B) ∧
    GivesG (.remu st d a b) s 4 d (if B = 0 then A else A.umod B)) ∧
  (∀ (st : BitVec 3) (d a b : BitVec 5) (s : State),
    let A := s.readG a
    let B := s.readG b
    let lo := B.toNat % 64
    let len := B.toNat / 256 % 64 + 1
    (∃ n : Nat, GivesG (.clz st d a) s 4 d (.ofNat 64 n) ∧ n ≤ 64 ∧ (∀ i < n, A.getMsbD i = false) ∧ (n < 64 → A.getMsbD n = true)) ∧
    (∃ n : Nat, GivesG (.ctz st d a) s 4 d (.ofNat 64 n) ∧ n ≤ 64 ∧ (∀ i < n, A.getLsbD i = false) ∧ (n < 64 → A.getLsbD n = true)) ∧
    GivesG (.popc st d a) s 4 d (.ofNat 64 ((List.range 64).countP fun i => A.getLsbD i)) ∧
    (∃ w : Word, GivesG (.bext st d a b) s 4 d w ∧ ∀ i, w.getLsbD i = (decide (i < len) && A.getLsbD (i + lo))) ∧
    keyG d.toNat ∈ (Instr.bins st d a b).uses ∧
    (∃ w : Word, GivesG (.bins st d a b) s 4 d w ∧ ∀ i < 64,
      w.getLsbD i = if lo ≤ i ∧ i < lo + len then A.getLsbD (i - lo) else (s.readG d).getLsbD i) ∧
    (∃ w : Word, GivesG (.bswap st d a) s 4 d w ∧ ∀ k < 8, w.extractLsb' (8 * k) 8 = A.extractLsb' (56 - 8 * k) 8) ∧
    (∃ w : Word, GivesG (.sext st d a b) s 4 d w ∧ ∀ i < 64, w.getLsbD i = A.getLsbD (min i lo)))

/-- R227, R229, R230: the immediate forms with a 12-bit immediate. R202: the 16-bit scalar forms do what their 32-bit forms do,
in two bytes. -/
def Obligations.ImmediatesAndCompactArithmetic : Prop :=
  (∀ (st : BitVec 3) (d a : BitVec 5) (i : BitVec 12) (s : State),
    let A := s.readG a
    let I : Word := i.signExtend 64
    GivesG (.addi st d a i) s 4 d (A + I) ∧
    GivesG (.andi st d a i) s 4 d (A &&& I) ∧
    GivesG (.ori st d a i) s 4 d (A ||| I) ∧
    GivesG (.xori st d a i) s 4 d (A ^^^ I) ∧
    GivesG (.slti st d a i) s 4 d (if A.slt I then 1 else 0) ∧
    GivesG (.lih st d a i) s 4 d (A.extractLsb' 0 52 ++ i) ∧
    GivesG (.adpc st d i) s 4 d (s.cx.pc + 2 * I)) ∧
  (∀ (d a i : BitVec 5) (s : State),
    let D := s.readG d
    let A := s.readG a
    let I : Word := i.signExtend 64
    GivesG (.cMv d a) s 2 d A ∧
    GivesG (.cAdd d a) s 2 d (D + A) ∧
    GivesG (.cSub d a) s 2 d (D - A) ∧
    GivesG (.cAnd d a) s 2 d (D &&& A) ∧
    GivesG (.cOr d a) s 2 d (D ||| A) ∧
    GivesG (.cXor d a) s 2 d (D ^^^ A) ∧
    GivesG (.cAddi d i) s 2 d (D + I) ∧
    GivesG (.cLi d i) s 2 d I ∧
    GivesG (.cSlli d i) s 2 d (D <<< i.toNat) ∧
    GivesG (.cSrli d i) s 2 d (D >>> i.toNat) ∧
    GivesG (.cSrai d i) s 2 d (D.sshiftRight i.toNat))

/-! ### Control (spec 09, R201, R202, R216; spec 10, R231 to R247) -/

/-- R201, R202, R231: conditional branches, br and c.j. R231, R232, R202: jumps to a register and calls. ga is read before the
link is written, and a call that faults writes no link. That a LOCAL_RANGE of a branch has the target in ADDR and INFO0 0 is log
entry 19, the model's choice. -/
def Obligations.BranchAndJumpRules : Prop :=
  (∀ (st : BitVec 3) (a : BitVec 5) (p : BitVec 3) (o : BitVec 14) (f : BitVec 22) (d h : BitVec 5) (j : BitVec 10) (s : State),
    let A := s.readG a
    let P := s.readP p
    let T := s.cx.pc + 2 * o.signExtend 64
    let C := s.cx.pc + 2 * h.signExtend 64
    Branches (.beqz st a o) s 4 (A = 0) T ∧
    Branches (.bnez st a o) s 4 (A ≠ 0) T ∧
    Branches (.bltz st a o) s 4 (A.toInt < 0) T ∧
    Branches (.bgez st a o) s 4 (0 ≤ A.toInt) T ∧
    Branches (.bgtz st a o) s 4 (0 < A.toInt) T ∧
    Branches (.blez st a o) s 4 (A.toInt ≤ 0) T ∧
    Branches (.bpany st p o) s 4 (P ≠ 0) T ∧
    Branches (.bpnone st p o) s 4 (P = 0) T ∧
    Branches (.br st f) s 4 True (s.cx.pc + 2 * f.signExtend 64) ∧
    Branches (.cBeqz d h) s 2 (s.readG d = 0) C ∧
    Branches (.cBnez d h) s 2 (s.readG d ≠ 0) C ∧
    Branches (.cJ j) s 2 True (s.cx.pc + 2 * j.signExtend 64)) ∧
  (∀ (st : BitVec 3) (a : BitVec 5) (f : BitVec 22) (s : State),
    let T := s.cx.pc + 2 * f.signExtend 64
    Jumps (.jr st a) s (s.readG a) false ∧
    Jumps (.callr st a) s (s.readG a) true ∧
    Jumps (.ret st) s (s.readG 31) false ∧
    Jumps (.cJr a) s (s.readG a) false ∧
    (T.toNat < 0x300000 → ∃ t, GoesTo (.call st f) s t T [keyG 31] ∧ t.readG 31 = s.cx.pc + 4) ∧
    (0x300000 ≤ T.toNat → Traps (.call st f) s { cause := 0x20, addr := T }))

/-- R216, R217, R203, R248, R202: a legal prefix becomes pending and nothing else changes, neither a register nor RNDCTR nor a flag; an illegal pairing is a
RESERVED_FIELD; hints change nothing. -/
def Obligations.PrefixAndHints : Prop :=
  ∀ (st : BitVec 3) (f : BitVec 4) (p : BitVec 1) (g : BitVec 4) (q : BitVec 1) (r : BitVec 3) (t : BitVec 1) (h : BitVec 22)
    (k : BitVec 10) (s : State),
    let illegal := (p = 1 ∧ f = 0) ∨ (q = 1 ∧ g = 0) ∨ (t = 1 ∧ r = 7)
    (¬illegal → ∃ u, exec (.pfx st f p g q r t) s = .next u ∧ u.cx.pfx = f ++ p ++ g ++ q ++ r ++ t ∧ u.cx.pp = true ∧
      u.cx.pc = s.cx.pc + 4 ∧ (∀ n < 64, n ≠ 14 → wbit u.cx.stat n = (wbit s.cx.stat n && n != 15)) ∧
      OnlyContext s u ∧ CtxRest s.cx u.cx ∧ u.cx.rndctr = s.cx.rndctr ∧ u.cx.wait = .none ∧ RegsSameBut s u []) ∧
    (illegal → Traps (.pfx st f p g q r t) s { cause := 0x02 }) ∧
    GivesNothing (.nop st h) s 4 ∧
    GivesNothing (.cHint k) s 2

/-- R26, R27, R29, R33, R36, R169, R173, R202, R235: exit ends an activation, which gives up its slots, but not its transactions; the LIVE
bit of the entry of a channel with no other live slot is then clear, and where no message is held for a place all memory stays but the
status doublewords of the handler table; exit latches the event
of an end in every context, at once where no transaction of its context to the core's own SRAM is outstanding, and not before
otherwise; ACTEND is not reported to any context while an end before it is open; in C0 it makes
the context finish. R26: the spec gives exit no effect in the trap context; exit and c.exit stop there by name
(log entry 17). R26, R236: start in C0 gives the lowest-numbered free activation context its address and argument, or writes
0 when none is free, and that context first waits for C0's earlier transactions to the core's own SRAM (R173); the checks
come in the order of R236. -/
def Obligations.ActivationRules : Prop :=
  (∀ (st : BitVec 3) (s : State), s.curCtx < 11 → ∀ i ∈ [Instr.exit st, .cExit],
    ∃ t, exec i s = .next t ∧ t.cx.slot = none ∧ t.cx.rslot = none ∧ (∀ o ∈ t.me.matrix.owner, o.2 ≠ s.curCtx) ∧
      (∀ r ∈ t.me.q3, r.owner = s.curCtx → r.orphan = true ∧ r.answer = none) ∧
      (∀ x ∈ s.me.txs, x ∈ t.me.txs) ∧ t.cx.wait = .none ∧
      (∀ n, t.readG n = s.readG n) ∧
      (let slots := fun x : Ctx => x.slot.toList ++ x.rslot.toList
       s.me.inbuf = [] → (∀ x ∈ slots s.cx, x.chan < 64) → SameButStatus s.me.mem t.me.mem ∧ t.gmem = s.gmem ∧
        (∀ j, j ≠ s.curCore → (t.core j).mem = (s.core j).mem) ∧
        (SMap.rising s.me.ctx = true → ∀ x ∈ slots s.cx,
          (∀ k, k ≠ s.curCtx → ∀ y ∈ slots (s.me.cx k), y.chan ≠ x.chan) → t.me.liveBit x.chan = false)) ∧
      (s.curCtx = 0 → t.cx.finishing = true ∧ t.cx.live = s.cx.live) ∧
      (s.curCtx ≠ 0 → t.cx.live = false ∧
        (s.me.ownTxs s.curCore s.curCtx = [] → ∀ k < 12, (t.me.cx k).latched.getLsbD 3 = true) ∧
        (t.me.ending ≠ [] → ∀ k, (t.me.events k).testBit 3 = false) ∧
        (s.me.ownTxs s.curCore s.curCtx ≠ [] → s.me.inbuf = [] → s.me.ending = [] →
          t.me.idleEvent = false ∧ ∀ k < 12, (t.me.cx k).latched = (s.me.cx k).latched))) ∧
  (∀ (st : BitVec 3) (s : State), s.curCtx = 11 →
    exec (.exit st) s = .fault .exitInTrapContext ∧ exec .cExit s = .fault .exitInTrapContext) ∧
  (∀ (st : BitVec 3) (d a b : BitVec 5) (s : State),
    let T := s.readG a
    if s.curCtx ≠ 0 then Traps (.start st d a b) s { cause := 0x06 }
    else if T.getLsbD 0 then Traps (.start st d a b) s { cause := 0x05 }
    else if 0x300000 ≤ T.toNat then Traps (.start st d a b) s { cause := 0x20, addr := T }
    else
      ((∀ k, 1 ≤ k → k ≤ 10 → (s.me.cx k).live = true) → GivesG (.start st d a b) s 4 d 0) ∧
      (∀ k, 1 ≤ k → k ≤ 10 → (s.me.cx k).live = false → (∀ j, 1 ≤ j → j < k → (s.me.cx j).live = true) →
        s.diverges s.curCore ⟨k, 2, 0, 0, sourceId 2 (s.jobRank s.curCore) s.curCore, T.toNat % 2 ^ 22, mixer 0 (s.readG b).toNat⟩ = false →
        ∃ t, exec (.start st d a b) s = .next t ∧ t.readG d = (if d = 0 then 0 else .ofNat 64 k) ∧
          (∀ n, n ≠ d → t.readG n = s.readG n) ∧ t.cx.pc = s.cx.pc + 4 ∧
          (t.me.cx k).live = true ∧ (t.me.cx k).pc = T ∧ (t.me.cx k).rg 1 = s.readG b ∧ (t.me.cx k).kind = 2 ∧
          (t.me.cx k).pri = 0 ∧ (∀ n, 4 < n → (t.me.cx k).rg n = 0) ∧ (t.me.cx k).slot = none ∧
          (t.me.cx k).wait = (if s.me.ownTxs s.curCore 0 = [] then .none else .fork (s.me.ownTxs s.curCore 0)) ∧
          (∀ j, j ≠ k → j ≠ 0 → t.me.cx j = s.me.cx j) ∧ t.me.mem = s.me.mem))

/-- R40, R237, R238: park returns the raised events of its set and clears the latched ones among them, waits while none is
raised, and returns 0 for an empty set; yield only marks who issues first. R239, R240, R32: setpri writes the two priority
bits of one handler table entry; chmset and chmclr return the old CHMASK and set or clear bits of it, at level U those below
48 only. -/
def Obligations.ParkYieldAndChannels : Prop :=
  (∀ (st : BitVec 3) (d a : BitVec 5) (s : State),
    let mask := (s.readG a).toNat % 256
    let ev := s.me.events s.curCtx &&& mask
    (mask = 0 → GivesG (.park st d a) s 4 d 0) ∧
    (mask ≠ 0 → ev = 0 → Waits (.park st d a) s (.park mask)) ∧
    (ev ≠ 0 → GivesGAfter (.park st d a) s (s.modCx fun x => { x with latched := x.latched &&& ~~~(BitVec.ofNat 8 ev) }) 4 d
      (.ofNat 64 ev)) ∧
    ∃ js, (∀ j, j ∈ js ↔ s.isS = false ∧ j < 11 ∧ j ≠ s.curCtx ∧ s.unblocked s.curCore j = true) ∧
      GivesAfter (.yield st) s (s.modCx fun x => { x with yielded := js }) 4) ∧
  (∀ (st : BitVec 3) (d a b : BitVec 5) (s : State),
    let ch := (s.readG a).toNat
    let at_ := 0x810 + 32 * ch
    let m := fun k => (s.readG a).getLsbD k && (s.isS || decide (k < 48))
    (if 63 < ch ∨ (48 ≤ ch ∧ s.isS = false) then Traps (.setpri st a b) s { cause := 0x42 }
     else s.me.badIn at_ 8 = false → ∃ u, GivesAfter (.setpri st a b) s u 4 ∧ u = (s.modMe fun c => { c with mem := u.me.mem }) ∧
       (Memory.byte u.me.mem at_).toNat = (Memory.byte s.me.mem at_).toNat / 4 * 4 + (s.readG b).toNat % 4 ∧
       ∀ x, x ≠ at_ → Memory.byte u.me.mem x = Memory.byte s.me.mem x) ∧
    (∃ u, GivesGAfter (.chmset st d a) s u 4 d s.me.chmask ∧ u = (s.modMe fun c => { c with mem := u.me.mem }) ∧
      (∀ k < 64, u.me.chmask.getLsbD k = (s.me.chmask.getLsbD k || m k)) ∧
      ∀ x, (∀ k < 64, x ≠ 0x810 + 32 * k) → Memory.byte u.me.mem x = Memory.byte s.me.mem x) ∧
    (∃ u, GivesGAfter (.chmclr st d a) s u 4 d s.me.chmask ∧ u = (s.modMe fun c => { c with mem := u.me.mem }) ∧
      (∀ k < 64, u.me.chmask.getLsbD k = (s.me.chmask.getLsbD k && !m k)) ∧
      ∀ x, (∀ k < 64, x ≠ 0x810 + 32 * k) → Memory.byte u.me.mem x = Memory.byte s.me.mem x))

/-- R241, R121, R122: qrd takes the head of a queue, or waits while it is empty; a reply with a status other than 0 is taken and
traps; that its record is raised at the qrd, with the address of the instruction that issued in DETAIL1, is log entry 19, the model's
choice. R242: qwr pushes at the tail of a queue; a full q0, q2 or q3 blocks, a full q1 raises QUEUE_FULL. -/
def Obligations.QueueAccess : Prop :=
  (∀ (st : BitVec 3) (d : BitVec 5) (w : Word) (ws : List Word) (s : State),
    (s.me.q0 = [] → Waits (.qrd st d 0) s (.queue 0)) ∧
    (s.me.q0 = w :: ws → GivesGAfter (.qrd st d 0) s (s.modMe fun c => { c with q0 := ws }) 4 d w) ∧
    (s.cx.q1 = [] → Waits (.qrd st d 1) s (.queue 1)) ∧
    (s.cx.q1 = w :: ws → GivesGAfter (.qrd st d 1) s (s.modCx fun x => { x with q1 := ws }) 4 d w) ∧
    (s.me.q2 = [] → Waits (.qrd st d 2) s (.queue 2)) ∧
    (s.me.q2 = w :: ws → GivesGAfter (.qrd st d 2) s (s.modMe fun c => { c with q2 := ws }) 4 d w) ∧
    ((∀ r, s.me.oldestReply s.curCtx = some r → r.answer = none) → Waits (.qrd st d 3) s (.queue 3)) ∧
    (∀ r, s.me.oldestReply s.curCtx = some r → r.answer = some (0, w) →
      GivesGAfter (.qrd st d 3) s (s.modMe fun c => { c with q3 := c.q3.erase r }) 4 d w) ∧
    (∀ r n, s.me.oldestReply s.curCtx = some r → r.answer = some (n, w) → n ≠ 0 →
      exec (.qrd st d 3) s = .next ((s.modMe fun c => { c with q3 := c.q3.erase r }).raise (replyRec n r.report)))) ∧
  (∀ (st : BitVec 3) (a : BitVec 5) (s : State),
    let w := s.readG a
    (s.me.q0.length < 32 → GivesAfter (.qwr st 0 a) s (s.modMe fun c => { c with q0 := c.q0 ++ [(w.setWidth 16).setWidth 64] }) 4) ∧
    (32 ≤ s.me.q0.length → Waits (.qwr st 0 a) s (.room 0)) ∧
    (s.cx.q1.length < 256 → GivesAfter (.qwr st 1 a) s (s.modCx fun x => { x with q1 := x.q1 ++ [w] }) 4) ∧
    (256 ≤ s.cx.q1.length → Traps (.qwr st 1 a) s { cause := 0x09 }) ∧
    (s.me.q2.length < 8 → GivesAfter (.qwr st 2 a) s (s.modMe fun c => { c with q2 := c.q2 ++ [w] }) 4) ∧
    (8 ≤ s.me.q2.length → Waits (.qwr st 2 a) s (.room 2)) ∧
    (s.me.q3.length < 32 → GivesAfter (.qwr st 3 a) s (s.modMe fun c =>
      { c with q3 := c.q3 ++ [{ tx := none, owner := s.curCtx, orphan := false, answer := some (0, w) }] }) 4) ∧
    (32 ≤ s.me.q3.length → Waits (.qwr st 3 a) s (.room 3)))

/-- R243: recvany.t takes the oldest pending message of the lowest-numbered channel of its set that has one and no live
activation or reception, recvany the one that arrived earliest; both give up the reception slot first, wait while no channel
has one, and return zeros for an empty set. R36: messages held for the released slot are placed before that (the state u). recvany is
an ORDER_VIOLATION under an ORDERED promise. -/
def Obligations.Receptions : Prop :=
  ∀ (st : BitVec 3) (d a b : BitVec 5) (s : State),
    let set := (s.readG a).toNat
    let B := s.readG b
    let any := Instr.recvany st d a b
    let low := Instr.recvanyT st d a b
    let u := (s.modMe fun c => c.releaseReception s.curCtx).placeAll s.curCore (s.cx.rslot.toList.map (·.chan))
    let able := fun ch : Nat => ch < 64 ∧ set / 2 ^ ch % 2 = 1 ∧ u.me.pend ch ≠ 0 ∧ u.me.liveBit ch = false
    let takes := fun (i : Instr) (ch : Nat) =>
      ∀ ad m, u.me.oldest ch = some (ad, m) → able ch → (∀ sl, s.cx.rslot = some sl → sl.chan < 64) →
        (i = low → ∀ j < ch, ¬able j) →
        (i = any → ∀ e ∈ u.me.placed, able e.2.chan → e.2.chan = ch ∨ m.arrival < e.2.arrival) →
        ∃ t, exec i s = .next t ∧
          t.readG d = (if d = 0 then 0 else .ofNat 64 (m.tag * 2 ^ 48 + m.bytes.length * 2 ^ 32 + ch * 2 ^ 24 + ad)) ∧
          t.readG (d + 1) = m.src ∧ t.cx.q1 = dwords m.bytes ∧ t.cx.rslot = some ⟨ch, ad, slotSize m.bytes.length⟩ ∧
          t.me.placed = u.me.placed.erase (ad, m) ∧ t.cx.pc = s.cx.pc + 4 ∧ t.cx.wait = .none ∧
          RegsSameBut s t [keyG d.toNat, keyG (d + 1).toNat] ∧ FlagsSame s t ∧ SameButStatus u.me.mem t.me.mem ∧
          (∀ j, j ≠ s.curCore → t.core j = u.core j) ∧ t.gmem = u.gmem ∧
          (s.me.inbuf = [] → SameButStatus s.me.mem t.me.mem ∧ (∀ j, j ≠ s.curCore → t.core j = s.core j) ∧ t.gmem = s.gmem)
    (d.toNat % 2 = 1 → Traps any s { cause := 0x02 } ∧ Traps low s { cause := 0x02 }) ∧
    (d.toNat % 2 = 0 → s.ordered s.curCore = true → Traps any s { cause := 0x0A }) ∧
    (d.toNat % 2 = 0 → ∀ i ∈ [any, low], (i = any → s.ordered s.curCore = false) →
      (s.isS = false → 2 ^ 48 ≤ set → Traps i s { cause := 0x42 }) ∧
      (s.isS = true ∨ set < 2 ^ 48 →
        (set = 0 → ∃ t, exec i s = .next t ∧ t.readG d = 0 ∧ t.readG (d + 1) = 0 ∧ t.cx.rslot = none ∧ t.cx.pc = s.cx.pc + 4) ∧
        (set ≠ 0 → (∀ ch, ¬able ch) →
          exec i s = .next (u.modCx fun x => { x with wait := .channels set (B.getLsbD 0) (B.getLsbD 1), snap := some u.atIssue })) ∧
        (set ≠ 0 → Unlogged s s.curCore → ∀ ch, takes i ch)))

/-! ### Special registers (spec 09, R211 to R214; spec 10, R245, R246; spec 17, R348, R349) -/

/-- R211, R246, R348, R349: what rds reads of each register, and its level check; every number below 0x800 without a register, and every
one from 0x800 on that R348 does not list, at level S, reads 0, and a write to it is discarded. R211 to R214, R246, R349: what wrs writes to each register, its level check, and SPECIAL_READONLY of every register whose fields are all RO, CP.GO
among them; STAT takes SCHK and the flags only, FMT,
PFXV and the watch registers keep a field that is given an illegal value, HX takes 32 bits and latches HALO where it changes
(R40), CHMASK takes bits below 48 at level U and changes no other byte of memory. -/
def Obligations.SpecialRegisters : Prop :=
  (∀ (st : BitVec 3) (d : BitVec 5) (n : BitVec 12) (s : State),
    let c := s.me
    let x := s.cx
    let t := c.trap
    let N := n.toNat
    let reads := fun (n : BitVec 12) (w : Word) => GivesG (.rds st d n) s 4 d w
    (N < 0x800 → ¬(N < 5 ∨ (8 ≤ N ∧ N < 0x00D) ∨ (0x010 ≤ N ∧ N < 0x01B) ∨ (0x020 ≤ N ∧ N < 0x026) ∨ N = 0x030 ∨ (0x040 ≤ N ∧ N < 0x060)) →
      reads n 0) ∧
    (s.isS = true → 0x800 ≤ N → ¬(N < 0x806 ∨ N = 0x808 ∨ (0x810 ≤ N ∧ N < 0x819) ∨ (0x820 ≤ N ∧ N < 0x828)) → reads n 0) ∧
    (s.isS = false → 0x800 ≤ n.toNat → Traps (.rds st d n) s { cause := 0x07 }) ∧
    reads 0x000 (.ofNat 64 s.curCore) ∧ reads 0x001 (.ofNat 64 (s.curCore / 64 * 256 + s.curCore % 64)) ∧
    reads 0x002 (c.rorg.setWidth 64) ∧ reads 0x003 (c.rsize.setWidth 64) ∧ reads 0x004 (x.ctxWord s.curCtx) ∧
    reads 0x008 (x.stat &&& 0xE03F) ∧ reads 0x009 (c.fmt.setWidth 64) ∧ reads 0x00A c.seed ∧ reads 0x00B x.rndctr ∧
    reads 0x00C (c.fit.setWidth 64) ∧ (∀ k < 4, reads (.ofNat 12 (0x010 + k)) (SMap.get 0 c.slk k)) ∧
    reads 0x014 c.chmask ∧ (∀ k < 4, reads (.ofNat 12 (0x015 + k)) (SMap.get 0 c.hx k)) ∧
    reads 0x019 (c.slkx.setWidth 64) ∧ reads 0x01A (c.congc.setWidth 64) ∧
    reads 0x020 x.cpSrc ∧ reads 0x021 x.cpDst ∧ reads 0x022 (x.cpLen.setWidth 64) ∧ reads 0x023 x.cpShape ∧
    reads 0x024 (x.cpPblk.setWidth 64) ∧ reads 0x030 c.gen ∧
    (0x040 ≤ n.toNat → n.toNat < 0x060 → reads n (s.ipOf n.toNat)) ∧
    (s.isS = true →
      reads 0x800 t.tcause ∧ reads 0x801 (t.tpc.setWidth 64) ∧ reads 0x802 (t.tvec.setWidth 64) ∧
      reads 0x803 (x.pfx.setWidth 64 <<< 8) ∧ reads 0x804 t.tsave0 ∧ reads 0x805 t.tsave1 ∧
      (0x810 ≤ n.toNat → n.toNat < 0x818 → reads n (SMap.get 0 t.frec (n.toNat - 0x810))) ∧
      reads 0x808 (.ofNat 64 (t.lost.toNat * 65536 + t.queue.length)) ∧
      reads 0x818 (t.hwUnc ++ t.hwCor) ∧
      ∀ k < 4, reads (.ofNat 12 (0x820 + 2 * k)) (SMap.get 0 t.wpa k) ∧ reads (.ofNat 12 (0x821 + 2 * k)) (SMap.get 0 t.wpc k))) ∧
  (∀ (st : BitVec 3) (a : BitVec 5) (n : BitVec 12) (s : State),
    let w := s.readG a
    let N := n.toNat
    let core := fun (n : BitVec 12) (f : Core → Core) => GivesAfter (.wrs st a n) s (s.modMe f) 4
    let ctx := fun (n : BitVec 12) (f : Ctx → Ctx) => GivesAfter (.wrs st a n) s (s.modCx f) 4
    let trap := fun (n : BitVec 12) (f : Trap → Trap) => core n fun c => { c with trap := f c.trap }
    (s.isS = false → 0x800 ≤ n.toNat → Traps (.wrs st a n) s { cause := 0x07 }) ∧
    (N < 0x800 → ¬(N < 5 ∨ (8 ≤ N ∧ N < 0x00D) ∨ (0x010 ≤ N ∧ N < 0x01B) ∨ (0x020 ≤ N ∧ N < 0x026) ∨ N = 0x030 ∨ (0x040 ≤ N ∧ N < 0x060)) →
      GivesNothing (.wrs st a n) s 4) ∧
    (s.isS = true → 0x800 ≤ N → ¬(N < 0x806 ∨ N = 0x808 ∨ (0x810 ≤ N ∧ N < 0x819) ∨ (0x820 ≤ N ∧ N < 0x828)) →
      GivesNothing (.wrs st a n) s 4) ∧
    (∀ n : BitVec 12, n.toNat < 5 ∨ n = 0x00A ∨ n = 0x025 ∨ n = 0x030 ∨ (0x040 ≤ n.toNat ∧ n.toNat < 0x060) →
      Traps (.wrs st a n) s { cause := 0x08 }) ∧
    (∃ t, exec (.wrs st a 0x008) s = .next t ∧ t.cx.rndctr = s.cx.rndctr ∧ OnlyContext s t ∧ CtxRest s.cx t.cx ∧ Retired s t 4 ∧ RegsSameBut s t [] ∧
      ∀ k < 64, wbit t.cx.stat k = if k < 6 ∨ k = 13 then wbit w k else (wbit s.cx.stat k && k != 14 && k != 15)) ∧
    (∃ f : BitVec 24, core 0x009 (fun c => { c with fmt := f }) ∧ FmtSet s.me.fmt f w) ∧
    (∃ t, exec (.wrs st a 0x00B) s = .next t ∧ t.cx.rndctr = w ∧ OnlyContext s t ∧ CtxRest s.cx t.cx ∧ Retired s t 4 ∧
      t.cx.stat = clearPend s.cx.stat ∧ RegsSameBut s t []) ∧
    core 0x00C (fun c => { c with fit := w.setWidth 32 }) ∧
    (∀ k < 4, ∃ x : Word, core (.ofNat 12 (0x010 + k)) (fun c => { c with slk := SMap.put c.slk k x }) ∧
      x.extractLsb' 0 24 = w.extractLsb' 0 24 ∧ x.extractLsb' 30 1 = w.extractLsb' 30 1 ∧ x.extractLsb' 31 33 = 0 ∧
      x.extractLsb' 24 6 = if s.isS = true ∨ (w.extractLsb' 24 6).toNat < 48 then w.extractLsb' 24 6
        else (SMap.get (0 : Word) s.me.slk k).extractLsb' 24 6) ∧
    (∃ u, GivesAfter (.wrs st a 0x014) s u 4 ∧ u = (s.modMe fun c => { c with mem := u.me.mem }) ∧
      (∀ k < 64, u.me.chmask.getLsbD k = if s.isS = true ∨ k < 48 then w.getLsbD k else s.me.chmask.getLsbD k) ∧
      ∀ x, (∀ k < 64, x ≠ 0x810 + 32 * k) → Memory.byte u.me.mem x = Memory.byte s.me.mem x) ∧
    (∀ k < 4, ∃ u, GivesAfter (.wrs st a (.ofNat 12 (0x015 + k))) s u 4 ∧
      u = (s.modMe fun c => { c with hx := SMap.put c.hx k ((w.extractLsb' 0 32).setWidth 64), ctx := u.me.ctx }) ∧
      (∀ j, 12 ≤ j → u.me.cx j = s.me.cx j) ∧ ∀ j < 12, u.me.cx j = { s.me.cx j with
        latched := (s.me.cx j).latched ||| (if SMap.get 0 s.me.hx k = (w.extractLsb' 0 32).setWidth 64 then 0 else 0x20) }) ∧
    core 0x019 (fun c => { c with slkx := w.setWidth 32 }) ∧
    core 0x01A (fun c => { c with congc := w.setWidth 32 }) ∧
    ctx 0x020 (fun x => { x with cpSrc := w }) ∧ ctx 0x021 (fun x => { x with cpDst := w }) ∧
    ctx 0x022 (fun x => { x with cpLen := w.setWidth 32 }) ∧ ctx 0x023 (fun x => { x with cpShape := w }) ∧
    ctx 0x024 (fun x => { x with cpPblk := w.setWidth 22 }) ∧
    (s.isS = true →
      (∀ n : BitVec 12, n = 0x800 ∨ (0x810 ≤ n.toNat ∧ n.toNat < 0x818) → Traps (.wrs st a n) s { cause := 0x08 }) ∧
      trap 0x801 (fun t => { t with tpc := if w.getLsbD 0 then t.tpc else w.setWidth 22 }) ∧
      trap 0x802 (fun t => { t with tvec := if w.getLsbD 0 then t.tvec else w.setWidth 22 }) ∧
      trap 0x804 (fun t => { t with tsave0 := w }) ∧ trap 0x805 (fun t => { t with tsave1 := w }) ∧
      trap 0x808 (fun t => { t with lost := w.extractLsb' 16 16 }) ∧
      trap 0x818 (fun t => { t with hwUnc := w.extractLsb' 32 32, hwCor := w.setWidth 32 }) ∧
      (let P := w.extractLsb' 8 14
       let illegal := (P.getLsbD 9 = true ∧ P.extractLsb' 10 4 = 0) ∨ (P.getLsbD 4 = true ∧ P.extractLsb' 5 4 = 0) ∨
         (P.getLsbD 0 = true ∧ P.extractLsb' 1 3 = 7)
       (illegal → GivesNothing (.wrs st a 0x803) s 4) ∧ (¬illegal → ctx 0x803 fun x => { x with pfx := P })) ∧
      ∀ k < 4, trap (.ofNat 12 (0x820 + 2 * k)) (fun t => { t with wpa := SMap.put t.wpa k w }) ∧
        ∃ x : Word, trap (.ofNat 12 (0x821 + 2 * k)) (fun t => { t with wpc := SMap.put t.wpc k x }) ∧
          (∀ j ∈ [63, 60, 59], x.getLsbD j = w.getLsbD j) ∧ x.extractLsb' 32 11 = w.extractLsb' 32 11 ∧
          x.extractLsb' 61 2 = (if w.extractLsb' 61 2 = 3 then (SMap.get (0 : Word) s.me.trap.wpc k).extractLsb' 61 2 else w.extractLsb' 61 2) ∧
          x.extractLsb' 0 6 = (if 48 < (w.extractLsb' 0 6).toNat then (SMap.get (0 : Word) s.me.trap.wpc k).extractLsb' 0 6 else w.extractLsb' 0 6) ∧
          x.extractLsb' 43 16 = 0 ∧ x.extractLsb' 6 26 = 0))

/-- R245, R258: ewr and erd, and the constant window: word k is the doubleword at 8 × k, and vldc takes 32 words in a row
modulo 256; an uncorrectable error in a word raises SRAM_UNCORRECTABLE. -/
def Obligations.ExtensionAndConstants : Prop :=
  ∀ (st : BitVec 3) (d a : BitVec 5) (e : BitVec 3) (c : BitVec 8) (s : State),
    let word := fun k : Nat => BitVec.ofNat 64 (Memory.num s.me.mem (8 * k) 8)
    let bad := fun k : Nat => s.me.badIn (8 * k) 8
    let k := (c.toNat + (s.readG a).toNat) % 256
    GivesE (.ewr st e a) s 4 e (s.readG a) ∧
    GivesG (.erd st d e) s 4 d (s.readE e) ∧
    (if bad c.toNat then Traps (.ldc st d c) s { cause := 0xA0 } else GivesG (.ldc st d c) s 4 d (word c.toNat)) ∧
    (if bad k then Traps (.ldcx st d a c) s { cause := 0xA0 } else GivesG (.ldcx st d a c) s 4 d (word k)) ∧
    (if bad c.toNat then Traps (.addc st d a c) s { cause := 0xA0 }
     else GivesG (.addc st d a c) s 4 d (s.readG a + word c.toNat)) ∧
    (if bad c.toNat then Traps (.eldc st e c) s { cause := 0xA0 } else GivesE (.eldc st e c) s 4 e (word c.toNat)) ∧
    ((∃ j < 32, bad ((c.toNat + j) % 256) = true) → Traps (.vldc st d c) s { cause := 0xA0 }) ∧
    ((∀ j < 32, bad ((c.toNat + j) % 256) = false) → ∃ v : VReg, GivesV (.vldc st d c) s 4 d v ∧
      ∀ j < 32, v.extractLsb' (64 * j) 64 = word ((c.toNat + j) % 256))

/-! ### Local memory (spec 02, R48 to R53; spec 11, R249 to R258, R262) -/

/-- R49, R50, R250, R251, R202: scalar loads: their addresses, their sizes, and how a register is filled. R48 to R50, R250, R251,
R202: scalar stores write their bytes at their address and change no other byte of memory. -/
def Obligations.ScalarMemory : Prop :=
  (∀ (st : BitVec 3) (d a b : BitVec 5) (i : BitVec 12) (s : State),
    let I : Word := i.signExtend 64
    let A := s.readG a
    let X := s.readG a + s.readG b
    let U := fun x : Nat => BitVec.ofNat 64 x
    let B := fun x : Nat => (BitVec.ofNat 8 x).signExtend 64
    let H := fun x : Nat => (BitVec.ofNat 16 x).signExtend 64
    let W := fun x : Nat => (BitVec.ofNat 32 x).signExtend 64
    LoadsG (.ldb st d a i) s 4 d (A + I) 1 B ∧ LoadsG (.ldbu st d a i) s 4 d (A + I) 1 U ∧
    LoadsG (.ldh st d a i) s 4 d (A + 2 * I) 2 H ∧ LoadsG (.ldhu st d a i) s 4 d (A + 2 * I) 2 U ∧
    LoadsG (.ldw st d a i) s 4 d (A + 4 * I) 4 W ∧ LoadsG (.ldwu st d a i) s 4 d (A + 4 * I) 4 U ∧
    LoadsG (.ldd st d a i) s 4 d (A + 8 * I) 8 U ∧
    LoadsG (.ldxb st d a b) s 4 d X 1 B ∧ LoadsG (.ldxbu st d a b) s 4 d X 1 U ∧
    LoadsG (.ldxh st d a b) s 4 d X 2 H ∧ LoadsG (.ldxhu st d a b) s 4 d X 2 U ∧
    LoadsG (.ldxw st d a b) s 4 d X 4 W ∧ LoadsG (.ldxwu st d a b) s 4 d X 4 U ∧
    LoadsG (.ldxd st d a b) s 4 d X 8 U ∧ LoadsG (.cLd d a) s 2 d A 8 U) ∧
  (∀ (st : BitVec 3) (d a b : BitVec 5) (i : BitVec 12) (s : State),
    let I : Word := i.signExtend 64
    let A := s.readG a
    let X := s.readG a + s.readG b
    let D := s.readG d
    StoresG (.stb st d a i) s 4 D (A + I) 1 ∧ StoresG (.sth st d a i) s 4 D (A + 2 * I) 2 ∧
    StoresG (.stw st d a i) s 4 D (A + 4 * I) 4 ∧ StoresG (.std st d a i) s 4 D (A + 8 * I) 8 ∧
    StoresG (.stxb st d a b) s 4 D X 1 ∧ StoresG (.stxh st d a b) s 4 D X 2 ∧
    StoresG (.stxw st d a b) s 4 D X 4 ∧ StoresG (.stxd st d a b) s 4 D X 8 ∧
    StoresG (.cSd d a) s 2 D A 8)

/-- R53, R252, R253: bit-granular loads and stores of n bits at the bit address in a b register, and the instructions of b
registers. A store keeps every bit that it does not name. R54 to R58, R254: generic loads and stores. The first check of R57
that fails traps; otherwise the bytes are those of the place that the pointer names (R55), where scratch wraps (R58); a doubleword with
an uncorrectable error that a load needs, or a store does not cover, traps, and one that a store covers is good again (R68). The address
that the record of a failed check names is log entry 19, the model's choice; so is one step for the parts of an access (log entry 84). -/
def Obligations.BitGranularAndGenericAccess : Prop :=
  (∀ (st : BitVec 3) (d a : BitVec 5) (n : BitVec 2) (w : BitVec 5) (s : State),
    let p := (s.readB n).toNat
    let loads := fun (i : Instr) (k : Nat) =>
      let f := p / 8
      let z := (p + k + 7) / 8 - f
      if 0x1800000 < p + k then Traps i s { cause := 0x20, addr := .ofNat 64 f, info0 := z }
      else if s.me.badIn f z then Traps i s { cause := 0xA0 }
      else ∃ v : Word, GivesG i s 4 d v ∧
        ∀ j < 64, v.getLsbD j = (decide (j < k) && (Memory.byte s.me.mem ((p + j) / 8)).getLsbD ((p + j) % 8))
    let stores := fun (i : Instr) (k : Nat) =>
      let f := p / 8
      let z := (p + k + 7) / 8 - f
      if 0x1800000 < p + k then Traps i s { cause := 0x20, addr := .ofNat 64 f, info0 := z }
      else if s.storeProtected s.curCore s.isS f z then Traps i s { cause := 0x22, addr := .ofNat 64 f, info0 := z }
      else if s.me.badIn f z then Traps i s { cause := 0xA0 }
      else ∃ t, exec i s = .next t ∧ OnlyStored s t ∧ Retired s t 4 ∧ MemSameBut s t s.curCore f z ∧
        ∀ q, (Memory.byte t.me.mem (q / 8)).getLsbD (q % 8) = true ↔
          (if p ≤ q ∧ q < p + k then (s.readG d).getLsbD (q - p) else (Memory.byte s.me.mem (q / 8)).getLsbD (q % 8)) = true ∧
            (f ≤ q / 8 → q / 8 < f + z → Kept (q / 8) (q % 8))
    let width := (s.readG a).toNat % 64 + 1
    loads (.bld st d n a) width ∧ stores (.bst st d n a) width ∧
    loads (.bldI st d n w) (w.toNat + 1) ∧ stores (.bstI st d n w) (w.toNat + 1) ∧
    GivesB (.bpset st n a) s 4 n (s.readG a) ∧ GivesG (.bprd st d n) s 4 d (s.readB n) ∧
    GivesB (.bpadd st n a) s 4 n (s.readB n + s.readG a)) ∧
  (∀ (st : BitVec 3) (d a b : BitVec 5) (s : State),
    let p := s.readG a + s.readG b
    let loads := fun (i : Instr) (n : Nat) =>
      (∀ c, s.pointerFault .load p n = some c → Traps i s (accessRec c (s.pointerAddr c p) n 0)) ∧
      (s.pointerFault .load p n = none → (∃ x ∈ s.genericBytes p n, x / 8 ∈ s.me.bad) → Traps i s { cause := 0xA0 }) ∧
      (s.pointerFault .load p n = none → (∀ x ∈ s.genericBytes p n, x / 8 ∉ s.me.bad) →
        ∃ v : Word, GivesG i s 4 d v ∧ ∀ k < 8, v.extractLsb' (8 * k) 8 =
          if k < n then Memory.byte s.me.mem ((s.genericBytes p n).getD k 0) else 0)
    let stores := fun (i : Instr) (n : Nat) =>
      (∀ c, s.pointerFault .store p n = some c → Traps i s (accessRec c (s.pointerAddr c p) n 0)) ∧
      (s.pointerFault .store p n = none → (∃ x ∈ s.genericBytes p n, x / 8 ∈ s.me.bad ∧ ∃ j < 8, x / 8 * 8 + j ∉ s.genericBytes p n) →
        Traps i s { cause := 0xA0 }) ∧
      (s.pointerFault .store p n = none → (∀ x ∈ s.genericBytes p n, x / 8 ∈ s.me.bad → ∀ j < 8, x / 8 * 8 + j ∈ s.genericBytes p n) →
        ∃ t, exec i s = .next t ∧ OnlyStored s t ∧ Retired s t 4 ∧ (∀ x ∈ s.genericBytes p n, x / 8 ∉ t.me.bad) ∧
          (∀ x, x ∉ s.genericBytes p n → Memory.byte t.me.mem x = Memory.byte s.me.mem x) ∧
          ∀ k < n, (∀ j < n, j ≠ k → (s.genericBytes p n).getD j 0 ≠ (s.genericBytes p n).getD k 0) →
            ∀ j < 8, (Memory.byte t.me.mem ((s.genericBytes p n).getD k 0)).getLsbD j = true ↔
              (s.readG d).getLsbD (8 * k + j) = true ∧ Kept ((s.genericBytes p n).getD k 0) j)
    loads (.gldb st d a b) 1 ∧ loads (.gldh st d a b) 2 ∧ loads (.gldw st d a b) 4 ∧ loads (.gldd st d a b) 8 ∧
    stores (.gstb st d a b) 1 ∧ stores (.gsth st d a b) 2 ∧ stores (.gstw st d a b) 4 ∧ stores (.gstd st d a b) 8)

/-- R55 to R57, R255 to R257, R262: testing, casting and building pointers, and iflush. m is the member index of the core in
its cluster (R16). That the records of spcst and spmk have SIZE 0 is log entry 19, that those of spmk have ga in ADDR log entry 85, and iflush as no
change log entry 9: the model's choices. -/
def Obligations.PointerTools : Prop :=
  ∀ (st : BitVec 3) (d a b : BitVec 5) (c : BitVec 3) (s : State),
    let p := s.readG a
    let k := s.readG b
    let m := s.curCore / 64 % 4 * 4 + s.curCore % 4
    let off := p.toNat % 2 ^ 57
    let good := p.toNat < 2 ^ 63 ∧ (p.toNat / 2 ^ 61 = 3 → p.toNat / 2 ^ 48 % 2 ^ 13 = 0)
    let casts := fun (r : Nat) => GivesG (.spcst st d a c) s 4 d (.ofNat 64 r)
    let refuses := fun (cause : Nat) => Traps (.spcst st d a c) s { cause := cause, addr := p }
    let builds := fun (ok : Prop) (r : Nat) =>
      (ok → GivesG (.spmk st d a b) s 4 d (.ofNat 64 r)) ∧ (¬ok → Traps (.spmk st d a b) s { cause := 0x2C, addr := p })
    let owner := if k.getLsbD 24 then s.curCore else k.toNat / 256 % 2048
    let ownerOk := k.getLsbD 24 = true ∨ owner < 64 * s.meshRows
    let space := p.toNat / 2 ^ 61
    let num := p.toNat / 2 ^ 46 % 16
    let mine := p.toNat / 2 ^ 50 % 2 ^ 11 = s.curCore
    let win := s.me.window num
    let held := num < 11 ∨ (num = 11 ∧ s.isS = true)
    let D := Memory.num s.me.mem 0x1160 8
    let base := D % 2 ^ 22
    let size := 2 ^ (D / 2 ^ 32 % 2 ^ 6)
    let spare := s.me.badIn 0x1160 8 = false
    (s.windowBad p = true → Traps (.sptst st d a) s { cause := 0xA0 }) ∧
    (s.windowBad p = false → ∃ w : Word, GivesG (.sptst st d a) s 4 d w ∧ w.extractLsb' 0 3 = p.extractLsb' 61 3 ∧
      (w.getLsbD 3 = true ↔ good) ∧ (w.getLsbD 4 = true ↔ (space < 2 ∧ mine) ∨ (space = 2 ∧ p.toNat / 2 ^ 57 % 16 = m)) ∧
      (w.getLsbD 5 = true ↔ passesRow8 (s.pointerFault .load p 1) = true) ∧
      (w.getLsbD 6 = true ↔ passesRow7 (s.pointerFault .copySrc p 1) = true) ∧
      (w.getLsbD 7 = true ↔ passesRow7 (s.pointerFault .remote p 1) = true) ∧
      w.extractLsb' 8 24 = 0 ∧ w.extractLsb' 54 10 = 0 ∧
      (w.getLsbD 5 = true → (w.extractLsb' 32 22).toNat = (s.genericBytes p 1).headD 0 % 2 ^ 22) ∧
      (w.getLsbD 5 = false → (w.extractLsb' 32 22).toNat = if space = 2 ∧ off < 0x300000 then off else 0)) ∧
    (2 ^ 63 ≤ p.toNat → refuses 0x23) ∧
    (p.toNat / 2 ^ 61 = 3 → ¬good → refuses 0x24) ∧
    (good → 4 ≤ c.toNat → refuses 0x23) ∧
    (good → p.toNat / 2 ^ 61 = c.toNat → casts p.toNat) ∧
    (good → space = 0 → c = 2 → mine → s.windowBad p = true → Traps (.spcst st d a c) s { cause := 0xA0 }) ∧
    (good → space = 0 → c = 2 → mine → s.windowBad p = false →
      (held → p.toNat % 2 ^ 46 < win.2 → casts (2 * 2 ^ 61 + m * 2 ^ 57 + (win.1 + p.toNat % 2 ^ 46))) ∧
      (¬(held ∧ p.toNat % 2 ^ 46 < win.2) → refuses 0x28)) ∧
    (good → space = 0 → c = 2 → ¬mine → refuses 0x26) ∧
    (good → space = 1 → c = 2 → mine → s.windowBad p = true → Traps (.spcst st d a c) s { cause := 0xA0 }) ∧
    (good → space = 1 → c = 2 → mine → s.windowBad p = false →
      (D ≠ 0 → casts (2 * 2 ^ 61 + m * 2 ^ 57 + (base + p.toNat % 2 ^ 50 % size))) ∧ (D = 0 → refuses 0x2F)) ∧
    (good → space = 1 → c = 2 → ¬mine → refuses 0x27) ∧
    (good → space = 2 → c = 0 → p.toNat / 2 ^ 57 % 16 = m →
      (s.me.badIn (0x1100 + 8 * s.curCtx) 8 = true → Traps (.spcst st d a c) s { cause := 0xA0 }) ∧
      (s.me.badIn (0x1100 + 8 * s.curCtx) 8 = false →
        ((s.me.window s.curCtx).1 ≤ off → off < (s.me.window s.curCtx).1 + (s.me.window s.curCtx).2 →
          casts (s.curCore * 2 ^ 50 + s.curCtx * 2 ^ 46 + (off - (s.me.window s.curCtx).1))) ∧
        (off < (s.me.window s.curCtx).1 ∨ (s.me.window s.curCtx).1 + (s.me.window s.curCtx).2 ≤ off → refuses 0x28))) ∧
    (good → space = 2 → c = 1 → p.toNat / 2 ^ 57 % 16 = m →
      (¬spare → Traps (.spcst st d a c) s { cause := 0xA0 }) ∧
      (spare → (D ≠ 0 → base ≤ off → off < base + size → casts (2 ^ 61 + s.curCore * 2 ^ 50 + (off - base))) ∧
        (D = 0 ∨ off < base ∨ base + size ≤ off → refuses 0x2B))) ∧
    (good → space = 2 → c = 0 ∨ c = 1 → p.toNat / 2 ^ 57 % 16 ≠ m → refuses 0x2B) ∧
    (good → (space = 0 ∧ c = 1) ∨ (space = 1 ∧ c = 0) ∨ (space = 3 ∧ c.toNat < 3) ∨ (space < 3 ∧ c = 3) → refuses 0x2B) ∧
    (k.toNat % 8 = 0 → builds (p.toNat < 2 ^ 46 ∧ k.toNat / 8 % 16 ≤ 11 ∧ ownerOk)
      (owner * 2 ^ 50 + k.toNat / 8 % 16 * 2 ^ 46 + p.toNat)) ∧
    (k.toNat % 8 = 1 → builds (p.toNat < 2 ^ 50 ∧ ownerOk) (2 ^ 61 + owner * 2 ^ 50 + p.toNat)) ∧
    (k.toNat % 8 = 2 → builds (p.toNat < 2 ^ 57)
      (2 * 2 ^ 61 + (if k.getLsbD 24 then m else k.toNat / 2 ^ 20 % 16) * 2 ^ 57 + p.toNat)) ∧
    (k.toNat % 8 = 3 → builds (p.toNat < 2 ^ 48) (3 * 2 ^ 61 + p.toNat)) ∧
    (4 ≤ k.toNat % 8 → Traps (.spmk st d a b) s { cause := 0x23, addr := p }) ∧
    GivesNothing (.iflush st a b) s 4

/-! ### Vectors (spec 11, R259 to R261; spec 12, R263 to R284) -/

/-- R259 to R261: vector loads. A width that is not allowed traps; if some active element fails a check, the instruction traps
and writes nothing; otherwise each active element holds what stands at its address. R259 to R261: vector stores write their
active elements in ascending order, so that of elements that overlap the last one stands; every other byte of memory is as
before. -/
def Obligations.VectorMemory : Prop :=
  (∀ (st : BitVec 3) (d a b : BitVec 5) (p : BitVec 3) (z : BitVec 1) (s : State),
    let loads := fun (i : Instr) (gather : Bool) (addr : Nat → Nat → Word) =>
      let w := fmtBits s.fmt1
      let n := w / 8
      let ok := (1 ≤ s.fmt1 ∧ s.fmt1 ≤ 6) ∨ isInt s.fmt1 = true
      let readable := fun k => (addr w k).toNat + n ≤ 0x300000 ∧ (addr w k).toNat % n = 0 ∧ s.me.badIn (addr w k).toNat n = false
      (¬ok ∨ (gather = true ∧ w ≠ 32 ∧ w ≠ 64) → Traps i s { cause := 0x60 }) ∧
      (ok → (gather = true → w = 32 ∨ w = 64) →
        ((∃ k ∈ s.activeLanes p w, ¬readable k) → ∃ r, Traps i s r ∧ r.cause ∈ [0x20, 0x21, 0xA0]) ∧
        ((∀ k ∈ s.activeLanes p w, readable k) →
          GivesLanes i s d p z w 0 fun k => (Memory.num s.me.mem (addr w k).toNat n, 0)))
    loads (.vld st d a p z) false (fun w k => s.readG a + .ofNat 64 (k * (w / 8))) ∧
    loads (.vlds st d a b p z) false (fun _ k => s.readG a + .ofNat 64 k * s.readG b) ∧
    loads (.vldg st d a b p z) true (fun w k => s.readG a + .ofNat 64 (lane w (s.readV b).toNat k))) ∧
  (∀ (st : BitVec 3) (d a b : BitVec 5) (p : BitVec 3) (s : State),
    let stores := fun (i : Instr) (scatter : Bool) (addr : Nat → Nat → Word) =>
      let w := fmtBits s.fmt1
      let es := s.activeLanes p w
      let ok := (1 ≤ s.fmt1 ∧ s.fmt1 ≤ 6) ∨ isInt s.fmt1 = true
      (¬ok ∨ (scatter = true ∧ w ≠ 32 ∧ w ≠ 64) → Traps i s { cause := 0x60 }) ∧
      (ok → (scatter = true → w = 32 ∨ w = 64) →
        ((∃ k ∈ es, ¬Writable s (w / 8) (addr w k)) → ∃ r, Traps i s r ∧ r.cause ∈ [0x20, 0x21, 0x22, 0xA0]) ∧
        ((∀ k ∈ es, Writable s (w / 8) (addr w k)) →
          ∃ t, exec i s = .next t ∧ OnlyStored s t ∧ Retired s t 4 ∧
            ElementsStored s t es (w / 8) (addr w) fun k => lane w (s.readV d).toNat k))
    stores (.vst st d a p) false (fun w k => s.readG a + .ofNat 64 (k * (w / 8))) ∧
    stores (.vsts st d a b p) false (fun _ k => s.readG a + .ofNat 64 k * s.readG b) ∧
    stores (.vstsc st d a b p) true (fun w k => s.readG a + .ofNat 64 (lane w (s.readV b).toNat k)))

/-- R267 to R269, R274: float arithmetic that rounds once, in the effective mode, from the exact result. -/
def Obligations.VectorFloatRounding : Prop :=
  ∀ (st : BitVec 3) (d a b : BitVec 5) (p : BitVec 3) (z : BitVec 1) (s : State),
    let m := s.rm
    let code := fun (v : BitVec 5) (f k : Nat) => lane (fmtBits f) (s.readV v).toNat k
    let val := fun (v : BitVec 5) (f k : Nat) => decode f (code v f k)
    let u := s.draw m
    FloatLanes (.vadd st d a b p z) s d p z true (fun f k => rounded f (addV (val a f k) (val b f k) m) m (u k)) ∧
    FloatLanes (.vsub st d a b p z) s d p z true (fun f k => rounded f (addV (val a f k) (negV (val b f k)) m) m (u k)) ∧
    FloatLanes (.vmul st d a b p z) s d p z true (fun f k => rounded f (mulV (val a f k) (val b f k)) m (u k)) ∧
    FloatLanes (.vfma st d a b p z) s d p z true
      (fun f k => rounded f (fusedV (val a f k) (val b f k) (val d f k) false false m) m (u k)) ∧
    FloatLanes (.vfms st d a b p z) s d p z true
      (fun f k => rounded f (fusedV (val a f k) (val b f k) (val d f k) false true m) m (u k)) ∧
    FloatLanes (.vfnma st d a b p z) s d p z true
      (fun f k => rounded f (fusedV (val a f k) (val b f k) (val d f k) true false m) m (u k)) ∧
    FloatLanes (.vdiv st d a b p z) s d p z true (fun f k => divCode f (code a f k) (code b f k) m (u k)) ∧
    FloatLanes (.vsqrt st d a p z) s d p z true (fun f k => sqrtCode f (code a f k) m (u k)) ∧
    FloatLanes (.vrint st d a p z) s d p z true (fun f k => rintCode f (code a f k) m (u k))

/-- R268, R270 to R274: float instructions that do not round in the effective mode; the sign operations set no flag, not
even for a NaN. The evaluation of vexp2 and vlog2 (exp2Code, log2Code) is log entry 11, the model's choice. -/
def Obligations.VectorFloatPlain : Prop :=
  ∀ (st : BitVec 3) (d a b : BitVec 5) (p : BitVec 3) (z : BitVec 1) (s : State),
    let code := fun (v : BitVec 5) (f k : Nat) => lane (fmtBits f) (s.readV v).toNat k
    let sign := fun (f x : Nat) => x / 2 ^ (fmtBits f - 1) % 2
    let mag := fun (f x : Nat) => x % 2 ^ (fmtBits f - 1)
    FloatLanes (.vmin st d a b p z) s d p z false (fun f k => numberOf false f (code a f k) (code b f k)) ∧
    FloatLanes (.vmax st d a b p z) s d p z false (fun f k => numberOf true f (code a f k) (code b f k)) ∧
    FloatLanes (.vexp2 st d a p z) s d p z false (fun f k => exp2Code f (code a f k)) ∧
    FloatLanes (.vlog2 st d a p z) s d p z false (fun f k => log2Code f (code a f k)) ∧
    FloatLanes (.vrcpe st d a p z) s d p z false (fun f k => rcpeCode f (code a f k)) ∧
    FloatLanes (.vrsqe st d a p z) s d p z false (fun f k => rsqeCode f (code a f k)) ∧
    FloatLanes (.vabs st d a p z) s d p z false (fun f k => (mag f (code a f k), 0)) ∧
    FloatLanes (.vneg st d a p z) s d p z false
      (fun f k => ((1 - sign f (code a f k)) * 2 ^ (fmtBits f - 1) + mag f (code a f k), 0)) ∧
    FloatLanes (.vcpsgn st d a b p z) s d p z false
      (fun f k => (sign f (code b f k) * 2 ^ (fmtBits f - 1) + mag f (code a f k), 0))

/-- R275: comparisons write a predicate; a bit that governs several narrow elements is the AND of their results, and a
64-bit comparison writes two bits. -/
def Obligations.VectorComparisons : Prop :=
  ∀ (st d : BitVec 3) (a b : BitVec 5) (p : BitVec 3) (z : BitVec 1) (s : State),
    FloatCompares (.vcmpeq st d a b p z) s d a b p z true eqV ∧
    FloatCompares (.vcmpne st d a b p z) s d a b p z true (fun x y => !eqV x y) ∧
    FloatCompares (.vcmplt st d a b p z) s d a b p z false ltV ∧
    FloatCompares (.vcmple st d a b p z) s d a b p z false (fun x y => ltV x y || eqV x y) ∧
    FloatCompares (.vcmpun st d a b p z) s d a b p z true (fun x y => isNan x || isNan y) ∧
    IntCompares (.vicmpeq st d a b p z) s d a b p z false (fun x y => decide (x = y)) ∧
    IntCompares (.vicmpne st d a b p z) s d a b p z false (fun x y => decide (x ≠ y)) ∧
    IntCompares (.vicmplt st d a b p z) s d a b p z true (fun x y => decide (x < y)) ∧
    IntCompares (.vicmpltu st d a b p z) s d a b p z false (fun x y => decide (x < y)) ∧
    IntCompares (.vicmple st d a b p z) s d a b p z true (fun x y => decide (x ≤ y)) ∧
    IntCompares (.vicmpleu st d a b p z) s d a b p z false (fun x y => decide (x ≤ y))

/-- R264, R277: integer element operations modulo 2^w; only viaddsat sets a flag, when it clamps. -/
def Obligations.VectorIntegers : Prop :=
  ∀ (st : BitVec 3) (d a b : BitVec 5) (p : BitVec 3) (z : BitVec 1) (s : State),
    let x := fun w k => lane w (s.readV a).toNat k
    let y := fun w k => lane w (s.readV b).toNat k
    let wrap := fun (w : Nat) (r : Int) => ((r % (2 ^ w : Nat)).toNat, 0)
    let int := fun (i : Instr) (op : Nat → Nat → Nat × Nat) => WidthLanes i s d p z s.intWidth op
    let data := fun (i : Instr) (op : Nat → Nat → Nat × Nat) => WidthLanes i s d p z s.dataWidth op
    int (.viadd st d a b p z) (fun w k => wrap w (x w k + y w k)) ∧
    int (.visub st d a b p z) (fun w k => wrap w (x w k - y w k)) ∧
    int (.vimul st d a b p z) (fun w k => wrap w (x w k * y w k)) ∧
    int (.vimin st d a b p z) (fun w k => (if sgn w (y w k) < sgn w (x w k) then y w k else x w k, 0)) ∧
    int (.vimax st d a b p z) (fun w k => (if sgn w (x w k) < sgn w (y w k) then y w k else x w k, 0)) ∧
    int (.viminu st d a b p z) (fun w k => (min (x w k) (y w k), 0)) ∧
    int (.vimaxu st d a b p z) (fun w k => (max (x w k) (y w k), 0)) ∧
    int (.viabs st d a p z) (fun w k => wrap w |sgn w (x w k)|) ∧
    int (.viaddsat st d a b p z) (fun w k =>
      let r := sgn w (x w k) + sgn w (y w k)
      let h : Int := (2 ^ (w - 1) : Nat)
      if r < -h then (2 ^ (w - 1), fSAT) else if h - 1 < r then (2 ^ (w - 1) - 1, fSAT) else wrap w r) ∧
    int (.vimulh st d a b p z) (fun w k => wrap w (sgn w (x w k) * sgn w (y w k) / (2 ^ w : Nat))) ∧
    int (.vimulhu st d a b p z) (fun w k => (x w k * y w k / 2 ^ w, 0)) ∧
    data (.vand st d a b p z) (fun w k => (x w k &&& y w k, 0)) ∧
    data (.vor st d a b p z) (fun w k => (x w k ||| y w k, 0)) ∧
    data (.vxor st d a b p z) (fun w k => (x w k ^^^ y w k, 0)) ∧
    data (.vandn st d a b p z) (fun w k => (x w k &&& (2 ^ w - 1 - y w k), 0)) ∧
    data (.vshl st d a b p z) (fun w k => (x w k <<< (y w k % w), 0)) ∧
    data (.vshr st d a b p z) (fun w k => (x w k >>> (y w k % w), 0)) ∧
    data (.vsar st d a b p z) (fun w k => wrap w (sgn w (x w k) / (2 ^ (y w k % w) : Nat)))

/-- R276, R278, R281: selection, permutations and moves over the data width; no index faults. -/
def Obligations.VectorPermutations : Prop :=
  ∀ (st : BitVec 3) (d a b : BitVec 5) (p : BitVec 3) (z : BitVec 1) (s : State),
    let x := fun w k => lane w (s.readV a).toNat k
    let y := fun w k => lane w (s.readV b).toNat k
    let j := (s.readG b).toNat
    let data := fun (i : Instr) (op : Nat → Nat → Nat) => WidthLanes i s d p z s.dataWidth fun w k => (op w k, 0)
    data (.vperm st d a b p z) (fun w k => x w (y w k % (2048 / w))) ∧
    data (.vslideup st d a b p z) (fun w k => if j ≤ k then x w (k - j) else 0) ∧
    data (.vslidedn st d a b p z) (fun w k => if k + j < 2048 / w then x w (k + j) else 0) ∧
    data (.vbcast st d a p z) (fun w _ => (s.readG a).toNat % 2 ^ w) ∧
    data (.vzip st d a b p z) (fun w k => if k % 2 = 0 then x w (k / 2) else y w (k / 2)) ∧
    data (.vunzip st d a b p z) (fun w k => if k < 2048 / w / 2 then x w (2 * k) else y w (2 * k - 2048 / w)) ∧
    data (.vmov st d a p z) x ∧
    WidthLanes (.vsel st d a b p) s d 0 1 s.dataWidth (fun w k => (if s.active p w k then x w k else y w k, 0)) ∧
    WidthLanes (.vins st d a b) s d 0 1 s.dataWidth (fun w k =>
      (if k = j % (2048 / w) then (s.readG a).toNat % 2 ^ w else lane w (s.readV d).toNat k, 0)) ∧
    (s.dataWidth = none → Traps (.vext st d a b) s { cause := 0x60 }) ∧
    ∀ w, s.dataWidth = some w → GivesG (.vext st d a b) s 4 d (.ofNat 64 (x w (j % (2048 / w))))

/-- R93, R279: reductions of the active elements. The integer ones do not depend on the tree and are said without it. -/
def Obligations.VectorReductions : Prop :=
  ∀ (st : BitVec 3) (d a : BitVec 5) (p : BitVec 3) (s : State),
    let m := s.rm
    let f := s.fmt1
    let floatOk := 1 ≤ f ∧ f ≤ 4
    let inputs := (List.range (2048 / fmtBits f)).map fun k =>
      if s.active p (fmtBits f) k then some (lane (fmtBits f) (s.readV a).toNat k) else none
    let tree := fun (node : Nat → Nat → Nat → Nat × Nat) => reduceTree node 8 0 inputs
    let sum := tree fun k x y => rounded f (addV (decode f x) (decode f y) m) m (s.draw m k)
    let most := tree fun _ x y => numberOf true f x y
    let least := tree fun _ x y => numberOf false f x y
    let noType := fun i => Traps i s { cause := 0x60 }
    (¬floatOk → noType (.vredadd st d a p) ∧ noType (.vredmax st d a p) ∧ noType (.vredmin st d a p)) ∧
    (floatOk →
      (if s.srForbidden m then Traps (.vredadd st d a p) s { cause := 0x0A }
       else GivesGFlagged (.vredadd st d a p) s d (.ofNat 64 (sum.1.getD 0)) [sum.2] (if stochastic m then 1 else 0)) ∧
      GivesGFlagged (.vredmax st d a p) s d (.ofNat 64 (most.1.getD ((fmtOf f).inf true))) [most.2] 0 ∧
      GivesGFlagged (.vredmin st d a p) s d (.ofNat 64 (least.1.getD ((fmtOf f).inf false))) [least.2] 0) ∧
    (s.intWidth = none → noType (.viredadd st d a p) ∧ noType (.viredmax st d a p) ∧ noType (.viredmin st d a p) ∧
      noType (.vredand st d a p) ∧ noType (.vredor st d a p)) ∧
    ∀ w, s.intWidth = some w →
      let xs := activeOf s p w a
      GivesG (.viredadd st d a p) s 4 d (.ofInt 64 (sgn w xs.sum)) ∧
      GivesG (.viredmax st d a p) s 4 d (.ofInt 64 ((xs.map (sgn w)).foldl max (-(2 ^ (w - 1) : Nat)))) ∧
      GivesG (.viredmin st d a p) s 4 d (.ofInt 64 ((xs.map (sgn w)).foldl min ((2 ^ (w - 1) : Nat) - 1))) ∧
      GivesG (.vredand st d a p) s 4 d (.ofNat 64 (xs.foldl (· &&& ·) (2 ^ w - 1))) ∧
      GivesG (.vredor st d a p) s 4 d (.ofNat 64 (xs.foldl (· ||| ·) 0))

/-- R86, R280, R281: conversions between formats, to and from integers, and between integer widths. -/
def Obligations.VectorConversions : Prop :=
  ∀ (st : BitVec 3) (d a : BitVec 5) (p : BitVec 3) (z : BitVec 1) (s : State),
    let m := s.rm
    let n := if stochastic m then 1 else 0
    let converts := fun (i : Instr) (src dst : Option NumTy) =>
      ((src = none ∨ dst = none) → Traps i s { cause := 0x60 }) ∧
      ∀ x y, src = some x → dst = some y →
        if s.srForbidden m then Traps i s { cause := 0x0A }
        else Converts i s d a p z x.bits y.bits n fun k c => convertTy x y c m (s.draw m k)
    let flt := fun f : Nat => if 1 ≤ f ∧ f ≤ 6 then some (NumTy.flt f) else none
    let sg := match s.cx.f1 with | some f => isSigned f | none => true
    converts (.vcvt st d a p z) (flt s.fmt1) (flt (s.cx.f2.getD 2)) ∧
    converts (.vcvtfi st d a p z) (flt s.fmt1) (s.intTy s.cx.f2) ∧
    converts (.vcvtif st d a p z) (s.intTy s.cx.f1) (flt (s.cx.f2.getD s.vf)) ∧
    (s.intWidth = none ∨ s.intWidth = some 8 → Traps (.vnarrow st d a p z) s { cause := 0x60 }) ∧
    (s.intWidth = none ∨ s.intWidth = some 64 → Traps (.vwiden st d a p z) s { cause := 0x60 }) ∧
    (∀ w, s.intWidth = some w → w ≠ 8 → Converts (.vnarrow st d a p z) s d a p z w (w / 2) 0 fun _ x =>
      let v : Int := if sg then sgn w x else x
      let lo : Int := if sg then -(2 ^ (w / 2 - 1) : Nat) else 0
      let hi : Int := if sg then (2 ^ (w / 2 - 1) : Nat) - 1 else (2 ^ (w / 2) : Nat) - 1
      let c := max lo (min v hi)
      ((c % (2 ^ (w / 2) : Nat)).toNat, if c = v then 0 else fSAT)) ∧
    (∀ w, s.intWidth = some w → w ≠ 64 → Converts (.vwiden st d a p z) s d a p z w (2 * w) 0 fun _ x =>
      let v : Int := if sg then sgn w x else x
      ((v % (2 ^ (2 * w) : Nat)).toNat, 0))

/-- R91, R282, R283: random bits from the mixer with the core's seed, its number and a counter. R284: predicate instructions; a
write to p0 is discarded. -/
def Obligations.RandomBitsAndPredicates : Prop :=
  (∀ (st : BitVec 3) (d a b : BitVec 5) (e p : BitVec 3) (z : BitVec 1) (s : State),
    let key := fun (use : Nat) (c : Word) => mixer (s.me.seed.toNat ^^^ (use * 2 ^ 56)) (s.curCore * 2 ^ 53 + c.toNat % 2 ^ 53)
    let kr := key 1 (s.readG a)
    let kd := key 2 (s.readG b)
    GivesG (.rand st d a) s 4 d (.ofNat 64 (mixer kr 0)) ∧
    WidthLanes (.vrand st d a p z) s d p z s.dataWidth
      (fun w k => (mixer kr (k * w / 64) / 2 ^ (k * w % 64) % 2 ^ w, 0)) ∧
    ∃ v : Word, GivesP (.dmask st e a b p z) s 4 e v ∧ ∀ j < 64, v.getLsbD j =
      if (s.readP p).getLsbD j then decide (mixer kd (j / 4) / 2 ^ (16 * (j % 4)) % 2 ^ 16 < (s.readG a).toNat % 2 ^ 16)
      else (z == 0 && (s.readP e).getLsbD j)) ∧
  (∀ (st e p q : BitVec 3) (d a : BitVec 5) (s : State),
    let A := s.readP p
    let B := s.readP q
    GivesP (.pand st e p q) s 4 e (A &&& B) ∧ GivesP (.por st e p q) s 4 e (A ||| B) ∧
    GivesP (.pxor st e p q) s 4 e (A ^^^ B) ∧ GivesP (.pandn st e p q) s 4 e (A &&& ~~~B) ∧
    GivesP (.pnot st e p) s 4 e (~~~A) ∧ GivesP (.pmov st e a) s 4 e (s.readG a) ∧
    GivesG (.pget st d p) s 4 d A ∧
    GivesG (.pcnt st d p) s 4 d (.ofNat 64 ((List.range 64).countP fun i => A.getLsbD i)) ∧
    ∃ n : Nat, GivesG (.pfirst st d p) s 4 d (.ofNat 64 n) ∧ n ≤ 64 ∧ (∀ i < n, A.getLsbD i = false) ∧
      (n < 64 → A.getLsbD n = true))

/-! ### Tensor instructions and statistics (spec 04; spec 13, R285 to R296) -/

/-- R287: an instruction whose operand enables a record first reads it: STAT_RECID for a number beyond the launch's records,
otherwise a read goes to the record's home as a transaction and the context waits. R292 to R295, R104, R106, R136: strd writes the
record with which its home has answered; stclr and stfrz check their operands, flush the core's entry first and wait until no flush
of the record that the core has sent is left to merge, ask the home, and end with its answer; stsync is a release, flushes every
entry, and ends once nothing of the core is left to merge. A flush is a request that the router and the window may hold back. The
order of STAT_PARAM before STAT_RECID is log entry 35, the model's choice; record operations and flushes as transactions that count
in the windows are log entry 38, the model's choice. -/
def Obligations.RecordInstructions : Prop :=
  (∀ (st : BitVec 3) (d a : BitVec 5) (e : BitVec 3) (s : State),
    let t := s.readE e
    let n := tRecid t
    let asks := fun i => (∀ st data, s.cx.wait ≠ .got st data) →
      (s.badRecid n = true → Traps i s { cause := 0x62, info2 := n }) ∧ (s.badRecid n = false → AsksHome i s n (.recRead n))
    asks (.strd st d e) ∧
    (tRecen t = true → 1 ≤ s.fmt1 → s.fmt1 ≤ 4 → asks (.qnt st d a e) ∧ asks (.qntb st d a e)) ∧
    (tRecen t = true → 1 ≤ s.cx.f2.getD s.vf → s.cx.f2.getD s.vf ≤ 4 → asks (.dqnt st d a e))) ∧
  (∀ (st : BitVec 3) (d : BitVec 5) (e : BitVec 3) (c : BitVec 3) (s : State),
    let t := s.readE e
    let n := tRecid t
    let clrOk := 3 ≤ tTgt t ∧ tTgt t ≤ 9
    let frzOk := tFmode t ≠ 3 ∧ ¬(tFmode t = 0 ∧ tScale t = 255)
    let control := fun (i : Instr) (ok : Prop) (b : Body) =>
      (¬ok → Traps i s { cause := 0x63 }) ∧
      (ok → s.badRecid n = true → Traps i s { cause := 0x62, info2 := n }) ∧
      (ok → s.badRecid n = false → (∀ ws, s.cx.wait = .got 0 ws → GivesNothing i s 4) ∧
        (∀ k ws, s.cx.wait = .got (k + 1) ws → Traps i s { cause := 0x60 }) ∧
        (∀ m, s.cx.wait = .merge m → AsksHome i s n b) ∧
        ((∀ k ws, s.cx.wait ≠ .got k ws) → (∀ m, s.cx.wait ≠ .merge m) →
          (s.me.statEntry n = none → s.me.flushing n = true → Waits i s (.merge n)) ∧
          (s.me.statEntry n = none → s.me.flushing n = false → AsksHome i s n b) ∧
          ∀ en, s.me.statEntry n = some en →
            Admitted i s (s.homeAtIssue (s.partOf s.curCore) (s.recordVa s.curCore en.recid)).key
              (Answers i s fun u => Flushed s u s.curCore en ∧ u.cx.wait = .merge n ∧ u.cx.pc = s.cx.pc ∧ MemSame s u ∧ RegsSameBut s u [])))
    (∀ r k, Answered s r k → GivesV (.strd st d e) s 4 d (.ofNat 2048 r)) ∧
    control (.stclr st e) clrOk (.recClear n (tAnchor t) (tTgt t)) ∧
    control (.stfrz st e) frzOk (.recFreeze n (tFmode t) (tRst t) (tScale t)) ∧
    (5 < c.toNat → Traps (.stsync st c) s { cause := 0x02 }) ∧
    (c.toNat ≤ 5 → s.cx.wait = .merges → GivesNothing (.stsync st c) s 4) ∧
    (c.toNat ≤ 5 → s.cx.wait ≠ .merges → s.releasePending s.curCore s.curCtx c.toNat = true →
      Waits (.stsync st c) s (.release c.toNat)) ∧
    (c.toNat ≤ 5 → s.cx.wait ≠ .merges → s.releasePending s.curCore s.curCtx c.toNat = false →
      (s.me.stats = [] → s.me.flushes = 0 →
        GivesAfter (.stsync st c) s (s.modMe fun c => { c with syncs := c.syncs + 1 }) 4) ∧
      (let counted := s.modMe fun c => { c with syncs := c.syncs + 1 }
       let waits := fun (w : Wait) =>
         exec (.stsync st c) s = .next (counted.modCx fun x => { x with wait := w, snap := some s.atIssue })
       (s.me.stats ≠ [] → s.me.choked = true → waits .router) ∧
       ∀ en, s.me.stats = [en] → s.me.choked = false →
         let key := (s.homeAtIssue (s.partOf s.curCore) (s.recordVa s.curCore en.recid)).key
         s.me.windowFull key = true → waits (.window key)) ∧
      (s.me.stats ≠ [] ∨ s.me.flushes ≠ 0 → (s.me.stats = [] ∨ s.me.choked = false) →
        (∀ d, s.me.txs.length + s.me.stats.length ≤ s.me.window_ d) → Answers (.stsync st c) s fun u =>
        u.cx.wait = .merges ∧ u.cx.pc = s.cx.pc ∧ u.me.stats = [] ∧ u.me.flushes = s.me.flushes + s.me.stats.length ∧
        u.me.txs.length = s.me.txs.length + s.me.stats.length ∧ (∀ en ∈ s.me.stats, ∃ x ∈ u.me.txs, x.body = .flush en.recid en.sum) ∧
        u.me.syncs = s.me.syncs + 1 ∧ MemSame s u ∧ RegsSameBut s u [])) ∧
    (s.cx.wait = .merges → (s.waiting s.curCore s.curCtx = true ↔ s.me.flushes ≠ 0)) ∧
    (∀ m, s.cx.wait = .merge m → s.waiting s.curCore s.curCtx = s.me.flushing m))

/-- R288 to R290: qnt and qntb. The scale comes from the record or from the operand; a frozen record with RSTRAP traps on an
element above its limit, named by the lowest such element; elements are rounded once after scaling. R288, R291: dqnt scales
each source element by the operand's or the record's scale, or by its block's, and rounds it once into the destination
format. The model's choices: FORMAT before STAT_PARAM in dqnt (log entry 35), a scale byte of 255 in a record read as NaN (log entry
36), the flags of a block with a NaN (log entry 66). -/
def Obligations.QuantiseAndDequantise : Prop :=
  (∀ (st : BitVec 3) (d a : BitVec 5) (e : BitVec 3) (s : State) (r : Option Nat),
    let t := s.readE e
    let m := s.rm
    let f := s.fmt1
    let n := 2048 / fmtBits f
    let tgt : Nat := match r with | some r => recTgt r | none => tTgt t
    let b : Nat := match r with | some r => recordScale r | none => tScale t
    let frozen := match r with | some r => recFrozen r | none => false
    let trapping := match r with | some r => recFrozen r && recRstrap r | none => false
    let limit : Nat := match r with | some r => if recFrozen r then recScale r else 127 | none => 127
    let x := fun k => decode f (lane (fmtBits f) (s.readV a).toNat k)
    let code := fun k => roundTo tgt (if b = 255 then .nan false else scaleV (x k) (127 - b)) m (s.draw m k)
    let draws := if stochastic m then 1 else 0
    let blocks := (List.range (n / 32)).map fun j => quantBlock tgt ((List.range 32).map fun k => x (32 * j + k))
      (if frozen then some limit else none) m fun k => s.draw m (32 * j + k)
    (f < 1 ∨ 4 < f → Traps (.qnt st d a e) s { cause := 0x60 } ∧ Traps (.qntb st d a e) s { cause := 0x60 }) ∧
    (RecordFor s t r → 1 ≤ f → f ≤ 4 →
      (r = none → b = 255 → Traps (.qnt st d a e) s { cause := 0x63 }) ∧
      (¬(r = none ∧ b = 255) → tgt < 3 ∨ 8 < tgt → Traps (.qnt st d a e) s { cause := 0x60 }) ∧
      (tgt < 7 ∨ 9 < tgt → Traps (.qntb st d a e) s { cause := 0x60 }) ∧
      (¬(r = none ∧ b = 255) → 3 ≤ tgt → tgt ≤ 8 → s.srForbidden m = false →
        (∀ k < n, trapping = true → exceeds (x k) tgt b = true → (∀ j < k, exceeds (x j) tgt b = false) →
          Traps (.qnt st d a e) s { cause := 0x61, info0 := k, info2 := tRecid t }) ∧
        ((trapping = true → ∀ k < n, exceeds (x k) tgt b = false) →
          ∃ v : VReg, GivesVFlagged (.qnt st d a e) s d v ((List.range n).map fun k => (code k).2) draws ∧
            v.toNat < 2 ^ (fmtBits tgt * n) ∧ ∀ k < n, lane (fmtBits tgt) v.toNat k = (code k).1 % 2 ^ fmtBits tgt)) ∧
      (7 ≤ tgt → tgt ≤ 9 → s.srForbidden m = false → ∀ k < n, trapping = true → exceeds (x k) tgt limit = true →
        (∀ j < k, exceeds (x j) tgt limit = false) → Traps (.qntb st d a e) s { cause := 0x61, info0 := k, info2 := tRecid t }) ∧
      (7 ≤ tgt → tgt ≤ 9 → s.srForbidden m = false → (trapping = true → ∀ k < n, exceeds (x k) tgt limit = false) →
        GivesVFlagged (.qntb st d a e) s d (.ofNat 2048 (packBlocks tgt blocks))
          (blocks.flatMap fun q => q.elems.map (·.flags)) draws))) ∧
  (∀ (st : BitVec 3) (d a : BitVec 5) (e : BitVec 3) (s : State) (r : Option Nat),
    let t := s.readE e
    let m := s.rm
    let df := s.cx.f2.getD s.vf
    let n := 2048 / fmtBits df
    let sf := s.cx.f1.getD (match r with | some r => recTgt r | none => tTgt t)
    let b : Nat := match r with | some r => recordScale r | none => tScale t
    let x := (s.readV a).toNat
    let value := fun k =>
      if tBlk t then unpackBlock sf x k (blockBits sf * n)
      else if b = 255 then .nan false else scaleV (decode sf (lane (fmtBits sf) x k)) (b - 127)
    let code := fun k => roundTo df (value k) m (s.draw m k)
    let formatOk := if tBlk t then 7 ≤ sf ∧ sf ≤ 9 else 3 ≤ sf ∧ sf ≤ 8
    (df < 1 ∨ 4 < df → Traps (.dqnt st d a e) s { cause := 0x60 }) ∧
    (RecordFor s t r → 1 ≤ df → df ≤ 4 →
      (¬formatOk → Traps (.dqnt st d a e) s { cause := 0x60 }) ∧
      (formatOk → tBlk t = false → r = none → b = 255 → Traps (.dqnt st d a e) s { cause := 0x63 }) ∧
      (formatOk → ¬(tBlk t = false ∧ r = none ∧ b = 255) → s.srForbidden m = false →
        ∃ v : VReg, GivesVFlagged (.dqnt st d a e) s d v ((List.range n).map fun k => (code k).2) (if stochastic m then 1 else 0) ∧
          ∀ k < n, lane (fmtBits df) v.toNat k = (code k).1 % 2 ^ fmtBits df)))

/-- R102, R103, R108, R296: a stat-tracked store checks its elements, and reads the record from its home when the core holds
no entry of it; with the entry at hand (held, or read since the core's last STSYNC with room for it) it stores its active
elements and contributes each of them to the entry; with RSTRAP an element above the frozen limit raises RESCALE, named by
the lowest such element, and nothing is stored. -/
def Obligations.TrackedStores : Prop :=
  ∀ (st : BitVec 3) (d a b : BitVec 5) (e : BitVec 3) (s : State) (en : StatEntry),
    let t := s.readE e
    let n := tRecid t
    let f := s.fmt1
    let w := fmtBits f
    let es := s.activeLanes (tPg t) w
    let x := fun k => lane w (s.readV d).toNat k
    let atHand := s.me.statEntry n = some en ∨ (s.me.statEntry n = none ∧ s.me.stats.length < 8 ∧
      ∃ r, Answered s r s.me.syncs ∧ en = entryOf n r)
    let tracked := fun (i : Instr) (scatter : Bool) (addr : Nat → Word) =>
      (f < 1 ∨ 6 < f ∨ (scatter = true ∧ w ≠ 32 ∧ w ≠ 64) → Traps i s { cause := 0x60 }) ∧
      (1 ≤ f → f ≤ 6 → (scatter = true → w = 32 ∨ w = 64) →
        (s.badRecid n = true → Traps i s { cause := 0x62, info2 := n }) ∧
        (s.badRecid n = false → (∃ k ∈ es, ¬((addr k).toNat + w / 8 ≤ 0x300000 ∧ (addr k).toNat % (w / 8) = 0 ∧
            s.storeProtected s.curCore s.isS (addr k).toNat (w / 8) = false)) →
          ∃ r, Traps i s r ∧ r.cause ∈ [0x20, 0x21, 0x22]) ∧
        (s.badRecid n = false → (∀ k ∈ es, Writable s (w / 8) (addr k)) → s.me.statEntry n = none →
          (∀ k data, s.cx.wait ≠ .got k data) → AsksHome i s n (.recRead n)) ∧
        (s.badRecid n = false → atHand → (∀ k ∈ es, Writable s (w / 8) (addr k)) →
          (∀ k ∈ es, en.rstrap = true → en.excess (decode f (x k)) = true →
            (∀ j ∈ es, j < k → en.excess (decode f (x j)) = false) → ∃ u, exec i s = .next (u.raise { cause := 0x61, info0 := k, info2 := n }) ∧
              u = (s.modMe fun c => { c with stats := u.me.stats }) ∧ u.me.statEntry n = some en) ∧
          ((en.rstrap = true → ∀ k ∈ es, en.excess (decode f (x k)) = false) →
          ∃ u, exec i s = .next u ∧ Retired s u 4 ∧ FlagsSame s u ∧ RegsSameBut s u [] ∧ CtxRest s.cx u.cx ∧
            ElementsStored s u es (w / 8) addr x ∧
            u.me.statEntry n = some (es.foldl (fun q k => q.contribute (decode f (x k))) en) ∧
            u = (s.modMe fun _ => u.me) ∧
            u.me = { s.me with ctx := u.me.ctx, mem := u.me.mem, bad := u.me.bad, image := u.me.image, stats := u.me.stats })))
    tracked (.vstS st d a e) false (fun k => s.readG a + .ofNat 64 (k * (w / 8))) ∧
    tracked (.vstsS st d a b e) false (fun k => s.readG a + .ofNat 64 k * s.readG b) ∧
    tracked (.vstscS st d a b e) true (fun k => s.readG a + .ofNat 64 (lane w (s.readV b).toNat k))

/-! ### The matrix engine (spec 13, R297 to R307; spec 21, R421) -/

/-- R298, R299, R306, R421: claiming and releasing slots. oclm claims all of its slots or none; a claimed slot is zero with SSC
127; a slot of another context is MATRIX_SLOT to release; every instruction of the engine waits while it is powered down.
R287, R300, R301, R304: old fills an owned operand slot with 32 rows of 128 bytes and its scale; ard copies two rows of an owned
accumulator slot, bit for bit. The model's choices: the part of a slot whose errors raise SLOT_UNCORRECTABLE (log entry 37), and the
order of the row checks of old (log entry 36). -/
def Obligations.MatrixSlotsAndLoads : Prop :=
  (∀ (st : BitVec 3) (d a : BitVec 5) (s : State),
    let x := s.me.matrix
    let k := s.curCtx
    let bit := fun n => (s.readG a).getLsbD n
    let can := ∀ n < 16, bit n = true → x.free n = true ∨ x.owns n k = true
    let c := (s.readG a).toNat
    let mine := c < 16 ∧ x.owns (16 + c) k = true
    (x.powered = false → Waits (.oclm st d a) s .engine ∧ Waits (.orel st a) s .engine ∧ Waits (.arel st a) s .engine) ∧
    (x.powered = true →
      (can → ∃ u, GivesGAfter (.oclm st d a) s u 4 d ((s.readG a).setWidth 16 |>.setWidth 64) ∧ OnlyMatrix s u ∧
        ∀ n < 16, (bit n = true → u.me.matrix.owns n k = true) ∧
          (bit n = true → x.free n = true → u.me.matrix.opBits n = 0 ∧ u.me.matrix.scale n = 127) ∧
          (bit n = false ∨ x.free n = false → u.me.matrix.opBits n = x.opBits n ∧ u.me.matrix.scale n = x.scale n) ∧
          (bit n = false → ∀ j, u.me.matrix.owns n j = x.owns n j)) ∧
      (¬can → GivesG (.oclm st d a) s 4 d 0) ∧
      ((∀ n < 16, bit n = true → x.owns n k = true) → ∃ u, GivesAfter (.orel st a) s u 4 ∧ OnlyMatrix s u ∧
        u.me.matrix = { x with owner := u.me.matrix.owner } ∧ ∀ n j, u.me.matrix.owns n j = (x.owns n j && !(decide (n < 16) && bit n))) ∧
      (∀ n < 16, bit n = true → x.owns n k = false → Traps (.orel st a) s { cause := 0x64 }) ∧
      (mine → ∃ u, GivesAfter (.arel st a) s u 4 ∧ OnlyMatrix s u ∧
        u.me.matrix = { x with owner := u.me.matrix.owner } ∧ ∀ n j, u.me.matrix.owns n j = (x.owns n j && n != 16 + c)) ∧
      (¬mine → Traps (.arel st a) s { cause := 0x64 }))) ∧
  (∀ (st : BitVec 3) (d : BitVec 5) (o : BitVec 4) (a b : BitVec 5) (e : BitVec 3) (s : State) (r : Option Nat),
    let x := s.me.matrix
    let t := s.readE e
    let row := fun k : Nat => s.readG a + .ofNat 64 k * s.readG b
    let sc : Nat := match r with | some r => recordScale r | none => tScale t
    let c := (s.readG a).toNat
    let p := (s.readG b).toNat % 16
    (x.powered = false → ∀ q z : BitVec 4, ∀ i ∈ [Instr.old st o a b e, .mma st d q z e, .mmaZ st d q z e, .ard st d a b, .asto st d a b e],
      Waits i s .engine) ∧
    (x.powered = true →
    (x.owns o.toNat s.curCtx = false → Traps (.old st o a b e) s { cause := 0x64 }) ∧
    (x.owns o.toNat s.curCtx = true → (s.readG b).toNat % 8 ≠ 0 →
      Traps (.old st o a b e) s { cause := 0x21, addr := s.readG a, info0 := 8 }) ∧
    (x.owns o.toNat s.curCtx = true → (s.readG b).toNat % 8 = 0 → Unread s t →
      (s.badRecid (tRecid t) = true → Traps (.old st o a b e) s { cause := 0x62, info2 := tRecid t }) ∧
      (s.badRecid (tRecid t) = false → AsksHome (.old st o a b e) s (tRecid t) (.recRead (tRecid t)))) ∧
    (x.owns o.toNat s.curCtx = true → (s.readG b).toNat % 8 = 0 → RecordFor s t r →
      (r = none → sc = 255 → Traps (.old st o a b e) s { cause := 0x63 }) ∧
      ((r = none → sc ≠ 255) → (∀ q, r = some q → 3 ≤ recTgt q ∧ recTgt q ≤ 9) →
        (∀ k < 32, (row k).toNat + 128 ≤ 0x300000 ∧ (row k).toNat % 8 = 0 ∧ s.me.badIn (row k).toNat 128 = false) →
        ∃ u, GivesAfter (.old st o a b e) s u 4 ∧ OnlyMatrix s u ∧
          (∀ k < 32, u.me.matrix.opBits o.toNat / 2 ^ (1024 * k) % 2 ^ 1024 = Memory.num s.me.mem (row k).toNat 128) ∧
          u.me.matrix.scale o.toNat = sc % 256 ∧
          (∀ n, n ≠ o.toNat → u.me.matrix.opBits n = x.opBits n ∧ u.me.matrix.scale n = x.scale n) ∧
          u.me.matrix.owner = x.owner ∧ u.me.matrix.acc = x.acc)) ∧
    (¬(c < 16 ∧ x.owns (16 + c) s.curCtx = true) → Traps (.ard st d a b) s { cause := 0x64 }) ∧
    (c < 16 → x.owns (16 + c) s.curCtx = true → x.badIn (16 + c) (32 * p) 32 = false →
      GivesV (.ard st d a b) s 4 d (.ofNat 2048 (x.accBits c / 2 ^ (2048 * p) % 2 ^ 2048)))))

/-- R94, R303: mma and mma.z. Every element of the accumulator within the shape goes through the tile steps, each rounded once to
FP32; the elements outside it are unchanged (zero for mma.z, which takes the lowest-numbered free slot). R305: asto converts
every element of an owned accumulator slot, each rounded once after scaling, and stores them row by row; RNDCTR advances once
in a stochastic mode. R102, R103, R287: asto with a record reads it first, contributes all 1,024 elements, and with RSTRAP
reports those above the frozen limit in one message. The model's choices: the part of a slot that is checked for errors (log entry 37),
and a scale byte of 255 in a record read as NaN (log entry 36). -/
def Obligations.MatrixProductsAndStore : Prop :=
  (∀ (st : BitVec 3) (d : BitVec 5) (o q : BitVec 4) (e : BitVec 3) (s : State),
    let x := s.me.matrix
    let sh := (s.readE e).toNat
    let fa := s.cx.f1.getD s.mfa
    let fb := s.cx.f2.getD s.mfb
    let steps := sh % 4
    let mr := sh / 256 % 32
    let nc := sh / 65536 % 32
    let formats := 3 ≤ fa ∧ fa ≤ 9 ∧ 3 ≤ fb ∧ fb ≤ 9 ∧ matK fa = matK fb
    let operands := x.owns o.toNat s.curCtx = true ∧ x.owns q.toNat s.curCtx = true
    let good := x.badIn o.toNat 0 (16 * (mr + 1)) = false ∧ x.badIn q.toNat 0 (16 * (nc + 1)) = false
    let A := fun m k => operandValue fa (x.opBits o.toNat) (x.scale o.toNat) m k
    let B := fun n k => operandValue fb (x.opBits q.toNat) (x.scale q.toNat) n k
    let result := fun (m n old : Nat) => if m ≤ mr ∧ n ≤ nc then
        (List.range (steps + 1)).foldl (fun acc g =>
          tileSum (decode 2 acc) ((List.range 32).map fun j => (A m (32 * g + j), B n (32 * g + j))) % 2 ^ 32) old
      else old
    let c := (s.readG d).toNat
    let both := fun r => Traps (.mma st d o q e) s r ∧ Traps (.mmaZ st d o q e) s r
    x.powered = true →
    (¬formats → both { cause := 0x60 }) ∧
    (formats → matK fa / 32 - 1 < steps → both { cause := 0x65 }) ∧
    (formats → steps ≤ matK fa / 32 - 1 → ¬operands → both { cause := 0x64 }) ∧
    (formats → steps ≤ matK fa / 32 - 1 → operands →
      (¬(c < 16 ∧ x.owns (16 + c) s.curCtx = true) → Traps (.mma st d o q e) s { cause := 0x64 }) ∧
      (c < 16 → x.owns (16 + c) s.curCtx = true → good → x.badIn (16 + c) 0 (16 * (mr + 1)) = false →
        ∃ u, GivesAfter (.mma st d o q e) s u 4 ∧ OnlyMatrix s u ∧
          (∀ m < 32, ∀ n < 32, accElem (u.me.matrix.accBits c) m n = result m n (accElem (x.accBits c) m n)) ∧
          u.me.matrix = { x with acc := u.me.matrix.acc } ∧ ∀ j, j ≠ c → u.me.matrix.accBits j = x.accBits j) ∧
      ((∀ n < 16, x.free (16 + n) = false) → Traps (.mmaZ st d o q e) s { cause := 0x66 }) ∧
      (good → ∀ j < 16, x.free (16 + j) = true → (∀ n < j, x.free (16 + n) = false) →
        ∃ u, GivesGAfter (.mmaZ st d o q e) s u 4 d (.ofNat 64 j) ∧ OnlyMatrix s u ∧
          (∀ m < 32, ∀ n < 32, accElem (u.me.matrix.accBits j) m n = result m n 0) ∧
          u.me.matrix.owns (16 + j) s.curCtx = true ∧ u.me.matrix.operand = x.operand ∧ u.me.matrix.ssc = x.ssc ∧
          ∀ i, i ≠ j → u.me.matrix.accBits i = x.accBits i))) ∧
  (∀ (st : BitVec 3) (d a b : BitVec 5) (e : BitVec 3) (s : State) (r : Option Nat),
    let x := s.me.matrix
    let t := s.readE e
    let m := s.rm
    let c := (s.readG d).toNat
    let n := tRecid t
    let sc : Nat := match r with | some r => recordScale r | none => tScale t
    let f := s.cx.f1.getD (match r with | some r => recTgt r | none => tTgt t)
    let w := fmtBits f
    let addr := fun k : Nat => s.readG a + .ofNat 64 (k / 32) * s.readG b + .ofNat 64 (k % 32 * (w / 8))
    let v := fun k => decode 2 (x.accBits c / 2 ^ (32 * k) % 2 ^ 32)
    x.powered = true →
    (¬(c < 16 ∧ x.owns (16 + c) s.curCtx = true) → Traps (.asto st d a b e) s { cause := 0x64 }) ∧
    (c < 16 → x.owns (16 + c) s.curCtx = true → Unread s t →
      (s.badRecid n = true → Traps (.asto st d a b e) s { cause := 0x62, info2 := n }) ∧
      (s.badRecid n = false → AsksHome (.asto st d a b e) s n (.recRead n))) ∧
    (c < 16 → x.owns (16 + c) s.curCtx = true → RecordFor s t r → (r = none → sc = 255 → Traps (.asto st d a b e) s { cause := 0x63 })) ∧
    (c < 16 → x.owns (16 + c) s.curCtx = true → RecordFor s t r → (r = none → sc ≠ 255) →
      (∀ q, r = some q → s.me.statEntry n = none → s.me.stats.length < 8 ∧ Answered s q s.me.syncs) →
      (r = none ∨ tEchan t ≤ 47 ∨ s.isS = true) →
      (f < 1 ∨ 6 < f → Traps (.asto st d a b e) s { cause := 0x60 }) ∧
      (1 ≤ f → f ≤ 6 → s.srForbidden m = false → (∀ k < 1024, Writable s (w / 8) (addr k)) → x.badIn (16 + c) 0 512 = false →
        ∃ u, exec (.asto st d a b e) s = .next u ∧ Retired s u 4 ∧ RegsSameBut s u [] ∧ u.cx.stat = clearPend s.cx.stat ∧
          u.cx.rndctr = s.cx.rndctr + (if stochastic m then 1 else 0) ∧ u.me.matrix = x ∧ u.gmem = s.gmem ∧
          (∀ cn, cn ≠ s.curCore → u.core cn = s.core cn) ∧
          ElementsStored s u (List.range 1024) (w / 8) addr
            (fun k => (roundTo f (if sc = 255 then .nan false else scaleV (v k) (127 - sc)) m (s.draw m k)).1) ∧
          (r = none → u.me.stats = s.me.stats ∧ u.net = s.net) ∧
          ∀ q, r = some q →
            let en := (s.me.statEntry n).getD (entryOf n q)
            let past := (List.range 1024).countP fun k => en.excess (v k)
            u.me.statEntry n = some ((List.range 1024).foldl (fun z k => z.contribute (v k)) en) ∧
            (en.rstrap = false ∨ past = 0 → u.net = s.net) ∧
            (en.rstrap = true → past ≠ 0 → ∃ p, u.net = SMap.put s.net s.nextPkt p ∧ p.home = .core s.curCore ∧ p.body = .message
              { chan := tEchan t, tag := 3, bytes := leBytes 8 (n * 2 ^ 44 + min past 1023 * 2 ^ 22 + s.cx.pc.toNat % 2 ^ 22),
                src := sourceId 2 (s.jobRank s.curCore) s.curCore }))))

/-! ### Messages, PUTs, atomics and updates (spec 05, R110 to R142; spec 14, R308 to R322) -/

/-- R68, R113, R169, R312: send: its checks in the order of R113, its payload by the checks of a load, its release (PACKAGE,
or DOMAIN toward another package), the router and the window, the read of the payload, then one transaction that carries
channel, tag, payload and the sender's identifier. INFO0 0 in a REMOTE_* record raised at issue is log entry 42, the model's choice. -/
def Obligations.SendMessage : Prop :=
  ∀ (st : BitVec 3) (d a b : BitVec 5) (c : BitVec 2) (s : State),
    let D := s.readG d
    let A := s.readG a
    let len := (s.readG b).toNat % 2 ^ 16
    let tag := (s.readG b).toNat / 2 ^ 16 % 2 ^ 16
    let away := D.toNat / 2 ^ 62 = 1
    let scope := if away then 5 else 4
    let i := Instr.send st d a b c
    let m : Target := { use := .send, kind := 0, cls := c.toNat, dest := D }
    let msg : Msg := { chan := D.toNat / 2 ^ 48 % 64, tag := tag, bytes := Memory.read s.me.mem A.toNat len,
                       src := sourceId (if away then 1 else 0) (s.jobRank s.curCore) s.curCore,
                       tx := if away then none else some (s.curCore, s.me.txSeq.toNat) }
    Aimed i s m (2048 < len)
      ((A.toNat % 8 ≠ 0 → (len ≠ 0 → A.toNat + len ≤ 0x300000) → Traps i s { cause := 0x21, addr := A, info0 := len }) ∧
       (len ≠ 0 → 0x300000 < A.toNat + len → Traps i s { cause := 0x20, addr := A, info0 := len }) ∧
       (A.toNat % 8 = 0 → (len ≠ 0 → A.toNat + len ≤ 0x300000) →
         (s.releasePending s.curCore s.curCtx scope = true → Waits i s (.release scope)) ∧
         (s.releasePending s.curCore s.curCtx scope = false →
           Sends i s m (len ≠ 0 ∧ s.me.badIn A.toNat len = true) (.message msg) false)))

/-- R110, R111, R113, R127, R312, R313: sendhost: its payload by the checks of a load; a disabled ring is HOST_RING; then its release, the router, a full ring and a full window
are waited for, the payload is read, and a transaction of KIND 6 toward the home of the ring's next record carries it. R126,
R127: when that transaction completes, the 64-byte record stands at the producer index, which advances; the messages of one
context complete in their order. The model's choices: the window and home of the ring's next record (log entry 20), and INFO0 0 in a
record raised at issue (log entry 42). -/
def Obligations.SendToHost : Prop :=
  (∀ (st : BitVec 3) (d a b : BitVec 5) (c : BitVec 2) (s : State),
    let D := s.readG d
    let A := s.readG a
    let len := (s.readG b).toNat % 2 ^ 16
    let tag := (s.readG b).toNat / 2 ^ 16 % 2 ^ 16
    let h := D.toNat % 16
    let part := s.partOf s.curCore
    let ring := s.ring part h
    let va := ring.1.toNat % 2 ^ 48 + 64 * (ring.2.2.2.2 % 2 ^ ring.2.2.1)
    let home := s.homeAtIssue part va
    let i := Instr.sendhost st d a b c
    let m : Target := { use := .sendhost, kind := 6, cls := c.toNat, dest := D }
    Aimed i s m (48 < len)
      ((A.toNat % 8 ≠ 0 → (len ≠ 0 → A.toNat + len ≤ 0x300000) → Traps i s { cause := 0x21, addr := A, info0 := len }) ∧
       (len ≠ 0 → 0x300000 < A.toNat + len → Traps i s { cause := 0x20, addr := A, info0 := len }) ∧
       (A.toNat % 8 = 0 → (len ≠ 0 → A.toNat + len ≤ 0x300000) →
        (ring.2.1 = false → Traps i s { cause := 0x4A }) ∧
        (ring.2.1 = true → s.releasePending s.curCore s.curCtx 4 = true → Waits i s (.release 4)) ∧
        (ring.2.1 = true → s.releasePending s.curCore s.curCtx 4 = false →
          (s.me.choked = true → Waits i s .router) ∧
          (s.me.choked = false → s.ringFull part h = true → Waits i s (.ring h)) ∧
          (s.me.choked = false → s.ringFull part h = false → s.me.windowFull home.key = true → Waits i s (.window home.key)) ∧
          (s.me.choked = false → s.ringFull part h = false → s.me.windowFull home.key = false →
            (len ≠ 0 → s.me.badIn A.toNat len = true → Traps i s { cause := 0xA0 }) ∧
            ((len ≠ 0 → s.me.badIn A.toNat len = false) → ∃ t x p, exec i s = .next t ∧ Retired s t 4 ∧ FlagsSame s t ∧ OnlySent s t ∧
              Leaves s t p x c.toNat ∧ t.me.txs = s.me.txs ++ [x] ∧ t.me.txSeq = s.me.txSeq + 1 ∧ t.me.q3 = s.me.q3 ∧ x.kind = 6 ∧
              x.dest = D ∧ x.key = home.key ∧ x.fetch = false ∧ x.ticketed = false ∧ p.kind = 6 ∧ p.home = home ∧ p.addr = va ∧
              p.reply = false ∧ p.body = .hostMsg h tag (Memory.read s.me.mem A.toNat len))))))) ∧
  (∀ (n h tag : Nat) (bs : List Byte) (p : Packet) (x : Tx) (s : State),
    let ring := s.ring (s.partOf p.cn) h
    let prod := ring.2.2.2.2
    let size := 2 ^ ring.2.2.1
    let bytes := leBytes 8 (s.lidOf p.cn * 2 ^ 32 + tag * 2 ^ 16 + bs.length * 256 + if prod / size % 2 = 0 then 1 else 0) ++
      leBytes 8 (s.jobRank p.cn * 2 ^ 32 + p.cn) ++ bs ++ List.replicate (48 - bs.length) 0
    s.packet n = some p → p.body = .hostMsg h tag bs → s.txOf p = some x → p.marked = false →
    (∀ e ∈ s.net, e.1 < n → e.2.host? = true → e.2.cn = p.cn → e.2.ctx = p.ctx → False) →
      Answers (.transactionCompletion n) s fun t => (∀ y, y ∈ (t.core p.cn).txs ↔ y ∈ (s.core p.cn).txs ∧ y.seq ≠ x.seq) ∧
        (∀ j, (t.core j).mem = (s.core j).mem) ∧
        ∀ pa u, s.translate (some p.cn) (s.partOf p.cn) (ring.1.toNat % 2 ^ 48 + 64 * (prod % size)) .write = (.ok pa, u) →
          (∀ k < bytes.length, s.sequencerField (pa + k) = false) → t.gmem = Memory.write s.gmem pa bytes ∧
          t.rings = SMap.put s.rings (s.partOf p.cn * 16 + h) ((prod + 1) % 2 ^ 32) ∧ t.net = SMap.del s.net n)

/-- R113, R314: put carries 1 to 2,048 bytes of local SRAM, whose length stands in the second register of the pair. INFO0 0 in a
REMOTE_* record raised at issue (log entry 42) and the address that a pointer fault names (log entry 19) are the model's choices. -/
def Obligations.PutBytes : Prop :=
  ∀ (st : BitVec 3) (d a b : BitVec 5) (c : BitVec 2) (s : State),
    let S := s.readG b
    let len := (s.readG (b + 1)).toNat
    let i := Instr.put st d a b c
    let m : Target := { use := .put, kind := 1, cls := c.toNat, dest := s.readG d, addr := s.readG a, bytes := len }
    (b.toNat % 2 = 1 → Traps i s { cause := 0x02 }) ∧
    (b.toNat % 2 = 0 → Aimed i s m (len = 0 ∨ 2048 < len)
      ((0x300000 < S.toNat + len → Traps i s { cause := 0x20, addr := S, info0 := len }) ∧
       (S.toNat + len ≤ 0x300000 → s.me.badIn S.toNat len = true → Traps i s { cause := 0xA0 }) ∧
       (S.toNat + len ≤ 0x300000 → s.me.badIn S.toNat len = false →
         Sends i s m False (.put (Memory.read s.me.mem S.toNat len)) false)))

/-- R113, R122, R140, R315: every remote integer atomic, of 4 or 8 bytes, fetching or not: its checks, its waits, and the
transaction that carries the operation and its operands. INFO0 0 in a REMOTE_* record raised at issue (log entry 42) and the address
that a pointer fault names (log entry 19) are the model's choices. -/
def Obligations.RemoteAtomics : Prop :=
  ∀ (st : BitVec 3) (d a b : BitVec 5) (c : BitVec 2) (s : State),
    let is : List ((BitVec 3 → BitVec 5 → BitVec 5 → BitVec 5 → BitVec 2 → Instr) × AtomicOp × Nat × Bool × Nat) :=
      [(.aaddW, .add, 4, false, 0), (.aaddfW, .add, 4, true, 0), (.asminW, .smin, 4, false, 1), (.asminfW, .smin, 4, true, 1),
       (.asmaxW, .smax, 4, false, 1), (.asmaxfW, .smax, 4, true, 1), (.auminW, .umin, 4, false, 1), (.auminfW, .umin, 4, true, 1),
       (.aumaxW, .umax, 4, false, 1), (.aumaxfW, .umax, 4, true, 1), (.aandW, .and, 4, false, 2), (.aandfW, .and, 4, true, 2),
       (.aorW, .or, 4, false, 2), (.aorfW, .or, 4, true, 2), (.axorW, .xor, 4, false, 2), (.axorfW, .xor, 4, true, 2),
       (.aswapW, .swap, 4, true, 3), (.acasW, .cas, 4, true, 3),
       (.aaddD, .add, 8, false, 0), (.aaddfD, .add, 8, true, 0), (.asminD, .smin, 8, false, 1), (.asminfD, .smin, 8, true, 1),
       (.asmaxD, .smax, 8, false, 1), (.asmaxfD, .smax, 8, true, 1), (.auminD, .umin, 8, false, 1), (.auminfD, .umin, 8, true, 1),
       (.aumaxD, .umax, 8, false, 1), (.aumaxfD, .umax, 8, true, 1), (.aandD, .and, 8, false, 2), (.aandfD, .and, 8, true, 2),
       (.aorD, .or, 8, false, 2), (.aorfD, .or, 8, true, 2), (.axorD, .xor, 8, false, 2), (.axorfD, .xor, 8, true, 2),
       (.aswapD, .swap, 8, true, 3), (.acasD, .cas, 8, true, 3)]
    ∀ x ∈ is,
      let i := x.1 st d a b c
      let op := x.2.1
      let w := x.2.2.1
      let lo := fun v : Word => BitVec.ofNat 64 (v.toNat % 2 ^ (8 * w))
      let m : Target := { use := .atomic, kind := 2, cls := c.toNat, dest := s.readG d, addr := s.readG a, bytes := w, align := w,
                          cap := some x.2.2.2.2 }
      (op = .cas → b.toNat % 2 = 1 → Traps i s { cause := 0x02 }) ∧
      ((op = .cas → b.toNat % 2 = 0) → Aimed i s m False
        (Sends i s m False (.atomic op w (lo (s.readG b)) (if op = .cas then lo (s.readG (b + 1)) else 0) x.2.2.2.1) x.2.2.2.1))

/-- R140, R161, R316 to R318: floating-point updates: rfadd sends one element and goes on, and is an ORDER_VIOLATION under
ORDERED; rfadd.t, vfadd.t and tskip carry tickets and wait for their status; tskip sends one update with no elements for each
line in ascending order, each after the status of the one before, as packets of one transaction (R110). INFO0 0 in a REMOTE_* record
raised at issue (log entry 42) and the address that a pointer fault names (log entry 19) are the model's choices. -/
def Obligations.FloatUpdates : Prop :=
  ∀ (st : BitVec 3) (d a b : BitVec 5) (c : BitVec 2) (s : State),
    let f := s.fmt1
    let n := fmtBits f / 8
    let ok := f = 1 ∨ f = 2 ∨ f = 4
    let bit := fun k : Nat => k + (if f = 2 then 0 else if f = 1 then 1 else 2)
    let rm := if stochastic s.rm then 0 else s.rm
    let A := s.readG a
    let target := fun (k bytes align : Nat) =>
      ({ use := .atomic, kind := 3, cls := c.toNat, dest := s.readG d, addr := A, bytes := bytes, align := align, cap := some k } : Target)
    let pair := (s.readG (d + 1)).toNat
    let lanes := (List.range (64 / n)).filter fun j => pair / 2 ^ (32 + j) % 2 = 1
    (¬ok → Traps (.rfadd st d a b c) s { cause := 0x60 } ∧ Traps (.tskip st d a b c) s { cause := 0x60 }) ∧
    (¬ok → b.toNat % 2 = 0 → Traps (.rfaddT st d a b c) s { cause := 0x60 }) ∧
    (¬ok → d.toNat % 2 = 0 → Traps (.vfaddT st d a b c) s { cause := 0x60 }) ∧
    (ok →
      (s.ordered s.curCore = true → Traps (.rfadd st d a b c) s { cause := 0x0A }) ∧
      (s.ordered s.curCore = false → Aimed (.rfadd st d a b c) s (target (bit 4) n n) False
        (Sends (.rfadd st d a b c) s (target (bit 4) n n) False (.fpUpdate f rm ((s.readG b).toNat % 2 ^ (8 * n))) false)) ∧
      (b.toNat % 2 = 0 → Updates (.rfaddT st d a b c) s (target (bit 7) n n)
        (.ticket f ((s.readG (b + 1)).toNat % 2 ^ 32) [(A.toNat % 64 / n, (s.readG b).toNat % 2 ^ (8 * n))])) ∧
      (d.toNat % 2 = 0 → Updates (.vfaddT st d a b c) s (target (bit 7) 64 64)
        (.ticket f (pair % 2 ^ 32) (lanes.map fun j => (j, lane (8 * n) (s.readV b).toNat j)))) ∧
      (let lines := (s.readG b).toNat / 2 ^ 32 % 2 ^ 24
       let tskip := Instr.tskip st d a b c
       let line := fun w : Word => ({ target (bit 7) 64 64 with addr := w } : Target)
       let body : Body := .ticket f ((s.readG b).toNat % 2 ^ 32) []
       let starts := (∀ k data, s.cx.wait ≠ .got k data) ∧ ∀ w key n v, s.cx.wait ≠ .line w key n v
       let sends := fun (w : Word) (n : Nat) (v : Option (Nat × Nat)) =>
         (s.me.choked = true ∨ s.me.windowFull ((line w).key s) = true → Waits tskip s (.line w ((line w).key s) n v)) ∧
         (s.me.choked = false → s.me.windowFull ((line w).key s) = false → ∃ t x p, exec tskip s = .next t ∧ OnlySent s t ∧
           t.me.txs = s.me.txs ++ [x] ∧ x.seq = s.me.txSeq.toNat ∧ x.first = n ∧ (v ≠ none → x.via = v) ∧ x.body = body ∧ x.ticketed = true ∧ x.addr = w ∧
           x.key = (line w).key s ∧ t.net = SMap.put s.net s.nextPkt p ∧ p.seq = x.seq ∧ p.first = n ∧
           ((s.readG d).toNat / 2 ^ 62 ≠ 1 → p.body = body) ∧ t.cx.wait = .sent (2 * s.me.txSeq.toNat + 1) ∧ t.cx.pc = s.cx.pc)
       let via := fun v : Word => if v = 0 then none else some ((v.toNat - 1) % 65536, (v.toNat - 1) / 65536)
       (lines = 0 → starts → Traps tskip s { cause := 0x4C }) ∧
       (lines ≠ 0 → starts → Aimed tskip s { target (bit 7) (64 * lines) 64 with addr := A } False
         (Admitted tskip s ((line A).key s) (Updating tskip s (line A) body))) ∧
       (∀ w k n v, s.cx.wait = .got 0 [w, k, n, v] →
         (w + 64 = A + .ofNat 64 (64 * lines) → GivesNothing tskip s 4) ∧
         (w + 64 ≠ A + .ofNat 64 (64 * lines) → sends (w + 64) n.toNat (via v))) ∧
       (∀ w key n v, s.cx.wait = .line w key n v → sends w n v) ∧
       (∀ k data, s.cx.wait = .got (k + 1) data → Traps (.tskip st d a b c) s (ticketRec (k + 1) data (s.readG d)))))

/-- R143 to R145, R153 to R155, R319, R430: tsopen checks its descriptor, resolves its lines, those of a global range by translation
in ascending order, takes a free slot and asks every part to open; once all have answered it returns a handle for the new sequence,
or 0 when no slot or no part was free, or traps when a part met another sequence's line. tdrain asks every part and ends with their
answers. tsclose waits for the context's updates to the sequence, asks every part, and once all have answered returns the count of
duplicates when every line has reached P, closes a lenient sequence with the count of what is missing, and traps with the lowest
line that is short of P when the sequence is strict. The model's choices: one request per part, all set out in one slot, and the
release of every part after an overlap or a lack of room (log entry 48); SERIAL modulo 2^32 in the handle (log entry 79); no part
in a host window (log entry 26). -/
def Obligations.TicketSequences : Prop :=
  ∀ (st : BitVec 3) (d a : BitVec 5) (c : BitVec 2) (s : State) (l : Launch),
    let A := s.readG a
    let i := Instr.tsopen st d a c
    let o := s.seqDesc A.toNat
    let sp := o.base.toNat / 2 ^ 61
    let B := o.base.toNat % 2 ^ (if sp = 2 then 57 else 48)
    let t := clusterCore s.curCore (o.base.toNat / 2 ^ 57 % 16)
    let free := fun n : Nat => n < 256 ∧ SMap.has l.seqs n = false
    let starts := ∀ k data, s.cx.wait ≠ .got k data
    let first := s.me.txSeq.toNat
    let legal := (sp = 2 ∨ sp = 3) ∧ B % 64 = 0 ∧ 0 < o.lines ∧ o.lines ≤ 2 ^ 24 ∧ 0 < o.p ∧ o.p ≤ 0x7FFFFFFF ∧
      (o.fmt = 1 ∨ o.fmt = 2 ∨ o.fmt = 4) ∧ o.rm ≤ 4 ∧ (sp = 3 → s.touchesRecords B (64 * o.lines) = false)
    let waits := fun (e : Instr) (v : State) (w : Wait) => exec e s = .next (v.modCx fun x => { x with wait := w, snap := some s.atIssue })
    let asks := fun (e : Instr) (v u : State) (h : Word) (ps : List Home) (b : Nat → Body) =>
      (s.me.choked = true → waits e v .router) ∧
      (s.me.choked = false → ∀ key, (ps.map Home.key).find? s.me.windowFull = some key → waits e v (.window key)) ∧
      (s.me.choked = false → (∀ x ∈ ps, s.me.windowFull x.key = false) →
        ∃ t, exec e s = .next t ∧ OnlySent u t ∧ t.cx.wait = .sent (2 * first + 1) ∧ t.cx.pc = s.cx.pc ∧
          t.nextPkt = s.nextPkt + ps.length ∧ t.me.txs.length = s.me.txs.length + ps.length ∧
          ∀ j (hj : j < ps.length), ∃ p, listed t.net (s.nextPkt + j) = some p ∧ p.home = ps[j] ∧ p.reply = false ∧ p.body = b j ∧
            p.addr = h.toNat ∧ p.first = first ∧ p.cn = s.curCore ∧ p.ctx = s.curCtx ∧ p.cls = c.toNat ∧
            p.slack = (SMap.get (0 : Word) s.atIssue.slk c.toNat).toNat % 2 ^ 12)
    let opens := fun (v : State) (lines : List Line) =>
      ((∃ x ∈ lines, v.lineProtected x.home x.addr 64 = true) → exec i s = .next (v.raise { cause := 0x4D })) ∧
      ((∀ x ∈ lines, v.lineProtected x.home x.addr 64 = false) →
        ((∀ n, ¬free n) → GivesGAfter i s v 4 d 0) ∧
        ((∃ n, free n) → ∃ n q, free n ∧ q.lines = lines ∧ q.base = o.base ∧ q.p = o.p ∧ q.fmt = o.fmt ∧ q.rm = o.rm ∧
          q.lenient = o.lenient ∧ q.state = .opening ∧ q.dup = 0 ∧ q.held = [] ∧ q.due = [] ∧ q.openAt = [] ∧ q.shut = [] ∧ q.clash = false ∧
          asks i v ({ v with fresh := v.fresh + 1 }.setSeq l n q) (.ofNat 64 n) q.parts fun j => .seqOpen n j))
    let walks := fun (n : Nat) (us : Nat → State) (pas : Nat → Nat) => us 0 = s ∧ ∀ k < n,
      (us k).translate (some s.curCore) (s.partOf s.curCore) (B + 64 * k) .rmw = (.ok (pas k), us (k + 1))
    s.launchOf s.curCore = some l →
    (starts → A.toNat % 32 ≠ 0 ∨ A.toNat < 0x2000 ∨ 0x300000 < A.toNat + 32 → Traps i s { cause := 0x4C }) ∧
    (starts → A.toNat % 32 = 0 → 0x2000 ≤ A.toNat → A.toNat + 32 ≤ 0x300000 →
      (s.me.badIn A.toNat 32 = true → Traps i s { cause := 0xA0 }) ∧
      (s.me.badIn A.toNat 32 = false →
        (∀ e, s.pointerFault .remote o.base (64 * o.lines) = some e →
          Traps i s (accessRec e (s.pointerAddr e o.base) (64 * o.lines) 0)) ∧
        (s.pointerFault .remote o.base (64 * o.lines) = none →
          (¬legal → Traps i s { cause := 0x4C }) ∧
          (legal → sp = 2 → opens s ((List.range o.lines).map fun k => ⟨k, .core t, B + 64 * k, 0⟩)) ∧
          (legal → sp = 3 →
            (∀ us pas m x u, m < o.lines → walks m us pas → (us m).translate (some s.curCore) (s.partOf s.curCore) (B + 64 * m) .rmw = (x, u) →
              (∀ pa, x ≠ .ok pa) → exec i s = .next (u.raise { cause := 0x80, addr := .ofNat 64 (B + 64 * m), info0 := 3 })) ∧
            (∀ us pas, walks o.lines us pas →
              (∀ m < o.lines, inHost (pas m) = true → (∀ k < m, inHost (pas k) = false) →
                exec i s = .next ((us o.lines).raise { cause := 0x48, addr := .ofNat 64 (B + 64 * m), info0 := 4 })) ∧
              ((∀ m < o.lines, inHost (pas m) = false) →
                opens (us o.lines) ((List.range o.lines).map fun k => ⟨k, s.homeOf (pas k), pas k, 0⟩))))))) ∧
    (∀ k data, s.cx.wait = .got k data → GivesG i s 4 d (data.getD 0 0)) ∧
    (∀ (r : Nat) (p : Packet) (x : Tx) (h sts : Nat) (data : List Word) (n j : Nat) (q : Seq), s.packet r = some p → s.txOf p = some x →
      p.marked = false → p.cn = s.curCore → p.home = .core h → p.body = .reply sts data → x.fetch = false → x.ticketed = false →
      x.kind = 15 → x.ctx < 11 → x.body = .seqOpen n j → sts ≠ 6 → (s.me.cx x.ctx).wait = .sent (2 * x.first + 1) →
      (∀ y ∈ s.me.txs, y.kind = 15 → y.first = x.first → y.seq = p.seq) → s.launch? l.part l.lid = some l → l.openingIn n = some q →
      Answers (.transactionCompletion r) s fun u => MemSame s u ∧
        let z := u.me.cx x.ctx
        let gives := fun w : Word => z.wait = .got 0 [w]
        ∃ l', u.launchOf s.curCore = some l' ∧ (∀ j, j ≠ n → listed l'.seqs j = listed l.seqs j) ∧
          (q.clash = true → listed l'.seqs n = none ∧ z.wait = .none ∧ z.held = true ∧ z.pc = (s.me.cx x.ctx).pc ∧
            ∃ e, u.me.trap.precise = s.me.trap.precise ++ [e] ∧ e.cause = 0x4D ∧ e.ctx = x.ctx ∧ e.async = false) ∧
          (q.clash = false → q.shut ≠ [] → listed l'.seqs n = none ∧ gives 0) ∧
          (q.clash = false → q.shut = [] → gives (.ofNat 64 ((l.serial + 1) % 2 ^ 32 * 256 + n)) ∧ l'.serial = l.serial + 1 ∧
            listed l'.seqs n = some { q with serial := l.serial + 1, state := .opened, openAt := [] })) ∧
    (starts → s.seqOf s.curCore A = none → Traps (.tdrain st a c) s { cause := 0x4E }) ∧
    (s.seqOf s.curCore A = none → Traps (.tsclose st d a c) s { cause := 0x4E }) ∧
    (∀ k data, s.cx.wait = .got k data → GivesNothing (.tdrain st a c) s 4) ∧
    (∀ k q, s.seqOf s.curCore A = some (l, k, q) →
      (q.state = .aborted → (starts → GivesNothing (.tdrain st a c) s 4) ∧
        GivesGAfter (.tsclose st d a c) s ((s.freeSeq l k).endDrains l A 0) 4 d (.allOnes 64)) ∧
      (q.state ≠ .aborted →
        (starts → asks (.tdrain st a c) s s A q.parts (.seqDrain k)) ∧
        (starts → s.updatesPending s.curCore s.curCtx A = true → Waits (.tsclose st d a c) s (.updates A)) ∧
        (starts → s.updatesPending s.curCore s.curCtx A = false → asks (.tsclose st d a c) s s A q.parts (.seqQuery k)) ∧
        (∀ j data, s.cx.wait = .got j data →
          ((∀ x ∈ q.lines, q.p ≤ x.ctr) →
            GivesGAfter (.tsclose st d a c) s ((s.freeSeq l k).endDrains l A 0) 4 d (.ofNat 64 q.dup)) ∧
          (q.lenient = true → (∃ x ∈ q.lines, x.ctr < q.p) →
            let missing := (q.lines.map fun x => q.p - x.ctr - (q.held.filter fun h => h.line == x.index).length).sum
            GivesGAfter (.tsclose st d a c) s (((s.applyAllHeld q).freeSeq l k).endDrains l A 4) 4 d
              (.ofNat 64 (min missing (2 ^ 32 - 1) * 2 ^ 32 + q.dup))) ∧
          (q.lenient = false → ∀ x, q.lines.find? (fun ln => decide (ln.ctr < q.p)) = some x →
            exec (.tsclose st d a c) s = .next ((s.setSeq l k { q with queried := q.queried.filter fun e => e.2 != (s.curCore, s.curCtx) }).raise
              { cause := 0x4F, addr := .ofNat 64 (pointerBase q.base + 64 * x.index), info0 := x.ctr }))))) ∧
    (∀ k, ∃ x, (s.freeSeq l k).launchOf s.curCore = some x ∧ SMap.has x.seqs k = false ∧
      (∀ j, j ≠ k → listed x.seqs j = listed l.seqs j) ∧ (s.freeSeq l k).cores = s.cores ∧ (s.freeSeq l k).gmem = s.gmem)

/-- R68, R136, R310, R321: halo checks its lengths, its source, its neighbours and its destination; it waits while the engine
has no room for all of its transfers, while the router refuses, and while the window toward a neighbour is full, the first of
its directions first; then the payload is read, and one transfer with the same bytes sets out to the neighbour of each
direction. R124, R125, R322: zwatch checks its channel and its address, arms the lowest free entry, which fires at once where the
bytes are zero, and disarms. The model's choices: INFO0 0 in a REMOTE_* record raised at issue (log entry 42), halo transfers that
count in windows (log entry 43), a zwatch on an uncorrectable error that raises nothing (log entry 51). -/
def Obligations.HaloAndZeroWatch : Prop :=
  ∀ (st : BitVec 3) (d a b : BitVec 5) (c : BitVec 2) (s : State),
    let B := (s.readG b).toNat
    let len := B / 2 ^ 32 % 2 ^ 12
    let dirs := (List.range 4).filter fun k => B / 2 ^ k % 2 = 1
    let S := s.readG a
    let D := s.readG d
    let i := Instr.halo st d a b c
    let w := if B / 256 % 2 = 1 then 8 else 4
    let nbr := fun k => (s.neighbour s.curCore k).getD 0
    let full := fun k => s.me.windowFull (.core (.ofNat 11 (nbr k))) = true
    let lone := fun k => ∀ t, s.neighbour s.curCore k = some t → s.sameLaunch s.curCore t = false
    let free := fun n : Nat => 1 ≤ n ∧ n ≤ 8 ∧ SMap.has s.me.zwatch n = false
    let zero := Memory.num s.me.mem S.toNat w = 0
    let own := sourceId 2 (s.jobRank s.curCore) s.curCore
    (dirs = [] ∨ len = 0 ∨ 2048 < len ∨ len % 8 ≠ 0 → Traps i s { cause := 0x4B }) ∧
    (dirs ≠ [] → 0 < len → len ≤ 2048 → len % 8 = 0 →
      (0x300000 < S.toNat + len → Traps i s { cause := 0x20, addr := S, info0 := len }) ∧
      (S.toNat + len ≤ 0x300000 → S.toNat % 8 ≠ 0 → Traps i s { cause := 0x21, addr := S, info0 := len }) ∧
      (S.toNat + len ≤ 0x300000 → S.toNat % 8 = 0 → (∃ k ∈ dirs, lone k) → Traps i s (remoteFault 0x43 5 D 0)) ∧
      (S.toNat + len ≤ 0x300000 → S.toNat % 8 = 0 →
       (∀ k ∈ dirs, ∃ t, s.neighbour s.curCore k = some t ∧ t < 2048 ∧ s.sameLaunch s.curCore t = true) →
       (D.toNat < 0x2000 ∨ 0x300000 < D.toNat + len → Traps i s (remoteFault 0x44 5 D 0)) ∧
       (0x2000 ≤ D.toNat → D.toNat + len ≤ 0x300000 → D.toNat % 8 ≠ 0 → Traps i s { cause := 0x21, addr := D, info0 := len }) ∧
       (0x2000 ≤ D.toNat → D.toNat + len ≤ 0x300000 → D.toNat % 8 = 0 →
        (16 < s.me.halos + dirs.length → Waits i s (.halos (16 - dirs.length))) ∧
        (s.me.halos + dirs.length ≤ 16 → s.me.choked = true → Waits i s .router) ∧
        (s.me.halos + dirs.length ≤ 16 → s.me.choked = false →
          (∀ k ∈ dirs, full k → (∀ j ∈ dirs, j < k → ¬full j) → Waits i s (.window (.core (.ofNat 11 (nbr k))))) ∧
          ((∀ k ∈ dirs, ¬full k) →
            (s.me.badIn S.toNat len = true → Traps i s { cause := 0xA0 }) ∧
            (s.me.badIn S.toNat len = false →
              ∃ t, exec i s = .next t ∧ Retired s t 4 ∧ FlagsSame s t ∧ OnlySent s t ∧ t.me.halos = s.me.halos + dirs.length ∧
                t.nextPkt = s.nextPkt + dirs.length ∧ t.me.txs.length = s.me.txs.length + dirs.length ∧
                ∀ j (h : j < dirs.length), ∃ p, listed t.net (s.nextPkt + j) = some p ∧
                  p.home = .core (nbr dirs[j]) ∧ p.addr = D.toNat ∧ p.kind = 5 ∧
                  p.body = .halo ((dirs[j] + 2) % 4) (Memory.read s.me.mem S.toNat len))))))) ∧
    (B < 2 ^ 63 → 48 ≤ B % 64 → s.isS = false → Traps (.zwatch st d a b) s { cause := 0x42 }) ∧
    (B < 2 ^ 63 → B % 64 < 48 ∨ s.isS = true →
      (0x300000 < S.toNat + w → Traps (.zwatch st d a b) s { cause := 0x20, addr := S, info0 := w }) ∧
      (S.toNat + w ≤ 0x300000 → S.toNat % w ≠ 0 → Traps (.zwatch st d a b) s { cause := 0x21, addr := S, info0 := w }) ∧
      (S.toNat + w ≤ 0x300000 → S.toNat % w = 0 → S.toNat < 0x2000 → Traps (.zwatch st d a b) s { cause := 0x22, addr := S, info0 := w })) ∧
    (B < 2 ^ 63 → B % 64 < 48 ∨ s.isS = true → 0x2000 ≤ S.toNat → S.toNat + w ≤ 0x300000 → S.toNat % w = 0 →
      ((∀ n, ¬free n) → GivesG (.zwatch st d a b) s 4 d 0) ∧
      (∀ n, free n → (∀ j, j < n → ¬free j) →
        (¬zero → GivesGAfter (.zwatch st d a b) s (s.modMe fun c =>
          { c with zwatch := SMap.put c.zwatch n ⟨S.toNat, w == 8, B % 64, B / 2 ^ 16 % 2 ^ 16⟩ }) 4 d (.ofNat 64 n)) ∧
        (zero → ∃ t p, exec (.zwatch st d a b) s = .next t ∧ t.readG d = (if d = 0 then 0 else .ofNat 64 n) ∧ Retired s t 4 ∧
          RegsSameBut s t [keyG d.toNat] ∧ MemSame s t ∧ SMap.has t.me.zwatch n = false ∧ t.net = SMap.put s.net s.nextPkt p ∧
          p.home = .core s.curCore ∧ p.body = .message
            { chan := B % 64, tag := B / 2 ^ 16 % 2 ^ 16, bytes := leBytes 8 (n * 2 ^ 56 + S.toNat), src := own }))) ∧
    (2 ^ 63 ≤ B → (SMap.has s.me.zwatch (B % 16) = false → GivesG (.zwatch st d a b) s 4 d 0) ∧
      (SMap.has s.me.zwatch (B % 16) = true → GivesGAfter (.zwatch st d a b) s
        (s.modMe fun c => { c with zwatch := SMap.del c.zwatch (B % 16) }) 4 d 1))

/-! ### Barriers, fences, generations (spec 14, R323 to R329; spec 07, R168 to R171; spec 08, R181 to R195) -/

/-- R323 to R325: arrive and arvdrop of a member, their faults and their release, behind which the checks are made again (log entry
83, the model's choice); wait, which looks at the barrier as it then stands (log entry 83); and the completion of a phase once every
expected arrival has come. R42: a deadlocked launch gives each of its cores a DEADLOCK record; what State.deadlocked takes to be under
way still is log entry 47, the model's choice. -/
def Obligations.Barriers : Prop :=
  ∀ (st n : BitVec 3) (d : BitVec 5) (p : BitVec 4) (lid : BitVec 32) (s : State) (l : Launch),
    let k := n.toNat
    let arrived := SMap.get false s.me.arr k = true
    let member := s.curCore ∈ l.membersOf k
    let pending := s.releasePending s.curCore s.curCtx 4 = true
    let fault := fun c => ({ cause := c, info0 := k, info1 := (l.phaseOf k).toNat } : FaultRec)
    let arrives := fun (i : Instr) (drop : Bool) =>
      (¬member → Traps i s (fault 0x0F)) ∧
      (member → arrived → Traps i s (fault 0x10)) ∧
      (member → ¬arrived → pending → Waits i s (.release 4)) ∧
      (member → ¬arrived → ¬pending → ∃ u q, GivesAfter i s u 4 ∧ MemSame s u ∧
        SMap.get false u.me.arr k = true ∧ SMap.get 0 u.me.last k = l.phaseOf k ∧ SMap.get false u.me.ever k = true ∧
        (∀ j, j ≠ k → SMap.get false u.me.arr j = SMap.get false s.me.arr j ∧ SMap.get 0 u.me.last j = SMap.get 0 s.me.last j) ∧
        (∀ cn, cn ≠ s.curCore → u.core cn = s.core cn) ∧
        u.launchOf s.curCore = some q ∧ SMap.get 0 q.arrived k = SMap.get 0 l.arrived k + 1 ∧ q.phase = l.phase ∧
        q.expected = l.expected ∧ q.membersOf k = if drop then (l.membersOf k).erase s.curCore else l.membersOf k)
    (s.launchOf s.curCore = some l → arrives (.arrive st n) false ∧ arrives (.arvdrop st n) true) ∧
    (SMap.get false s.me.ever k = false → GivesG (.wait st d n) s 4 d 0) ∧
    (SMap.get false s.me.ever k = true → arrived → Waits (.wait st d n) s (.barrier k)) ∧
    (SMap.get false s.me.ever k = true → ¬arrived → GivesG (.wait st d n) s 4 d ((SMap.get (0 : BitVec 32) s.me.last k + 1).setWidth 64)) ∧
    (LaunchIs s p lid l → l.active = true → SMap.get 0 l.expected k ≠ 0 → SMap.get 0 l.arrived k = SMap.get 0 l.expected k →
      Answers (.barrierPhaseCompletion p lid n) s fun t =>
        (∀ cn ∈ l.cores, SMap.get false (t.core cn).arr k = false ∧ (t.core cn).mem = (s.core cn).mem) ∧
        (∀ cn, cn ∉ l.cores → t.core cn = s.core cn) ∧ t.gmem = s.gmem ∧
        ∃ q, LaunchIs t p lid q ∧ q.phaseOf k = l.phaseOf k + 1 ∧ SMap.get 0 q.arrived k = 0 ∧
          SMap.get 0 q.expected k = (l.membersOf k).length ∧ ∀ j, j ≠ k → q.phaseOf j = l.phaseOf j) ∧
    (LaunchIs s p lid l → s.deadlocked l = true → Answers (.deadlock p lid) s fun t =>
      MemSame s t ∧ ∀ cn ∈ l.cores, ∃ r ∈ (t.core cn).trap.queue, r.cause = 0x16 ∧ r.async = true ∧ r.cn = cn)

/-- R168 to R171, R326: a fence waits for the transactions in its scope, for its fetching transactions, or for its place in
the order of FENCE.SC, and then changes nothing; a reserved scope is a RESERVED_FIELD. -/
def Obligations.Fences : Prop :=
  ∀ (st c : BitVec 3) (cn : CoreNo) (k : BitVec 4) (s : State) (l : Launch),
    let pending := ∃ x ∈ s.me.txs, x.ctx = s.curCtx ∧ x.copy = none ∧ x.kind ≠ 5 ∧ s.inScope s.curCore c.toNat x.home = true
    let replies := ∃ x ∈ s.me.txs, x.ctx = s.curCtx ∧ x.fetch = true
    let who := (cn.toNat, k.toNat)
    (6 ≤ c.toNat → ∀ i ∈ [Instr.fence st c, .fenceAcq st c, .fenceRel st c, .fenceSc st c], Traps i s { cause := 0x02 }) ∧
    (c.toNat < 6 →
      (pending → Waits (.fence st c) s (.release c.toNat)) ∧
      (¬pending → replies → Waits (.fence st c) s .replies) ∧
      (¬pending → ¬replies → GivesNothing (.fence st c) s 4) ∧
      (replies → Waits (.fenceAcq st c) s .replies) ∧
      (¬replies → GivesNothing (.fenceAcq st c) s 4) ∧
      (pending → Waits (.fenceRel st c) s (.release c.toNat)) ∧
      (¬pending → GivesNothing (.fenceRel st c) s 4) ∧
      (s.cx.wait = .ordered → GivesNothing (.fenceSc st c) s 4) ∧
      (s.cx.wait ≠ .ordered → pending → Waits (.fenceSc st c) s (.release c.toNat)) ∧
      (s.cx.wait ≠ .ordered → ¬pending → s.launchOf s.curCore = some l → Answers (.fenceSc st c) s fun t =>
        t.cx.wait = .order ∧ t.cx.pc = s.cx.pc ∧ MemSame s t ∧ RegsSameBut s t [] ∧
        ∃ q, t.launchOf s.curCore = some q ∧ q.fences = l.fences ++ [(s.curCore, s.curCtx)])) ∧
    (s.launchOf cn.toNat = some l → who ∈ l.fences → Answers (.fenceScOrderFixed cn k) s fun t =>
      MemSame s t ∧ (((s.core cn.toNat).cx k.toNat).wait = .order → ((t.core cn.toNat).cx k.toNat).wait = .ordered) ∧
      (∀ j, j ≠ cn.toNat → t.core j = s.core j) ∧ ∃ q, t.launchOf cn.toNat = some q ∧ q.fences = l.fences.erase who)

/-- R136, R181, R183, R193, R310, R327 to R329: genend: its checks in their order, its waits, the flush of its accumulator, and its
arrival with FIT and the region descriptors; genq; migrate, which holds one export for the next boundary (it is pending until it sets
out: log entry 80, the model's choice). -/
def Obligations.GroupInstructions : Prop :=
  ∀ (st : BitVec 3) (d a q : BitVec 5) (s : State),
    let A := s.readG a
    let i := Instr.genend st
    let ranks := ((s.launchOf s.curCore).map fun l => (l.rank, l.ranks)).getD (0, 1)
    let activation := ∃ k, 1 ≤ k ∧ k ≤ 10 ∧ (s.me.cx k).live = true
    let again := s.cx.wait = .quiet ∨ s.cx.wait = .router ∨ ∃ key, s.cx.wait = .window key
    let fresh := ¬again ∧ s.cx.wait ≠ .merges ∧ s.cx.wait ≠ .shawm
    let rank := (A.extractLsb' 16 32).toNat
    let j := A.toNat % 32
    (fresh → s.curCtx ≠ 0 → Traps i s { cause := 0x06 }) ∧
    (fresh → s.curCtx = 0 → s.me.groupNo = none → Traps i s { cause := 0x0B }) ∧
    (∀ n g, s.me.groupNo = some n → s.group n = some g → s.curCtx = 0 →
      (fresh → activation → Traps i s { cause := 0x0C }) ∧
      (fresh → ¬activation → ∀ r, s.badRegion = some r →
        Traps i s { cause := 0x0D, addr := .ofNat 64 (0x1000 + 32 * r.index), info0 := r.index }) ∧
      ((fresh ∧ ¬activation ∧ s.badRegion = none) ∨ (again ∧ s.me.control.selOff = true) →
        (s.me.txs ≠ [] ∨ s.me.copies ≠ [] ∨ s.me.halos ≠ 0 → Answers i s fun t =>
          t.cx.wait = .quiet ∧ t.cx.pc = s.cx.pc ∧ t.me.control.selOff = true ∧ MemSame s t ∧ RegsSameBut s t [] ∧ t.me.stats = s.me.stats) ∧
        (s.me.txs = [] → s.me.copies = [] → s.me.halos = 0 → s.me.stats ≠ [] → s.me.choked = true → Answers i s fun t =>
          t.cx.wait = .router ∧ t.cx.pc = s.cx.pc ∧ t.me.control.selOff = true ∧ MemSame s t ∧ t.me.stats = s.me.stats) ∧
        (s.me.txs = [] → s.me.copies = [] → s.me.halos = 0 → s.me.stats.length + s.me.flushes ≠ 0 → s.me.stats = [] ∨ s.me.choked = false →
          (∀ key, s.me.stats.length ≤ s.me.window_ key) → Answers i s fun t =>
          t.cx.wait = .merges ∧ t.cx.pc = s.cx.pc ∧ t.me.control.selOff = true ∧ MemSame s t ∧ t.me.stats = [] ∧
          t.me.flushes = s.me.flushes + s.me.stats.length ∧ t.me.txs.length = s.me.stats.length) ∧
        (s.me.txs = [] → s.me.copies = [] → s.me.halos = 0 → s.me.stats = [] → s.me.flushes = 0 → Answers i s fun t =>
          t.cx.wait = .shawm ∧ t.cx.pc = s.cx.pc ∧ t.me.control.selOff = true ∧ MemSame s t ∧ RegsSameBut s t [] ∧
          ∃ g', t.group n = some g' ∧ g'.fits = SMap.put g.fits s.curCore s.me.fit.toNat ∧
            g'.descs = SMap.put g.descs s.curCore s.me.regionDws ∧ g'.held = g.held ∧ g'.members = g.members))) ∧
    (6 < q.toNat → Traps (.genq st d q) s { cause := 0x02 }) ∧
    GivesG (.genq st d 0) s 4 d s.me.gen ∧
    (s.me.groupNo = none → 0 < q.toNat → q.toNat ≤ 6 → Traps (.genq st d q) s { cause := 0x0B }) ∧
    (∀ n g, s.me.groupNo = some n → s.group n = some g →
      GivesG (.genq st d 1) s 4 d (g.dws.getD 0 0) ∧ GivesG (.genq st d 2) s 4 d (g.dws.getD 1 0) ∧
      GivesG (.genq st d 3) s 4 d (g.dws.getD 2 0) ∧ GivesG (.genq st d 4) s 4 d (g.dws.getD 3 0) ∧
      GivesG (.genq st d 5) s 4 d g.logidx ∧ GivesG (.genq st d 6) s 4 d (.ofNat 64 g.held.length)) ∧
    (s.curCtx ≠ 0 → Traps (.migrate st d a) s { cause := 0x06 }) ∧
    (s.curCtx = 0 → s.me.groupNo = none → Traps (.migrate st d a) s { cause := 0x0B }) ∧
    (∀ n g, s.curCtx = 0 → s.me.groupNo = some n → s.group n = some g →
      let size := g.members.length
      (j = 0 ∨ min 16 (size / 2) < j → Traps (.migrate st d a) s { cause := 0x0E }) ∧
      (0 < j → j ≤ min 16 (size / 2) →
        (rank = ranks.1 ∨ ranks.2 ≤ rank → Traps (.migrate st d a) s { cause := 0x41 }) ∧
        (rank ≠ ranks.1 → rank < ranks.2 → s.capMissing (.ofNat 64 (2 ^ 62 + rank * 2 ^ 16)) 13 = true →
          Traps (.migrate st d a) s { cause := 0x46 }) ∧
        (rank ≠ ranks.1 → rank < ranks.2 → s.capMissing (.ofNat 64 (2 ^ 62 + rank * 2 ^ 16)) 13 = false →
          (g.export_ ≠ none → GivesG (.migrate st d a) s 4 d 0) ∧
          (g.export_ = none → GivesGAfter (.migrate st d a) s
            (s.setGroup n { g with export_ := some ⟨rank, A.toNat / 256 % 64, j, s.slkOf 0⟩ }) 4 d 1))))

/-- R138, R184, R187, R190, R194: the boundary of a group whose members have all arrived: the k best genomes replace the k worst
that immigrants leave, region by region (opaque bytes unchanged), and no other byte of any core changes; the resumption of
its members, with the event message of a group with EVEN = 1 placed in the inbox or on its way; and an arriving batch, whose
requests are all there, which is held or refused, and whose requests are answered. The model's choices: a transfer moves bytes as they
stand, bad doublewords and protected lines included (log entry 53), and the layout of a batch and of its requests on the wire (log
entry 62). -/
def Obligations.GenerationEvents : Prop :=
  ∀ (g : BitVec 6) (im : Batch) (s : State) (q : Group),
    let n := q.members.length
    let js := q.counted
    let k := min q.k ((n - js) / 2)
    let place := fun i : Nat => q.ranked.getD i 0
    (∀ l, s.group g.toNat = some q → s.launch? q.part q.lid = some l → l.active = true → q.full = true → q.transferred = false →
      q.suspended = false → q.reading = none → q.begun = false → q.members.Nodup → q.counted ≤ q.held.length → q.held.length ≤ n / 2 →
      let regions := fun cn : Nat => validRegions (SMap.get [] q.descs cn) l.rcount
      let ids := (q.members.flatMap fun cn => (regions cn).filterMap fun r => if r.recen then some r.recid else none).eraseDups
      (∀ va u, s.readRecords l ids = (.error va, u) → exec (.generationBoundary g) s = .next (u.suspendRead g.toNat q va)) ∧
      (∀ m u, s.readRecords l ids = (.ok m, u) → Answers (.generationBoundary g) s fun t =>
        (∃ q', t.group g.toNat = some q' ∧ q'.begun = true ∧ q'.members = q.members ∧ q'.held = q.held.drop js ∧
          (q'.suspended = false → q'.transferred = true)) ∧
        (∀ i < k, ∀ r ∈ regions (place (n - js - 1 - i)), r.fmt = 0 →
          Holds (t.core (place (n - js - 1 - i))).mem r.base (Memory.read (s.core (place i)).mem r.base r.len)) ∧
        (∀ cn, (∀ i < k, cn ≠ place (n - js - 1 - i)) → (∀ i < js, cn ≠ place (n - js + i)) → (t.core cn).mem = (s.core cn).mem) ∧
        (∀ cn a, (∀ r ∈ regions cn, a < r.base ∨ r.base + r.len ≤ a) → Memory.byte (t.core cn).mem a = Memory.byte (s.core cn).mem a))) ∧
    (s.group g.toNat = some q → q.transferred = true → s.shawmFlushing q.part q.lid = false → q.members.Nodup →
      Answers (.generationResumption g) s fun t =>
        (∀ cn ∈ q.members,
          let c := s.core cn
          let x := (t.core cn).cx 0
          let r := (q.roles.find? fun r => r.cn == cn).getD ⟨cn, 0, 0, 0, false⟩
          let gen := (wfld c.gen 0 32 + 1) % 2 ^ 32
          let ev := gen * 2 ^ 32 + r.role * 2 ^ 30 + (if r.ovf then 2 ^ 29 else 0) + q.migst * 2 ^ 27 +
            (if 8 ≤ c.q2.length then 2 ^ 26 else 0) + r.peer
          let m : Msg := { chan := q.evchan, tag := gen % 65536, bytes := leBytes 8 ev, src := sourceId 3 (s.jobRank cn) 0 }
          let room := s.inbufRoom cn m = true ∧ (c.part = .prepared ∨ c.part = .running)
          let goes := room ∧ c.control.dstop = false ∧ ∀ y ∈ c.inbuf, y.chan ≠ m.chan
          wfld (t.core cn).gen 0 32 = gen ∧ wfld (t.core cn).gen 32 32 = wfld c.gen 32 32 ∧ (t.core cn).control.selOff = false ∧
          (q.even = false → (t.core cn).mem = c.mem ∧ (t.core cn).inbuf = c.inbuf) ∧
          (q.even = true →
            (s.inbufRoom cn m = false → (t.core cn).mem = c.mem ∧ ∃ e ∈ t.net, e.2.home = .core cn ∧ e.2.body = .message m) ∧
            (¬goes → (t.core cn).mem = c.mem) ∧
            (room → ¬goes → (t.core cn).inbuf = c.inbuf ++ [{ m with arrival := c.arrivals }]) ∧
            (goes → (∀ a, c.placement m.chan 8 ≠ .at_ a) → (t.core cn).mem = c.mem) ∧
            ∀ a, goes → c.placement m.chan 8 = .at_ a → Holds (t.core cn).mem a m.bytes ∧
              (t.core cn).placed = c.placed ++ [(a, { m with arrival := c.arrivals })] ∧
              ∀ b, b < a ∨ a + 8 ≤ b → b < 0x800 ∨ 0x1000 ≤ b ∨ b % 32 < 24 → Memory.byte (t.core cn).mem b = Memory.byte c.mem b) ∧
          (t.core cn).q2 = (if 8 ≤ c.q2.length then c.q2.drop 1 else c.q2) ++ [.ofNat 64 ev] ∧
          ((c.cx 0).wait = .shawm → x.rg 1 = .ofNat 64 r.role ∧ x.rg 2 = r.peerId ∧ x.pc = (c.cx 0).pc + 4 ∧ x.wait = .none)) ∧
        (∀ cn, cn ∉ q.members → t.core cn = s.core cn) ∧ t.gmem = s.gmem ∧
        ∃ q', t.group g.toNat = some q' ∧ q'.fits = [] ∧ q'.transferred = false ∧ q'.begun = false ∧ q'.members = q.members ∧
          q'.held = q.held ∧ q'.logidx = q.logidx + .ofNat 64 (q.roles.filter fun r => r.role == 1 || r.role == 3).length) ∧
    (∀ (p : Packet) rank pkg first len ws (es : List (Nat × Packet)) (wss : List (List Word)), p.body = .immigrants first 0 len ws →
      p.remote = some (rank, pkg) → p.reply = false → p.home = .core p.dcn → es.length = max 1 len → wss.length = es.length →
      let same := fun r : Packet => r.reply = false ∧ r.cn = p.cn ∧ r.part = p.part ∧ r.remote = p.remote ∧ r.home = p.home
      (∀ k e us, es[k]? = some e → wss[k]? = some us → e ∈ s.net ∧ same e.2 ∧ e.2.body = .immigrants first k len us ∧
        ∀ e' ∈ s.net, same e'.2 → (∃ vs, e'.2.body = .immigrants first k len vs) → e' = e) →
      s.batchOf p = some (readBatch rank wss.flatten, es)) ∧
    (∀ part es, s.net.findSome? (fun e => (s.batchOf e.2).bind fun r => if r.1 = im then some (e.2.part, r.2) else none) = some (part, es) →
      s.batchWaits part im = false → (∀ e ∈ es, e.2.marked = false) →
      let b := im.group.toNat
      let ends := fun (st : Nat) (P : State → Prop) => Answers (.immigrantBatch im) s fun t =>
        P t ∧ t.cores = s.cores ∧ t.gmem = s.gmem ∧ ∃ fs : List Issuer, es.map (fun e => e.2.issuer) = fs.map some ∧
          t.filter = s.filter ++ fs.map (fun f => (filterKey f.part f.pkg f.rank, f.cn, f.seq, st, [])) ∧
          t.nextPkt = s.nextPkt + es.length ∧ ∀ j f, fs[j]? = some f → (∀ e ∈ es, e.1 ≠ s.nextPkt + j) →
            ∃ r, listed t.net (s.nextPkt + j) = some r ∧ r.home = .remote f.rank ∧ r.cn = f.cn ∧ r.seq = f.seq ∧ r.reply = true ∧
              r.body = .reply st []
      let refused := fun st => ends st fun t => t.groups = s.groups
      (s.group b = none → refused 4) ∧
      (s.group b = some q →
        (q.part ≠ part → refused 4) ∧
        (q.part = part → wbit (s.ipOf 0x04C) 13 = false → refused 2) ∧
        (q.part = part → wbit (s.ipOf 0x04C) 13 = true →
          (q.migin = false ∨ n / 2 < q.held.length + im.members.length → refused 4) ∧
          (q.migin = true → q.held.length + im.members.length ≤ n / 2 → ends 0 fun t => t.group b = some
            { q with held := q.held ++ im.members.map fun m => (im.srank.toNat, im.sgroup.toNat, im.sgen.toNat, m) }))))

/-! ### Traps (spec 17, R340 to R361) -/

/-- R343 to R346, R349 to R351, R355: taking an exception. The issuing context is held at its instruction; CT of an idle core
takes the record at once, at TVEC, with TCAUSE, TPC and FREC written; a busy CT leaves it waiting; in CT itself the core halts and M
receives DOUBLE_TRAP with the cause in DETAIL0 and nothing of the cause's own, or MACHINE_CHECK for a bad register. TRAP_ENTRY
gives CT the next record: precise ones first, then the queue. -/
def Obligations.TrapEntryRules : Prop :=
  ∀ (r : FaultRec) (cn : CoreNo) (s : State),
    let x := s.cx
    let z := s.located r
    let t := s.raise r
    let C := t.me.trap.tcause
    let c := s.core cn.toNat
    let takes := fun (c c' : Core) (r : FaultRec) =>
      c'.trap.busy = true ∧ c'.trap.tpc = .ofNat 22 r.pc ∧ (∀ k < 8, SMap.get 0 c'.trap.frec k = r.dws.getD k 0) ∧
      (c'.cx 11).live = true ∧ (c'.cx 11).pc = c.trap.tvec.setWidth 64 ∧ (c'.cx 11).wait = .none ∧ c'.mem = c.mem
    z.pc = x.pc.toNat % 2 ^ 22 ∧ z.ctx = s.curCtx ∧ z.cn = s.curCore ∧ z.lid = s.lidOf s.curCore ∧ z.pp = x.pp ∧
    z.word = (s.me.insnAt x.pc.toNat).1 ∧ z.w32 = (s.me.insnAt x.pc.toNat).2 ∧ z.cause = r.cause ∧ z.addr = r.addr ∧
    MemSame s t ∧ (∀ j, j ≠ s.curCore → t.core j = s.core j) ∧
    t.me.trap.hwUnc = s.me.trap.hwUnc + (if countsUnc r.cause then 1 else 0) ∧
    (s.isS = false →
      t.cx.held = true ∧ t.cx.wait = .none ∧ t.cx.pc = x.pc ∧ t.cx.stat = x.stat ∧ t.cx.pfx = x.pfx ∧ RegsSameBut s t [] ∧
      (s.me.trap.busy = true → t.me.trap.precise = s.me.trap.precise ++ [z] ∧ t.me.trap.frec = s.me.trap.frec ∧
        t.me.trap.tcause = s.me.trap.tcause ∧ t.me.trap.tpc = s.me.trap.tpc ∧ t.me.cx 11 = s.me.cx 11) ∧
      (s.me.trap.busy = false → takes s.me t.me z ∧ (∀ j, j ≠ s.curCtx → j ≠ 11 → t.me.cx j = s.me.cx j) ∧
        (s.curCtx ≤ 10 → r.async = false → r.cause < 256 → wfld C 0 53 = r.cause ∧ wfld C 54 4 = s.curCtx ∧
          wbit C 53 = z.w32 ∧ wfld C 58 6 = 0))) ∧
    (s.isS = true → t.me.control.halted = true ∧ t.cx = x ∧
      (r.cause ≠ 0xA5 → t.mgmt.records = s.mgmt.records ++ [(s.curCore,
        { z with cause := 0xAC, addr := 0, info0 := 0, info1 := 0, info2 := 0, detail0 := .ofNat 64 r.cause, detail1 := 0 })]) ∧
      (r.cause = 0xA5 → t.mgmt.records = s.mgmt.records ++ [(s.curCore, { cause := 0xAB, cn := s.curCore, lid := s.lidOf s.curCore })])) ∧
    (c.trap.busy = false → c.control.halted = false →
      (∀ p ps, c.trap.precise = p :: ps → Answers (.trapEntry cn) s fun t =>
        takes c (t.core cn.toNat) p ∧ (t.core cn.toNat).trap.precise = ps ∧ (t.core cn.toNat).trap.queue = c.trap.queue ∧
          OnlyCore s t cn.toNat) ∧
      (∀ p ps, c.trap.precise = [] → c.trap.queue = p :: ps → Answers (.trapEntry cn) s fun t =>
        takes c (t.core cn.toNat) p ∧ (t.core cn.toNat).trap.queue = ps ++ c.trap.late.take (if roomFor ps then 1 else 0) ∧
          (t.core cn.toNat).trap.late = c.trap.late.drop (if roomFor ps then 1 else 0) ∧ OnlyCore s t cn.toNat))

/-- R343, R357: tret ends the handling of a record: the context that the record names goes on at TPC unless HOLD is given or
the record names none; TPC moved gives up the pending prefix and WS; a watch lets the instruction execute (WS set). With
another record ready, a precise one or else the first of the queue, CT takes it at once. A core on which a stop was requested queues
STOP_REQUEST first (R379). What a divergence asks of the core, and when REPLAY_DIVERGE is queued, is log entry 59, the model's
choice. -/
def Obligations.TrapReturn : Prop :=
  ∀ (st : BitVec 3) (a : BitVec 5) (s : State),
    let T := s.me.trap
    let r0 := SMap.get (0 : Word) T.frec 0
    let cause := wfld r0 56 8
    let k := wfld T.tcause 54 4
    let keeps := wbit T.tcause 62 = true ∨ (s.readG a).getLsbD 0 = true
    let moved := T.tpc.toNat ≠ wfld r0 0 22
    let watch := cause = 0xA1 ∨ cause = 0xA2
    s.isS = true → Answers (.tret st a) s fun t =>
      let x := s.me.cx k
      let y := t.me.cx k
      MemSame s t ∧ OnlyCore s t s.curCore ∧
      (keeps → ∀ j < 11, t.me.cx j = s.me.cx j) ∧
      (¬keeps → k < 11 → y.held = false ∧ y.pc = T.tpc.setWidth 64 ∧ y.wait = .none ∧ y.g = x.g ∧ y.v = x.v ∧ y.p = x.p ∧
        (moved → y.stat = clearPend x.stat ∧ y.pfx = 0) ∧
        (¬moved → y.pfx = x.pfx ∧ (¬watch → y.stat = x.stat) ∧ (watch → y.stat = setFld x.stat 15 1 1)) ∧
        ∀ j, j < 11 → j ≠ k → t.me.cx j = s.me.cx j) ∧
      (cause = 0x15 → t.me.control.stopped = true) ∧
      (cause = 0xA4 → t.me.control.diverged = false ∧ (s.me.control.dreq = false → t.me.control.dstop = false)) ∧
      (cause ≠ 0x15 → cause ≠ 0xA4 → t.me.control = s.me.control) ∧
      (T.precise = [] → T.queue = [] → t.me.trap = { T with busy := false } ∧ t.cx.live = false) ∧
      (let takes := fun r : FaultRec => t.me.trap.busy = true ∧ t.me.trap.tpc = .ofNat 22 r.pc ∧ t.cx.live = true ∧
         t.cx.pc = T.tvec.setWidth 64 ∧ t.cx.wait = .none ∧ ∀ j < 8, SMap.get 0 t.me.trap.frec j = r.dws.getD j 0
       (∀ r rs, T.precise = r :: rs → takes r ∧ t.me.trap.precise = rs ∧ t.me.trap.queue = T.queue) ∧
       (∀ r rs, T.precise = [] → T.queue = r :: rs → takes r ∧
         t.me.trap.queue = rs ++ T.late.take (if roomFor rs then 1 else 0) ∧ t.me.trap.late = T.late.drop (if roomFor rs then 1 else 0)))

/-- R359 to R361, R392: what the trap context does to its core: xrd and xwr of every register file and of the special
registers, with their faults; eresume and eabort of a suspended operation; xinv. -/
def Obligations.TrapContextAccess : Prop :=
  ∀ (st : BitVec 3) (d a b : BitVec 5) (s : State),
    let k := (s.readG a).toNat % 16
    let file := (s.readG b).toNat / 2 ^ 16 % 8
    let sel := (s.readG b).toNat % 2 ^ 16
    let n := sel % 32
    let j := sel / 32 % 32
    let w := s.readG d
    let x := s.me.cx k
    let bad := 11 < k ∨ 5 < file ∨ ((file = 2 ∨ file = 3) ∧ 7 < n) ∨ (file = 4 ∧ 3 < n)
    let base := if file = 0 then keyG n else if file = 1 then keyV n else if file = 2 then keyP n else if file = 3 then keyE n else keyB n
    let ecc := base * 32 + (if file = 1 then j else 0)
    let rd := Instr.xrd st d a b
    let wr := Instr.xwr st d a b
    let opk := (s.readG a).toNat / 2 ^ 16 % 16
    let id := (s.readG a).toNat % 2 ^ 16
    let vreg := fun x : Ctx => SMap.get (0 : VReg) x.v n
    (bad → Traps rd s { cause := 0x11 } ∧ Traps wr s { cause := 0x11 }) ∧
    (¬bad → file = 5 →
      GivesG rd s 4 d (s.special s.curCore k (sel % 4096)) ∧
      (readOnlySpecial (sel % 4096) = true → Traps wr s { cause := 0x08 }) ∧
      (readOnlySpecial (sel % 4096) = false →
        (k ≠ s.curCtx → GivesAfter wr s (s.setSpecial s.curCore k (sel % 4096) w true true) 4) ∧
        (k = s.curCtx → sel % 4096 ≠ 0x008 → sel % 4096 ≠ 0x803 → GivesAfter wr s (s.setSpecial s.curCore k (sel % 4096) w true true) 4) ∧
        (k = s.curCtx → sel % 4096 = 0x008 → Answers wr s fun t => OnlyContext s t ∧ RegsSameBut s t [] ∧ t.cx.pc = s.cx.pc + 4 ∧
          ∀ b ∈ [14, 15], t.cx.stat.getLsbD b = w.getLsbD b) ∧
        (k = s.curCtx → sel % 4096 = 0x803 → pfxLegal (w.extractLsb' 18 4) (w.extractLsb' 17 1) (w.extractLsb' 13 4)
            (w.extractLsb' 12 1) (w.extractLsb' 9 3) (w.extractLsb' 8 1) = true →
          Answers wr s fun t => OnlyContext s t ∧ RegsSameBut s t [] ∧ t.cx.pc = s.cx.pc + 4 ∧ t.cx.pfx = w.extractLsb' 8 14))) ∧
    (¬bad → file ≠ 5 →
      (ecc ∈ x.bad → GivesGAfter rd s (s.modMe fun c =>
        { c with trap := { c.trap with tcause := setFld c.trap.tcause 61 1 1, hwUnc := c.trap.hwUnc + 1 } }) 4 d 0) ∧
      (ecc ∉ x.bad →
        (file = 0 → GivesG rd s 4 d (x.rg n)) ∧ (file = 1 → GivesG rd s 4 d ((vreg x).extractLsb' (64 * j) 64)) ∧
        (file = 2 → GivesG rd s 4 d (x.rp n)) ∧ (file = 3 → GivesG rd s 4 d (SMap.get 0 x.e n)) ∧
        (file = 4 → GivesG rd s 4 d (SMap.get 0 x.b n))) ∧
      Answers wr s fun t =>
        let y := t.me.cx k
        MemSame s t ∧ OnlyCore s t s.curCore ∧ t.cx.pc = s.cx.pc + 4 ∧ ecc ∉ y.bad ∧ (∀ i, i ≠ k → i ≠ s.curCtx → t.me.cx i = s.me.cx i) ∧
        (file = 0 → y.rg n = (if n = 0 then 0 else w) ∧ (∀ i, i ≠ n → y.rg i = x.rg i) ∧ y.v = x.v ∧ y.p = x.p ∧ y.e = x.e ∧ y.b = x.b) ∧
        (file = 1 → (∀ i < 32, (vreg y).extractLsb' (64 * i) 64 = if i = j then w else (vreg x).extractLsb' (64 * i) 64) ∧
          (∀ i, i ≠ n → SMap.get 0 y.v i = SMap.get 0 x.v i) ∧ y.g = x.g ∧ y.p = x.p ∧ y.e = x.e ∧ y.b = x.b) ∧
        (file = 2 → y.rp n = (if n = 0 then .allOnes 64 else w) ∧ (∀ i, i ≠ n → y.rp i = x.rp i) ∧ y.g = x.g ∧ y.v = x.v) ∧
        (file = 3 → SMap.get 0 y.e n = w ∧ (∀ i, i ≠ n → SMap.get 0 y.e i = SMap.get 0 x.e i) ∧ y.g = x.g ∧ y.v = x.v) ∧
        (file = 4 → SMap.get 0 y.b n = w ∧ (∀ i, i ≠ n → SMap.get 0 y.b i = SMap.get 0 x.b i) ∧ y.g = x.g ∧ y.v = x.v)) ∧
    (opk = 0 →
      (let there := ∃ o ∈ s.me.copies, o.id = id ∧ o.phase = .suspended
       let after := fun f : CopyPhase => s.modMe fun c =>
         { c with copies := c.copies.map fun o => if o.id = id ∧ o.phase = .suspended then { o with phase := f } else o }
       (¬there → Traps (.eresume st a) s { cause := 0x12 } ∧ Traps (.eabort st a) s { cause := 0x12 }) ∧
       (there → GivesAfter (.eresume st a) s (after .running) 4 ∧ GivesAfter (.eabort st a) s (after (.stopped 2)) 4))) ∧
    (opk ≠ 0 → Traps (.eabort st a) s { cause := 0x12 }) ∧
    (opk = 1 → (s.suspendedGroup s.curCore id = none → Traps (.eresume st a) s { cause := 0x12 }) ∧
      (∀ m q, s.suspendedGroup s.curCore id = some (m, q) →
        GivesAfter (.eresume st a) s (s.setGroup m { q with suspended := false }) 4)) ∧
    (2 ≤ opk →
      ((∀ o ∈ s.me.susp, ¬(o.opkind = opk ∧ o.opid = id)) → Traps (.eresume st a) s { cause := 0x12 }) ∧
      (∀ o ∈ s.me.susp, o.opkind = opk → o.opid = id → ∃ u, GivesAfter (.eresume st a) s u 4 ∧
        u = (s.modMe fun c => { c with susp := u.me.susp }) ∧
        ∀ z, z ∈ u.me.susp ↔ z ∈ s.me.susp ∧ ¬(z.opkind = opk ∧ z.opid = id))) ∧
    (let all := (s.readG a).getLsbD 63 = true
     let drops := fun e : XEntry => e.asid = id ∧ (all ∨ (s.readG b).toNat % 2 ^ 48 / 2 ^ e.log2 = e.page)
     ∃ u, GivesAfter (.xinv st a b) s u 4 ∧ MemSame s u ∧ (∀ cn, cn ≠ s.curCore → u.core cn = s.core cn) ∧
       (∀ e, e ∈ u.me.xcache ↔ e ∈ s.me.xcache ∧ ¬drops e) ∧
       ∀ sl ∈ u.slices, ∀ e ∈ sl.2, ¬drops e)

/-! ### Messages at a core (spec 01, R33 to R40; spec 05, R114 to R116) -/

/-- R33 to R37, R40, R68, R116: a message of this package enters the input buffer and is placed at the place that its channel's
mode gives, or is discarded, or stays; a held message is placed later, and a placement that finds an uncorrectable entry, at the arrival or
later, is reported (log entry 71); a selection starts the lowest-numbered free context on the
oldest message of the chosen channel; a host wake is latched by every context. PEND modulo 65,536 is log entry 70, the model's choice. -/
def Obligations.MessageEvents : Prop :=
  ∀ (i : Nat) (cn : CoreNo) (ch : BitVec 6) (s : State),
    let c := s.core cn.toNat
    let placed := fun (t : State) (m : Msg) (ad : Nat) =>
      let c' := t.core cn.toNat
      c'.placed = c.placed ++ [(ad, m)] ∧ Holds c'.mem ad m.bytes ∧
      (∀ b, b < 0x800 ∨ 0x1000 ≤ b ∨ b % 32 < 24 → b < ad ∨ ad + m.bytes.length ≤ b → Memory.byte c'.mem b = Memory.byte c.mem b) ∧
      c'.pend m.chan = (c'.placed.filter fun e => e.2.chan == m.chan).length % 65536 ∧
      c'.writePtr m.chan = (ad + slotSize m.bytes.length) % 2 ^ 22 ∧ t.gmem = s.gmem
    let room := (c.trap.queue.filter fun q => !keptCause q.cause).length < 12
    (∀ p m, s.packet i = some p → p.body = .message m → p.home = .core cn.toNat → p.remote = none → m.chan < 64 →
      (∀ e ∈ s.net, e.1 < i → e.2.message? m.chan = true → e.2.cn = p.cn → e.2.ctx = p.ctx → e.2.home = p.home → e.2.remote = none → False) →
      s.inbufRoom cn.toNat m = true →
      let m' := { m with arrival := c.arrivals }
      (s.door p cn.toNat = .accept → c.part ≠ .none → c.part ≠ .ended → c.control.dstop = false →
        (∀ e ∈ c.inbuf, e.chan ≠ m.chan) →
        (∀ ad, c.placement m.chan m.bytes.length = .at_ ad → Answers (.messageArrival i) s fun t =>
          placed t m' ad ∧ (t.core cn.toNat).inbuf = c.inbuf ∧ (t.core cn.toNat).arrivals = c.arrivals + 1) ∧
        (c.placement m.chan m.bytes.length = .held → Answers (.messageArrival i) s fun t =>
          (t.core cn.toNat).inbuf = c.inbuf ++ [m'] ∧ (t.core cn.toNat).placed = c.placed ∧ MemSame s t) ∧
        (c.placement m.chan m.bytes.length = .badEntry → Answers (.messageArrival i) s fun t =>
          (t.core cn.toNat).inbuf = c.inbuf ++ [m'] ∧ (t.core cn.toNat).placed = c.placed ∧ MemSame s t ∧
            (room → Queued s t cn.toNat 0xA7)) ∧
        (c.placement m.chan m.bytes.length = .undeliverable → Answers (.messageArrival i) s fun t =>
          (t.core cn.toNat).inbuf = c.inbuf ∧ (t.core cn.toNat).placed = c.placed ∧ MemSame s t)) ∧
      (s.door p cn.toNat ≠ .hold → c.part = .ended → Answers (.messageArrival i) s fun t =>
        (t.core cn.toNat).inbuf = c.inbuf ∧ (t.core cn.toNat).placed = c.placed ∧ MemSame s t)) ∧
    (∀ m ad, c.inbuf.find? (fun m => m.chan == ch.toNat) = some m → c.control.dstop = false →
      c.placement ch.toNat m.bytes.length = .at_ ad → Answers (.heldMessagePlacement cn ch) s fun t =>
        placed t m ad ∧ (t.core cn.toNat).inbuf = c.inbuf.erase m) ∧
    (∀ m, c.inbuf.find? (fun m => m.chan == ch.toNat) = some m → c.control.dstop = false →
      c.placement ch.toNat m.bytes.length = .badEntry → Answers (.heldMessagePlacement cn ch) s fun t =>
        (t.core cn.toNat).inbuf = c.inbuf ∧ (t.core cn.toNat).placed = c.placed ∧ MemSame s t ∧ (room → Queued s t cn.toNat 0xA7)) ∧
    (∀ h k m ad, c.selectionDue = true → c.choose = some h → c.freeCtx = some k → c.oldest h = some (ad, m) →
      c.badIn (0x800 + 32 * h) 32 = false → Unlogged s cn.toNat → Answers (.selection cn) s fun t =>
        let x := (t.core cn.toNat).cx k
        x.live = true ∧ x.pc = .ofNat 64 (c.entryPc h) ∧ x.rg 1 = .ofNat 64 ad ∧ x.rg 2 = .ofNat 64 m.bytes.length ∧ x.rg 3 = m.src ∧
        x.rg 4 = .ofNat 64 m.tag ∧ (∀ n, 4 < n → x.rg n = 0) ∧ x.kind = 1 ∧ x.pri.toNat = c.chanPri h ∧ x.chan.toNat = h ∧
        x.q1 = dwords m.bytes ∧ x.slot = some ⟨h, ad, slotSize m.bytes.length⟩ ∧
        (t.core cn.toNat).placed = c.placed.erase (ad, m) ∧ SMap.get 0 (t.core cn.toNat).ptr (c.chanPri h) = (h + 1) % 64 ∧
        (∀ j, j ≠ k → (t.core cn.toNat).cx j = c.cx j) ∧ SameButStatus c.mem (t.core cn.toNat).mem ∧ OnlyCore s t cn.toNat) ∧
    (s.onMesh cn.toNat = true → Answers (.hostWake cn) s fun t =>
      OnlyCore s t cn.toNat ∧ (t.core cn.toNat).mem = c.mem ∧
      ∀ k < 12, ((t.core cn.toNat).cx k).latched = (c.cx k).latched ||| 0x40)

/-! ### Requests at their homes, and answers (spec 05, R117 to R138; spec 14, R316 to R321) -/

/-- R118 to R121, R132, R140, R166, R316, R355: PUTs, integer atomics and floating-point updates at a core and in global memory, with
no earlier request of their context to the same bytes in flight: the new value, every other byte as it was, and the answer with its
status and slack: 4 for what is refused, 2 where the capability is lacking (a PUT needs none: R140 has no bit for it), 3 where the
translation fails, 5 for an uncorrectable error, which a core counts in HWECC and which leaves the doublewords that need its value as
they were. The order of these checks is log entry 24, the model's choice. R321: a halo transfer places its bytes, counts on its side
and is acknowledged. -/
def Obligations.HomeOperations : Prop :=
  ∀ (i : Nat) (p : Packet) (s : State), s.packet i = some p → p.reply = false → p.remote = none → p.marked = false →
    let lacks := fun b : Nat => (s.ipOf 0x04C).toNat / 2 ^ b % 2 = 0
    let num := fun (t : State) (cn w : Nat) => Memory.num (t.core cn).mem p.addr w
    let counted := fun (t : State) (cn : Nat) => (t.core cn).trap.hwUnc = (s.core cn).trap.hwUnc + 1
    let global := (∀ cn, p.home ≠ .core cn) ∧ ∀ r, p.home ≠ .remote r
    let fails := fun x : Xlated => ∀ pa, x ≠ .ok pa
    let rmw := fun (e : Instr) (w cap : Nat) (f : Nat → Nat) (fetch : Bool) => s.behindOwn i p = false →
      (∀ cn, p.home = .core cn →
        (s.door p cn = .refuse ∨ (s.door p cn = .accept ∧ s.coreRefuses cn p.addr w = true) → Answers e s fun t =>
          Replied s t p 4 [] ∧ MemSame s t) ∧
        (s.door p cn = .accept → s.coreRefuses cn p.addr w = false →
          (lacks cap → Answers e s fun t => Replied s t p 2 [] ∧ MemSame s t) ∧
          (¬lacks cap → (s.core cn).badIn p.addr w = true → Answers e s fun t => Replied s t p 5 [] ∧ MemSame s t ∧ counted t cn) ∧
          (¬lacks cap → (s.core cn).badIn p.addr w = false → Answers e s fun t =>
            num t cn w = f (num s cn w) % 2 ^ (8 * w) ∧ MemSameBut s t cn p.addr w ∧
            Replied s t p 0 (if fetch then [.ofNat 64 (num s cn w)] else [])))) ∧
      (global →
        (lacks cap → Answers e s fun t => Replied s t p 2 [] ∧ MemSame s t) ∧
        (¬lacks cap → ∀ x u, s.translate (some p.cn) p.part p.addr .rmw = (x, u) →
          (fails x → Answers e s fun t => Replied s t p 3 [] ∧ MemSame s t) ∧
          (∀ pa, x = .ok pa →
            (inHost pa = true ∨ s.lineProtected (s.homeOf pa) pa w = true → Answers e s fun t => Replied s t p 4 [] ∧ MemSame s t) ∧
            (inHost pa = false → s.lineProtected (s.homeOf pa) pa w = false →
              (s.gbadIn pa w = true → Answers e s fun t => Replied s t p 5 [] ∧ MemSame s t) ∧
              (s.gbadIn pa w = false → (∀ k < w, s.sequencerField (pa + k) = false) → Answers e s fun t =>
                Memory.num t.gmem pa w = f (Memory.num s.gmem pa w) % 2 ^ (8 * w) ∧ SameOutside s.gmem t.gmem pa w ∧
                Replied s t p 0 (if fetch then [.ofNat 64 (Memory.num s.gmem pa w)] else []))))))
    (∀ bs cn, p.body = .put bs → p.home = .core cn → s.behindOwn i p = false →
      (s.door p cn = .refuse ∨ (s.door p cn = .accept ∧ s.coreRefuses cn p.addr bs.length = true) → Answers (.putAtTarget i) s fun t =>
        Replied s t p 4 [] ∧ MemSame s t) ∧
      (s.door p cn = .accept → s.coreRefuses cn p.addr bs.length = false →
        ((s.core cn).badPartly p.addr bs.length = false → Answers (.putAtTarget i) s fun t =>
          Holds (t.core cn).mem p.addr bs ∧ MemSameBut s t cn p.addr bs.length ∧ Replied s t p 0 []) ∧
        ((s.core cn).badPartly p.addr bs.length = true → Answers (.putAtTarget i) s fun t =>
          let needs := fun a : Nat => a / 8 ∈ (s.core cn).bad ∧ ¬(p.addr ≤ a / 8 * 8 ∧ a / 8 * 8 + 8 ≤ p.addr + bs.length)
          (∀ k < bs.length, (needs (p.addr + k) → Memory.byte (t.core cn).mem (p.addr + k) = Memory.byte (s.core cn).mem (p.addr + k)) ∧
            (¬needs (p.addr + k) → Memory.byte (t.core cn).mem (p.addr + k) = bs.getD k 0)) ∧
          MemSameBut s t cn p.addr bs.length ∧ counted t cn ∧ Replied s t p 5 []))) ∧
    (∀ bs r u, p.body = .put bs → global → s.behindOwn i p = false → s.translateRange (some p.cn) p.part p.addr bs.length .write = (r, u) →
      (∀ e, r = .error e → Answers (.putAtTarget i) s fun t => Replied s t p 3 [] ∧ MemSame s t) ∧
      (∀ ps, r = .ok ps →
        (s.globalProtected ps = true → Answers (.putAtTarget i) s fun t => Replied s t p 4 [] ∧ MemSame s t) ∧
        (s.globalProtected ps = false → (∀ a ∈ pieceBytes ps, s.sequencerField a = false) → (pieceBytes ps).Nodup →
          let needs := fun a : Nat => a / 8 ∈ s.gbad ∧ ∃ k < 8, a / 8 * 8 + k ∉ pieceBytes ps
          Answers (.putAtTarget i) s fun t =>
            (pieceBytes ps).length = bs.length ∧
            (∀ k < bs.length, let a := (pieceBytes ps).getD k 0
              (needs a → Memory.byte t.gmem a = Memory.byte s.gmem a) ∧ (¬needs a → Memory.byte t.gmem a = bs.getD k 0)) ∧
            (∀ a, a ∉ pieceBytes ps → Memory.byte t.gmem a = Memory.byte s.gmem a) ∧ (∀ cn, (t.core cn).mem = (s.core cn).mem) ∧
            ((∀ a ∈ pieceBytes ps, ¬needs a) → Replied s t p 0 []) ∧ ((∃ a ∈ pieceBytes ps, needs a) → Replied s t p 5 [])))) ∧
    (∀ side bs cn, p.body = .halo side bs → p.home = .core cn →
      (∀ e ∈ s.net, e.1 < i → e.2.halo? = true → e.2.cn = p.cn → e.2.home ≠ p.home) →
      let acked := fun (t : State) (st : Nat) => listed t.net s.nextPkt = some
        { p with home := .core p.cn, slack := min 4095 (p.slack + p.rallow), reply := true, body := .haloAck st }
      let hx := fun (t : State) (d : Nat) => SMap.get (0 : Word) (t.core cn).hx d
      (s.door p cn = .refuse ∨ (s.door p cn = .accept ∧ s.coreRefuses cn p.addr bs.length = true) → Answers (.haloArrival i) s fun t =>
        acked t 4 ∧ MemSame s t ∧ ∀ d, hx t d = hx s d) ∧
      (s.door p cn = .accept → s.coreRefuses cn p.addr bs.length = false → Answers (.haloArrival i) s fun t =>
        acked t 0 ∧ Holds (t.core cn).mem p.addr bs ∧ MemSameBut s t cn p.addr bs.length ∧
        (hx t side).toNat = ((hx s side).toNat + 1) % 2 ^ 32 ∧ (∀ d, d ≠ side → hx t d = hx s d) ∧
        ∀ k < 12, ((t.core cn).cx k).latched.getLsbD 5 = true)) ∧
    (∀ op w A C fetch, p.body = .atomic op w A C fetch → 1 ≤ w → w ≤ 8 →
      let a := A.toNat
      let lt := fun old : Nat => sgn (8 * w) old < sgn (8 * w) a
      rmw (.atomicAtHome i) w (match op with | .add => 0 | .smin => 1 | .smax => 1 | .umin => 1 | .umax => 1 | .and => 2 | .or => 2 | .xor => 2 | _ => 3)
        (fun old => match op with
          | .add => old + a
          | .smin => if lt old then old else a
          | .smax => if lt old then a else old
          | .umin => min old a
          | .umax => max old a
          | .and => old &&& a
          | .or => old ||| a
          | .xor => old ^^^ a
          | .swap => a
          | .cas => if old = C.toNat then a else old) fetch) ∧
    (∀ f rm x, p.body = .fpUpdate f rm x → f = 1 ∨ f = 2 ∨ f = 4 →
      rmw (.fpUpdateAtHome i) (fmtBits f / 8) (4 + if f = 2 then 0 else if f = 1 then 1 else 2)
        (fun old => (roundTo f (addV (decode f old) (decode f x) rm).1 rm 0).1) false)

/-- R121 to R123, R132 to R136, R150, R151, R170, R343: what an answer does at its issuer: the transaction is complete and its
window opens by one; a status other than 0 is delivered, as a record or, for 1 with NEN, a notice; the answer of a ticketed update or
a record operation lets its instruction go on, or its record is ready at once, and of several requests of one instruction the last
answer does so for all; a reply fills its slot of q3; a RETRY sends the update again under a new sequence number; notices of exhaustion
and congestion count. The model's choices: RETRY as status 6 (log entry 62), one notice that names the first packet (log entry 52),
record operations as transactions of KIND 15 (log entry 38). -/
def Obligations.AnswersAtIssuer : Prop :=
  ∀ (i : Nat) (p : Packet) (x : Tx) (cn : CoreNo) (key : DestKey) (s : State),
    let c := s.core p.cn
    let complete := fun t : State =>
      let c' := t.core p.cn
      (∀ y, y ∈ c'.txs ↔ y ∈ c.txs ∧ y.seq ≠ p.seq) ∧ c'.window_ x.key = min 32 (c.window_ x.key + 1) ∧ MemSame s t
    let raised := fun (t : State) (P : FaultRec → Prop) =>
      let y := (t.core p.cn).cx x.ctx
      y.held = true ∧ y.wait = .none ∧ y.pc = (c.cx x.ctx).pc ∧
        ∃ r, (t.core p.cn).trap.precise = c.trap.precise ++ [r] ∧ P r ∧ r.async = false ∧ r.ctx = x.ctx
    (s.packet i = some p → s.txOf p = some x → p.marked = false →
      (∀ h st data, p.home = .core h → p.body = .reply st data →
        (x.fetch = false → st ≠ 6 → x.ctx ≠ 13 → Answers (.transactionCompletion i) s fun t =>
          let last := ∀ y ∈ c.txs, y.kind = 15 → y.first = x.first → y.seq = p.seq
          (x.ticketed = true ∨ x.kind ≠ 15 ∨ st = 0 ∨ last → complete t) ∧
          (st = 0 ∨ x.copy ≠ none → x.ticketed = false → x.kind ≠ 15 → t.net = SMap.del s.net i ∧ OnlyCore s { t with net := s.net } p.cn) ∧
          (x.ticketed = true → (c.cx x.ctx).wait = .sent (2 * x.seq + 1) →
            (st = 0 → ((t.core p.cn).cx x.ctx).wait = .got 0 [x.report.addr, 0, .ofNat 64 x.first, viaWord x.via]) ∧
            (st ≠ 0 → x.ctx ≠ 11 → raised t fun r => r.addr = x.report.addr ∧ r.info0 = st ∧ r.info1 = 3 ∧
              r.info2 = (data.getD 0 0).toNat ∧ r.detail0 = x.dest ∧
              r.cause = if st = 1 then 0x47 else if st = 2 then 0x46 else if st = 3 then 0x80 else if st = 4 then 0x48 else 0x49)) ∧
          (x.ticketed = false → x.kind = 15 → (c.cx x.ctx).wait = .sent (2 * x.first + 1) →
            (¬last → (t.core p.cn).cx x.ctx = c.cx x.ctx ∧ (st ≠ 0 → ∀ y ∈ (t.core p.cn).txs, y.first = x.first → y.failed = true)) ∧
            (last → (∀ n j, x.body ≠ .seqOpen n j) →
              (st = 0 → x.failed = false → ((t.core p.cn).cx x.ctx).wait = .got 0 data) ∧
              (st ≠ 0 ∨ x.failed = true → x.ctx ≠ 11 →
                raised t fun r => r.cause = match x.body with | .recFreeze _ _ _ _ => 0x60 | _ => 0x4E))) ∧
          (2 ≤ st → x.ticketed = false → x.kind ≠ 15 → x.copy = none → (c.trap.queue.filter fun q => !keptCause q.cause).length < 12 →
            ∃ r, (t.core p.cn).trap.queue = c.trap.queue ++ [r] ∧ r.info0 = st ∧ r.addr = x.report.addr ∧ r.async = true ∧
              r.cause = if st = 2 then 0x46 else if st = 3 then 0x80 else if st = 4 then 0x48 else 0x49) ∧
          (st = 1 → x.ticketed = false → x.kind ≠ 15 → x.copy = none → x.slk / 2 ^ 30 % 2 = 1 →
            ∃ q m, t.net = SMap.put (SMap.del s.net i) s.nextPkt q ∧ q.home = .core p.cn ∧ q.body = .message m ∧ m.tag = 2 ∧
              m.chan = x.slk / 2 ^ 24 % 64)) ∧
        (x.fetch = true → (∀ r : Reply, r ∈ c.q3 → r.tx = some p.seq → r.orphan = false) → Answers (.replyArrival i) s fun t => complete t ∧
          t.net = SMap.del s.net i ∧ (t.core p.cn).q3.length = c.q3.length ∧
          ∀ (k : Nat) (r : Reply), c.q3[k]? = some r → (t.core p.cn).q3[k]? =
            some (if r.tx = some p.seq then { r with answer := some (st, data.getD 0 0) } else r)) ∧
        (st = 6 → (s.launchOf p.cn).isSome = true → (∀ r, (s.targetOf p.cn x.dest x.report.addr).1 ≠ .remote r) →
          Answers (.retryResend i) s fun t =>
            MemSame s t ∧ (t.core p.cn).txSeq = c.txSeq + 1 ∧ (t.core p.cn).txs.length = c.txs.length ∧
            (∃ y ∈ (t.core p.cn).txs, y.seq = c.txSeq.toNat ∧ y.body = x.body ∧ y.dest = x.dest ∧ y.first = x.first) ∧
            ((c.cx x.ctx).wait = .sent (2 * x.seq + 1) → ((t.core p.cn).cx x.ctx).wait = .sent (2 * c.txSeq.toNat + 1)) ∧
            ∃ q, listed t.net s.nextPkt = some q ∧ q.seq = c.txSeq.toNat ∧ q.body = x.body ∧ q.cn = p.cn ∧ q.reply = false ∧
              q.slack = x.slk % 2 ^ 12)) ∧
      (∀ st, p.body = .haloAck st → Answers (.haloAcknowledgement i) s fun t => complete t ∧
        (t.core p.cn).halos = c.halos - 1 ∧ (st = 0 → t.net = SMap.del s.net i ∧ (t.core p.cn).trap = c.trap))) ∧
    (∀ h, s.packet i = some p → p.home = .core h → p.body = .exhausted → Answers (.exhaustionNotice i) s fun t =>
      MemSame s t ∧ (t.core p.cn).slkx = c.slkx + 1 ∧ (t.core p.cn).txs = c.txs ∧
      (p.first ∈ c.noticed ∨ p.slk / 2 ^ 30 % 2 = 0 → t.net = SMap.del s.net i ∧ (t.core p.cn).noticed = c.noticed) ∧
      (p.first ∉ c.noticed → p.slk / 2 ^ 30 % 2 = 1 → (t.core p.cn).noticed = c.noticed ++ [p.first] ∧
        ∃ q m, t.net = SMap.put (SMap.del s.net i) s.nextPkt q ∧ q.home = .core p.cn ∧ q.body = .message m ∧ m.tag = 1 ∧
          m.chan = p.slk / 2 ^ 24 % 64 ∧
          (p.kind ≠ 15 → m.bytes = leBytes 8 (p.kind % 16 * 2 ^ 60 + p.cls % 4 * 2 ^ 58 + p.xfer.getD p.first % 65536 * 2 ^ 32 +
            p.pc % 2 ^ 22)))) ∧
    (s.onMesh cn.toNat = true → Answers (.congestionNotice cn key) s fun t =>
      let notice := s.net.find? fun e => e.2.home == .core cn.toNat && e.2.body == .congestion key
      (notice = none → t.net = s.net) ∧ (∀ e, notice = some e → t.net = SMap.del s.net e.1) ∧
      OnlyCore s { t with net := s.net } cn.toNat ∧ (t.core cn.toNat).congc = (s.core cn.toNat).congc + 1 ∧
      (t.core cn.toNat).window_ key = max 1 ((s.core cn.toNat).window_ key / 2) ∧
      (∀ k, k ≠ key → (t.core cn.toNat).window_ k = (s.core cn.toNat).window_ k) ∧ MemSame s t)

/-- R68, R145 to R147, R150, R153, R154, R156, R176, R355: an update at a part of a sequence, in a core or in global memory, by its
ticket: applied and counted, held, dropped as a duplicate, refused outside the sequence, or sent back with RETRY by a part that is
closing or stopped, beyond the reorder window, or without a free entry; its application may be left for later, behind its answer; and
the requests of tsopen, tdrain and tsclose at a part, with their answers. The model's choices: the numbers of the reasons of status 4
(log entry 23), RETRY as status 6 (log entry 62), one exchange per part (log entry 48), when a late application comes (log entry 7). -/
def Obligations.TicketsAtHome : Prop :=
  ∀ (i f t : Nat) (lanes : List (Nat × Nat)) (p : Packet) (s : State),
    let w := fmtBits f / 8
    let e := Instr.ticketedUpdateArrival i
    let lacks := fld (s.ipOf 0x04C).toNat (updateCap 7 f) 1 = 0
    let answered := fun (st : Nat) (data : List Word) => Answers e s fun u => Replied s u p st data ∧ MemSame s u
    let decided := fun (v : State) (h : Home) (la : Nat) =>
      (v.seqAt p.part h la = none → answered 4 [if v.launches.any fun l => l.part == p.part && l.closedLines.contains (h, la) then 4 else 1]) ∧
      (∀ l n q ln, v.seqAt p.part h la = some (l, n, q, ln) →
        let held := ∃ u ∈ q.held, u.line = ln.index ∧ u.ticket = t
        let becomes := fun (u : State) (q' : Seq) => ∃ l', u.launch? l.part l.lid = some l' ∧ listed l'.seqs n = some q'
        let closing := ∃ x ∈ q.queried, q.parts[x.1]? = some h
        let window := (s.ipOf 0x043).toNat
        let used := (q.held.filter fun u => ((q.line u.line).map (·.home)) == some ln.home).length
        (closing → answered 6 []) ∧
        (¬closing → f ≠ q.fmt → answered 4 [2]) ∧
        (¬closing → f = q.fmt → q.p ≤ t → answered 4 [3]) ∧
        (¬closing → f = q.fmt → t < q.p → q.state = .stopped ∨ (l.state = .stopping ∧ p.lid ≠ l.lid) → answered 6 []) ∧
        (¬closing → f = q.fmt → t < q.p → q.state = .opened → l.state ≠ .stopping →
          (t = ln.ctr → ∀ k, v.lineBad h la w lanes = some k → Answers e s fun u =>
            Replied s u p 5 (if k = 0 then [] else [.ofNat 64 k]) ∧ MemSame s u ∧
            ∀ cn, h = .core cn → (u.core cn).trap.hwUnc = (s.core cn).trap.hwUnc + 1) ∧
          (t ≠ ln.ctr ∨ v.lineBad h la w lanes = none → s.launch? l.part l.lid = some l → (∀ x ∈ q.due, x.1 ≠ ln.index) →
            q.line ln.index = some ln →
            (t < ln.ctr ∨ held → Answers e s fun u => becomes u { q with dup := min (q.dup + 1) (2 ^ 32 - 1) } ∧ Replied s u p 0 [] ∧ MemSame s u) ∧
            (t = ln.ctr → ¬held → (∀ x ∈ q.held, ¬(x.line = ln.index ∧ x.ticket = t + 1)) →
              (∃ u, s.updateArrival i true = .next u ∧ Replied s u p 0 [] ∧ MemSame s u ∧
                becomes u { q.setCtr ln.index (t + 1) with due := q.due ++ [(ln.index, lanes)] }) ∧
              ((lanes.map (·.1)).Nodup → 0 < w → (∀ x ∈ lanes, w * x.1 + w ≤ 64) →
                (match h with | .core _ => 0x2000 ≤ la | _ => ∀ k < 64, s.sequencerField (la + k) = false) → Answers e s fun u =>
                  becomes u (q.setCtr ln.index (t + 1)) ∧ Replied s u p 0 [] ∧ ln.addr = la ∧ ln.home = h ∧
                  (∀ x ∈ lanes, u.homeNum h (la + w * x.1) w =
                    (roundTo f (addV (decode f (s.homeNum h (la + w * x.1) w)) (decode f x.2) q.rm).1 q.rm 0).1 % 2 ^ (8 * w)) ∧
                  ∀ a, (∀ x ∈ lanes, a < la + w * x.1 ∨ la + w * x.1 + w ≤ a) → u.homeNum h a 1 = s.homeNum h a 1)) ∧
            (ln.ctr < t → ¬held →
              (ln.ctr + window ≤ t ∨ window ≤ used + 1 → answered 6 []) ∧
              (t < ln.ctr + window → used + 1 < window → Answers e s fun u =>
                becomes u { q with held := q.held ++ [⟨ln.index, t, lanes⟩] } ∧ Replied s u p 0 [] ∧ MemSame s u)))))
    s.packet i = some p → p.reply = false → p.remote = none → p.marked = false →
    (∀ cn, p.body = .ticket f t lanes → p.home = .core cn →
      let la := p.addr / 64 * 64
      (s.door p cn = .refuse → answered 4 [if s.launches.any fun l => l.part == p.part && l.closedLines.contains (.core cn, la) then 4 else 1]) ∧
      (s.door p cn = .hold → answered 6 []) ∧
      (s.door p cn = .accept → (lacks → answered 2 []) ∧ (¬lacks → decided s (.core cn) la))) ∧
    (p.body = .ticket f t lanes → (∀ cn, p.home ≠ .core cn) → (∀ r, p.home ≠ .remote r) →
      (lacks → answered 2 []) ∧
      (¬lacks → ∀ x v, s.translate (some p.cn) p.part p.addr .rmw = (x, v) →
        ((∀ pa, x ≠ .ok pa) → answered 3 (if x.code = 0 then [] else [.ofNat 64 x.code])) ∧
        (∀ pa, x = .ok pa → (inHost pa = true → answered 4 [1]) ∧
          (inHost pa = false → decided v (s.homeOf pa) (pa / 64 * 64))))) ∧
    (let answers := fun (l : Launch) (k : Nat) (q : Seq) (data : List Word) => Answers (.sequencePartQuery i) s fun u =>
       Replied s u p 0 data ∧ u.cores = s.cores ∧ u.gmem = s.gmem ∧
         ∃ l', u.launch? l.part l.lid = some l' ∧ listed l'.seqs k = some q
     let refused := fun data => Answers (.sequencePartQuery i) s fun u => Replied s u p 4 data ∧ MemSame s u ∧ u.launches = s.launches
     let h : Word := .ofNat 64 p.addr
     let settled := fun q : Seq => ∀ e ∈ q.due, ∀ ln, q.line e.1 = some ln → ln.home ≠ p.home
     (∀ n j l q, p.body = .seqOpen n j → s.launch? p.part p.lid = some l → l.openingIn n = some q → l.part = p.part → l.lid = p.lid →
       let own := q.lines.filter fun ln => ln.home == p.home
       ((∃ ln ∈ own, s.lineProtected p.home ln.addr 64 = true) → answers l n { q with clash := true } [.ofNat 64 n]) ∧
       ((∀ ln ∈ own, s.lineProtected p.home ln.addr 64 = false) →
         (s.partFits p.home = false → answers l n { q with shut := q.shut ++ [j] } [.ofNat 64 n]) ∧
         (s.partFits p.home = true → answers l n { q with openAt := q.openAt ++ [j] } [.ofNat 64 n]))) ∧
     (∀ n j, p.body = .seqQuery n j ∨ p.body = .seqDrain n j → s.seqOf p.cn h = none → refused []) ∧
     (∀ n j l k q, p.body = .seqDrain n j → s.seqOf p.cn h = some (l, k, q) →
       q.state = .aborted ∨ (∀ ln ∈ q.lines, ln.home = p.home → ln.ctr = q.p) → s.launch? l.part l.lid = some l → settled q →
       answers l k q []) ∧
     (∀ n j l k q, p.body = .seqQuery n j → s.seqOf p.cn h = some (l, k, q) → s.launch? l.part l.lid = some l →
       settled q → answers l k { q with queried := q.queried ++ [(j, p.cn, p.ctx)] } []))

/-! ### Copies and records (spec 02, R61 to R69; spec 04, R96 to R107; spec 14, R320; spec 19, R393) -/

/-- R61 to R66, R69, R83, R110, R132, R136, R320, R355, R391, R393: rds of CP.GO forks a copy of the shadows and the parameter block,
after its checks; the part of a running copy, a block with its source bytes, begins with the translations of its pages, a failure of which
suspends the copy; each source line that lies in another home is requested, and comes with the answer; then the write of a block is
requested where it lies in other homes, and is performed when it has reached them, and answered; a block that needs no packet is performed
at once; a block of a plain copy in local SRAM moves its bytes and no others; an uncorrectable error or a refusal, be it at the side
entries, stops the copy with nothing of the block written, and is reported; the completion pushes the id or sends the message, as NOTE
says. The model's choices: the order of the checks, and RNDCTR for converting SR copies alone (log entry 45), formats taken before ADDR is
checked (log entry 72), a block in one step behind the answers of its reads (log entry 7), the packets (log entry 87). -/
def Obligations.Copies : Prop :=
  ∀ (st : BitVec 3) (d : BitVec 5) (cn : CoreNo) (id : BitVec 16) (y : CopyOp) (s : State),
    let x := s.cx
    let o := s.copyOf
    let c := s.core cn.toNat
    let go := Instr.copyGo st d
    let write := Instr.copyBlockWrite cn id
    let finish := Instr.copyCompletion cn id
    let slk := (SMap.get (0 : Word) s.atIssue.slk (wfld (Memory.dword s.me.mem x.cpPblk.toNat) 6 2)).toNat
    (32 ≤ s.me.copies.length → exec go s = .next (s.modCx fun x => { x with wait := .copies })) ∧
    (s.me.copies.length < 32 →
      (∀ f, (s.copyChecks o).find? (fun f => f.1) = some f → Traps go s f.2) ∧
      ((s.copyChecks o).find? (fun f => f.1) = none → ∃ (u : State) (z : CopyOp), GivesGAfter go s u 4 d (s.me.nextId.setWidth 64) ∧
        u.me.copies = s.me.copies ++ [z] ∧ u.me.nextId = s.me.nextId + 1 ∧ MemSame s u ∧ OnlyCore s u s.curCore ∧
        z.id = s.me.nextId.toNat ∧ z.ctx = s.curCtx ∧ z.src = x.cpSrc ∧ z.dst = x.cpDst ∧ z.len = x.cpLen.toNat ∧
        z.shape = x.cpShape ∧ z.pblk = Memory.dword s.me.mem x.cpPblk.toNat ∧ z.side = Memory.dword s.me.mem (x.cpPblk.toNat + 8) ∧
        z.ticket = Memory.num s.me.mem (x.cpPblk.toNat + 24) 4 ∧ z.rm = s.rm ∧ z.slk = slk ∧ z.rndctr = x.rndctr ∧ z.row = 0 ∧ z.off = 0 ∧
        z.bytes = 0 ∧ z.phase = (if o.dstRow = 0 then .stopped 0 else .running) ∧
        u.cx.rndctr = x.rndctr + (if o.converts = true ∧ stochastic s.rm = true then 1 else 0))) ∧
    (c.copies.find? (fun o => o.id == id.toNat) = some y →
      (let sp := y.blockSpan cn.toNat
       let records := (y.lines.filter fun e => s.recordLine e.1).foldl (fun m e => SMap.put m e.1 e.2) y.kept
       let kept := fun z : CopyOp => { z with pages := none, lines := [], kept := records }
       let now := fun (t : State) (z : CopyOp) => z ∈ (t.core cn.toNat).copies
       let room := (c.trap.queue.filter fun q => !keptCause q.cause).length < 12
       let suspends := fun (t : State) (va : Nat) (e : Xlated) (write : Bool) => MemSame s t ∧ now t { y with phase := .suspended, pages := none, lines := [] } ∧
         (room → ∃ r : FaultRec, (t.core cn.toNat).trap.queue = c.trap.queue ++ [r] ∧ r.addr = .ofNat 64 va ∧ r.info0 = y.block ∧
           r.info1 = (if write then 1 else 0) ∧ r.opid = y.report.opid ∧
           r.cause = match e with | .notPresent => 0x81 | .writeProtected => 0x82 | _ => 0x83)
       let moves := fun (t : State) (ds : List (Nat × Nat)) (bs : List Byte) =>
         (∀ k e, ds[k]? = some e → Memory.byte (t.core e.1).mem e.2 = bs.getD k 0) ∧
         (∀ j a, (j, a) ∉ ds → Memory.byte (t.core j).mem a = Memory.byte (s.core j).mem a) ∧
         ∀ a, Memory.byte t.gmem a = Memory.byte s.gmem a
       let b := s.plan cn.toNat y
       let performs := fun (more : State → Prop) => y.plain = true → y.acc = 0 →
         (b.n = sp.n ∧ b.src.length = sp.n ∧ ∀ j < sp.n, let q := y.srcPtr y.row + .ofNat 64 (y.off + j)
           b.src.getD j none = match y.far cn.toNat q false, y.cell cn.toNat q with
             | some k, _ => ((y.line? (k / 64)).getD []).getD (k % 64) none
             | none, some (m, a) => if (s.core m).bad.contains (a / 8) then none else some (Memory.byte (s.core m).mem a)
             | none, none => none) ∧
         (∀ ds bs, b.src = bs.map some → b.dst = .cells ds → bs.length = ds.length → ds.Nodup → s.writeBad b.dst = none →
           s.siteRefuses b.dst false = false → Answers write s fun t => more t ∧ moves t ds bs ∧ now t (kept (y.advanced b.n bs))) ∧
         (∀ j, b.src.findIdx? (fun e => e.isNone) = some j → Answers write s fun t => more t ∧ MemSame s t ∧
           now t { y with phase := .stopped 1 } ∧
           (∀ m a, y.cell cn.toNat (y.srcPtr y.row + .ofNat 64 (y.off + j)) = some (m, a) →
             (t.core m).trap.hwUnc = (s.core m).trap.hwUnc + 1))
       let leavesAll := y.recen = false → y.acc = 0 → (∀ e ∈ b.src ++ b.srcSide, e.isSome = true) → s.writeBad b.dst = none →
         (∀ j, s.writeBad b.dstSide = some j → Answers write s fun t => MemSame s t ∧ now t { y with phase := .stopped 1 }) ∧
         (s.writeBad b.dstSide = none → s.siteRefuses b.dst false = true ∨ s.siteRefuses b.dstSide false = true →
           Answers write s fun t => MemSame s t ∧ now t { y with phase := .stopped 4 })
       let sent := fun (e : Home × Nat × Body) (q : Packet) (n : Nat) => q.home = e.1 ∧ q.addr = e.2.1 ∧ q.body = e.2.2 ∧ q.reply = false ∧
         q.cn = cn.toNat ∧ q.kind = 4 ∧ q.cls = y.cls ∧ q.slack = y.slk % 2 ^ 12 ∧ q.rallow = y.slk / 2 ^ 12 % 2 ^ 12 ∧ q.seq = n
       let opened := fun (e : Home × Nat × Body) (z : Tx) (n : Nat) => z.seq = n ∧ z.key = e.1.key ∧ z.copy = some y.id ∧ z.body = e.2.2
       let at_ := fun (k : Nat) (r : Body) => ((s.farHome k).1, (s.farHome k).2, r)
       (y.phase = .running → y.pages = none →
         (∀ va e w u, s.translatePart cn.toNat y = (.error (va, e, w), u) → Answers write s fun t => suspends t va e w) ∧
         (∀ m u, s.translatePart cn.toNat y = (.ok m, u) → (∀ e ∈ y.uses cn.toNat, SMap.has m (CopyOp.pageKey e.1 (e.2 != .read)) = true) ∧
           Answers write s fun t => MemSame s t ∧ now t { y with pages := some m })) ∧
       (∀ k, y.missing cn.toNat = some k → s.nextRequests cn.toNat y = [at_ k (.copyRead y.id k)]) ∧
       (y.missing cn.toNat = none → y.acc ≠ 5 →
         (∀ e ∈ s.nextRequests cn.toNat y, ∃ k ∈ y.farDsts cn.toNat, e = at_ k (.copyBlock y.id)) ∧
         (∀ k ∈ y.farDsts cn.toNat, ∃ e ∈ s.nextRequests cn.toNat y, e.1 = (s.farHome k).1)) ∧
       (y.phase = .running → y.pages ≠ none →
         (y.recen = false ∨ (y.missing cn.toNat).isSome = true → c.choked = false →
           (∀ e ∈ s.nextRequests cn.toNat y, c.windowFull e.1.key = false) →
           (∀ e, s.nextRequests cn.toNat y = [e] → Answers write s fun t =>
             MemSame s t ∧ (∃ q, t.net = SMap.put s.net s.nextPkt q ∧ sent e q c.txSeq.toNat) ∧
             (∃ z, (t.core cn.toNat).txs = c.txs ++ [z] ∧ opened e z c.txSeq.toNat) ∧ (t.core cn.toNat).txSeq = c.txSeq + 1 ∧
             now t { y with phase := .waiting c.txSeq.toNat, first := some (y.first.getD c.txSeq.toNat) }) ∧
           (∀ d e, s.nextRequests cn.toNat y = [d, e] → Answers write s fun t =>
             MemSame s t ∧ (∃ p q, t.net = SMap.put (SMap.put s.net s.nextPkt p) (s.nextPkt + 1) q ∧ sent d p c.txSeq.toNat ∧
               sent e q (c.txSeq + 1).toNat) ∧
             (∃ x z, (t.core cn.toNat).txs = c.txs ++ [x, z] ∧ opened d x c.txSeq.toNat ∧ opened e z (c.txSeq + 1).toNat) ∧
             (t.core cn.toNat).txSeq = c.txSeq + 2 ∧
             now t { y with phase := .waiting (c.txSeq + 1).toNat, first := some (y.first.getD c.txSeq.toNat) })) ∧
         (s.nextRequests cn.toNat y = [] → y.recen = false → y.acc ≠ 5 → performs (fun _ => True) ∧ leavesAll)) ∧
       (∀ q i p ps, y.phase = .waiting q → s.blockRequests cn.toNat y = (i, p) :: ps →
         (∀ m k, p.body = .copyRead m k → p.marked = false → p.remote = none → Answers write s fun t =>
           MemSame s t ∧ Replied s t p 0 (lineData (s.farLine k)) ∧ (t.core cn.toNat).copies = c.copies) ∧
         (∀ m, p.body = .copyBlock m → y.recen = false → y.acc ≠ 5 → leavesAll ∧
           (ps = [] → p.marked = false → p.remote = none → performs fun t => Replied s t p 0 []))) ∧
       (∀ i p x h m k data, s.packet i = some p → p.cn = cn.toNat → p.marked = false → p.home = .core h → p.body = .reply 0 data →
         s.txOf p = some x → x.fetch = false → x.ticketed = false → x.kind = 4 → x.ctx ≠ 13 → x.copy = some y.id → x.body = .copyRead m k →
         y.phase = .waiting x.seq → Answers (.transactionCompletion i) s fun t =>
           MemSame s t ∧ now t { y with phase := .running, lines := SMap.put y.lines (k / 64) (dataLine data) }) ∧
       (∀ data, y.phase = .answered 0 data → Answers write s fun t => MemSame s t ∧ now t (kept (y.advanced (y.nextLen cn.toNat) []))) ∧
       (∀ data, y.phase = .answered 3 data → Answers write s fun t =>
         suspends t (wfld (y.dstPtr y.row + .ofNat 64 y.off) 0 48) (xlatedOf (data.getD 0 0).toNat) true)) ∧
      (∀ e, y.phase = .stopped e → (∀ q ∈ c.txs, q.copy ≠ some y.id) →
        (y.note = 1 → c.q0.length < 32 → Answers finish s fun t =>
          MemSame s t ∧ OnlyCore s t cn.toNat ∧ (t.core cn.toNat).q0 = c.q0 ++ [.ofNat 64 y.id] ∧
          ∀ z, z ∈ (t.core cn.toNat).copies ↔ z ∈ c.copies ∧ z.id ≠ y.id) ∧
        (y.note = 0 ∨ y.note = 2 → Answers finish s fun t =>
          MemSame s t ∧ (∃ p : Packet, t.net = SMap.put s.net s.nextPkt p ∧ p.home = .core cn.toNat ∧ p.body = .message
            { chan := y.chan, tag := y.id, bytes := leBytes 8 (min y.bytes (2 ^ 32 - 1) * 2 ^ 32 + e * 2 ^ 24 + y.id),
              src := sourceId 2 (s.jobRank cn.toNat) cn.toNat, copy := some y.id }) ∧
          (y.note = 0 → (t.core cn.toNat).q0 = c.q0 ∧ { y with phase := .delivering false true } ∈ (t.core cn.toNat).copies) ∧
          (y.note = 2 → c.q0.length < 32 → (t.core cn.toNat).q0 = c.q0 ++ [.ofNat 64 y.id])))) ∧
    ∀ (m : Memory) bad a, dataLine (lineData (lineBytes m bad a)) = lineBytes m bad a

/-- R96, R102 to R105, R108, R132, R136, R138, R287, R294, R350, R393: at a record's home a flush is merged field by field, which
completes its request, and a read, a clear or a freeze is performed and answered by a reply; the answer of a read for a copy fills the
accumulator, unless an STSYNC has come in between; a translation failure suspends the operation; an accumulator entry leaves as a
flush, where the window toward its home has room. That flushes are such transactions, and the OPID of a suspended operation, are log
entry 38, the model's choice. -/
def Obligations.RecordEvents : Prop :=
  ∀ (i n : Nat) (p : Packet) (x : Tx) (cn : CoreNo) (s : State),
    let c := s.core p.cn
    let suspends := fun (t : State) (write : Bool) => MemSame s t ∧ (t.core p.cn).susp = c.susp ++ [⟨2, i % 65536, i⟩] ∧ t.net = s.net ∧
      ((c.trap.queue.filter fun q => !keptCause q.cause).length < 12 → ∃ r : FaultRec, (t.core p.cn).trap.queue = c.trap.queue ++ [r] ∧
        r.cause = 0x86 ∧ r.eng = true ∧ r.addr = .ofNat 64 p.addr ∧ r.info1 = (if write then 1 else 0) ∧ r.opkind = 2 ∧ r.opid = i % 65536)
    let home := fun (r r' : Nat) (t : State) (pa : Nat) =>
      r' = Memory.num t.gmem pa 64 ∧ r = Memory.num s.gmem pa 64 ∧ SameOutside s.gmem t.gmem pa 64 ∧
      ∀ j, (t.core j).mem = (s.core j).mem
    let open_ := fun pa => ∀ k < 64, s.sequencerField (pa + k) = false
    let read := fun pa => (List.range 8).map fun j => Memory.dword s.gmem (pa + 8 * j)
    (s.packet i = some p → c.suspended i = false → p.marked = false →
      (∀ m dl, p.body = .flush m dl →
        (∀ pa u, s.translate (if p.ctx = 12 then none else some p.cn) p.part p.addr .read = (.ok pa, u) → open_ pa →
          Answers (.flushMerge i) s fun t => ∃ r r', home r r' t pa ∧
            fld r' 0 32 = max (fld r 0 32) dl.amax % 2 ^ 32 ∧ fld r' 32 16 = min (fld r 32 16 + dl.nan) (2 ^ 16 - 1) ∧
            fld r' 48 16 = min (fld r 48 16 + dl.inf) (2 ^ 16 - 1) ∧ fld r' 64 24 = fld r 64 24 ∧
            fld r' 88 8 = fld r 88 8 ||| (if dl.ovf then 4 else 0) ∧ fld r' 96 32 = min (fld r 96 32 + dl.updates) (2 ^ 32 - 1) ∧
            (∀ k < 24, fld r' (128 + 16 * k) 16 = min (fld r (128 + 16 * k) 16 + dl.hist.getD k 0) (2 ^ 16 - 1)) ∧
            (p.ctx ≠ 12 → (t.core p.cn).flushes = c.flushes - 1 ∧ (∀ y, y ∈ (t.core p.cn).txs ↔ y ∈ c.txs ∧ y.seq ≠ p.seq) ∧
              ∀ y, c.txs.find? (fun y => y.seq == p.seq) = some y → (t.core p.cn).window_ y.key = min 32 (c.window_ y.key + 1)) ∧
            t.net = SMap.del s.net i) ∧
        (∀ e u, s.translate (if p.ctx = 12 then none else some p.cn) p.part p.addr .read = (e, u) → (∀ pa, e ≠ .ok pa) →
          Answers (.flushMerge i) s fun t => suspends t true)) ∧
      (∀ m pa u, s.translate (some p.cn) p.part p.addr .read = (.ok pa, u) → open_ pa →
        (p.body = .recRead m → Answers (.recordHomeOperation i) s fun t =>
          MemSame s t ∧ Replied s t p 0 (read pa ++ [.ofNat 64 c.syncs])) ∧
        (∀ anchor tgt, p.body = .recClear m anchor tgt → Answers (.recordHomeOperation i) s fun t => ∃ r r', home r r' t pa ∧
          r' = 127 * 2 ^ 64 + anchor % 256 * 2 ^ 72 + tgt % 256 * 2 ^ 80 ∧ Replied s t p 0 [1]) ∧
        (∀ rst scale, p.body = .recFreeze m 0 rst scale → rst < 2 → Answers (.recordHomeOperation i) s fun t => ∃ r r', home r r' t pa ∧
          fld r' 0 64 = fld r 0 64 ∧ fld r' 64 8 = scale % 256 ∧ fld r' 72 16 = fld r 72 16 ∧ fld r' 88 2 = 1 + 2 * rst ∧
          fld r' 90 422 = fld r 90 422 ∧ Replied s t p 0 [1]) ∧
        (∀ rst scale, p.body = .recFreeze m 1 rst scale → maxOf (recTgt (Memory.num s.gmem pa 64)) = none →
          Answers (.recordHomeOperation i) s fun t => MemSame s t ∧ Replied s t p 1 [1]) ∧
        (∀ rst scale, p.body = .recFreeze m 2 rst scale → Answers (.recordHomeOperation i) s fun t => ∃ r r', home r r' t pa ∧
          fld r' 0 88 = fld r 0 88 ∧ fld r' 88 2 = 0 ∧ fld r' 90 422 = fld r 90 422 ∧ Replied s t p 0 [1])) ∧
      (∀ m e u, s.translate (some p.cn) p.part p.addr .read = (e, u) → (∀ pa, e ≠ .ok pa) →
        (p.body = .recRead m → Answers (.recordHomeOperation i) s fun t => suspends t false) ∧
        (∀ k l, p.body = .recClear m k l → Answers (.recordHomeOperation i) s fun t => suspends t true) ∧
        (∀ k r l, p.body = .recFreeze m k r l → Answers (.recordHomeOperation i) s fun t => suspends t true))) ∧
    (∀ h m data, s.packet i = some p → s.txOf p = some x → p.marked = false → p.home = .core h → p.body = .reply 0 data → x.fetch = false →
      x.ticketed = false → x.ctx = 13 → x.body = .recRead m →
      let wanted := (∃ o ∈ c.copies, o.recen = true ∧ o.recid = m) ∧ data.getD 8 0 = .ofNat 64 c.syncs
      (wanted → c.statEntry m = none → c.stats.length < 8 → Answers (.transactionCompletion i) s fun t =>
        MemSame s t ∧ t.net = SMap.del s.net i ∧ (t.core p.cn).statEntry m = some (entryOf m (dwordsNum (data.take 8)))) ∧
      (¬wanted → s.fillWaits p.cn x = false → Answers (.transactionCompletion i) s fun t =>
        MemSame s t ∧ t.net = SMap.del s.net i ∧ (t.core p.cn).stats = c.stats)) ∧
    (∀ e, (s.core cn.toNat).stats[n]? = some e →
      (s.flushHeld cn.toNat e = none → Answers (.accumulatorFlush (some cn) n) s fun t =>
        MemSame s t ∧ Flushed s t cn.toNat e ∧ OnlyCore s { t with net := s.net, nextPkt := s.nextPkt } cn.toNat) ∧
      let key := (s.homeAtIssue (s.partOf cn.toNat) (s.recordVa cn.toNat e.recid)).key
      ((s.core cn.toNat).choked = false → (s.core cn.toNat).windowFull key = false → s.flushHeld cn.toNat e = none)) ∧
    (∀ e, s.shawmStats[n]? = some e → Answers (.accumulatorFlush none n) s fun t =>
      t.shawmStats = s.shawmStats.erase e ∧ MemSame s t ∧ ∀ l m, s.launch? (e.recid / 2 ^ 52) (e.recid / 2 ^ 20 % 2 ^ 32) = some l →
        m = s.shawmCore l (e.recid % 2 ^ 20) → ∃ q, t.net = SMap.put s.net s.nextPkt q ∧ q.body = .flush (e.recid % 2 ^ 20) e.sum ∧
          q.cn = m ∧ q.ctx = 12 ∧ q.seq = (s.core m).txSeq.toNat ∧ (t.core m).txSeq = (s.core m).txSeq + 1)

/-! ### Launches and commands (spec 18, R362 to R382; spec 01, R19 to R28) -/

/-- R19 to R28, R44, R104, R159, R367 to R375: a record at the head of a queue is refused, one that asks for ORDERED where an image gives
no promise among them, or accepted at its place with its cores prepared, FMT among their registers as a write of the record's value
leaves it; a wake starts C0 of a core; a core's part ends and is reported up to its cluster and to the die where all cores of the
cluster lie (R416), once its flushes are merged; the launch completes with its completion record, and its rectangle is released. The
model's choices: FMT keeps an illegal field (log entry 16), the dies of the cores (log entry 60), an even TVEC that is a free value
(log entry 76), the details of a refusal (log entry 54). -/
def Obligations.LaunchLife : Prop :=
  ∀ (p : BitVec 4) (lid : BitVec 32) (cn : CoreNo) (i : Nat) (l : Launch) (s : State),
    let P := p.toNat
    let n := cn.toNat
    let head := Instr.launchRecord p
    (∀ q pri r, s.partEn P = true → s.nextCommand P = none → s.unitCount ≤ s.mgmt.started → s.chooseHead P = some (q, pri, r) →
      (∀ stt k o u, s.checkRecord P r = (.error (stt, k, o), u) →
        let bytes := completionBytes 0 stt q (dwOf r 27) 0 k o 0 false
        (∀ w, u.writeBlock P (dwOf r 13) bytes = some w → exec head s = .next (w.takeHead P q pri)) ∧
        (u.writeBlock P (dwOf r 13) bytes = none →
          exec head s = .next ((u.setQfield P 0x028 4 ((u.qfield P 0x028 4 + 1) % 2 ^ 32)).takeHead P q pri))) ∧
      (∀ b u, s.checkRecord P r = (.ok b, u) → (u.writeBlock P (dwOf r 13) (List.replicate 32 0)).isSome = true) ∧
      (∀ b u x y, s.checkRecord P r = (.ok b, u) → u.place P r = some (x, y) →
        let new := u.newLaunch P q r x y
        let prom := new.cores.all fun cn => ((s.core cn).holdsImage r).getD (promiseOf b.image.length b.image)
        (wbit (dwOf r 0) 55 = true → prom = false → ∃ v : State,
          (∀ c ∈ new.cores, (v.core c).part = .none ∧ (v.core c).job = none) ∧ (∀ c, c ∉ new.cores → v.core c = s.core c) ∧
          v.launches = s.launches ∧ v.groups = s.groups ∧ v.net = s.net ∧
          let bytes := completionBytes 0 2 q (dwOf r 27) 0 0 0 0 false
          (∀ w, v.writeBlock P (dwOf r 13) bytes = some w → exec head s = .next (w.takeHead P q pri)) ∧
          (v.writeBlock P (dwOf r 13) bytes = none →
            exec head s = .next ((v.setQfield P 0x028 4 ((v.qfield P 0x028 4 + 1) % 2 ^ 32)).takeHead P q pri))) ∧
        (wbit (dwOf r 0) 55 = false ∨ prom = true → Answers head s fun t =>
          (∃ z : Launch, t.launches = s.launches ++ [z] ∧ z.part = P ∧ z.lid = s.qfield P 0x020 4 ∧ z.state = .accepting ∧ z.x0 = x ∧ z.y0 = y ∧
            z.w = recW r ∧ z.h = recH r ∧ z.entry = recEntry r ∧ z.ordered = prom ∧ z.cores = new.cores) ∧
          SMap.get 0 t.lptr (P * 4 + pri) = (q + 1) % 64 ∧
          (∀ c ∈ new.cores, (t.core c).part = .prepared ∧ (t.core c).job = some (P, s.qfield P 0x020 4) ∧
            (∀ k < 11, ((t.core c).cx k).live = false) ∧ Memory.num (t.core c).mem 0x700 8 = c % 2 ^ 64 ∧
            FmtSet (s.core c).fmt (t.core c).fmt (dwOf r 14) ∧ (t.core c).trap.tvec.getLsbD 0 = false ∧
            ((t.core c).cx 11).q1 = [] ∧ ((t.core c).cx 11).rslot = none) ∧
          ∀ c, c ∉ new.cores → t.core c = s.core c))) ∧
    (s.launchOf n = some l → (s.core n).part = .prepared → l.active = true → Answers (.wakeArrival cn) s fun t =>
      let x := (t.core n).cx 0
      (t.core n).part = .running ∧ x.live = true ∧ x.pc = .ofNat 64 l.entry ∧ (∀ k, x.rg k = 0) ∧
      x.stat = (if l.schk then 0x2000 else 0) ∧ (∀ k, 1 ≤ k → k ≤ 10 → ((t.core n).cx k).live = false) ∧ MemSame s t ∧
      (∃ z : Launch, t.launchOf n = some z ∧ z.state = if l.state = .accepting then .running else l.state) ∧
      ∀ j, j ≠ n → t.core j = s.core j) ∧
    (s.launchOf n = some l → s.partDone n = true → Answers (.corePartEnd cn) s fun t =>
      (t.core n).part = .ended ∧ (t.core n).inbuf = [] ∧ (∀ j, (t.core j).mem = (s.core j).mem) ∧
      ((s.core n).choked = false → (s.core n).txs = [] → (∀ key, (s.core n).stats.length ≤ (s.core n).window_ key) → (t.core n).stats = [] ∧
        (t.core n).flushes = (s.core n).flushes + (s.core n).stats.length) ∧
      t.reports = s.reports ++ [⟨l.part, l.lid, some n, n / 256 * 16 + n % 64 / 4⟩]) ∧
    (∀ r, s.reports[i]? = some r → s.launch? r.part r.lid = some l →
      (∀ c, r.core = some c → (s.core c).flushes = 0 → (s.core c).stats = [] → Answers (.completionReport i) s fun t =>
        let k := SMap.get 0 l.clusters r.cluster + 1
        (∃ z : Launch, t.launch? r.part r.lid = some z ∧ SMap.get 0 z.clusters r.cluster = k) ∧ t.cores = s.cores ∧ t.gmem = s.gmem ∧
        t.reports = s.reports.eraseIdx i ++
          if k = (l.cores.filter fun c => c / 256 * 16 + c % 64 / 4 == r.cluster).length then [⟨r.part, r.lid, none, r.cluster⟩] else []) ∧
      (∀ d, r.core = none → r.cluster < 128 →
        (∀ c < 2048, c / 256 * 16 + c % 64 / 4 = r.cluster → d = c % 64 / 16 + if c / 64 < s.meshRows / 2 then 0 else 4) →
        Answers (.completionReport i) s fun t => t.reports = s.reports.eraseIdx i ∧ t.cores = s.cores ∧ t.gmem = s.gmem ∧
        ∃ z : Launch, t.launch? r.part r.lid = some z ∧ SMap.get 0 z.dies d = SMap.get 0 l.dies d + 1)) ∧
    (LaunchIs s p lid l → s.mayComplete l = true → Answers (.launchCompletion p lid) s fun t =>
      let v := s.performDues l.part l.lid fun _ => true
      ((∀ e ∈ l.seqs, e.2.due = []) → v = s) ∧
      (∃ z : Launch, LaunchIs t p lid z ∧ z.done = true ∧ z.state = .completing ∧ z.seqs = [] ∧ z.members = []) ∧ t.cores = v.cores ∧
      (∀ g ∈ t.groups, ¬(g.2.part = l.part ∧ g.2.lid = l.lid)) ∧
      (∀ pa u, l.perf = none → l.stopCmd = none → v.translateRange none l.part (wfld l.cpl 0 48) 32 .write = (.ok [(pa, 32)], u) →
        SameOutside v.gmem t.gmem pa 32 ∧
        Memory.num t.gmem pa 8 = (l.lid * 2 ^ 32 + (if l.ending = none then 0 else 6) * 2 ^ 24 + l.queue * 2 ^ 16) % 2 ^ 64 ∧
        Memory.dword t.gmem (pa + 8) = l.hosttag ∧
        Memory.num t.gmem (pa + 16) 8 = (l.faults * 2 ^ 32 + l.ending.getD 0 % 2 ^ 28) % 2 ^ 64 ∧
        Memory.num t.gmem (pa + 24) 8 = min l.seqs.length 255 * 256 + if l.ordered then 1 else 0)) ∧
    (LaunchIs s p lid l → l.done = true → l.holds = true → (∀ c ∈ l.cores, (s.core c).quietTrap = true) →
      Answers (.rectangleRelease p lid) s fun t =>
        t.launch? p.toNat lid.toNat = none ∧ MemSame s t ∧ (∀ c, c ∉ l.cores → t.core c = s.core c) ∧
        ∀ c ∈ l.cores, (t.core c).job = none ∧ (t.core c).part = .none)

/-- R377 to R382: the commands of a partition's ring: STOP of a running launch, RESUME of a stopped one, END, and the RESULT of a
command that its launch's state does not allow; a malformed command; the return of a launch's cores at its resumption, CT with its
queue and reception slot, every other register of CT as it is (R44). The model's choices: RESULT 3 for a launch that is completing, and
the END of a stopping launch (log entry 55); an END performs what contexts and sequences have left for later (log entry 7). -/
def Obligations.Commands : Prop :=
  ∀ (p : BitVec 4) (lid : BitVec 32) (s : State) (at_ : Word) (dws : List Word) (l : Launch),
    let P := p.toNat
    let op := wfld (dws.getD 0 0) 56 8
    let named := wfld (dws.getD 0 0) 0 32
    let reason := (dws.getD 1 0).toNat % 256
    let u := { s with cmds := SMap.put s.cmds P (SMap.get 0 s.cmds P + 1) }
    let result := fun (i : Instr) (r : Nat) => exec i s = .next (u.commandResult P at_ r)
    let quiet := ∀ l ∈ s.launches, l.part = P → s.stopPhase l = none
    let q := s.qtab P + 0x018
    (∀ r pa v, r < 256 → s.translateRange none P (wfld (at_ + 16) 0 48) 1 .write = (.ok [(pa, 1)], v) → pa < q ∨ q + 4 ≤ pa →
      let t := s.commandResult P at_ r
      (Memory.byte t.gmem pa).toNat = r ∧ s.qfield P 0x018 4 < 2 ^ 32 ∧ t.qfield P 0x018 4 = (s.qfield P 0x018 4 + 1) % 2 ^ 32 ∧
      (∀ a, a ≠ pa → a < q ∨ q + 4 ≤ a → Memory.byte t.gmem a = Memory.byte s.gmem a) ∧ t.cores = s.cores) ∧
    (s.partEn P = true → s.nextCommand P = some (at_, dws) →
      (op = 1 → quiet →
        (s.launch? P named = none → result (.stopCmd p) 1) ∧
        (s.launch? P named = some l → l.state ≠ .running → result (.stopCmd p) (if l.state = .completing then 3 else 2)) ∧
        (s.launch? P named = some l → l.state = .running → Answers (.stopCmd p) s fun t =>
          (∃ z, t.launch? P named = some z ∧ z.state = .stopping ∧ z.stopCmd = some at_ ∧ z.saveArg = dws.getD 1 0) ∧ MemSame s t ∧
          (∀ c ∈ l.cores, ∃ r ∈ (t.core c).trap.queue, r.cause = 0x15) ∧
          (∀ c, c ∉ l.cores → t.core c = s.core c))) ∧
      (op = 2 →
        (s.launch? P named = none → result (.resumeCmd p) 1) ∧
        (s.launch? P named = some l → l.state ≠ .stopped → result (.resumeCmd p) (if l.state = .completing then 3 else 2)) ∧
        (s.launch? P named = some l → l.state = .stopped → Answers (.resumeCmd p) s fun t =>
          (∃ z, t.launch? P named = some z ∧ z = { l with state := .reserved }) ∧ t.cores = s.cores)) ∧
      (op = 3 →
        (s.launch? P named = none → result (.endCmd p) 1) ∧
        (s.launch? P named = some l → l.state = .accepting → result (.endCmd p) 2) ∧
        (s.launch? P named = some l → l.state = .completing → result (.endCmd p) 3) ∧
        (s.launch? P named = some l → l.state = .stopping → Answers (.endCmd p) s fun t =>
          (∃ z, t.launch? P named = some z ∧ z = { l with ending := some reason }) ∧ t.cores = s.cores) ∧
        (s.launch? P named = some l → l.state = .running → Answers (.endCmd p) s fun t =>
          (∃ z, t.launch? P named = some z ∧ z.state = .completing ∧ z.ending = some reason ∧
            ∀ e ∈ z.seqs, e.2.state = .aborted ∧ e.2.held = [] ∧ e.2.lines = []) ∧
          (∀ c ∈ l.cores, (t.core c).part = .ended ∧
            ((∀ e ∈ l.seqs, e.2.due = []) →
              (t.core c).mem = if (s.core c).part = .ended then (s.core c).mem else (s.core c).performEvery.mem) ∧
            ((s.core c).part ≠ .ended → (t.core c).copies = [] ∧ ∀ k < 11, ((t.core c).cx k).live = false))) ∧
        (s.launch? P named = some l → l.state = .stopped ∨ l.state = .reserved → Answers (.endCmd p) s fun t =>
          (∃ z, t.launch? P named = some z ∧ z.state = .completing ∧ z.ending = some reason) ∧ t.cores = s.cores)) ∧
      (op ≠ 1 → op ≠ 2 → op ≠ 3 → result (.commandMalformed p) 4)) ∧
    (LaunchIs s p lid l → l.state = .reserved → (∀ c ∈ l.cores, ∀ z ∈ s.launches, z.holds = true → z.member c = false) →
      SMap.rising l.saved = true → Answers (.launchResumption p lid) s fun t =>
        (∃ z, LaunchIs t p lid z ∧ z.state = .running ∧ z.holds = true ∧ z.saved = []) ∧ t.gmem = s.gmem ∧
        (∀ e ∈ l.saved, (t.core e.1).mem = e.2.mem ∧ (∀ k, k ≠ 11 → (t.core e.1).cx k = { e.2.cx k with ready := [] }) ∧
          (t.core e.1).cx 11 = { (s.core e.1).cx 11 with q1 := (e.2.cx 11).q1, rslot := (e.2.cx 11).rslot } ∧
          (t.core e.1).trap = (s.core e.1).trap ∧ (t.core e.1).part = e.2.part ∧ (t.core e.1).bad = [] ∧
          (t.core e.1).txSeq = (s.core e.1).txSeq ∧ (t.core e.1).choked = (s.core e.1).choked) ∧
        ∀ c, (∀ e ∈ l.saved, e.1 ≠ c) → t.core c = s.core c)

/-! ### Fabric, translation, management (spec 05, R130 to R139; spec 19, R385 to R395; spec 20, R398 to R408; spec 21) -/

/-- R130, R132, R133, R138, R355, R396 to R408: a round of a switch output, which serves the next class with a contender and credit and
counts in its class; a retransmission, by a port of the live map; what arrives from another package (foreign versions and types are
dropped; a request whose rank does not name its package has status 4, a duplicate the first answer or waits for it, a marked one of them
a notice; a PUT goes to its core, a message takes its place in its flow; a reply ends its request; a notice reaches a core of its partition); the loss of a port, of a package and
of a mesh link. What an arriving header does not carry is a free value (log entry 30), whether a packet with slack 0 is marked among
it (log entry 78): the model's choices. -/
def Obligations.FabricEvents : Prop :=
  ∀ (i o : Nat) (h : SutreHeader) (pay : List Word) (eth : Bool) (port : BitVec 6) (pkg : BitVec 16) (a b : CoreNo) (s : State),
    let out := SMap.get {} s.outputs o
    let turn := fun j => (out.cls + j) % 3
    let arrive := Instr.sutrePacketArrival h pay
    let names := fun (p r k : Nat) => (s.rankEntry p r).1 = true ∧ (s.rankEntry p r).2.2.1 = k
    let stands := s.partEn h.dpart = true ∧ names h.dpart h.srank h.spkg
    let seen := fun e : Nat × Nat × Nat × Nat × List Word => e.1 = filterKey h.dpart h.spkg h.srank ∧ e.2.1 = h.scn ∧ e.2.2.1 = h.seq
    let known := s.filter.find? fun e => e.1 == filterKey h.dpart h.spkg h.srank && e.2.1 == h.scn && e.2.2.1 == h.seq
    let reply := fun (st : Nat) (data : List Word) =>
      s.remoteReply ⟨h.dpart, h.dpkg, h.spkg, h.srank, h.scn, h.seq⟩ h.dcn (min 4095 (h.slack + s.arrivingRallow)) h.kind (.reply st data)
    let passed : State := { s with fresh := s.fresh + 4 }
    let noticed : State := if s.arrivingMark h then passed.send (s.remoteReply (issuerOf h) h.dcn 0 h.kind .exhausted) else passed
    let ended := fun (p : Packet) (slack st : Nat) (data : List Word) =>
      { p with home := .core p.cn, slack := slack, rallow := 0, marked := false, reply := true, body := .reply st data }
    let again := fun (t : State) (p : Packet) => match t.portOf p.own p.dpkg p.scn p.dcn with
      | some n => { p with port := some n }
      | none => if p.reply then { p with port := none } else ended p 0 1 []
    let running := fun l : Launch => l ∈ s.launches ∧ l.state = .running
    let origin := fun l : Launch => l.y0 * 64 + l.x0
    let room := fun c : Nat => ((s.core c).trap.queue.filter fun q => !keptCause q.cause).length < 12
    let live := if eth then s.enetLive else s.sutreLive
    let n := port.toNat
    ((∀ x ∈ out.waiting, (s.packet x.pkt).isSome = true) → (out.waiting.map (·.pkt)).Nodup →
      ∀ j < 3, turn j ∉ out.starved → (∃ x ∈ out.waiting, x.cls = turn j) →
        (∀ k < j, turn k ∈ out.starved ∨ ∀ x ∈ out.waiting, x.cls ≠ turn k) → Answers (.arbitrationRound o []) s fun t =>
          let w := SMap.get {} t.outputs o
          let rivals := out.waiting.filter fun x => x.cls == turn j
          ∃ g ∈ rivals, w.waiting = out.waiting.erase g ∧ w.ptr = (g.input + 1) % (s.ipOf 0x046).toNat ∧ w.starved = out.starved ∧
            w.rounds = SMap.put out.rounds (turn j) (SMap.get 0 out.rounds (turn j) + 1) ∧ w.cls = (turn j + 1) % 3 ∧ (∀ x ∈ rivals, s.slackOf g ≤ s.slackOf x) ∧
            (s.slackOf g = 0 → ∀ x ∈ rivals, s.slackOf x = 0 → g.head ≤ x.head) ∧ s.packet g.pkt = t.packet g.pkt ∧
            (∀ x ∈ out.waiting, x.cls ≠ turn j → t.packet x.pkt = s.packet x.pkt) ∧
            ∀ x ∈ rivals, x ≠ g → ∀ p, s.packet x.pkt = some p →
              t.packet x.pkt = some { p with slack := p.slack - 1, marked := p.marked || p.slack == 1 }) ∧
    (∀ p, s.packet i = some p → p.leaves = true → p.ctx ≠ 12 →
      exec (.retransmission i) s = .next { s with net := SMap.put s.net i (again s p) }) ∧
    (h.ver ≠ 1 ∨ 2 < h.type → exec arrive s = .next s) ∧
    (h.ver = 1 → h.type = 0 →
      (∀ e, known = some e → exec arrive s =
        .next (noticed.send (if stands then reply e.2.2.2.1 e.2.2.2.2 else reply 4 []))) ∧
      (known = none → (∃ e ∈ s.net, e.2.issuer = some (issuerOf h) ∧ e.2.reply = false ∧ e.2.leaves = false) → exec arrive s = .next noticed) ∧
      (known = none → s.net = [] → s.early = [] →
        (¬stands → ¬(h.major = 0x2C ∧ h.minor = 0) → Answers arrive s fun t =>
          t.net = (noticed.send (reply 4 [])).net ∧ (∃ e ∈ t.filter, seen e) ∧ MemSame s t) ∧
        (stands → h.major = 0x2C → h.minor = 2 → Answers arrive s fun t =>
          ∃ p, t = { s with net := [(s.nextPkt, p)], nextPkt := s.nextPkt + 1, fresh := s.fresh + 4 } ∧ p.home = .core h.dcn ∧
            p.addr = h.addr ∧ p.slack = h.slack ∧ p.rallow = s.arrivingRallow ∧ p.marked = s.arrivingMark h ∧ p.remote = some (h.srank, h.spkg) ∧ p.part = h.dpart ∧ p.cn = h.scn ∧ p.seq = h.seq ∧
            p.own = h.dpkg ∧ p.reply = false ∧ p.body = .put ((pay.flatMap fun w => leBytes 8 w.toNat).take h.len)) ∧
        (h.major = 0x2C → h.minor = 0 →
          let flow := (h.spkg, h.scn, h.dcn)
          let want := ((s.flows.find? fun f => f.1 == flow).map (·.2)).getD 0
          let carries := fun p : Packet => p.home = .core h.dcn ∧ p.slack = h.slack ∧ p.remote = some (h.srank, h.spkg) ∧ p.part = h.dpart ∧
            p.cn = h.scn ∧ p.seq = h.seq ∧ p.flowSeq = h.flowSeq ∧ p.body = .message
              { chan := h.chan, tag := h.tag, bytes := (pay.flatMap fun w => leBytes 8 w.toNat).take h.len,
                src := sourceId 1 h.srank h.scn, ack := some (issuerOf h, 0) }
          (h.flowSeq = want → Answers arrive s fun t => MemSame s t ∧ (∃ p, t.net = [(s.nextPkt, p)] ∧ carries p) ∧ t.early = [] ∧
            t.flows.find? (fun f => f.1 == flow) = some (flow, (want + 1) % 65536)) ∧
          (h.flowSeq ≠ want → want < 65536 → (h.flowSeq + 65536 - want) % 65536 < 2 ^ 15 → h.flowSeq < 65536 → Answers arrive s fun t =>
            MemSame s t ∧ t.net = [] ∧ t.flows = s.flows ∧ ∃ p, t.early = [p] ∧ carries p)))) ∧
    (h.ver = 1 → h.type = 1 → h.status ≤ 6 → ∀ p, p.outgoing = true → p.cn = h.dcn → p.seq = h.seq → p.part = h.dpart →
      p.remote.map (·.2) = some h.spkg → p.ctx ≠ 12 → s.net = [(i, p)] →
        exec arrive s =
          .next { s with net := [(i, { ended p h.slack h.status pay with marked := s.arrivingMark h })], fresh := s.fresh + 4 }) ∧
    (h.ver = 1 → h.type = 2 →
      ((s.core h.dcn).job.map (·.1) ≠ some h.dpart → exec arrive s = .next s) ∧
      ((s.core h.dcn).job.map (·.1) = some h.dpart →
        (h.status = 0 → ∃ p, exec arrive s = .next (s.send p) ∧ p.home = .core h.dcn ∧ p.slack = h.slack ∧ p.body = .exhausted ∧ p.seq = h.seq) ∧
        (h.status = 1 → (∃ r, names h.dpart r h.spkg) → ∃ p r, exec arrive s = .next (s.send p) ∧ names h.dpart r h.spkg ∧
          p.home = .core h.dcn ∧ p.slack = h.slack ∧ p.body = .congestion (.rank (.ofNat 32 r))))) ∧
    (wbit live n = true → Answers (.portRetryExhausted eth port) s fun t =>
      (∀ k < 64, wbit (if eth then t.enetLive else t.sutreLive) k = (wbit live k && k != n)) ∧
      (if eth then t.sutreLive else t.enetLive) = (if eth then s.sutreLive else s.enetLive) ∧ MemSame s t ∧
      (s.net = [] → t.net = []) ∧
      ((∃ k < 64, k ≠ n ∧ wbit live k = true) →
        (∀ p, s.net = [(i, p)] → p.leaves = true → p.ctx ≠ 12 →
          t.net = [(i, if p.port = some (if eth then 64 + n else n) then again t p else p)]) ∧
        (∀ l, running l → (∀ l', running l' → origin l' = origin l → l' = l) → s.launches.Nodup → room (origin l) →
          Queued s t (origin l) 0xA9))) ∧
    Answers (.packageLost pkg) s (fun t => MemSame s t ∧ (∀ e ∈ s.lost, e ∈ t.lost) ∧
      (∀ p r, SMap.has s.parts p = true → names p r pkg.toNat → (p, r, pkg.toNat) ∈ t.lost) ∧
      (∀ e ∈ t.net, ¬(e.2.outgoing = true ∧ e.2.ctx ≠ 12 ∧ e.2.remote.map (·.2) = some pkg.toNat ∧ SMap.rising s.net = true)) ∧
      (∀ l r, s.launches = [l] → l.state = .running → names l.part r pkg.toNat → (∀ q, names l.part q pkg.toNat → q = r) →
        room (origin l) → Queued s t (origin l) 0xAA)) ∧
    (s.onMesh a.toNat = true → s.onMesh b.toNat = true → (∃ d < 4, s.neighbour a.toNat d = some b.toNat) →
      Answers (.meshLinkError a b) s fun t => MemSame s t ∧ (∀ c, c ≠ a.toNat → c ≠ b.toNat → t.core c = s.core c) ∧
        ∀ c ∈ [a.toNat, b.toNat], room c → Queued s t c 0xA8)

/-- R388 to R392: a walk fills the caches with the leaf that it finds; an invalidation entry removes what it names from every
slice and from the caches of the partition's cores, and its RESULT and INVDONE are written, but for a RESULT that lies in a field of
the launch sequencer (R362); an entry with another OP has RESULT 2. -/
def Obligations.TranslationEvents : Prop :=
  ∀ (cn : CoreNo) (va : BitVec 48) (p : BitVec 4) (s : State),
    let P := p.toNat
    let n := cn.toNat
    let asid := s.asid P
    let index := s.invRing P - 8
    let done := fun (t : State) (at_ r : Nat) => at_ + 17 ≤ index ∨ index + 4 ≤ at_ + 16 → (∀ k < 4, s.sequencerField (index + k) = false) →
      (Memory.byte t.gmem (at_ + 16)).toNat = (if s.sequencerField (at_ + 16) then (Memory.byte s.gmem (at_ + 16)).toNat else r) ∧ Memory.num t.gmem index 4 = (Memory.num s.gmem index 4 + 1) % 2 ^ 32 ∧
      ∀ a, a ≠ at_ + 16 → a < index ∨ index + 4 ≤ a → Memory.byte t.gmem a = Memory.byte s.gmem a
    let drops := fun (t : State) (hit : XEntry → Prop) =>
      (∀ sl ∈ t.slices, ∀ e ∈ sl.2, ¬hit e) ∧
      (∀ c, s.inPartition P (c % 64) (c / 64) = true → ∀ e, e ∈ (t.core c).xcache ↔ e ∈ (s.core c).xcache ∧ ¬hit e) ∧
      ∀ c, (t.core c).mem = (s.core c).mem
    (∀ lid, (s.core n).job = some (P, lid) → cacheHit (s.core n).xcache .read asid va.toNat = none →
      (∀ pte l2, s.dieWalk P va.toNat = .leaf pte l2 → Answers (.pageWalk cn va) s fun t =>
        MemSame s t ∧ (0 < (s.ipOf 0x047).toNat → ⟨asid, va.toNat / 2 ^ l2, l2, pte⟩ ∈ (t.core n).xcache) ∧
        (∀ acc pa, leafOutcome acc pte l2 va.toNat = .ok pa → 0 < (s.ipOf 0x047).toNat → (t.translate (some n) P va.toNat acc).1 = .ok pa)) ∧
      (∀ x, s.dieWalk P va.toNat = .stop x → exec (.pageWalk cn va) s = .next s)) ∧
    (∀ at_ v, s.nextInvalidation P = some (at_, 1, v) → Answers (.invalidatePage p) s fun t =>
      done t at_ 0 ∧ drops t fun e => e.asid = asid ∧ v / 2 ^ e.log2 = e.page) ∧
    (∀ at_ v, s.nextInvalidation P = some (at_, 2, v) → Answers (.invalidateAsid p) s fun t =>
      done t at_ 0 ∧ drops t fun e => e.asid = asid) ∧
    (∀ at_ op v, s.nextInvalidation P = some (at_, op, v) → op ≠ 1 → op ≠ 2 → Answers (.invalidateMalformed p) s fun t =>
      done t at_ 2 ∧ t.cores = s.cores ∧ t.slices = s.slices)

/-- R353, R355, R421, R422, R427: what the management path does to one core or to the cores of a launch: machine checks, halts,
the matrix engine's power, debug stops. Nothing else of a core changes but what is named. How the stop of a core that diverged
lands, and what DREL leaves of it, is log entry 59, the model's choice. -/
def Obligations.CoreManagement : Prop :=
  ∀ (cn : CoreNo) (p : BitVec 4) (lid : BitVec 32) (s : State),
    let n := cn.toNat
    let c := s.core n
    let only := fun (t : State) (f : Core → Core) => t = s.modCore n f
    let halt := fun h : Bool => fun c : Core => { c with control := { c.control with halted := h } }
    let power := fun h : Bool => fun c : Core => { c with matrix := { c.matrix with powered := h } }
    (s.onMesh n = true → Answers (.machineCheck cn) s fun t =>
      (t.core n).control.halted = true ∧ (t.core n).trap.hwUnc = c.trap.hwUnc + 1 ∧ MemSame s t ∧ (∀ j, j ≠ n → t.core j = s.core j) ∧
      t.mgmt.records = s.mgmt.records ++ [(n, { cause := 0xAB, cn := n, lid := s.lidOf n })]) ∧
    (s.onMesh n = true → Answers (.coreHalt cn) s fun t => only t (halt true)) ∧
    (c.control.halted = true → Answers (.haltRelease cn) s fun t => only t (halt false)) ∧
    (c.matrix.powered = true → c.matrix.owner = [] → Answers (.matrixEnginePowerDown cn) s fun t => only t (power false)) ∧
    (c.matrix.powered = false → Answers (.matrixEngineReady cn) s fun t => only t (power true)) ∧
    (c.control.dstop = true → c.control.dlanded = false → (∀ k, 1 ≤ k → k ≤ 10 → s.unblocked n k = false) →
      Answers (.debugStop cn) s fun t => (t.core n).control.dlanded = true ∧ MemSame s t ∧ (∀ j, j ≠ n → t.core j = s.core j) ∧
        (c.control.dreq = true → ∃ r ∈ (t.core n).trap.queue, r.cause = 0xA3) ∧
        (c.control.diverged = true → ∃ r ∈ (t.core n).trap.queue, r.cause = 0xA4) ∧
        (c.control.dreq = false → c.control.diverged = false → (t.core n).trap = c.trap)) ∧
    (∀ l, LaunchIs s p lid l → l.holds = true →
      (Answers (.dstopWrite p lid) s fun t => MemSame s t ∧ (t.debugOf p.toNat).dstop = lid ∧
        (∀ j ∈ l.cores, (t.core j).control = { (s.core j).control with dstop := true, dreq := true } ∧
          ((s.core j).control.dlanded = false → (t.core j).trap = (s.core j).trap) ∧
          ((s.core j).control.dlanded = true → (s.core j).control.dreq = false → ∃ r ∈ (t.core j).trap.queue, r.cause = 0xA3)) ∧
        ∀ j, j ∉ l.cores → t.core j = s.core j) ∧
      (Answers (.drelWrite p lid) s fun t => MemSame s t ∧ (t.debugOf p.toNat).drel = lid ∧
        (∀ j ∈ l.cores, (s.core j).control.diverged = false →
          (t.core j).control = { (s.core j).control with dstop := false, dlanded := false, dreq := false }) ∧
        (∀ j ∈ l.cores, (s.core j).control.diverged = true → (t.core j).control = { (s.core j).control with dreq := false }) ∧
        (∀ j, j ∉ l.cores → t.core j = s.core j))) ∧
    (∀ l, LaunchIs s p lid l → l.holds = false →
      (Answers (.dstopWrite p lid) s fun t => t.cores = s.cores ∧ t.gmem = s.gmem ∧
        LaunchIs t p lid { l with saved := l.saved.map fun e => (e.1, { e.2 with control :=
          { e.2.control with dstop := true, dreq := true, dlanded := e.2.control.dlanded && e.2.control.dreq } }) }) ∧
      (Answers (.drelWrite p lid) s fun t => t.cores = s.cores ∧ t.gmem = s.gmem ∧
        LaunchIs t p lid { l with saved := l.saved.map fun e => (e.1, { e.2 with control :=
          if e.2.control.diverged then { e.2.control with dreq := false }
          else { e.2.control with dstop := false, dlanded := false, dreq := false } }) }))

/-- R384, R395, R412 to R420: package reset and recovery, which start the firmware only on images that verify; the start of
the units; attestation; unknown mailbox commands; semaphores, which the window also reaches; partition descriptors, where a change of
ROOT or ASID drops the entries of the old and of the new ASID. The signature and the identity (log entry 12), mailbox command 1, the
withheld package and what a reset does to memory (log entry 58), empty cores and partition descriptors after it (log entry 1), and empty
local and global memory (log entries 2 and 3) are the model's choices. -/
def Obligations.PackageManagement : Prop :=
  ∀ (p : BitVec 4) (dws : List Word) (port : BitVec 2) (hp : BitVec 1) (n : BitVec 5) (w : Word) (s : State),
    let boot := Config.bootFlash
    let sem := fun (t : State) (k : Nat) => SMap.get 0 t.mgmt.hsem k
    let old := sem s n.toNat
    let P := p.toNat
    Answers .packageReset s (fun t => t.cores = [] ∧ t.launches = [] ∧ t.net = [] ∧ t.parts = [] ∧ t.gmem = [] ∧
      (bootable boot.1 boot.2 = true → t.mgmt.running = true ∧ t.mgmt.recovery = false ∧
        (14 ≤ rowsPerDie boot.2 → wfld (t.ipOf 0x042) 0 8 = 2 * rowsPerDie boot.2 % 256 ∧ t.mgmt.withheld = false) ∧
        (rowsPerDie boot.2 < 14 → t.mgmt.withheld = true ∧ t.mgmt.status = 2)) ∧
      (bootable boot.1 boot.2 = false → t.mgmt.running = false ∧ t.mgmt.recovery = true ∧ t.mgmt.status = 0x100)) ∧
    (s.mgmt.running = true → s.mgmt.withheld = false → s.mgmt.started < s.unitCount → Answers .unitStart s fun t =>
      t = { s with mgmt := { s.mgmt with started := s.mgmt.started + 1 } }) ∧
    (s.mgmt.recovery = true → s.mgmt.asked = true → s.mgmt.cmd = 1 → Answers .recoveryLoad s fun t =>
      t.cores = s.cores ∧ t.gmem = s.gmem ∧ t.mgmt.asked = false ∧
      ((t.mgmt.running = s.mgmt.running ∧ t.mgmt.recovery = true ∧ t.mgmt.status = 3) ∨ (t.mgmt.running = true ∧ t.mgmt.recovery = false ∧
        bootable t.mgmt.firmware t.mgmt.config = true))) ∧
    (s.mgmt.running = true → s.mgmt.asked = true → s.mgmt.cmd = 0x10 → Answers .attestation s fun t =>
      let r := Memory.read s.mgmt.data 0x100 48 ++ sha384 s.mgmt.firmware ++ sha384 s.mgmt.config ++
        leBytes 8 (s.ipOf 0x040).toNat ++ identityKey ++ List.replicate 7 0
      let signed := r ++ ecdsaSign identityD r
      t.mgmt.status = 0 ∧ t.mgmt.asked = false ∧ Holds t.mgmt.data 0x200 signed ∧
      SameOutside s.mgmt.data t.mgmt.data 0x200 signed.length ∧ t.cores = s.cores) ∧
    (s.mgmt.asked = true → (s.mgmt.recovery = true ∧ s.mgmt.cmd ≠ 1) ∨ (s.mgmt.running = true ∧ s.mgmt.cmd ≠ 0x10) →
      Answers .mailboxUnknownCommand s fun t => t = { s with mgmt := { s.mgmt with status := 1, asked := false } }) ∧
    Answers (.hsemRead [(port, n)]) s (fun t => (∀ k, k ≠ n.toNat → sem t k = sem s k) ∧ t.cores = s.cores ∧ t.gmem = s.gmem ∧
      (port.toNat < 3 → old / 256 % 2 = 0 → sem t n.toNat = 256 + port.toNat ∧
        t.mgmt.returned = [(port.toNat, .ofNat 64 (2 ^ 16 + 256 + port.toNat))]) ∧
      (port.toNat < 3 → old / 256 % 2 = 1 → sem t n.toNat = old ∧ t.mgmt.returned = [(port.toNat, .ofNat 64 old)])) ∧
    Answers (.hsemWrite port n w) s (fun t => (∀ k, k ≠ n.toNat → sem t k = sem s k) ∧ t.cores = s.cores ∧
      sem t n.toNat = if w.getLsbD 8 = false ∧ (port = 2 ∨ (old / 256 % 2 = 1 ∧ old % 4 = port.toNat)) then 0 else old) ∧
    Answers (.hostLinkReset hp) s (fun t => t.cores = s.cores ∧
      (SMap.rising s.mgmt.hsem = true → ∀ k, sem t k = if sem s k = 256 + hp.toNat then 0 else sem s k)) ∧
    (s.mayDescribe P dws = true → Answers (.partitionDescriptorWrite p dws) s fun t =>
      SMap.get [] t.parts P = dws ∧ (∀ k, k ≠ P → SMap.get [] t.parts k = SMap.get [] s.parts k) ∧ t.launches = s.launches ∧
      (∀ c, (t.core c).mem = (s.core c).mem) ∧
      (s.asid P ≠ wfld (dws.getD 2 0) 0 16 ∨ wfld (s.partDw P 3) 12 34 ≠ wfld (dws.getD 3 0) 12 34 →
        (∀ sl ∈ t.slices, ∀ e ∈ sl.2, e.asid ≠ s.asid P ∧ e.asid ≠ wfld (dws.getD 2 0) 0 16) ∧
        ∀ c, (s.inPartition P (c % 64) (c / 64) = true → ∀ e ∈ (t.core c).xcache, e.asid ≠ s.asid P) ∧
          (t.inPartition P (c % 64) (c / 64) = true → ∀ e ∈ (t.core c).xcache, e.asid ≠ wfld (dws.getD 2 0) 0 16))) ∧
    (∀ off : BitVec 24, off.toNat = 8 * n.toNat → port.toNat < 3 →
      (∃ t, s.outside (.readWindow port off 8) = .next t ∧ t.mgmt.hsem = (s.mgmt.readSem port.toNat n.toNat).hsem ∧
        t.mgmt.returned = [(3, if old / 256 % 2 = 0 then .ofNat 64 (2 ^ 16 + 256 + port.toNat) else .ofNat 64 (old % 2 ^ 64))] ∧
        t.cores = s.cores ∧ t.gmem = s.gmem) ∧
      (∃ t, s.outside (.writeWindow port off (leBytes 8 w.toNat)) = .next t ∧ t.cores = s.cores ∧ t.gmem = s.gmem ∧
        t.mgmt = s.mgmt.writeSem port.toNat n.toNat w))

/-! ### Steps, encodings, memories, reset (spec 09, R196 to R203; spec 01, R36 to R39; spec 17, R343, R353) -/

/-- R38, R196, R203, R343, R353: a step runs the decoded instruction. In a slot of core cn with no record due, where context k
has the slot, the bytes at its program counter decode to i and no check before i's own stops it, the step is exec of i and
then the end of the slot; a context that has waited goes on with the instruction at which it waits; a check that fails raises
its record; a record that is due is taken first; a slot with no context to issue passes. An event is a step of its own, and
so is what the host, M or the fabric does. The list of moves is the model's (log entries 5 and 64).
R166, R167, R172: a store may be left for later, is read by its own context alone until then, and is performed by a move of its
own, behind the context's earlier stores to its bytes; so may a load, and bytes may be read ahead; an instruction that keeps program order, and a context that takes a trap, find
every access of the context performed, and an instruction finds the context's own requests to its bytes performed. These late and
early accesses (log entry 7), and that a wait goes on without a new fetch (log entry 32), are the model's choices too. -/
def Obligations.StepRunsDecoded : Prop :=
  ∀ (cn : CoreNo) (k len : Nat) (i : Instr) (o : Outside) (rest : List Byte) (r : FaultRec) (ms : List Move) (st : BitVec 3)
    (d a : BitVec 5) (imm : BitVec 12) (bn : BitVec 2) (wd : BitVec 5) (s : State),
    let n := cn.toNat
    let m : State := { s with moves := ms }
    let u := m.issuing n k
    let v := u.inOrder n k
    let ends := fun o : Out => step s = match o with
      | .next t => .next (t.endSlot n)
      | .fault f => .fault f
      | .refused x => .refused x
    let runs := fun i : Instr =>
      let w := u.cleared n k i
      let ordered := ((w.core n).cx k).late = [] ∧ ((w.core n).cx k).early = [] ∧ ((w.core n).cx k).deferred = []
      (k ≠ 11 → u.ownPackets n k (u.accesses i) = [] → w = u) ∧
      (k = 11 → ∀ j, ((w.core n).cx j).deferred = []) ∧
      (ordered → ends (exec i (w.latchInstr i))) ∧
      (i.looseness = .strict → ¬ordered → ends (exec i ((w.inOrder n k).latchInstr i)))
    (s.moves = .slot cn :: ms → s.onMesh n = false → step s = .fault .noSuchCore) ∧
    (s.moves = .slot cn :: ms → s.onMesh n = true →
      ((s.core n).trapDue = true → step s = exec (.trapEntry cn) s) ∧
      ((s.core n).trapDue = false → s.pick n = none → step s = .next ((m.tick n none).endSlot n)) ∧
      ((s.core n).trapDue = false → s.pick n = some k →
        (u.cx.wait = .none → u.breakpoint = none → u.fetchFault = none →
          decodeBytes (Memory.read u.me.mem u.cx.pc.toNat 4) = some (.ok i len, rest) → (u.fetchedMajor = 0x3E → u.isS = true) →
          u.issueFault i = none → runs i) ∧
        (u.cx.wait ≠ .none → u.cx.cur = some i → runs i) ∧
        (u.issued = .error r → step s = .next ((v.raise r).endSlot n)))) ∧
    v.me.mem = (u.me.performAll u.curCtx).mem ∧ v.cx.late = [] ∧ v.cx.early = [] ∧ v.cx.deferred = [] ∧
    (let A := (u.immAddr a imm 8).toNat
     let B := (u.readB bn).toNat
     let F := bitSpan B (wd.toNat + 1)
     let issuesAt := fun (f l : Nat) (mv : Move) (i : Instr) => s.moves = mv :: ms ∧ s.onMesh n = true ∧ (s.core n).trapDue = false ∧
       s.pick n = some k ∧ u.issued = .ok i ∧ u.cx.held = false ∧ u.cx.early = [] ∧
       u.cleared n k i = u ∧ 0x2000 ≤ f ∧ f + l ≤ 0x300000 ∧ u.me.badIn f l = false
     let issues := fun (mv : Move) (i : Instr) => issuesAt A 8 mv i ∧ A % 8 = 0
     (issuesAt F.1 F.2 (.slotLate cn) (.bstI st d bn wd) → u.cx.late = [] → B % 64 + wd.toNat < 64 →
       u.storeProtected n u.isS F.1 F.2 = false →
       ∃ t, step s = .next t ∧ (t.core n).mem = (s.core n).mem ∧
         ((t.core n).cx k).late = [(B, wd.toNat + 1, (u.readG d).toNat % 2 ^ (wd.toNat + 1))]) ∧
     (issues (.slotLate cn) (.std st d a imm) → u.cx.late = [] → u.storeProtected n u.isS A 8 = false →
       ∃ t, step s = .next t ∧ (t.core n).mem = (s.core n).mem ∧ ((t.core n).cx k).late = [(8 * A, 64, (u.readG d).toNat)]) ∧
     (∀ e, issues (.slot cn) (.ldd st d a imm) → u.cx.late = [e] →
       ∃ t, step s = .next t ∧ (t.core n).mem = (s.core n).mem ∧ ((t.core n).cx k).late = [e] ∧
         ((t.core n).cx k).rg d.toNat = if d = 0 then 0 else .ofNat 64 (Memory.num (lateWrite u.me.mem e) A 8)) ∧
     (issues (.slotLate cn) (.ldd st d a imm) → u.cx.late = [] → u.cx.deferred = [] → d ≠ 0 →
       ∃ t, step s = .next t ∧ (t.core n).mem = (s.core n).mem ∧ ((t.core n).cx k).late = [] ∧
         ∃ x, ((t.core n).cx k).deferred = [x] ∧ x.instr = .ldd st d a imm ∧ x.bytes = [(A, 8)] ∧ x.writes = [d.toNat])) ∧
    (∀ h j x, o = .readLate cn h j → ((s.core n).cx h.toNat).deferred[j]? = some x → x.instr = .ldd st d a imm → x.writes = [d.toNat] → d ≠ 0 →
       let A := ((if a = 0 then 0 else SMap.get 0 x.g a.toNat) + imm12 imm * 8).toNat
       A % 8 = 0 → 0x2000 ≤ A → A + 8 ≤ 0x300000 → (s.core n).badIn A 8 = false → ((s.core n).cx h.toNat).held = false →
       ∃ t, m.outside o = .next t ∧ (t.core n).mem = (s.core n).mem ∧
         ((t.core n).cx h.toNat).rg d.toNat = .ofNat 64 (leNat (Memory.read ((s.core n).seen h.toNat) A 8)) ∧
         ((t.core n).cx h.toNat).deferred = ((s.core n).cx h.toNat).deferred.eraseIdx j) ∧
    (∀ h b l, o = .readEarly cn h b l → m.mayRead n h.toNat b.toNat l.toNat = true →
       ∃ t, m.outside o = .next t ∧ (t.core n).mem = (s.core n).mem ∧
         ((t.core n).cx h.toNat).early = ((s.core n).cx h.toNat).early ++ [(b.toNat, Memory.read (s.core n).mem b.toNat l.toNat)]) ∧
    (∀ h j e, o = .perform cn h j → ((s.core n).cx h.toNat).late[j]? = some e → (s.core n).bad = [] →
      let (f, l) := bitSpan e.1 e.2.1
      let before := ((s.core n).cx h.toNat).late.take j
      0x2000 ≤ f →
      ((∃ x ∈ before, lateMeets e x = true) → m.outside o = .refused .notEnabled) ∧
      ((∀ x ∈ before, lateMeets e x = false) → ∃ t, m.outside o = .next t ∧
        Memory.num (t.core n).mem f l = putFld (Memory.num (s.core n).mem f l) (e.1 % 8) e.2.1 e.2.2 ∧
        ∀ b, b < f ∨ f + l ≤ b → Memory.byte (t.core n).mem b = Memory.byte (s.core n).mem b)) ∧
    (s.moves = .event i :: ms → i.wf = true → encode i = none → step s = match exec i m with
      | .next t => .next t.traceAll.endsNext
      | .fault f => .fault f
      | .refused x => .refused x) ∧
    (s.moves = .outside o :: ms → step s = match m.outside o with
      | .next t => .next t.traceAll.endsNext
      | .fault f => .fault f
      | .refused x => .refused x)

/-- R196 to R202: the decoder reads back every operand of every encoded instruction at every value that its encoding admits. -/
def Obligations.DecodeEncode : Prop :=
  ∀ (i : Instr) (n w : Nat), i.wf = true → encode i = some (n, w) → decodeTableWord n w = some i

/-- R196 to R202, R216, R220: words written out from the opcode tables decode to the instructions that they stand for; a
reserved bit, a reserved scope, a selector out of range, an unassigned minor and a word of zeros give none. -/
def Obligations.DecodedWords : Prop :=
  (let ok := fun (w : Nat) (i : Instr) => decodeTableWord 32 w = some i
   ok 0x80464280 (.add 0 3 4 5) ∧ ok 0x908A6FFD (.addi 1 5 6 0xFFD) ∧ ok 0x820A5345 (.lih 0 5 5 0x345) ∧
   ok 0x824A001C (.adpc 0 5 0x01C) ∧ ok 0x82C9BFF8 (.bnez 0 6 0x3FF8) ∧ ok 0x83400006 (.call 0 6) ∧
   ok 0x83864284 (.start 0 3 4 5) ∧ ok 0x83C80009 (.rds 0 4 9) ∧ ok 0x84560B00 (.pfx 0 5 1 0 0 5 1) ∧
   ok 0x96509000 (.ldd 1 8 9 0) ∧ ok 0x88081133 (.vfma 0 4 1 2 3 0) ∧ ok 0x8A024286 (.dmask 0 1 4 5 0 0) ∧
   ok 0x8A841000 (.qnt 0 2 1 0) ∧ ok 0x8AC25392 (.old 0 1 5 7 1) ∧ ok 0x8B109544 (.rfaddT 0 8 9 10 2) ∧
   ok 0x8B485311 (.acasW 0 4 5 6 0) ∧ ok 0x8BC62003 (.fenceSc 0 2) ∧ ok 0x8F8A6381 (.xrd 0 5 6 7)) ∧
  decodeTableWord 16 0x0443 = some (.cAdd 2 3) ∧ decodeTableWord 16 0 = none ∧
  decodeTableWord 32 0x8B1095C4 = none ∧ decodeTableWord 32 0x8BC66003 = none ∧ decodeTableWord 32 0x8BC09005 = none ∧
  decodeTableWord 32 0x8BC00007 = none

/-- Every step keeps global memory in its canonical form, whatever the state. -/
def Obligations.GlobalMemoryCanonical : Prop := ∀ s t : State, GlobalOk s → step s = .next t → GlobalOk t

/-- Every step keeps the local memory of every core in its canonical form, and so the memories that a stopped launch has
saved. -/
def Obligations.LocalMemoryCanonical : Prop := ∀ s t : State, LocalOk s → step s = .next t → LocalOk t

/-- R384: after package reset every semaphore is free. The other clauses are the model's choices, of which the spec states no value: that
no launch is accepted, no core is occupied, halted or live, no trap is handled and no record waits, no partition is described, no group
and no record stands, and nothing is in flight (log entry 1), and that both kinds of memory have their canonical form with nothing listed
(log entries 2 and 3). -/
def Obligations.ResetState : Prop :=
  let s := State.reset
  GlobalOk s ∧ LocalOk s ∧ s.launches = [] ∧ s.net = [] ∧ s.groups = [] ∧ s.mgmt.records = [] ∧
  (∀ n, SMap.get 0 s.mgmt.hsem n = 0) ∧ (∀ p, s.partEn p = false) ∧
  ∀ cn, (s.core cn).job = none ∧ (s.core cn).trap.busy = false ∧ (s.core cn).trap.queue = [] ∧ (s.core cn).control.halted = false ∧
    ∀ k, ((s.core cn).cx k).live = false
end

