-- ==== Sys2Proof/Laws/Map.lean ====
section
/-! SUPPORT. The laws of sparse maps and byte memories: read after write, writes leave every other key alone, and
every memory operation keeps the canonical form. -/

namespace Sys2Proof.Machine

/-! ### Sparse maps -/

@[simp] theorem SMap.get_nil {α : Type} (d : α) (k : Nat) : SMap.get d [] k = d := rfl

@[simp] theorem SMap.get_put_same {α : Type} (d x : α) (m : SMap α) (k : Nat) : SMap.get d (SMap.put m k x) k = x := by
  induction m with
  | nil => simp [SMap.put, SMap.get]
  | cons e m ih =>
    obtain ⟨j, y⟩ := e
    by_cases h : j < k
    · simp [SMap.put, SMap.get, h, Nat.ne_of_lt h, ih]
    · by_cases h2 : j = k <;> simp [SMap.put, SMap.get, h, h2]

theorem SMap.get_put_other {α : Type} (d x : α) (m : SMap α) {k j : Nat} (h : j ≠ k) :
    SMap.get d (SMap.put m k x) j = SMap.get d m j := by
  induction m with
  | nil => simp [SMap.put, SMap.get, Ne.symm h]
  | cons e m ih =>
    obtain ⟨i, y⟩ := e
    by_cases h1 : i < k
    · rw [SMap.put, if_pos h1]; simp only [SMap.get, ih]
    · by_cases h2 : i = k
      · subst h2; simp [SMap.put, SMap.get, Ne.symm h]
      · simp [SMap.put, SMap.get, h1, h2, Ne.symm h]

theorem SMap.get_put {α : Type} (d x : α) (m : SMap α) (k j : Nat) :
    SMap.get d (SMap.put m k x) j = if j = k then x else SMap.get d m j := by
  split
  · next h => rw [h, SMap.get_put_same]
  · next h => exact SMap.get_put_other d x m h

@[simp] theorem SMap.put_put {α : Type} (m : SMap α) (k : Nat) (x y : α) :
    SMap.put (SMap.put m k x) k y = SMap.put m k y := by
  induction m with
  | nil => simp [SMap.put]
  | cons e m ih =>
    obtain ⟨j, z⟩ := e
    by_cases h : j < k
    · simp [SMap.put, h, ih]
    · by_cases h2 : j = k <;> simp [SMap.put, h, h2]

/-! ### Rising keys -/

/-- Every key of the list is above k. -/
def SMap.above {α : Type} (k : Nat) (m : SMap α) : Prop := ∀ e ∈ m, k < e.1

theorem SMap.rising_cons {α : Type} (k : Nat) (x : α) (m : SMap α) :
    SMap.rising ((k, x) :: m) = true ↔ SMap.above k m ∧ SMap.rising m = true := by
  induction m generalizing k x with
  | nil => simp [SMap.rising, SMap.above]
  | cons e m ih =>
    obtain ⟨j, y⟩ := e
    have hj := ih j y
    simp only [SMap.rising, Bool.and_eq_true, decide_eq_true_eq] at *
    constructor
    · rintro ⟨h1, h2⟩
      refine ⟨?_, h2⟩
      intro e he
      rcases List.mem_cons.mp he with rfl | he
      · exact h1
      · exact Nat.lt_trans h1 ((hj.mp h2).1 e he)
    · rintro ⟨h1, h2⟩
      exact ⟨h1 (j, y) List.mem_cons_self, h2⟩

theorem SMap.above_put {α : Type} {k : Nat} {m : SMap α} (h : SMap.above k m) {j : Nat} (hj : k < j) (x : α) :
    SMap.above k (SMap.put m j x) := by
  induction m with
  | nil => intro e he; simp [SMap.put] at he; subst he; exact hj
  | cons e m ih =>
    obtain ⟨i, y⟩ := e
    have hm : SMap.above k m := fun e he => h e (List.mem_cons_of_mem _ he)
    have hi : k < i := h (i, y) List.mem_cons_self
    unfold SMap.put
    split
    · intro e he
      rcases List.mem_cons.mp he with rfl | he
      · exact hi
      · exact ih hm e he
    · split
      · intro e he
        rcases List.mem_cons.mp he with rfl | he
        · exact hj
        · exact hm e he
      · intro e he
        rcases List.mem_cons.mp he with rfl | he
        · exact hj
        · exact h e he

theorem SMap.rising_put {α : Type} {m : SMap α} (h : SMap.rising m = true) (k : Nat) (x : α) :
    SMap.rising (SMap.put m k x) = true := by
  induction m with
  | nil => rfl
  | cons e m ih =>
    obtain ⟨j, y⟩ := e
    obtain ⟨ha, hr⟩ := (SMap.rising_cons j y m).mp h
    unfold SMap.put
    split
    · next hlt => exact (SMap.rising_cons _ _ _).mpr ⟨SMap.above_put ha hlt x, ih hr⟩
    · next hlt =>
      split
      · next he => subst he; exact (SMap.rising_cons _ _ _).mpr ⟨ha, hr⟩
      · next hne =>
        refine (SMap.rising_cons _ _ _).mpr ⟨?_, h⟩
        intro e he
        rcases List.mem_cons.mp he with rfl | he
        · show k < j; omega
        · have : j < e.1 := ha e he
          omega

theorem SMap.rising_filter {α : Type} {m : SMap α} (h : SMap.rising m = true) (f : Nat × α → Bool) :
    SMap.rising (m.filter f) = true := by
  induction m with
  | nil => rfl
  | cons e m ih =>
    obtain ⟨j, y⟩ := e
    obtain ⟨ha, hr⟩ := (SMap.rising_cons j y m).mp h
    by_cases hf : f (j, y)
    · rw [List.filter_cons_of_pos hf]
      exact (SMap.rising_cons _ _ _).mpr ⟨fun e he => ha e (List.mem_filter.mp he).1, ih hr⟩
    · rw [List.filter_cons_of_neg hf]; exact ih hr

theorem SMap.all_put {α : Type} {m : SMap α} {f : Nat × α → Bool} (h : m.all f = true) {k : Nat} {x : α} (hx : f (k, x) = true) :
    (SMap.put m k x).all f = true := by
  induction m with
  | nil => simp [SMap.put, hx]
  | cons e m ih =>
    obtain ⟨j, y⟩ := e
    simp only [List.all_cons, Bool.and_eq_true] at h
    unfold SMap.put
    split
    · simp [h.1, ih h.2]
    · split <;> simp [hx, h.1, h.2]

theorem SMap.get_del_same {α : Type} (d : α) (m : SMap α) (k : Nat) : SMap.get d (SMap.del m k) k = d := by
  unfold SMap.del
  induction m with
  | nil => rfl
  | cons e m ih =>
    obtain ⟨j, y⟩ := e
    by_cases h : j = k <;> simp_all [SMap.get]

theorem SMap.get_filter_other {α : Type} (d : α) (m : SMap α) (f : Nat × α → Bool) (j : Nat) (h : ∀ y, f (j, y) = true) :
    SMap.get d (m.filter f) j = SMap.get d m j := by
  induction m with
  | nil => rfl
  | cons e m ih =>
    obtain ⟨i, y⟩ := e
    by_cases hf : f (i, y)
    · rw [List.filter_cons_of_pos hf]; simp only [SMap.get, ih]
    · rw [List.filter_cons_of_neg hf, ih]
      by_cases hi : i = j
      · subst hi; exact absurd (h y) hf
      · simp [SMap.get, hi]

theorem SMap.get_del_other {α : Type} (d : α) (m : SMap α) {k j : Nat} (h : j ≠ k) :
    SMap.get d (SMap.del m k) j = SMap.get d m j :=
  SMap.get_filter_other d m _ j fun _ => by simp [h]

/-! ### Memories -/

/-- Read after a write of one byte, at every address. -/
theorem Memory.byte_setByte (m : Memory) (a : Nat) (b : Byte) (j : Nat) :
    Memory.byte (Memory.setByte m a b) j = if j = a then b else Memory.byte m j := by
  unfold Memory.byte Memory.setByte
  by_cases hb : b = 0
  · subst hb
    by_cases hj : j = a
    · subst hj; simpa using SMap.get_del_same (0 : BitVec 8) m j
    · simpa [hj] using SMap.get_del_other (0 : BitVec 8) m hj
  · rw [if_neg hb, SMap.get_put]

/-- Read after a write of bytes, outside them. -/
theorem Memory.byte_write_outside (m : Memory) (a : Nat) (bs : List Byte) (j : Nat) (h : j < a ∨ a + bs.length ≤ j) :
    Memory.byte (Memory.write m a bs) j = Memory.byte m j := by
  induction bs generalizing m a with
  | nil => rfl
  | cons b bs ih =>
    simp only [List.length_cons] at h
    rw [Memory.write, ih _ _ (by omega), Memory.byte_setByte, if_neg (by omega)]

/-- Read after a write of bytes, inside them. -/
theorem Memory.byte_write_inside (m : Memory) (a : Nat) (bs : List Byte) (i : Nat) (h : i < bs.length) :
    Memory.byte (Memory.write m a bs) (a + i) = bs[i] := by
  induction bs generalizing m a i with
  | nil => simp at h
  | cons b bs ih =>
    rw [Memory.write]
    cases i with
    | zero => rw [Memory.byte_write_outside _ _ _ _ (by omega), Memory.byte_setByte]; simp
    | succ i =>
      have h' : i < bs.length := by simpa using h
      have := ih (Memory.setByte m a b) (a + 1) i h'
      rw [show a + (i + 1) = a + 1 + i by omega, this]; simp

/-- The bytes written are the bytes read. -/
theorem Memory.read_write_same (m : Memory) (a : Nat) (bs : List Byte) :
    Memory.read (Memory.write m a bs) a bs.length = bs := by
  induction bs generalizing m a with
  | nil => rfl
  | cons b bs ih =>
    rw [List.length_cons, Memory.read, Memory.write, ih, Memory.byte_write_outside _ _ _ _ (by omega), Memory.byte_setByte]
    simp

/-! ### The canonical form -/

theorem Memory.wf_nil : Memory.wf [] = true := rfl

theorem Memory.wf_setByte {m : Memory} (h : Memory.wf m = true) (a : Nat) (b : Byte) :
    Memory.wf (Memory.setByte m a b) = true := by
  simp only [Memory.wf, Bool.and_eq_true] at *
  unfold Memory.setByte
  split
  · refine ⟨SMap.rising_filter h.1 _, ?_⟩
    have := h.2
    simp only [SMap.del, List.all_eq_true, List.mem_filter] at *
    exact fun e he => this e he.1
  · next hb => exact ⟨SMap.rising_put h.1 a b, SMap.all_put h.2 (by simpa using hb)⟩

theorem Memory.wf_write {m : Memory} (h : Memory.wf m = true) (a : Nat) (bs : List Byte) :
    Memory.wf (Memory.write m a bs) = true := by
  induction bs generalizing m a with
  | nil => exact h
  | cons b bs ih => exact ih (Memory.wf_setByte h a b) (a + 1)

theorem Memory.wf_setNum {m : Memory} (h : Memory.wf m = true) (a n x : Nat) : Memory.wf (Memory.setNum m a n x) = true :=
  Memory.wf_write h a _

end Sys2Proof.Machine
end

