-- ==== Sys2Proof/Laws/State.lean ====
section
/-! SUPPORT. One lemma per field for each update of the state, a core and a context: what the update leaves unchanged,
and what it writes. -/

namespace Sys2Proof.Machine


/-! ### State.setCore -/
@[simp] theorem State.setCore_launches (s : State) (cn : Nat) (c : Core) :
    (s.setCore cn c).launches = s.launches := rfl
@[simp] theorem State.setCore_parts (s : State) (cn : Nat) (c : Core) :
    (s.setCore cn c).parts = s.parts := rfl
@[simp] theorem State.setCore_lptr (s : State) (cn : Nat) (c : Core) :
    (s.setCore cn c).lptr = s.lptr := rfl
@[simp] theorem State.setCore_cmds (s : State) (cn : Nat) (c : Core) :
    (s.setCore cn c).cmds = s.cmds := rfl
@[simp] theorem State.setCore_reports (s : State) (cn : Nat) (c : Core) :
    (s.setCore cn c).reports = s.reports := rfl
@[simp] theorem State.setCore_rings (s : State) (cn : Nat) (c : Core) :
    (s.setCore cn c).rings = s.rings := rfl
@[simp] theorem State.setCore_gmem (s : State) (cn : Nat) (c : Core) :
    (s.setCore cn c).gmem = s.gmem := rfl
@[simp] theorem State.setCore_gbad (s : State) (cn : Nat) (c : Core) :
    (s.setCore cn c).gbad = s.gbad := rfl
@[simp] theorem State.setCore_net (s : State) (cn : Nat) (c : Core) :
    (s.setCore cn c).net = s.net := rfl
@[simp] theorem State.setCore_nextPkt (s : State) (cn : Nat) (c : Core) :
    (s.setCore cn c).nextPkt = s.nextPkt := rfl
@[simp] theorem State.setCore_outputs (s : State) (cn : Nat) (c : Core) :
    (s.setCore cn c).outputs = s.outputs := rfl
@[simp] theorem State.setCore_filter (s : State) (cn : Nat) (c : Core) :
    (s.setCore cn c).filter = s.filter := rfl
@[simp] theorem State.setCore_flows (s : State) (cn : Nat) (c : Core) :
    (s.setCore cn c).flows = s.flows := rfl
@[simp] theorem State.setCore_early (s : State) (cn : Nat) (c : Core) :
    (s.setCore cn c).early = s.early := rfl
@[simp] theorem State.setCore_slices (s : State) (cn : Nat) (c : Core) :
    (s.setCore cn c).slices = s.slices := rfl
@[simp] theorem State.setCore_groups (s : State) (cn : Nat) (c : Core) :
    (s.setCore cn c).groups = s.groups := rfl
@[simp] theorem State.setCore_shawmStats (s : State) (cn : Nat) (c : Core) :
    (s.setCore cn c).shawmStats = s.shawmStats := rfl
@[simp] theorem State.setCore_sutreLive (s : State) (cn : Nat) (c : Core) :
    (s.setCore cn c).sutreLive = s.sutreLive := rfl
@[simp] theorem State.setCore_enetLive (s : State) (cn : Nat) (c : Core) :
    (s.setCore cn c).enetLive = s.enetLive := rfl
@[simp] theorem State.setCore_lost (s : State) (cn : Nat) (c : Core) :
    (s.setCore cn c).lost = s.lost := rfl
@[simp] theorem State.setCore_ip (s : State) (cn : Nat) (c : Core) :
    (s.setCore cn c).ip = s.ip := rfl
@[simp] theorem State.setCore_mgmt (s : State) (cn : Nat) (c : Core) :
    (s.setCore cn c).mgmt = s.mgmt := rfl
@[simp] theorem State.setCore_debugBlocks (s : State) (cn : Nat) (c : Core) :
    (s.setCore cn c).debugBlocks = s.debugBlocks := rfl
@[simp] theorem State.setCore_curCore (s : State) (cn : Nat) (c : Core) :
    (s.setCore cn c).curCore = s.curCore := rfl
@[simp] theorem State.setCore_curCtx (s : State) (cn : Nat) (c : Core) :
    (s.setCore cn c).curCtx = s.curCtx := rfl
@[simp] theorem State.setCore_moves (s : State) (cn : Nat) (c : Core) :
    (s.setCore cn c).moves = s.moves := rfl
@[simp] theorem State.setCore_turn (s : State) (cn : Nat) (c : Core) :
    (s.setCore cn c).turn = s.turn := rfl
@[simp] theorem State.setCore_fresh (s : State) (cn : Nat) (c : Core) :
    (s.setCore cn c).fresh = s.fresh := rfl


/-! ### State.modCore -/
@[simp] theorem State.modCore_launches (s : State) (cn : Nat) (f : Core → Core) :
    (s.modCore cn f).launches = s.launches := rfl
@[simp] theorem State.modCore_parts (s : State) (cn : Nat) (f : Core → Core) :
    (s.modCore cn f).parts = s.parts := rfl
@[simp] theorem State.modCore_lptr (s : State) (cn : Nat) (f : Core → Core) :
    (s.modCore cn f).lptr = s.lptr := rfl
@[simp] theorem State.modCore_cmds (s : State) (cn : Nat) (f : Core → Core) :
    (s.modCore cn f).cmds = s.cmds := rfl
@[simp] theorem State.modCore_reports (s : State) (cn : Nat) (f : Core → Core) :
    (s.modCore cn f).reports = s.reports := rfl
@[simp] theorem State.modCore_rings (s : State) (cn : Nat) (f : Core → Core) :
    (s.modCore cn f).rings = s.rings := rfl
@[simp] theorem State.modCore_gmem (s : State) (cn : Nat) (f : Core → Core) :
    (s.modCore cn f).gmem = s.gmem := rfl
@[simp] theorem State.modCore_gbad (s : State) (cn : Nat) (f : Core → Core) :
    (s.modCore cn f).gbad = s.gbad := rfl
@[simp] theorem State.modCore_net (s : State) (cn : Nat) (f : Core → Core) :
    (s.modCore cn f).net = s.net := rfl
@[simp] theorem State.modCore_nextPkt (s : State) (cn : Nat) (f : Core → Core) :
    (s.modCore cn f).nextPkt = s.nextPkt := rfl
@[simp] theorem State.modCore_outputs (s : State) (cn : Nat) (f : Core → Core) :
    (s.modCore cn f).outputs = s.outputs := rfl
@[simp] theorem State.modCore_filter (s : State) (cn : Nat) (f : Core → Core) :
    (s.modCore cn f).filter = s.filter := rfl
@[simp] theorem State.modCore_flows (s : State) (cn : Nat) (f : Core → Core) :
    (s.modCore cn f).flows = s.flows := rfl
@[simp] theorem State.modCore_early (s : State) (cn : Nat) (f : Core → Core) :
    (s.modCore cn f).early = s.early := rfl
@[simp] theorem State.modCore_slices (s : State) (cn : Nat) (f : Core → Core) :
    (s.modCore cn f).slices = s.slices := rfl
@[simp] theorem State.modCore_groups (s : State) (cn : Nat) (f : Core → Core) :
    (s.modCore cn f).groups = s.groups := rfl
@[simp] theorem State.modCore_shawmStats (s : State) (cn : Nat) (f : Core → Core) :
    (s.modCore cn f).shawmStats = s.shawmStats := rfl
@[simp] theorem State.modCore_sutreLive (s : State) (cn : Nat) (f : Core → Core) :
    (s.modCore cn f).sutreLive = s.sutreLive := rfl
@[simp] theorem State.modCore_enetLive (s : State) (cn : Nat) (f : Core → Core) :
    (s.modCore cn f).enetLive = s.enetLive := rfl
@[simp] theorem State.modCore_lost (s : State) (cn : Nat) (f : Core → Core) :
    (s.modCore cn f).lost = s.lost := rfl
@[simp] theorem State.modCore_ip (s : State) (cn : Nat) (f : Core → Core) :
    (s.modCore cn f).ip = s.ip := rfl
@[simp] theorem State.modCore_mgmt (s : State) (cn : Nat) (f : Core → Core) :
    (s.modCore cn f).mgmt = s.mgmt := rfl
@[simp] theorem State.modCore_debugBlocks (s : State) (cn : Nat) (f : Core → Core) :
    (s.modCore cn f).debugBlocks = s.debugBlocks := rfl
@[simp] theorem State.modCore_curCore (s : State) (cn : Nat) (f : Core → Core) :
    (s.modCore cn f).curCore = s.curCore := rfl
@[simp] theorem State.modCore_curCtx (s : State) (cn : Nat) (f : Core → Core) :
    (s.modCore cn f).curCtx = s.curCtx := rfl
@[simp] theorem State.modCore_moves (s : State) (cn : Nat) (f : Core → Core) :
    (s.modCore cn f).moves = s.moves := rfl
@[simp] theorem State.modCore_turn (s : State) (cn : Nat) (f : Core → Core) :
    (s.modCore cn f).turn = s.turn := rfl
@[simp] theorem State.modCore_fresh (s : State) (cn : Nat) (f : Core → Core) :
    (s.modCore cn f).fresh = s.fresh := rfl


/-! ### State.modMe -/
@[simp] theorem State.modMe_launches (s : State) (f : Core → Core) :
    (s.modMe f).launches = s.launches := rfl
@[simp] theorem State.modMe_parts (s : State) (f : Core → Core) :
    (s.modMe f).parts = s.parts := rfl
@[simp] theorem State.modMe_lptr (s : State) (f : Core → Core) :
    (s.modMe f).lptr = s.lptr := rfl
@[simp] theorem State.modMe_cmds (s : State) (f : Core → Core) :
    (s.modMe f).cmds = s.cmds := rfl
@[simp] theorem State.modMe_reports (s : State) (f : Core → Core) :
    (s.modMe f).reports = s.reports := rfl
@[simp] theorem State.modMe_rings (s : State) (f : Core → Core) :
    (s.modMe f).rings = s.rings := rfl
@[simp] theorem State.modMe_gmem (s : State) (f : Core → Core) :
    (s.modMe f).gmem = s.gmem := rfl
@[simp] theorem State.modMe_gbad (s : State) (f : Core → Core) :
    (s.modMe f).gbad = s.gbad := rfl
@[simp] theorem State.modMe_net (s : State) (f : Core → Core) :
    (s.modMe f).net = s.net := rfl
@[simp] theorem State.modMe_nextPkt (s : State) (f : Core → Core) :
    (s.modMe f).nextPkt = s.nextPkt := rfl
@[simp] theorem State.modMe_outputs (s : State) (f : Core → Core) :
    (s.modMe f).outputs = s.outputs := rfl
@[simp] theorem State.modMe_filter (s : State) (f : Core → Core) :
    (s.modMe f).filter = s.filter := rfl
@[simp] theorem State.modMe_flows (s : State) (f : Core → Core) :
    (s.modMe f).flows = s.flows := rfl
@[simp] theorem State.modMe_early (s : State) (f : Core → Core) :
    (s.modMe f).early = s.early := rfl
@[simp] theorem State.modMe_slices (s : State) (f : Core → Core) :
    (s.modMe f).slices = s.slices := rfl
@[simp] theorem State.modMe_groups (s : State) (f : Core → Core) :
    (s.modMe f).groups = s.groups := rfl
@[simp] theorem State.modMe_shawmStats (s : State) (f : Core → Core) :
    (s.modMe f).shawmStats = s.shawmStats := rfl
@[simp] theorem State.modMe_sutreLive (s : State) (f : Core → Core) :
    (s.modMe f).sutreLive = s.sutreLive := rfl
@[simp] theorem State.modMe_enetLive (s : State) (f : Core → Core) :
    (s.modMe f).enetLive = s.enetLive := rfl
@[simp] theorem State.modMe_lost (s : State) (f : Core → Core) :
    (s.modMe f).lost = s.lost := rfl
@[simp] theorem State.modMe_ip (s : State) (f : Core → Core) :
    (s.modMe f).ip = s.ip := rfl
@[simp] theorem State.modMe_mgmt (s : State) (f : Core → Core) :
    (s.modMe f).mgmt = s.mgmt := rfl
@[simp] theorem State.modMe_debugBlocks (s : State) (f : Core → Core) :
    (s.modMe f).debugBlocks = s.debugBlocks := rfl
@[simp] theorem State.modMe_curCore (s : State) (f : Core → Core) :
    (s.modMe f).curCore = s.curCore := rfl
@[simp] theorem State.modMe_curCtx (s : State) (f : Core → Core) :
    (s.modMe f).curCtx = s.curCtx := rfl
@[simp] theorem State.modMe_moves (s : State) (f : Core → Core) :
    (s.modMe f).moves = s.moves := rfl
@[simp] theorem State.modMe_turn (s : State) (f : Core → Core) :
    (s.modMe f).turn = s.turn := rfl
@[simp] theorem State.modMe_fresh (s : State) (f : Core → Core) :
    (s.modMe f).fresh = s.fresh := rfl


/-! ### State.modCx -/
@[simp] theorem State.modCx_launches (s : State) (f : Ctx → Ctx) :
    (s.modCx f).launches = s.launches := rfl
@[simp] theorem State.modCx_parts (s : State) (f : Ctx → Ctx) :
    (s.modCx f).parts = s.parts := rfl
@[simp] theorem State.modCx_lptr (s : State) (f : Ctx → Ctx) :
    (s.modCx f).lptr = s.lptr := rfl
@[simp] theorem State.modCx_cmds (s : State) (f : Ctx → Ctx) :
    (s.modCx f).cmds = s.cmds := rfl
@[simp] theorem State.modCx_reports (s : State) (f : Ctx → Ctx) :
    (s.modCx f).reports = s.reports := rfl
@[simp] theorem State.modCx_rings (s : State) (f : Ctx → Ctx) :
    (s.modCx f).rings = s.rings := rfl
@[simp] theorem State.modCx_gmem (s : State) (f : Ctx → Ctx) :
    (s.modCx f).gmem = s.gmem := rfl
@[simp] theorem State.modCx_gbad (s : State) (f : Ctx → Ctx) :
    (s.modCx f).gbad = s.gbad := rfl
@[simp] theorem State.modCx_net (s : State) (f : Ctx → Ctx) :
    (s.modCx f).net = s.net := rfl
@[simp] theorem State.modCx_nextPkt (s : State) (f : Ctx → Ctx) :
    (s.modCx f).nextPkt = s.nextPkt := rfl
@[simp] theorem State.modCx_outputs (s : State) (f : Ctx → Ctx) :
    (s.modCx f).outputs = s.outputs := rfl
@[simp] theorem State.modCx_filter (s : State) (f : Ctx → Ctx) :
    (s.modCx f).filter = s.filter := rfl
@[simp] theorem State.modCx_flows (s : State) (f : Ctx → Ctx) :
    (s.modCx f).flows = s.flows := rfl
@[simp] theorem State.modCx_early (s : State) (f : Ctx → Ctx) :
    (s.modCx f).early = s.early := rfl
@[simp] theorem State.modCx_slices (s : State) (f : Ctx → Ctx) :
    (s.modCx f).slices = s.slices := rfl
@[simp] theorem State.modCx_groups (s : State) (f : Ctx → Ctx) :
    (s.modCx f).groups = s.groups := rfl
@[simp] theorem State.modCx_shawmStats (s : State) (f : Ctx → Ctx) :
    (s.modCx f).shawmStats = s.shawmStats := rfl
@[simp] theorem State.modCx_sutreLive (s : State) (f : Ctx → Ctx) :
    (s.modCx f).sutreLive = s.sutreLive := rfl
@[simp] theorem State.modCx_enetLive (s : State) (f : Ctx → Ctx) :
    (s.modCx f).enetLive = s.enetLive := rfl
@[simp] theorem State.modCx_lost (s : State) (f : Ctx → Ctx) :
    (s.modCx f).lost = s.lost := rfl
@[simp] theorem State.modCx_ip (s : State) (f : Ctx → Ctx) :
    (s.modCx f).ip = s.ip := rfl
@[simp] theorem State.modCx_mgmt (s : State) (f : Ctx → Ctx) :
    (s.modCx f).mgmt = s.mgmt := rfl
@[simp] theorem State.modCx_debugBlocks (s : State) (f : Ctx → Ctx) :
    (s.modCx f).debugBlocks = s.debugBlocks := rfl
@[simp] theorem State.modCx_curCore (s : State) (f : Ctx → Ctx) :
    (s.modCx f).curCore = s.curCore := rfl
@[simp] theorem State.modCx_curCtx (s : State) (f : Ctx → Ctx) :
    (s.modCx f).curCtx = s.curCtx := rfl
@[simp] theorem State.modCx_moves (s : State) (f : Ctx → Ctx) :
    (s.modCx f).moves = s.moves := rfl
@[simp] theorem State.modCx_turn (s : State) (f : Ctx → Ctx) :
    (s.modCx f).turn = s.turn := rfl
@[simp] theorem State.modCx_fresh (s : State) (f : Ctx → Ctx) :
    (s.modCx f).fresh = s.fresh := rfl


/-! ### State.modLaunch -/
@[simp] theorem State.modLaunch_cores (s : State) (p d : Nat) (f : Launch → Launch) :
    (s.modLaunch p d f).cores = s.cores := rfl
@[simp] theorem State.modLaunch_parts (s : State) (p d : Nat) (f : Launch → Launch) :
    (s.modLaunch p d f).parts = s.parts := rfl
@[simp] theorem State.modLaunch_lptr (s : State) (p d : Nat) (f : Launch → Launch) :
    (s.modLaunch p d f).lptr = s.lptr := rfl
@[simp] theorem State.modLaunch_cmds (s : State) (p d : Nat) (f : Launch → Launch) :
    (s.modLaunch p d f).cmds = s.cmds := rfl
@[simp] theorem State.modLaunch_reports (s : State) (p d : Nat) (f : Launch → Launch) :
    (s.modLaunch p d f).reports = s.reports := rfl
@[simp] theorem State.modLaunch_rings (s : State) (p d : Nat) (f : Launch → Launch) :
    (s.modLaunch p d f).rings = s.rings := rfl
@[simp] theorem State.modLaunch_gmem (s : State) (p d : Nat) (f : Launch → Launch) :
    (s.modLaunch p d f).gmem = s.gmem := rfl
@[simp] theorem State.modLaunch_gbad (s : State) (p d : Nat) (f : Launch → Launch) :
    (s.modLaunch p d f).gbad = s.gbad := rfl
@[simp] theorem State.modLaunch_net (s : State) (p d : Nat) (f : Launch → Launch) :
    (s.modLaunch p d f).net = s.net := rfl
@[simp] theorem State.modLaunch_nextPkt (s : State) (p d : Nat) (f : Launch → Launch) :
    (s.modLaunch p d f).nextPkt = s.nextPkt := rfl
@[simp] theorem State.modLaunch_outputs (s : State) (p d : Nat) (f : Launch → Launch) :
    (s.modLaunch p d f).outputs = s.outputs := rfl
@[simp] theorem State.modLaunch_filter (s : State) (p d : Nat) (f : Launch → Launch) :
    (s.modLaunch p d f).filter = s.filter := rfl
@[simp] theorem State.modLaunch_flows (s : State) (p d : Nat) (f : Launch → Launch) :
    (s.modLaunch p d f).flows = s.flows := rfl
@[simp] theorem State.modLaunch_early (s : State) (p d : Nat) (f : Launch → Launch) :
    (s.modLaunch p d f).early = s.early := rfl
@[simp] theorem State.modLaunch_slices (s : State) (p d : Nat) (f : Launch → Launch) :
    (s.modLaunch p d f).slices = s.slices := rfl
@[simp] theorem State.modLaunch_groups (s : State) (p d : Nat) (f : Launch → Launch) :
    (s.modLaunch p d f).groups = s.groups := rfl
@[simp] theorem State.modLaunch_shawmStats (s : State) (p d : Nat) (f : Launch → Launch) :
    (s.modLaunch p d f).shawmStats = s.shawmStats := rfl
@[simp] theorem State.modLaunch_sutreLive (s : State) (p d : Nat) (f : Launch → Launch) :
    (s.modLaunch p d f).sutreLive = s.sutreLive := rfl
@[simp] theorem State.modLaunch_enetLive (s : State) (p d : Nat) (f : Launch → Launch) :
    (s.modLaunch p d f).enetLive = s.enetLive := rfl
@[simp] theorem State.modLaunch_lost (s : State) (p d : Nat) (f : Launch → Launch) :
    (s.modLaunch p d f).lost = s.lost := rfl
@[simp] theorem State.modLaunch_ip (s : State) (p d : Nat) (f : Launch → Launch) :
    (s.modLaunch p d f).ip = s.ip := rfl
@[simp] theorem State.modLaunch_mgmt (s : State) (p d : Nat) (f : Launch → Launch) :
    (s.modLaunch p d f).mgmt = s.mgmt := rfl
@[simp] theorem State.modLaunch_debugBlocks (s : State) (p d : Nat) (f : Launch → Launch) :
    (s.modLaunch p d f).debugBlocks = s.debugBlocks := rfl
@[simp] theorem State.modLaunch_curCore (s : State) (p d : Nat) (f : Launch → Launch) :
    (s.modLaunch p d f).curCore = s.curCore := rfl
@[simp] theorem State.modLaunch_curCtx (s : State) (p d : Nat) (f : Launch → Launch) :
    (s.modLaunch p d f).curCtx = s.curCtx := rfl
@[simp] theorem State.modLaunch_moves (s : State) (p d : Nat) (f : Launch → Launch) :
    (s.modLaunch p d f).moves = s.moves := rfl
@[simp] theorem State.modLaunch_turn (s : State) (p d : Nat) (f : Launch → Launch) :
    (s.modLaunch p d f).turn = s.turn := rfl
@[simp] theorem State.modLaunch_fresh (s : State) (p d : Nat) (f : Launch → Launch) :
    (s.modLaunch p d f).fresh = s.fresh := rfl


/-! ### Core.modCx -/
@[simp] theorem Core.modCx_mem (c : Core) (k : Nat) (f : Ctx → Ctx) :
    (c.modCx k f).mem = c.mem := rfl
@[simp] theorem Core.modCx_bad (c : Core) (k : Nat) (f : Ctx → Ctx) :
    (c.modCx k f).bad = c.bad := rfl
@[simp] theorem Core.modCx_rorg (c : Core) (k : Nat) (f : Ctx → Ctx) :
    (c.modCx k f).rorg = c.rorg := rfl
@[simp] theorem Core.modCx_rsize (c : Core) (k : Nat) (f : Ctx → Ctx) :
    (c.modCx k f).rsize = c.rsize := rfl
@[simp] theorem Core.modCx_fmt (c : Core) (k : Nat) (f : Ctx → Ctx) :
    (c.modCx k f).fmt = c.fmt := rfl
@[simp] theorem Core.modCx_seed (c : Core) (k : Nat) (f : Ctx → Ctx) :
    (c.modCx k f).seed = c.seed := rfl
@[simp] theorem Core.modCx_fit (c : Core) (k : Nat) (f : Ctx → Ctx) :
    (c.modCx k f).fit = c.fit := rfl
@[simp] theorem Core.modCx_gen (c : Core) (k : Nat) (f : Ctx → Ctx) :
    (c.modCx k f).gen = c.gen := rfl
@[simp] theorem Core.modCx_slk (c : Core) (k : Nat) (f : Ctx → Ctx) :
    (c.modCx k f).slk = c.slk := rfl
@[simp] theorem Core.modCx_slkx (c : Core) (k : Nat) (f : Ctx → Ctx) :
    (c.modCx k f).slkx = c.slkx := rfl
@[simp] theorem Core.modCx_congc (c : Core) (k : Nat) (f : Ctx → Ctx) :
    (c.modCx k f).congc = c.congc := rfl
@[simp] theorem Core.modCx_hx (c : Core) (k : Nat) (f : Ctx → Ctx) :
    (c.modCx k f).hx = c.hx := rfl
@[simp] theorem Core.modCx_q0 (c : Core) (k : Nat) (f : Ctx → Ctx) :
    (c.modCx k f).q0 = c.q0 := rfl
@[simp] theorem Core.modCx_q2 (c : Core) (k : Nat) (f : Ctx → Ctx) :
    (c.modCx k f).q2 = c.q2 := rfl
@[simp] theorem Core.modCx_q3 (c : Core) (k : Nat) (f : Ctx → Ctx) :
    (c.modCx k f).q3 = c.q3 := rfl
@[simp] theorem Core.modCx_nextId (c : Core) (k : Nat) (f : Ctx → Ctx) :
    (c.modCx k f).nextId = c.nextId := rfl
@[simp] theorem Core.modCx_txSeq (c : Core) (k : Nat) (f : Ctx → Ctx) :
    (c.modCx k f).txSeq = c.txSeq := rfl
@[simp] theorem Core.modCx_flowSeq (c : Core) (k : Nat) (f : Ctx → Ctx) :
    (c.modCx k f).flowSeq = c.flowSeq := rfl
@[simp] theorem Core.modCx_ptr (c : Core) (k : Nat) (f : Ctx → Ctx) :
    (c.modCx k f).ptr = c.ptr := rfl
@[simp] theorem Core.modCx_issuePtr (c : Core) (k : Nat) (f : Ctx → Ctx) :
    (c.modCx k f).issuePtr = c.issuePtr := rfl
@[simp] theorem Core.modCx_placed (c : Core) (k : Nat) (f : Ctx → Ctx) :
    (c.modCx k f).placed = c.placed := rfl
@[simp] theorem Core.modCx_inbuf (c : Core) (k : Nat) (f : Ctx → Ctx) :
    (c.modCx k f).inbuf = c.inbuf := rfl
@[simp] theorem Core.modCx_arrivals (c : Core) (k : Nat) (f : Ctx → Ctx) :
    (c.modCx k f).arrivals = c.arrivals := rfl
@[simp] theorem Core.modCx_zwatch (c : Core) (k : Nat) (f : Ctx → Ctx) :
    (c.modCx k f).zwatch = c.zwatch := rfl
@[simp] theorem Core.modCx_stats (c : Core) (k : Nat) (f : Ctx → Ctx) :
    (c.modCx k f).stats = c.stats := rfl
@[simp] theorem Core.modCx_syncs (c : Core) (k : Nat) (f : Ctx → Ctx) :
    (c.modCx k f).syncs = c.syncs := rfl
@[simp] theorem Core.modCx_flushes (c : Core) (k : Nat) (f : Ctx → Ctx) :
    (c.modCx k f).flushes = c.flushes := rfl
@[simp] theorem Core.modCx_windows (c : Core) (k : Nat) (f : Ctx → Ctx) :
    (c.modCx k f).windows = c.windows := rfl
@[simp] theorem Core.modCx_arr (c : Core) (k : Nat) (f : Ctx → Ctx) :
    (c.modCx k f).arr = c.arr := rfl
@[simp] theorem Core.modCx_last (c : Core) (k : Nat) (f : Ctx → Ctx) :
    (c.modCx k f).last = c.last := rfl
@[simp] theorem Core.modCx_ever (c : Core) (k : Nat) (f : Ctx → Ctx) :
    (c.modCx k f).ever = c.ever := rfl
@[simp] theorem Core.modCx_matrix (c : Core) (k : Nat) (f : Ctx → Ctx) :
    (c.modCx k f).matrix = c.matrix := rfl
@[simp] theorem Core.modCx_trap (c : Core) (k : Nat) (f : Ctx → Ctx) :
    (c.modCx k f).trap = c.trap := rfl
@[simp] theorem Core.modCx_control (c : Core) (k : Nat) (f : Ctx → Ctx) :
    (c.modCx k f).control = c.control := rfl
@[simp] theorem Core.modCx_copies (c : Core) (k : Nat) (f : Ctx → Ctx) :
    (c.modCx k f).copies = c.copies := rfl
@[simp] theorem Core.modCx_halos (c : Core) (k : Nat) (f : Ctx → Ctx) :
    (c.modCx k f).halos = c.halos := rfl
@[simp] theorem Core.modCx_txs (c : Core) (k : Nat) (f : Ctx → Ctx) :
    (c.modCx k f).txs = c.txs := rfl
@[simp] theorem Core.modCx_noticed (c : Core) (k : Nat) (f : Ctx → Ctx) :
    (c.modCx k f).noticed = c.noticed := rfl
@[simp] theorem Core.modCx_closed (c : Core) (k : Nat) (f : Ctx → Ctx) :
    (c.modCx k f).closed = c.closed := rfl
@[simp] theorem Core.modCx_ending (c : Core) (k : Nat) (f : Ctx → Ctx) :
    (c.modCx k f).ending = c.ending := rfl
@[simp] theorem Core.modCx_choked (c : Core) (k : Nat) (f : Ctx → Ctx) :
    (c.modCx k f).choked = c.choked := rfl
@[simp] theorem Core.modCx_susp (c : Core) (k : Nat) (f : Ctx → Ctx) :
    (c.modCx k f).susp = c.susp := rfl
@[simp] theorem Core.modCx_xcache (c : Core) (k : Nat) (f : Ctx → Ctx) :
    (c.modCx k f).xcache = c.xcache := rfl
@[simp] theorem Core.modCx_job (c : Core) (k : Nat) (f : Ctx → Ctx) :
    (c.modCx k f).job = c.job := rfl
@[simp] theorem Core.modCx_part (c : Core) (k : Nat) (f : Ctx → Ctx) :
    (c.modCx k f).part = c.part := rfl
@[simp] theorem Core.modCx_image (c : Core) (k : Nat) (f : Ctx → Ctx) :
    (c.modCx k f).image = c.image := rfl


/-! ### Core.put -/
@[simp] theorem Core.put_ctx (c : Core) (a : Nat) (bs : List Byte) :
    (c.put a bs).ctx = c.ctx := rfl
@[simp] theorem Core.put_rorg (c : Core) (a : Nat) (bs : List Byte) :
    (c.put a bs).rorg = c.rorg := rfl
@[simp] theorem Core.put_rsize (c : Core) (a : Nat) (bs : List Byte) :
    (c.put a bs).rsize = c.rsize := rfl
@[simp] theorem Core.put_fmt (c : Core) (a : Nat) (bs : List Byte) :
    (c.put a bs).fmt = c.fmt := rfl
@[simp] theorem Core.put_seed (c : Core) (a : Nat) (bs : List Byte) :
    (c.put a bs).seed = c.seed := rfl
@[simp] theorem Core.put_fit (c : Core) (a : Nat) (bs : List Byte) :
    (c.put a bs).fit = c.fit := rfl
@[simp] theorem Core.put_gen (c : Core) (a : Nat) (bs : List Byte) :
    (c.put a bs).gen = c.gen := rfl
@[simp] theorem Core.put_slk (c : Core) (a : Nat) (bs : List Byte) :
    (c.put a bs).slk = c.slk := rfl
@[simp] theorem Core.put_slkx (c : Core) (a : Nat) (bs : List Byte) :
    (c.put a bs).slkx = c.slkx := rfl
@[simp] theorem Core.put_congc (c : Core) (a : Nat) (bs : List Byte) :
    (c.put a bs).congc = c.congc := rfl
@[simp] theorem Core.put_hx (c : Core) (a : Nat) (bs : List Byte) :
    (c.put a bs).hx = c.hx := rfl
@[simp] theorem Core.put_q0 (c : Core) (a : Nat) (bs : List Byte) :
    (c.put a bs).q0 = c.q0 := rfl
@[simp] theorem Core.put_q2 (c : Core) (a : Nat) (bs : List Byte) :
    (c.put a bs).q2 = c.q2 := rfl
@[simp] theorem Core.put_q3 (c : Core) (a : Nat) (bs : List Byte) :
    (c.put a bs).q3 = c.q3 := rfl
@[simp] theorem Core.put_nextId (c : Core) (a : Nat) (bs : List Byte) :
    (c.put a bs).nextId = c.nextId := rfl
@[simp] theorem Core.put_txSeq (c : Core) (a : Nat) (bs : List Byte) :
    (c.put a bs).txSeq = c.txSeq := rfl
@[simp] theorem Core.put_flowSeq (c : Core) (a : Nat) (bs : List Byte) :
    (c.put a bs).flowSeq = c.flowSeq := rfl
@[simp] theorem Core.put_ptr (c : Core) (a : Nat) (bs : List Byte) :
    (c.put a bs).ptr = c.ptr := rfl
@[simp] theorem Core.put_issuePtr (c : Core) (a : Nat) (bs : List Byte) :
    (c.put a bs).issuePtr = c.issuePtr := rfl
@[simp] theorem Core.put_placed (c : Core) (a : Nat) (bs : List Byte) :
    (c.put a bs).placed = c.placed := rfl
@[simp] theorem Core.put_inbuf (c : Core) (a : Nat) (bs : List Byte) :
    (c.put a bs).inbuf = c.inbuf := rfl
@[simp] theorem Core.put_arrivals (c : Core) (a : Nat) (bs : List Byte) :
    (c.put a bs).arrivals = c.arrivals := rfl
@[simp] theorem Core.put_zwatch (c : Core) (a : Nat) (bs : List Byte) :
    (c.put a bs).zwatch = c.zwatch := rfl
@[simp] theorem Core.put_stats (c : Core) (a : Nat) (bs : List Byte) :
    (c.put a bs).stats = c.stats := rfl
@[simp] theorem Core.put_syncs (c : Core) (a : Nat) (bs : List Byte) :
    (c.put a bs).syncs = c.syncs := rfl
@[simp] theorem Core.put_flushes (c : Core) (a : Nat) (bs : List Byte) :
    (c.put a bs).flushes = c.flushes := rfl
@[simp] theorem Core.put_windows (c : Core) (a : Nat) (bs : List Byte) :
    (c.put a bs).windows = c.windows := rfl
@[simp] theorem Core.put_arr (c : Core) (a : Nat) (bs : List Byte) :
    (c.put a bs).arr = c.arr := rfl
@[simp] theorem Core.put_last (c : Core) (a : Nat) (bs : List Byte) :
    (c.put a bs).last = c.last := rfl
@[simp] theorem Core.put_ever (c : Core) (a : Nat) (bs : List Byte) :
    (c.put a bs).ever = c.ever := rfl
@[simp] theorem Core.put_matrix (c : Core) (a : Nat) (bs : List Byte) :
    (c.put a bs).matrix = c.matrix := rfl
@[simp] theorem Core.put_trap (c : Core) (a : Nat) (bs : List Byte) :
    (c.put a bs).trap = c.trap := rfl
@[simp] theorem Core.put_control (c : Core) (a : Nat) (bs : List Byte) :
    (c.put a bs).control = c.control := rfl
@[simp] theorem Core.put_copies (c : Core) (a : Nat) (bs : List Byte) :
    (c.put a bs).copies = c.copies := rfl
@[simp] theorem Core.put_halos (c : Core) (a : Nat) (bs : List Byte) :
    (c.put a bs).halos = c.halos := rfl
@[simp] theorem Core.put_txs (c : Core) (a : Nat) (bs : List Byte) :
    (c.put a bs).txs = c.txs := rfl
@[simp] theorem Core.put_noticed (c : Core) (a : Nat) (bs : List Byte) :
    (c.put a bs).noticed = c.noticed := rfl
@[simp] theorem Core.put_closed (c : Core) (a : Nat) (bs : List Byte) :
    (c.put a bs).closed = c.closed := rfl
@[simp] theorem Core.put_ending (c : Core) (a : Nat) (bs : List Byte) :
    (c.put a bs).ending = c.ending := rfl
@[simp] theorem Core.put_choked (c : Core) (a : Nat) (bs : List Byte) :
    (c.put a bs).choked = c.choked := rfl
@[simp] theorem Core.put_susp (c : Core) (a : Nat) (bs : List Byte) :
    (c.put a bs).susp = c.susp := rfl
@[simp] theorem Core.put_xcache (c : Core) (a : Nat) (bs : List Byte) :
    (c.put a bs).xcache = c.xcache := rfl
@[simp] theorem Core.put_job (c : Core) (a : Nat) (bs : List Byte) :
    (c.put a bs).job = c.job := rfl
@[simp] theorem Core.put_part (c : Core) (a : Nat) (bs : List Byte) :
    (c.put a bs).part = c.part := rfl


/-! ### Core.takeRecord -/
@[simp] theorem Core.takeRecord_mem (c : Core) (r : FaultRec) :
    (c.takeRecord r).mem = c.mem := rfl
@[simp] theorem Core.takeRecord_bad (c : Core) (r : FaultRec) :
    (c.takeRecord r).bad = c.bad := rfl
@[simp] theorem Core.takeRecord_rorg (c : Core) (r : FaultRec) :
    (c.takeRecord r).rorg = c.rorg := rfl
@[simp] theorem Core.takeRecord_rsize (c : Core) (r : FaultRec) :
    (c.takeRecord r).rsize = c.rsize := rfl
@[simp] theorem Core.takeRecord_fmt (c : Core) (r : FaultRec) :
    (c.takeRecord r).fmt = c.fmt := rfl
@[simp] theorem Core.takeRecord_seed (c : Core) (r : FaultRec) :
    (c.takeRecord r).seed = c.seed := rfl
@[simp] theorem Core.takeRecord_fit (c : Core) (r : FaultRec) :
    (c.takeRecord r).fit = c.fit := rfl
@[simp] theorem Core.takeRecord_gen (c : Core) (r : FaultRec) :
    (c.takeRecord r).gen = c.gen := rfl
@[simp] theorem Core.takeRecord_slk (c : Core) (r : FaultRec) :
    (c.takeRecord r).slk = c.slk := rfl
@[simp] theorem Core.takeRecord_slkx (c : Core) (r : FaultRec) :
    (c.takeRecord r).slkx = c.slkx := rfl
@[simp] theorem Core.takeRecord_congc (c : Core) (r : FaultRec) :
    (c.takeRecord r).congc = c.congc := rfl
@[simp] theorem Core.takeRecord_hx (c : Core) (r : FaultRec) :
    (c.takeRecord r).hx = c.hx := rfl
@[simp] theorem Core.takeRecord_q0 (c : Core) (r : FaultRec) :
    (c.takeRecord r).q0 = c.q0 := rfl
@[simp] theorem Core.takeRecord_q2 (c : Core) (r : FaultRec) :
    (c.takeRecord r).q2 = c.q2 := rfl
@[simp] theorem Core.takeRecord_q3 (c : Core) (r : FaultRec) :
    (c.takeRecord r).q3 = c.q3 := rfl
@[simp] theorem Core.takeRecord_nextId (c : Core) (r : FaultRec) :
    (c.takeRecord r).nextId = c.nextId := rfl
@[simp] theorem Core.takeRecord_txSeq (c : Core) (r : FaultRec) :
    (c.takeRecord r).txSeq = c.txSeq := rfl
@[simp] theorem Core.takeRecord_flowSeq (c : Core) (r : FaultRec) :
    (c.takeRecord r).flowSeq = c.flowSeq := rfl
@[simp] theorem Core.takeRecord_ptr (c : Core) (r : FaultRec) :
    (c.takeRecord r).ptr = c.ptr := rfl
@[simp] theorem Core.takeRecord_issuePtr (c : Core) (r : FaultRec) :
    (c.takeRecord r).issuePtr = c.issuePtr := rfl
@[simp] theorem Core.takeRecord_placed (c : Core) (r : FaultRec) :
    (c.takeRecord r).placed = c.placed := rfl
@[simp] theorem Core.takeRecord_inbuf (c : Core) (r : FaultRec) :
    (c.takeRecord r).inbuf = c.inbuf := rfl
@[simp] theorem Core.takeRecord_arrivals (c : Core) (r : FaultRec) :
    (c.takeRecord r).arrivals = c.arrivals := rfl
@[simp] theorem Core.takeRecord_zwatch (c : Core) (r : FaultRec) :
    (c.takeRecord r).zwatch = c.zwatch := rfl
@[simp] theorem Core.takeRecord_stats (c : Core) (r : FaultRec) :
    (c.takeRecord r).stats = c.stats := rfl
@[simp] theorem Core.takeRecord_syncs (c : Core) (r : FaultRec) :
    (c.takeRecord r).syncs = c.syncs := rfl
@[simp] theorem Core.takeRecord_flushes (c : Core) (r : FaultRec) :
    (c.takeRecord r).flushes = c.flushes := rfl
@[simp] theorem Core.takeRecord_windows (c : Core) (r : FaultRec) :
    (c.takeRecord r).windows = c.windows := rfl
@[simp] theorem Core.takeRecord_arr (c : Core) (r : FaultRec) :
    (c.takeRecord r).arr = c.arr := rfl
@[simp] theorem Core.takeRecord_last (c : Core) (r : FaultRec) :
    (c.takeRecord r).last = c.last := rfl
@[simp] theorem Core.takeRecord_ever (c : Core) (r : FaultRec) :
    (c.takeRecord r).ever = c.ever := rfl
@[simp] theorem Core.takeRecord_matrix (c : Core) (r : FaultRec) :
    (c.takeRecord r).matrix = c.matrix := rfl
@[simp] theorem Core.takeRecord_control (c : Core) (r : FaultRec) :
    (c.takeRecord r).control = c.control := rfl
@[simp] theorem Core.takeRecord_copies (c : Core) (r : FaultRec) :
    (c.takeRecord r).copies = c.copies := rfl
@[simp] theorem Core.takeRecord_halos (c : Core) (r : FaultRec) :
    (c.takeRecord r).halos = c.halos := rfl
@[simp] theorem Core.takeRecord_txs (c : Core) (r : FaultRec) :
    (c.takeRecord r).txs = c.txs := rfl
@[simp] theorem Core.takeRecord_noticed (c : Core) (r : FaultRec) :
    (c.takeRecord r).noticed = c.noticed := rfl
@[simp] theorem Core.takeRecord_closed (c : Core) (r : FaultRec) :
    (c.takeRecord r).closed = c.closed := rfl
@[simp] theorem Core.takeRecord_ending (c : Core) (r : FaultRec) :
    (c.takeRecord r).ending = c.ending := rfl
@[simp] theorem Core.takeRecord_choked (c : Core) (r : FaultRec) :
    (c.takeRecord r).choked = c.choked := rfl
@[simp] theorem Core.takeRecord_susp (c : Core) (r : FaultRec) :
    (c.takeRecord r).susp = c.susp := rfl
@[simp] theorem Core.takeRecord_xcache (c : Core) (r : FaultRec) :
    (c.takeRecord r).xcache = c.xcache := rfl
@[simp] theorem Core.takeRecord_job (c : Core) (r : FaultRec) :
    (c.takeRecord r).job = c.job := rfl
@[simp] theorem Core.takeRecord_part (c : Core) (r : FaultRec) :
    (c.takeRecord r).part = c.part := rfl
@[simp] theorem Core.takeRecord_image (c : Core) (r : FaultRec) :
    (c.takeRecord r).image = c.image := rfl


/-! ### Core.queueRecord -/

theorem Core.queueRecord_trap_only (c : Core) (r : FaultRec) : ∃ t, c.queueRecord r = { c with trap := t } := by
  unfold Core.queueRecord
  dsimp only
  (repeat' split) <;> exact ⟨_, rfl⟩
@[simp] theorem Core.queueRecord_mem (c : Core) (r : FaultRec) :
    (c.queueRecord r).mem = c.mem := by
  obtain ⟨t, h⟩ := c.queueRecord_trap_only r; rw [h]
@[simp] theorem Core.queueRecord_bad (c : Core) (r : FaultRec) :
    (c.queueRecord r).bad = c.bad := by
  obtain ⟨t, h⟩ := c.queueRecord_trap_only r; rw [h]
@[simp] theorem Core.queueRecord_ctx (c : Core) (r : FaultRec) :
    (c.queueRecord r).ctx = c.ctx := by
  obtain ⟨t, h⟩ := c.queueRecord_trap_only r; rw [h]
@[simp] theorem Core.queueRecord_rorg (c : Core) (r : FaultRec) :
    (c.queueRecord r).rorg = c.rorg := by
  obtain ⟨t, h⟩ := c.queueRecord_trap_only r; rw [h]
@[simp] theorem Core.queueRecord_rsize (c : Core) (r : FaultRec) :
    (c.queueRecord r).rsize = c.rsize := by
  obtain ⟨t, h⟩ := c.queueRecord_trap_only r; rw [h]
@[simp] theorem Core.queueRecord_fmt (c : Core) (r : FaultRec) :
    (c.queueRecord r).fmt = c.fmt := by
  obtain ⟨t, h⟩ := c.queueRecord_trap_only r; rw [h]
@[simp] theorem Core.queueRecord_seed (c : Core) (r : FaultRec) :
    (c.queueRecord r).seed = c.seed := by
  obtain ⟨t, h⟩ := c.queueRecord_trap_only r; rw [h]
@[simp] theorem Core.queueRecord_fit (c : Core) (r : FaultRec) :
    (c.queueRecord r).fit = c.fit := by
  obtain ⟨t, h⟩ := c.queueRecord_trap_only r; rw [h]
@[simp] theorem Core.queueRecord_gen (c : Core) (r : FaultRec) :
    (c.queueRecord r).gen = c.gen := by
  obtain ⟨t, h⟩ := c.queueRecord_trap_only r; rw [h]
@[simp] theorem Core.queueRecord_slk (c : Core) (r : FaultRec) :
    (c.queueRecord r).slk = c.slk := by
  obtain ⟨t, h⟩ := c.queueRecord_trap_only r; rw [h]
@[simp] theorem Core.queueRecord_slkx (c : Core) (r : FaultRec) :
    (c.queueRecord r).slkx = c.slkx := by
  obtain ⟨t, h⟩ := c.queueRecord_trap_only r; rw [h]
@[simp] theorem Core.queueRecord_congc (c : Core) (r : FaultRec) :
    (c.queueRecord r).congc = c.congc := by
  obtain ⟨t, h⟩ := c.queueRecord_trap_only r; rw [h]
@[simp] theorem Core.queueRecord_hx (c : Core) (r : FaultRec) :
    (c.queueRecord r).hx = c.hx := by
  obtain ⟨t, h⟩ := c.queueRecord_trap_only r; rw [h]
@[simp] theorem Core.queueRecord_q0 (c : Core) (r : FaultRec) :
    (c.queueRecord r).q0 = c.q0 := by
  obtain ⟨t, h⟩ := c.queueRecord_trap_only r; rw [h]
@[simp] theorem Core.queueRecord_q2 (c : Core) (r : FaultRec) :
    (c.queueRecord r).q2 = c.q2 := by
  obtain ⟨t, h⟩ := c.queueRecord_trap_only r; rw [h]
@[simp] theorem Core.queueRecord_q3 (c : Core) (r : FaultRec) :
    (c.queueRecord r).q3 = c.q3 := by
  obtain ⟨t, h⟩ := c.queueRecord_trap_only r; rw [h]
@[simp] theorem Core.queueRecord_nextId (c : Core) (r : FaultRec) :
    (c.queueRecord r).nextId = c.nextId := by
  obtain ⟨t, h⟩ := c.queueRecord_trap_only r; rw [h]
@[simp] theorem Core.queueRecord_txSeq (c : Core) (r : FaultRec) :
    (c.queueRecord r).txSeq = c.txSeq := by
  obtain ⟨t, h⟩ := c.queueRecord_trap_only r; rw [h]
@[simp] theorem Core.queueRecord_flowSeq (c : Core) (r : FaultRec) :
    (c.queueRecord r).flowSeq = c.flowSeq := by
  obtain ⟨t, h⟩ := c.queueRecord_trap_only r; rw [h]
@[simp] theorem Core.queueRecord_ptr (c : Core) (r : FaultRec) :
    (c.queueRecord r).ptr = c.ptr := by
  obtain ⟨t, h⟩ := c.queueRecord_trap_only r; rw [h]
@[simp] theorem Core.queueRecord_issuePtr (c : Core) (r : FaultRec) :
    (c.queueRecord r).issuePtr = c.issuePtr := by
  obtain ⟨t, h⟩ := c.queueRecord_trap_only r; rw [h]
@[simp] theorem Core.queueRecord_placed (c : Core) (r : FaultRec) :
    (c.queueRecord r).placed = c.placed := by
  obtain ⟨t, h⟩ := c.queueRecord_trap_only r; rw [h]
@[simp] theorem Core.queueRecord_inbuf (c : Core) (r : FaultRec) :
    (c.queueRecord r).inbuf = c.inbuf := by
  obtain ⟨t, h⟩ := c.queueRecord_trap_only r; rw [h]
@[simp] theorem Core.queueRecord_arrivals (c : Core) (r : FaultRec) :
    (c.queueRecord r).arrivals = c.arrivals := by
  obtain ⟨t, h⟩ := c.queueRecord_trap_only r; rw [h]
@[simp] theorem Core.queueRecord_zwatch (c : Core) (r : FaultRec) :
    (c.queueRecord r).zwatch = c.zwatch := by
  obtain ⟨t, h⟩ := c.queueRecord_trap_only r; rw [h]
@[simp] theorem Core.queueRecord_stats (c : Core) (r : FaultRec) :
    (c.queueRecord r).stats = c.stats := by
  obtain ⟨t, h⟩ := c.queueRecord_trap_only r; rw [h]
@[simp] theorem Core.queueRecord_syncs (c : Core) (r : FaultRec) :
    (c.queueRecord r).syncs = c.syncs := by
  obtain ⟨t, h⟩ := c.queueRecord_trap_only r; rw [h]
@[simp] theorem Core.queueRecord_flushes (c : Core) (r : FaultRec) :
    (c.queueRecord r).flushes = c.flushes := by
  obtain ⟨t, h⟩ := c.queueRecord_trap_only r; rw [h]
@[simp] theorem Core.queueRecord_windows (c : Core) (r : FaultRec) :
    (c.queueRecord r).windows = c.windows := by
  obtain ⟨t, h⟩ := c.queueRecord_trap_only r; rw [h]
@[simp] theorem Core.queueRecord_arr (c : Core) (r : FaultRec) :
    (c.queueRecord r).arr = c.arr := by
  obtain ⟨t, h⟩ := c.queueRecord_trap_only r; rw [h]
@[simp] theorem Core.queueRecord_last (c : Core) (r : FaultRec) :
    (c.queueRecord r).last = c.last := by
  obtain ⟨t, h⟩ := c.queueRecord_trap_only r; rw [h]
@[simp] theorem Core.queueRecord_ever (c : Core) (r : FaultRec) :
    (c.queueRecord r).ever = c.ever := by
  obtain ⟨t, h⟩ := c.queueRecord_trap_only r; rw [h]
@[simp] theorem Core.queueRecord_matrix (c : Core) (r : FaultRec) :
    (c.queueRecord r).matrix = c.matrix := by
  obtain ⟨t, h⟩ := c.queueRecord_trap_only r; rw [h]
@[simp] theorem Core.queueRecord_control (c : Core) (r : FaultRec) :
    (c.queueRecord r).control = c.control := by
  obtain ⟨t, h⟩ := c.queueRecord_trap_only r; rw [h]
@[simp] theorem Core.queueRecord_copies (c : Core) (r : FaultRec) :
    (c.queueRecord r).copies = c.copies := by
  obtain ⟨t, h⟩ := c.queueRecord_trap_only r; rw [h]
@[simp] theorem Core.queueRecord_halos (c : Core) (r : FaultRec) :
    (c.queueRecord r).halos = c.halos := by
  obtain ⟨t, h⟩ := c.queueRecord_trap_only r; rw [h]
@[simp] theorem Core.queueRecord_txs (c : Core) (r : FaultRec) :
    (c.queueRecord r).txs = c.txs := by
  obtain ⟨t, h⟩ := c.queueRecord_trap_only r; rw [h]
@[simp] theorem Core.queueRecord_noticed (c : Core) (r : FaultRec) :
    (c.queueRecord r).noticed = c.noticed := by
  obtain ⟨t, h⟩ := c.queueRecord_trap_only r; rw [h]
@[simp] theorem Core.queueRecord_closed (c : Core) (r : FaultRec) :
    (c.queueRecord r).closed = c.closed := by
  obtain ⟨t, h⟩ := c.queueRecord_trap_only r; rw [h]
@[simp] theorem Core.queueRecord_ending (c : Core) (r : FaultRec) :
    (c.queueRecord r).ending = c.ending := by
  obtain ⟨t, h⟩ := c.queueRecord_trap_only r; rw [h]
@[simp] theorem Core.queueRecord_choked (c : Core) (r : FaultRec) :
    (c.queueRecord r).choked = c.choked := by
  obtain ⟨t, h⟩ := c.queueRecord_trap_only r; rw [h]
@[simp] theorem Core.queueRecord_susp (c : Core) (r : FaultRec) :
    (c.queueRecord r).susp = c.susp := by
  obtain ⟨t, h⟩ := c.queueRecord_trap_only r; rw [h]
@[simp] theorem Core.queueRecord_xcache (c : Core) (r : FaultRec) :
    (c.queueRecord r).xcache = c.xcache := by
  obtain ⟨t, h⟩ := c.queueRecord_trap_only r; rw [h]
@[simp] theorem Core.queueRecord_job (c : Core) (r : FaultRec) :
    (c.queueRecord r).job = c.job := by
  obtain ⟨t, h⟩ := c.queueRecord_trap_only r; rw [h]
@[simp] theorem Core.queueRecord_part (c : Core) (r : FaultRec) :
    (c.queueRecord r).part = c.part := by
  obtain ⟨t, h⟩ := c.queueRecord_trap_only r; rw [h]
@[simp] theorem Core.queueRecord_image (c : Core) (r : FaultRec) :
    (c.queueRecord r).image = c.image := by
  obtain ⟨t, h⟩ := c.queueRecord_trap_only r; rw [h]


/-! ### Ctx.goto -/
@[simp] theorem Ctx.goto_live (x : Ctx) (pc : Word) (stl : Nat) :
    (x.goto pc stl).live = x.live := rfl
@[simp] theorem Ctx.goto_finishing (x : Ctx) (pc : Word) (stl : Nat) :
    (x.goto pc stl).finishing = x.finishing := rfl
@[simp] theorem Ctx.goto_held (x : Ctx) (pc : Word) (stl : Nat) :
    (x.goto pc stl).held = x.held := rfl
@[simp] theorem Ctx.goto_g (x : Ctx) (pc : Word) (stl : Nat) :
    (x.goto pc stl).g = x.g := rfl
@[simp] theorem Ctx.goto_v (x : Ctx) (pc : Word) (stl : Nat) :
    (x.goto pc stl).v = x.v := rfl
@[simp] theorem Ctx.goto_p (x : Ctx) (pc : Word) (stl : Nat) :
    (x.goto pc stl).p = x.p := rfl
@[simp] theorem Ctx.goto_e (x : Ctx) (pc : Word) (stl : Nat) :
    (x.goto pc stl).e = x.e := rfl
@[simp] theorem Ctx.goto_b (x : Ctx) (pc : Word) (stl : Nat) :
    (x.goto pc stl).b = x.b := rfl
@[simp] theorem Ctx.goto_rndctr (x : Ctx) (pc : Word) (stl : Nat) :
    (x.goto pc stl).rndctr = x.rndctr := rfl
@[simp] theorem Ctx.goto_kind (x : Ctx) (pc : Word) (stl : Nat) :
    (x.goto pc stl).kind = x.kind := rfl
@[simp] theorem Ctx.goto_pri (x : Ctx) (pc : Word) (stl : Nat) :
    (x.goto pc stl).pri = x.pri := rfl
@[simp] theorem Ctx.goto_chan (x : Ctx) (pc : Word) (stl : Nat) :
    (x.goto pc stl).chan = x.chan := rfl
@[simp] theorem Ctx.goto_latched (x : Ctx) (pc : Word) (stl : Nat) :
    (x.goto pc stl).latched = x.latched := rfl
@[simp] theorem Ctx.goto_q1 (x : Ctx) (pc : Word) (stl : Nat) :
    (x.goto pc stl).q1 = x.q1 := rfl
@[simp] theorem Ctx.goto_slot (x : Ctx) (pc : Word) (stl : Nat) :
    (x.goto pc stl).slot = x.slot := rfl
@[simp] theorem Ctx.goto_rslot (x : Ctx) (pc : Word) (stl : Nat) :
    (x.goto pc stl).rslot = x.rslot := rfl
@[simp] theorem Ctx.goto_cpSrc (x : Ctx) (pc : Word) (stl : Nat) :
    (x.goto pc stl).cpSrc = x.cpSrc := rfl
@[simp] theorem Ctx.goto_cpDst (x : Ctx) (pc : Word) (stl : Nat) :
    (x.goto pc stl).cpDst = x.cpDst := rfl
@[simp] theorem Ctx.goto_cpLen (x : Ctx) (pc : Word) (stl : Nat) :
    (x.goto pc stl).cpLen = x.cpLen := rfl
@[simp] theorem Ctx.goto_cpShape (x : Ctx) (pc : Word) (stl : Nat) :
    (x.goto pc stl).cpShape = x.cpShape := rfl
@[simp] theorem Ctx.goto_cpPblk (x : Ctx) (pc : Word) (stl : Nat) :
    (x.goto pc stl).cpPblk = x.cpPblk := rfl
@[simp] theorem Ctx.goto_cur (x : Ctx) (pc : Word) (stl : Nat) :
    (x.goto pc stl).cur = x.cur := rfl
@[simp] theorem Ctx.goto_ready (x : Ctx) (pc : Word) (stl : Nat) :
    (x.goto pc stl).ready = x.ready := rfl
@[simp] theorem Ctx.goto_late (x : Ctx) (pc : Word) (stl : Nat) :
    (x.goto pc stl).late = x.late := rfl
@[simp] theorem Ctx.goto_early (x : Ctx) (pc : Word) (stl : Nat) :
    (x.goto pc stl).early = x.early := rfl
@[simp] theorem Ctx.goto_taint (x : Ctx) (pc : Word) (stl : Nat) :
    (x.goto pc stl).taint = x.taint := rfl
@[simp] theorem Ctx.goto_reads (x : Ctx) (pc : Word) (stl : Nat) :
    (x.goto pc stl).reads = x.reads := rfl
@[simp] theorem Ctx.goto_deferred (x : Ctx) (pc : Word) (stl : Nat) :
    (x.goto pc stl).deferred = x.deferred := rfl
@[simp] theorem Ctx.goto_yielded (x : Ctx) (pc : Word) (stl : Nat) :
    (x.goto pc stl).yielded = x.yielded := rfl
@[simp] theorem Ctx.goto_bad (x : Ctx) (pc : Word) (stl : Nat) :
    (x.goto pc stl).bad = x.bad := rfl
@[simp] theorem Ctx.goto_pc (x : Ctx) (pc : Word) (stl : Nat) :
    (x.goto pc stl).pc = pc := rfl
@[simp] theorem Ctx.goto_stat (x : Ctx) (pc : Word) (stl : Nat) :
    (x.goto pc stl).stat = clearPend x.stat := rfl
@[simp] theorem Ctx.goto_pfx (x : Ctx) (pc : Word) (stl : Nat) :
    (x.goto pc stl).pfx = if x.pp then 0 else x.pfx := rfl
@[simp] theorem Ctx.goto_wait (x : Ctx) (pc : Word) (stl : Nat) :
    (x.goto pc stl).wait = .none := rfl
@[simp] theorem Ctx.goto_snap (x : Ctx) (pc : Word) (stl : Nat) :
    (x.goto pc stl).snap = none := rfl
@[simp] theorem Ctx.goto_stl (x : Ctx) (pc : Word) (stl : Nat) :
    (x.goto pc stl).stl = stl := rfl
@[simp] theorem Ctx.goto_clock (x : Ctx) (pc : Word) (stl : Nat) :
    (x.goto pc stl).clock = x.clock + 1 + stl := rfl
@[simp] theorem Ctx.goto_perf (x : Ctx) (pc : Word) (stl : Nat) :
    (x.goto pc stl).perf = SMap.put x.perf 0 (SMap.get 0 x.perf 0 + 1) := rfl


/-! ### Ctx.wg -/
@[simp] theorem Ctx.wg_live (x : Ctx) (n : Nat) (w : Word) :
    (x.wg n w).live = x.live := by
  unfold Ctx.wg; split <;> rfl
@[simp] theorem Ctx.wg_finishing (x : Ctx) (n : Nat) (w : Word) :
    (x.wg n w).finishing = x.finishing := by
  unfold Ctx.wg; split <;> rfl
@[simp] theorem Ctx.wg_held (x : Ctx) (n : Nat) (w : Word) :
    (x.wg n w).held = x.held := by
  unfold Ctx.wg; split <;> rfl
@[simp] theorem Ctx.wg_v (x : Ctx) (n : Nat) (w : Word) :
    (x.wg n w).v = x.v := by
  unfold Ctx.wg; split <;> rfl
@[simp] theorem Ctx.wg_p (x : Ctx) (n : Nat) (w : Word) :
    (x.wg n w).p = x.p := by
  unfold Ctx.wg; split <;> rfl
@[simp] theorem Ctx.wg_e (x : Ctx) (n : Nat) (w : Word) :
    (x.wg n w).e = x.e := by
  unfold Ctx.wg; split <;> rfl
@[simp] theorem Ctx.wg_b (x : Ctx) (n : Nat) (w : Word) :
    (x.wg n w).b = x.b := by
  unfold Ctx.wg; split <;> rfl
@[simp] theorem Ctx.wg_pc (x : Ctx) (n : Nat) (w : Word) :
    (x.wg n w).pc = x.pc := by
  unfold Ctx.wg; split <;> rfl
@[simp] theorem Ctx.wg_stat (x : Ctx) (n : Nat) (w : Word) :
    (x.wg n w).stat = x.stat := by
  unfold Ctx.wg; split <;> rfl
@[simp] theorem Ctx.wg_pfx (x : Ctx) (n : Nat) (w : Word) :
    (x.wg n w).pfx = x.pfx := by
  unfold Ctx.wg; split <;> rfl
@[simp] theorem Ctx.wg_rndctr (x : Ctx) (n : Nat) (w : Word) :
    (x.wg n w).rndctr = x.rndctr := by
  unfold Ctx.wg; split <;> rfl
@[simp] theorem Ctx.wg_kind (x : Ctx) (n : Nat) (w : Word) :
    (x.wg n w).kind = x.kind := by
  unfold Ctx.wg; split <;> rfl
@[simp] theorem Ctx.wg_pri (x : Ctx) (n : Nat) (w : Word) :
    (x.wg n w).pri = x.pri := by
  unfold Ctx.wg; split <;> rfl
@[simp] theorem Ctx.wg_chan (x : Ctx) (n : Nat) (w : Word) :
    (x.wg n w).chan = x.chan := by
  unfold Ctx.wg; split <;> rfl
@[simp] theorem Ctx.wg_latched (x : Ctx) (n : Nat) (w : Word) :
    (x.wg n w).latched = x.latched := by
  unfold Ctx.wg; split <;> rfl
@[simp] theorem Ctx.wg_q1 (x : Ctx) (n : Nat) (w : Word) :
    (x.wg n w).q1 = x.q1 := by
  unfold Ctx.wg; split <;> rfl
@[simp] theorem Ctx.wg_slot (x : Ctx) (n : Nat) (w : Word) :
    (x.wg n w).slot = x.slot := by
  unfold Ctx.wg; split <;> rfl
@[simp] theorem Ctx.wg_rslot (x : Ctx) (n : Nat) (w : Word) :
    (x.wg n w).rslot = x.rslot := by
  unfold Ctx.wg; split <;> rfl
@[simp] theorem Ctx.wg_cpSrc (x : Ctx) (n : Nat) (w : Word) :
    (x.wg n w).cpSrc = x.cpSrc := by
  unfold Ctx.wg; split <;> rfl
@[simp] theorem Ctx.wg_cpDst (x : Ctx) (n : Nat) (w : Word) :
    (x.wg n w).cpDst = x.cpDst := by
  unfold Ctx.wg; split <;> rfl
@[simp] theorem Ctx.wg_cpLen (x : Ctx) (n : Nat) (w : Word) :
    (x.wg n w).cpLen = x.cpLen := by
  unfold Ctx.wg; split <;> rfl
@[simp] theorem Ctx.wg_cpShape (x : Ctx) (n : Nat) (w : Word) :
    (x.wg n w).cpShape = x.cpShape := by
  unfold Ctx.wg; split <;> rfl
@[simp] theorem Ctx.wg_cpPblk (x : Ctx) (n : Nat) (w : Word) :
    (x.wg n w).cpPblk = x.cpPblk := by
  unfold Ctx.wg; split <;> rfl
@[simp] theorem Ctx.wg_wait (x : Ctx) (n : Nat) (w : Word) :
    (x.wg n w).wait = x.wait := by
  unfold Ctx.wg; split <;> rfl
@[simp] theorem Ctx.wg_cur (x : Ctx) (n : Nat) (w : Word) :
    (x.wg n w).cur = x.cur := by
  unfold Ctx.wg; split <;> rfl
@[simp] theorem Ctx.wg_snap (x : Ctx) (n : Nat) (w : Word) :
    (x.wg n w).snap = x.snap := by
  unfold Ctx.wg; split <;> rfl
@[simp] theorem Ctx.wg_stl (x : Ctx) (n : Nat) (w : Word) :
    (x.wg n w).stl = x.stl := by
  unfold Ctx.wg; split <;> rfl
@[simp] theorem Ctx.wg_clock (x : Ctx) (n : Nat) (w : Word) :
    (x.wg n w).clock = x.clock := by
  unfold Ctx.wg; split <;> rfl
@[simp] theorem Ctx.wg_ready (x : Ctx) (n : Nat) (w : Word) :
    (x.wg n w).ready = x.ready := by
  unfold Ctx.wg; split <;> rfl
@[simp] theorem Ctx.wg_late (x : Ctx) (n : Nat) (w : Word) :
    (x.wg n w).late = x.late := by
  unfold Ctx.wg; split <;> rfl
@[simp] theorem Ctx.wg_early (x : Ctx) (n : Nat) (w : Word) :
    (x.wg n w).early = x.early := by
  unfold Ctx.wg; split <;> rfl
@[simp] theorem Ctx.wg_taint (x : Ctx) (n : Nat) (w : Word) :
    (x.wg n w).taint = x.taint := by
  unfold Ctx.wg; split <;> rfl
@[simp] theorem Ctx.wg_reads (x : Ctx) (n : Nat) (w : Word) :
    (x.wg n w).reads = x.reads := by
  unfold Ctx.wg; split <;> rfl
@[simp] theorem Ctx.wg_deferred (x : Ctx) (n : Nat) (w : Word) :
    (x.wg n w).deferred = x.deferred := by
  unfold Ctx.wg; split <;> rfl
@[simp] theorem Ctx.wg_yielded (x : Ctx) (n : Nat) (w : Word) :
    (x.wg n w).yielded = x.yielded := by
  unfold Ctx.wg; split <;> rfl
@[simp] theorem Ctx.wg_bad (x : Ctx) (n : Nat) (w : Word) :
    (x.wg n w).bad = x.bad := by
  unfold Ctx.wg; split <;> rfl
@[simp] theorem Ctx.wg_perf (x : Ctx) (n : Nat) (w : Word) :
    (x.wg n w).perf = x.perf := by
  unfold Ctx.wg; split <;> rfl


/-! ### Ctx.wp -/
@[simp] theorem Ctx.wp_live (x : Ctx) (n : Nat) (w : Word) :
    (x.wp n w).live = x.live := by
  unfold Ctx.wp; split <;> rfl
@[simp] theorem Ctx.wp_finishing (x : Ctx) (n : Nat) (w : Word) :
    (x.wp n w).finishing = x.finishing := by
  unfold Ctx.wp; split <;> rfl
@[simp] theorem Ctx.wp_held (x : Ctx) (n : Nat) (w : Word) :
    (x.wp n w).held = x.held := by
  unfold Ctx.wp; split <;> rfl
@[simp] theorem Ctx.wp_g (x : Ctx) (n : Nat) (w : Word) :
    (x.wp n w).g = x.g := by
  unfold Ctx.wp; split <;> rfl
@[simp] theorem Ctx.wp_v (x : Ctx) (n : Nat) (w : Word) :
    (x.wp n w).v = x.v := by
  unfold Ctx.wp; split <;> rfl
@[simp] theorem Ctx.wp_e (x : Ctx) (n : Nat) (w : Word) :
    (x.wp n w).e = x.e := by
  unfold Ctx.wp; split <;> rfl
@[simp] theorem Ctx.wp_b (x : Ctx) (n : Nat) (w : Word) :
    (x.wp n w).b = x.b := by
  unfold Ctx.wp; split <;> rfl
@[simp] theorem Ctx.wp_pc (x : Ctx) (n : Nat) (w : Word) :
    (x.wp n w).pc = x.pc := by
  unfold Ctx.wp; split <;> rfl
@[simp] theorem Ctx.wp_stat (x : Ctx) (n : Nat) (w : Word) :
    (x.wp n w).stat = x.stat := by
  unfold Ctx.wp; split <;> rfl
@[simp] theorem Ctx.wp_pfx (x : Ctx) (n : Nat) (w : Word) :
    (x.wp n w).pfx = x.pfx := by
  unfold Ctx.wp; split <;> rfl
@[simp] theorem Ctx.wp_rndctr (x : Ctx) (n : Nat) (w : Word) :
    (x.wp n w).rndctr = x.rndctr := by
  unfold Ctx.wp; split <;> rfl
@[simp] theorem Ctx.wp_kind (x : Ctx) (n : Nat) (w : Word) :
    (x.wp n w).kind = x.kind := by
  unfold Ctx.wp; split <;> rfl
@[simp] theorem Ctx.wp_pri (x : Ctx) (n : Nat) (w : Word) :
    (x.wp n w).pri = x.pri := by
  unfold Ctx.wp; split <;> rfl
@[simp] theorem Ctx.wp_chan (x : Ctx) (n : Nat) (w : Word) :
    (x.wp n w).chan = x.chan := by
  unfold Ctx.wp; split <;> rfl
@[simp] theorem Ctx.wp_latched (x : Ctx) (n : Nat) (w : Word) :
    (x.wp n w).latched = x.latched := by
  unfold Ctx.wp; split <;> rfl
@[simp] theorem Ctx.wp_q1 (x : Ctx) (n : Nat) (w : Word) :
    (x.wp n w).q1 = x.q1 := by
  unfold Ctx.wp; split <;> rfl
@[simp] theorem Ctx.wp_slot (x : Ctx) (n : Nat) (w : Word) :
    (x.wp n w).slot = x.slot := by
  unfold Ctx.wp; split <;> rfl
@[simp] theorem Ctx.wp_rslot (x : Ctx) (n : Nat) (w : Word) :
    (x.wp n w).rslot = x.rslot := by
  unfold Ctx.wp; split <;> rfl
@[simp] theorem Ctx.wp_cpSrc (x : Ctx) (n : Nat) (w : Word) :
    (x.wp n w).cpSrc = x.cpSrc := by
  unfold Ctx.wp; split <;> rfl
@[simp] theorem Ctx.wp_cpDst (x : Ctx) (n : Nat) (w : Word) :
    (x.wp n w).cpDst = x.cpDst := by
  unfold Ctx.wp; split <;> rfl
@[simp] theorem Ctx.wp_cpLen (x : Ctx) (n : Nat) (w : Word) :
    (x.wp n w).cpLen = x.cpLen := by
  unfold Ctx.wp; split <;> rfl
@[simp] theorem Ctx.wp_cpShape (x : Ctx) (n : Nat) (w : Word) :
    (x.wp n w).cpShape = x.cpShape := by
  unfold Ctx.wp; split <;> rfl
@[simp] theorem Ctx.wp_cpPblk (x : Ctx) (n : Nat) (w : Word) :
    (x.wp n w).cpPblk = x.cpPblk := by
  unfold Ctx.wp; split <;> rfl
@[simp] theorem Ctx.wp_wait (x : Ctx) (n : Nat) (w : Word) :
    (x.wp n w).wait = x.wait := by
  unfold Ctx.wp; split <;> rfl
@[simp] theorem Ctx.wp_cur (x : Ctx) (n : Nat) (w : Word) :
    (x.wp n w).cur = x.cur := by
  unfold Ctx.wp; split <;> rfl
@[simp] theorem Ctx.wp_snap (x : Ctx) (n : Nat) (w : Word) :
    (x.wp n w).snap = x.snap := by
  unfold Ctx.wp; split <;> rfl
@[simp] theorem Ctx.wp_stl (x : Ctx) (n : Nat) (w : Word) :
    (x.wp n w).stl = x.stl := by
  unfold Ctx.wp; split <;> rfl
@[simp] theorem Ctx.wp_clock (x : Ctx) (n : Nat) (w : Word) :
    (x.wp n w).clock = x.clock := by
  unfold Ctx.wp; split <;> rfl
@[simp] theorem Ctx.wp_ready (x : Ctx) (n : Nat) (w : Word) :
    (x.wp n w).ready = x.ready := by
  unfold Ctx.wp; split <;> rfl
@[simp] theorem Ctx.wp_late (x : Ctx) (n : Nat) (w : Word) :
    (x.wp n w).late = x.late := by
  unfold Ctx.wp; split <;> rfl
@[simp] theorem Ctx.wp_early (x : Ctx) (n : Nat) (w : Word) :
    (x.wp n w).early = x.early := by
  unfold Ctx.wp; split <;> rfl
@[simp] theorem Ctx.wp_taint (x : Ctx) (n : Nat) (w : Word) :
    (x.wp n w).taint = x.taint := by
  unfold Ctx.wp; split <;> rfl
@[simp] theorem Ctx.wp_reads (x : Ctx) (n : Nat) (w : Word) :
    (x.wp n w).reads = x.reads := by
  unfold Ctx.wp; split <;> rfl
@[simp] theorem Ctx.wp_deferred (x : Ctx) (n : Nat) (w : Word) :
    (x.wp n w).deferred = x.deferred := by
  unfold Ctx.wp; split <;> rfl
@[simp] theorem Ctx.wp_yielded (x : Ctx) (n : Nat) (w : Word) :
    (x.wp n w).yielded = x.yielded := by
  unfold Ctx.wp; split <;> rfl
@[simp] theorem Ctx.wp_bad (x : Ctx) (n : Nat) (w : Word) :
    (x.wp n w).bad = x.bad := by
  unfold Ctx.wp; split <;> rfl
@[simp] theorem Ctx.wp_perf (x : Ctx) (n : Nat) (w : Word) :
    (x.wp n w).perf = x.perf := by
  unfold Ctx.wp; split <;> rfl


/-! ### Ctx.written -/
@[simp] theorem Ctx.written_live (x : Ctx) (key l : Nat) :
    (x.written key l).live = x.live := rfl
@[simp] theorem Ctx.written_finishing (x : Ctx) (key l : Nat) :
    (x.written key l).finishing = x.finishing := rfl
@[simp] theorem Ctx.written_held (x : Ctx) (key l : Nat) :
    (x.written key l).held = x.held := rfl
@[simp] theorem Ctx.written_g (x : Ctx) (key l : Nat) :
    (x.written key l).g = x.g := rfl
@[simp] theorem Ctx.written_v (x : Ctx) (key l : Nat) :
    (x.written key l).v = x.v := rfl
@[simp] theorem Ctx.written_p (x : Ctx) (key l : Nat) :
    (x.written key l).p = x.p := rfl
@[simp] theorem Ctx.written_e (x : Ctx) (key l : Nat) :
    (x.written key l).e = x.e := rfl
@[simp] theorem Ctx.written_b (x : Ctx) (key l : Nat) :
    (x.written key l).b = x.b := rfl
@[simp] theorem Ctx.written_pc (x : Ctx) (key l : Nat) :
    (x.written key l).pc = x.pc := rfl
@[simp] theorem Ctx.written_stat (x : Ctx) (key l : Nat) :
    (x.written key l).stat = x.stat := rfl
@[simp] theorem Ctx.written_pfx (x : Ctx) (key l : Nat) :
    (x.written key l).pfx = x.pfx := rfl
@[simp] theorem Ctx.written_rndctr (x : Ctx) (key l : Nat) :
    (x.written key l).rndctr = x.rndctr := rfl
@[simp] theorem Ctx.written_kind (x : Ctx) (key l : Nat) :
    (x.written key l).kind = x.kind := rfl
@[simp] theorem Ctx.written_pri (x : Ctx) (key l : Nat) :
    (x.written key l).pri = x.pri := rfl
@[simp] theorem Ctx.written_chan (x : Ctx) (key l : Nat) :
    (x.written key l).chan = x.chan := rfl
@[simp] theorem Ctx.written_latched (x : Ctx) (key l : Nat) :
    (x.written key l).latched = x.latched := rfl
@[simp] theorem Ctx.written_q1 (x : Ctx) (key l : Nat) :
    (x.written key l).q1 = x.q1 := rfl
@[simp] theorem Ctx.written_slot (x : Ctx) (key l : Nat) :
    (x.written key l).slot = x.slot := rfl
@[simp] theorem Ctx.written_rslot (x : Ctx) (key l : Nat) :
    (x.written key l).rslot = x.rslot := rfl
@[simp] theorem Ctx.written_cpSrc (x : Ctx) (key l : Nat) :
    (x.written key l).cpSrc = x.cpSrc := rfl
@[simp] theorem Ctx.written_cpDst (x : Ctx) (key l : Nat) :
    (x.written key l).cpDst = x.cpDst := rfl
@[simp] theorem Ctx.written_cpLen (x : Ctx) (key l : Nat) :
    (x.written key l).cpLen = x.cpLen := rfl
@[simp] theorem Ctx.written_cpShape (x : Ctx) (key l : Nat) :
    (x.written key l).cpShape = x.cpShape := rfl
@[simp] theorem Ctx.written_cpPblk (x : Ctx) (key l : Nat) :
    (x.written key l).cpPblk = x.cpPblk := rfl
@[simp] theorem Ctx.written_wait (x : Ctx) (key l : Nat) :
    (x.written key l).wait = x.wait := rfl
@[simp] theorem Ctx.written_cur (x : Ctx) (key l : Nat) :
    (x.written key l).cur = x.cur := rfl
@[simp] theorem Ctx.written_snap (x : Ctx) (key l : Nat) :
    (x.written key l).snap = x.snap := rfl
@[simp] theorem Ctx.written_stl (x : Ctx) (key l : Nat) :
    (x.written key l).stl = x.stl := rfl
@[simp] theorem Ctx.written_clock (x : Ctx) (key l : Nat) :
    (x.written key l).clock = x.clock := rfl
@[simp] theorem Ctx.written_late (x : Ctx) (key l : Nat) :
    (x.written key l).late = x.late := rfl
@[simp] theorem Ctx.written_early (x : Ctx) (key l : Nat) :
    (x.written key l).early = x.early := rfl
@[simp] theorem Ctx.written_taint (x : Ctx) (key l : Nat) :
    (x.written key l).taint = x.taint := rfl
@[simp] theorem Ctx.written_reads (x : Ctx) (key l : Nat) :
    (x.written key l).reads = x.reads := rfl
@[simp] theorem Ctx.written_deferred (x : Ctx) (key l : Nat) :
    (x.written key l).deferred = x.deferred := rfl
@[simp] theorem Ctx.written_yielded (x : Ctx) (key l : Nat) :
    (x.written key l).yielded = x.yielded := rfl
@[simp] theorem Ctx.written_perf (x : Ctx) (key l : Nat) :
    (x.written key l).perf = x.perf := rfl


/-! ### Ctx.flag -/
@[simp] theorem Ctx.flag_live (x : Ctx) (f : Nat) :
    (x.flag f).live = x.live := rfl
@[simp] theorem Ctx.flag_finishing (x : Ctx) (f : Nat) :
    (x.flag f).finishing = x.finishing := rfl
@[simp] theorem Ctx.flag_held (x : Ctx) (f : Nat) :
    (x.flag f).held = x.held := rfl
@[simp] theorem Ctx.flag_g (x : Ctx) (f : Nat) :
    (x.flag f).g = x.g := rfl
@[simp] theorem Ctx.flag_v (x : Ctx) (f : Nat) :
    (x.flag f).v = x.v := rfl
@[simp] theorem Ctx.flag_p (x : Ctx) (f : Nat) :
    (x.flag f).p = x.p := rfl
@[simp] theorem Ctx.flag_e (x : Ctx) (f : Nat) :
    (x.flag f).e = x.e := rfl
@[simp] theorem Ctx.flag_b (x : Ctx) (f : Nat) :
    (x.flag f).b = x.b := rfl
@[simp] theorem Ctx.flag_pc (x : Ctx) (f : Nat) :
    (x.flag f).pc = x.pc := rfl
@[simp] theorem Ctx.flag_pfx (x : Ctx) (f : Nat) :
    (x.flag f).pfx = x.pfx := rfl
@[simp] theorem Ctx.flag_rndctr (x : Ctx) (f : Nat) :
    (x.flag f).rndctr = x.rndctr := rfl
@[simp] theorem Ctx.flag_kind (x : Ctx) (f : Nat) :
    (x.flag f).kind = x.kind := rfl
@[simp] theorem Ctx.flag_pri (x : Ctx) (f : Nat) :
    (x.flag f).pri = x.pri := rfl
@[simp] theorem Ctx.flag_chan (x : Ctx) (f : Nat) :
    (x.flag f).chan = x.chan := rfl
@[simp] theorem Ctx.flag_latched (x : Ctx) (f : Nat) :
    (x.flag f).latched = x.latched := rfl
@[simp] theorem Ctx.flag_q1 (x : Ctx) (f : Nat) :
    (x.flag f).q1 = x.q1 := rfl
@[simp] theorem Ctx.flag_slot (x : Ctx) (f : Nat) :
    (x.flag f).slot = x.slot := rfl
@[simp] theorem Ctx.flag_rslot (x : Ctx) (f : Nat) :
    (x.flag f).rslot = x.rslot := rfl
@[simp] theorem Ctx.flag_cpSrc (x : Ctx) (f : Nat) :
    (x.flag f).cpSrc = x.cpSrc := rfl
@[simp] theorem Ctx.flag_cpDst (x : Ctx) (f : Nat) :
    (x.flag f).cpDst = x.cpDst := rfl
@[simp] theorem Ctx.flag_cpLen (x : Ctx) (f : Nat) :
    (x.flag f).cpLen = x.cpLen := rfl
@[simp] theorem Ctx.flag_cpShape (x : Ctx) (f : Nat) :
    (x.flag f).cpShape = x.cpShape := rfl
@[simp] theorem Ctx.flag_cpPblk (x : Ctx) (f : Nat) :
    (x.flag f).cpPblk = x.cpPblk := rfl
@[simp] theorem Ctx.flag_wait (x : Ctx) (f : Nat) :
    (x.flag f).wait = x.wait := rfl
@[simp] theorem Ctx.flag_cur (x : Ctx) (f : Nat) :
    (x.flag f).cur = x.cur := rfl
@[simp] theorem Ctx.flag_snap (x : Ctx) (f : Nat) :
    (x.flag f).snap = x.snap := rfl
@[simp] theorem Ctx.flag_stl (x : Ctx) (f : Nat) :
    (x.flag f).stl = x.stl := rfl
@[simp] theorem Ctx.flag_clock (x : Ctx) (f : Nat) :
    (x.flag f).clock = x.clock := rfl
@[simp] theorem Ctx.flag_ready (x : Ctx) (f : Nat) :
    (x.flag f).ready = x.ready := rfl
@[simp] theorem Ctx.flag_late (x : Ctx) (f : Nat) :
    (x.flag f).late = x.late := rfl
@[simp] theorem Ctx.flag_early (x : Ctx) (f : Nat) :
    (x.flag f).early = x.early := rfl
@[simp] theorem Ctx.flag_taint (x : Ctx) (f : Nat) :
    (x.flag f).taint = x.taint := rfl
@[simp] theorem Ctx.flag_reads (x : Ctx) (f : Nat) :
    (x.flag f).reads = x.reads := rfl
@[simp] theorem Ctx.flag_deferred (x : Ctx) (f : Nat) :
    (x.flag f).deferred = x.deferred := rfl
@[simp] theorem Ctx.flag_yielded (x : Ctx) (f : Nat) :
    (x.flag f).yielded = x.yielded := rfl
@[simp] theorem Ctx.flag_bad (x : Ctx) (f : Nat) :
    (x.flag f).bad = x.bad := rfl
@[simp] theorem Ctx.flag_perf (x : Ctx) (f : Nat) :
    (x.flag f).perf = x.perf := rfl
@[simp] theorem Ctx.flag_stat (x : Ctx) (f : Nat) :
    (x.flag f).stat = x.stat ||| .ofNat 64 (f % 64) := rfl


/-! ### Ctx.count -/
@[simp] theorem Ctx.count_live (x : Ctx) (n : Nat) :
    (x.count n).live = x.live := rfl
@[simp] theorem Ctx.count_finishing (x : Ctx) (n : Nat) :
    (x.count n).finishing = x.finishing := rfl
@[simp] theorem Ctx.count_held (x : Ctx) (n : Nat) :
    (x.count n).held = x.held := rfl
@[simp] theorem Ctx.count_g (x : Ctx) (n : Nat) :
    (x.count n).g = x.g := rfl
@[simp] theorem Ctx.count_v (x : Ctx) (n : Nat) :
    (x.count n).v = x.v := rfl
@[simp] theorem Ctx.count_p (x : Ctx) (n : Nat) :
    (x.count n).p = x.p := rfl
@[simp] theorem Ctx.count_e (x : Ctx) (n : Nat) :
    (x.count n).e = x.e := rfl
@[simp] theorem Ctx.count_b (x : Ctx) (n : Nat) :
    (x.count n).b = x.b := rfl
@[simp] theorem Ctx.count_pc (x : Ctx) (n : Nat) :
    (x.count n).pc = x.pc := rfl
@[simp] theorem Ctx.count_stat (x : Ctx) (n : Nat) :
    (x.count n).stat = x.stat := rfl
@[simp] theorem Ctx.count_pfx (x : Ctx) (n : Nat) :
    (x.count n).pfx = x.pfx := rfl
@[simp] theorem Ctx.count_rndctr (x : Ctx) (n : Nat) :
    (x.count n).rndctr = x.rndctr := rfl
@[simp] theorem Ctx.count_kind (x : Ctx) (n : Nat) :
    (x.count n).kind = x.kind := rfl
@[simp] theorem Ctx.count_pri (x : Ctx) (n : Nat) :
    (x.count n).pri = x.pri := rfl
@[simp] theorem Ctx.count_chan (x : Ctx) (n : Nat) :
    (x.count n).chan = x.chan := rfl
@[simp] theorem Ctx.count_latched (x : Ctx) (n : Nat) :
    (x.count n).latched = x.latched := rfl
@[simp] theorem Ctx.count_q1 (x : Ctx) (n : Nat) :
    (x.count n).q1 = x.q1 := rfl
@[simp] theorem Ctx.count_slot (x : Ctx) (n : Nat) :
    (x.count n).slot = x.slot := rfl
@[simp] theorem Ctx.count_rslot (x : Ctx) (n : Nat) :
    (x.count n).rslot = x.rslot := rfl
@[simp] theorem Ctx.count_cpSrc (x : Ctx) (n : Nat) :
    (x.count n).cpSrc = x.cpSrc := rfl
@[simp] theorem Ctx.count_cpDst (x : Ctx) (n : Nat) :
    (x.count n).cpDst = x.cpDst := rfl
@[simp] theorem Ctx.count_cpLen (x : Ctx) (n : Nat) :
    (x.count n).cpLen = x.cpLen := rfl
@[simp] theorem Ctx.count_cpShape (x : Ctx) (n : Nat) :
    (x.count n).cpShape = x.cpShape := rfl
@[simp] theorem Ctx.count_cpPblk (x : Ctx) (n : Nat) :
    (x.count n).cpPblk = x.cpPblk := rfl
@[simp] theorem Ctx.count_wait (x : Ctx) (n : Nat) :
    (x.count n).wait = x.wait := rfl
@[simp] theorem Ctx.count_cur (x : Ctx) (n : Nat) :
    (x.count n).cur = x.cur := rfl
@[simp] theorem Ctx.count_snap (x : Ctx) (n : Nat) :
    (x.count n).snap = x.snap := rfl
@[simp] theorem Ctx.count_stl (x : Ctx) (n : Nat) :
    (x.count n).stl = x.stl := rfl
@[simp] theorem Ctx.count_clock (x : Ctx) (n : Nat) :
    (x.count n).clock = x.clock := rfl
@[simp] theorem Ctx.count_ready (x : Ctx) (n : Nat) :
    (x.count n).ready = x.ready := rfl
@[simp] theorem Ctx.count_late (x : Ctx) (n : Nat) :
    (x.count n).late = x.late := rfl
@[simp] theorem Ctx.count_early (x : Ctx) (n : Nat) :
    (x.count n).early = x.early := rfl
@[simp] theorem Ctx.count_taint (x : Ctx) (n : Nat) :
    (x.count n).taint = x.taint := rfl
@[simp] theorem Ctx.count_reads (x : Ctx) (n : Nat) :
    (x.count n).reads = x.reads := rfl
@[simp] theorem Ctx.count_deferred (x : Ctx) (n : Nat) :
    (x.count n).deferred = x.deferred := rfl
@[simp] theorem Ctx.count_yielded (x : Ctx) (n : Nat) :
    (x.count n).yielded = x.yielded := rfl
@[simp] theorem Ctx.count_bad (x : Ctx) (n : Nat) :
    (x.count n).bad = x.bad := rfl


/-! ### Registers of a context -/

theorem Ctx.rg_wg (x : Ctx) (n m : Nat) (w : Word) :
    (x.wg n w).rg m = if m = n then (if n = 0 then 0 else w) else x.rg m := by
  unfold Ctx.rg Ctx.wg
  by_cases hn : n = 0
  · subst hn; by_cases hm : m = 0 <;> simp [hm]
  · by_cases hm : m = 0
    · subst hm; simp [Ne.symm hn]
    · simp only [if_neg hn, if_neg hm, SMap.get_put]

theorem Ctx.rp_wp (x : Ctx) (n m : Nat) (w : Word) :
    (x.wp n w).rp m = if m = n then (if n = 0 then .allOnes 64 else w) else x.rp m := by
  unfold Ctx.rp Ctx.wp
  by_cases hn : n = 0
  · subst hn; by_cases hm : m = 0 <;> simp [hm]
  · by_cases hm : m = 0
    · subst hm; simp [Ne.symm hn]
    · simp only [if_neg hn, if_neg hm, SMap.get_put]
@[simp] theorem Ctx.rg_zero (x : Ctx) : x.rg 0 = 0 := rfl
@[simp] theorem Ctx.rp_zero (x : Ctx) : x.rp 0 = .allOnes 64 := rfl
@[simp] theorem Ctx.rg_goto (x : Ctx) (pc : Word) (stl n : Nat) : (x.goto pc stl).rg n = x.rg n := rfl
@[simp] theorem Ctx.rp_goto (x : Ctx) (pc : Word) (stl n : Nat) : (x.goto pc stl).rp n = x.rp n := rfl
@[simp] theorem Ctx.rg_written (x : Ctx) (key l n : Nat) : (x.written key l).rg n = x.rg n := rfl
@[simp] theorem Ctx.rp_written (x : Ctx) (key l n : Nat) : (x.written key l).rp n = x.rp n := rfl
@[simp] theorem Ctx.rp_wg (x : Ctx) (n m : Nat) (w : Word) : (x.wg n w).rp m = x.rp m := by
  unfold Ctx.rp; simp
@[simp] theorem Ctx.rg_wp (x : Ctx) (n m : Nat) (w : Word) : (x.wp n w).rg m = x.rg m := by
  unfold Ctx.rg; simp

/-! ### Cores and contexts of the state -/
@[simp] theorem State.core_setCore_same (s : State) (cn : Nat) (c : Core) : (s.setCore cn c).core cn = c :=
  SMap.get_put_same _ _ _ _
theorem State.core_setCore_other (s : State) {cn j : Nat} (c : Core) (h : j ≠ cn) : (s.setCore cn c).core j = s.core j :=
  SMap.get_put_other _ _ _ h
@[simp] theorem State.setCore_setCore (s : State) (cn : Nat) (c d : Core) : (s.setCore cn c).setCore cn d = s.setCore cn d := by
  unfold State.setCore; simp
@[simp] theorem State.core_modCore_same (s : State) (cn : Nat) (f : Core → Core) : (s.modCore cn f).core cn = f (s.core cn) :=
  SMap.get_put_same _ _ _ _
theorem State.core_modCore_other (s : State) {cn j : Nat} (f : Core → Core) (h : j ≠ cn) : (s.modCore cn f).core j = s.core j :=
  SMap.get_put_other _ _ _ h
@[simp] theorem State.modCore_modCore (s : State) (cn : Nat) (f g : Core → Core) :
    (s.modCore cn f).modCore cn g = s.modCore cn fun c => g (f c) := by
  unfold State.modCore; simp
@[simp] theorem State.me_modMe (s : State) (f : Core → Core) : (s.modMe f).me = f s.me :=
  SMap.get_put_same _ _ _ _
theorem State.core_modMe_other (s : State) {j : Nat} (f : Core → Core) (h : j ≠ s.curCore) : (s.modMe f).core j = s.core j :=
  SMap.get_put_other _ _ _ h
@[simp] theorem State.modMe_modMe (s : State) (f g : Core → Core) : (s.modMe f).modMe g = s.modMe fun c => g (f c) := by
  unfold State.modMe; simp
@[simp] theorem Core.cx_modCx_same (c : Core) (k : Nat) (f : Ctx → Ctx) : (c.modCx k f).cx k = f (c.cx k) :=
  SMap.get_put_same _ _ _ _
theorem Core.cx_modCx_other (c : Core) {k j : Nat} (f : Ctx → Ctx) (h : j ≠ k) : (c.modCx k f).cx j = c.cx j :=
  SMap.get_put_other _ _ _ h
@[simp] theorem Core.modCx_modCx (c : Core) (k : Nat) (f g : Ctx → Ctx) : (c.modCx k f).modCx k g = c.modCx k fun x => g (f x) := by
  unfold Core.modCx Core.cx; simp
@[simp] theorem State.cx_modCx (s : State) (f : Ctx → Ctx) : (s.modCx f).cx = f s.cx := by
  unfold State.modCx State.cx; simp
@[simp] theorem State.modCx_modCx (s : State) (f g : Ctx → Ctx) : (s.modCx f).modCx g = s.modCx fun x => g (f x) := by
  unfold State.modCx; simp
@[simp] theorem State.me_modCx (s : State) (f : Ctx → Ctx) : (s.modCx f).me = s.me.modCx s.curCtx f :=
  State.me_modMe _ _
@[simp] theorem State.ipOf_modCx (s : State) (f : Ctx → Ctx) (n : Nat) : (s.modCx f).ipOf n = s.ipOf n := rfl
@[simp] theorem State.isS_modCx (s : State) (f : Ctx → Ctx) : (s.modCx f).isS = s.isS := rfl


end Sys2Proof.Machine
end

