-- ==== Sys2Proof/Laws/Caches.lean ====
section
/-! SUPPORT. What a translation changes: the caches of translations, and nothing else. -/

namespace Sys2Proof.Machine

/-- t is s but for the cores' caches of translations and the slices. -/
structure OnlyCaches (s t : State) : Prop where
  rest : t = { s with slices := t.slices, cores := t.cores }
  cores : ∀ cn, t.core cn = { s.core cn with xcache := (t.core cn).xcache }

theorem OnlyCaches.refl (s : State) : OnlyCaches s s := ⟨rfl, fun _ => rfl⟩
theorem OnlyCaches.trans {s t u : State} (h : OnlyCaches s t) (k : OnlyCaches t u) : OnlyCaches s u := by
  refine ⟨?_, fun cn => ?_⟩
  · have a := h.rest; have b := k.rest; rw [b, a]
  · rw [k.cores cn, h.cores cn]

/-- Every byte reads as before. -/
theorem OnlyCaches.memSame {s t : State} (h : OnlyCaches s t) : MemSame s t :=
  ⟨fun cn a => by rw [h.cores cn], fun a => by rw [h.rest]⟩

theorem onlyCaches_fillSlice (s : State) (asid va : Nat) (e : XEntry) : OnlyCaches s (s.fillSlice asid va e) := ⟨rfl, fun _ => rfl⟩
theorem onlyCaches_fillCore (s : State) (cn : Nat) (e : XEntry) : OnlyCaches s (s.fillCore cn e) := by
  refine ⟨rfl, fun j => ?_⟩
  by_cases h : j = cn
  · subst h; simp [State.fillCore]
  · simp [State.fillCore, State.core_modCore_other _ _ h]

theorem onlyCaches_keepWalk (s : State) (p va : Nat) (leaf : XEntry) : OnlyCaches s (s.keepWalk p va leaf) := by
  have h : ∀ (asid : Nat) (es : List (Nat × Word)) (u : State), OnlyCaches u
      (es.foldl (fun s e => s.fillSlice asid va ⟨asid, va / 2 ^ e.1, e.1, e.2⟩) u) := by
    intro asid es
    induction es with
    | nil => exact OnlyCaches.refl
    | cons e es ih => exact fun u => (onlyCaches_fillSlice u _ _ _).trans (ih _)
  exact (h _ _ s).trans (onlyCaches_fillSlice _ _ _ _)

/-- A translation changes the caches alone (R389). -/
theorem onlyCaches_translate (s : State) (cn : Option Nat) (p va : Nat) (acc : Access) : OnlyCaches s (s.translate cn p va acc).2 := by
  have keep : ∀ (u : State) (e : XEntry), OnlyCaches u (match cn with
      | some c => u.fillCore c e
      | none => u) := by
    intro u e
    cases cn with
    | none => exact OnlyCaches.refl u
    | some c => exact onlyCaches_fillCore u c e
  unfold State.translate
  dsimp only
  split
  · exact OnlyCaches.refl s
  · split
    · exact keep s _
    · split
      · exact OnlyCaches.refl s
      · split
        · exact (onlyCaches_keepWalk s p va _).trans (keep _ _)
        · exact OnlyCaches.refl s

/-- So does the translation of a range. -/
theorem onlyCaches_translateRange (s : State) (cn : Option Nat) (p va n : Nat) (acc : Access) :
    OnlyCaches s (s.translateRange cn p va n acc).2 := by
  unfold State.translateRange
  generalize (Except.ok [] : Except (Nat × Xlated) (List (Nat × Nat))) = r
  induction pagesOf va n generalizing r s with
  | nil => exact OnlyCaches.refl s
  | cons a as ih =>
    rw [List.foldl_cons]
    cases r with
    | error e => exact ih s _
    | ok ps =>
      have h := onlyCaches_translate s cn p a acc
      dsimp only
      split <;> (next heq => rw [heq] at h; exact h.trans (ih _ _))

/-- And so do the translations of a part of a copy (R391). -/
theorem onlyCaches_translatePart (s : State) (cn : Nat) (o : CopyOp) : OnlyCaches s (s.translatePart cn o).2 := by
  unfold State.translatePart
  generalize (Except.ok [] : Except (Nat × Xlated × Bool) (SMap Nat)) = r
  induction o.uses cn generalizing r s with
  | nil => exact OnlyCaches.refl s
  | cons x xs ih =>
    rw [List.foldl_cons]
    cases r with
    | error e => exact ih s _
    | ok m =>
      have h := onlyCaches_translate s (some cn) (s.partOf cn) x.1 x.2
      dsimp only
      split
      · exact ih s _
      · split <;> (next heq => rw [heq] at h; exact h.trans (ih _ _))

end Sys2Proof.Machine
end

