-- ==== Sys2Proof/Laws/Ops.lean ====
section
/-! SUPPORT. What the shared operations do, said once: register writes with retirement, branches, blocking, checks. -/

namespace Sys2Proof.Machine

/-- A change of the issuing context alone leaves every memory byte as it is. -/
theorem memSame_modCx (s : State) (f : Ctx → Ctx) : MemSame s (s.modCx f) := by
  refine ⟨fun cn a => ?_, fun a => rfl⟩
  by_cases h : cn = s.curCore
  · subst h
    have : (s.modCx f).core s.curCore = s.me.modCx s.curCtx f := State.me_modCx s f
    rw [this]; rfl
  · have : (s.modCx f).core cn = s.core cn := State.core_modMe_other s _ h
    rw [this]

/-- A change of the issuing context is a change of that context only. -/
theorem onlyContext_modCx (s : State) (f : Ctx → Ctx) : OnlyContext s (s.modCx f) :=
  ⟨by rw [State.cx_modCx]; rfl, memSame_modCx s f⟩

theorem readG_modCx (s : State) (f : Ctx → Ctx) (n : BitVec 5) : (s.modCx f).readG n = (f s.cx).rg n.toNat := by
  unfold State.readG; simp
theorem readV_modCx (s : State) (f : Ctx → Ctx) (n : BitVec 5) : (s.modCx f).readV n = SMap.get 0 (f s.cx).v n.toNat := by
  unfold State.readV; simp
theorem readP_modCx (s : State) (f : Ctx → Ctx) (n : BitVec 3) : (s.modCx f).readP n = (f s.cx).rp n.toNat := by
  unfold State.readP; simp
theorem readE_modCx (s : State) (f : Ctx → Ctx) (n : BitVec 3) : (s.modCx f).readE n = SMap.get 0 (f s.cx).e n.toNat := by
  unfold State.readE; simp
theorem readB_modCx (s : State) (f : Ctx → Ctx) (n : BitVec 2) : (s.modCx f).readB n = SMap.get 0 (f s.cx).b n.toNat := by
  unfold State.readB; simp

/-- The register files of a context after a change of it: what ChangesRegs asks of the change. -/
theorem changesRegs_modCx (s : State) (f : Ctx → Ctx) (len : Nat) (keys : List Nat) (hr : CtxRest s.cx (f s.cx))
    (hp : (f s.cx).pc = s.cx.pc + .ofNat 64 len) (hx : (f s.cx).pfx = if s.cx.pp then 0 else s.cx.pfx)
    (hw : (f s.cx).wait = .none) (hs : (f s.cx).stat = clearPend s.cx.stat) (hn : (f s.cx).rndctr = s.cx.rndctr)
    (hg : ∀ n, keyG n ∉ keys → (f s.cx).rg n = s.cx.rg n)
    (hv : ∀ n, keyV n ∉ keys → SMap.get 0 (f s.cx).v n = SMap.get 0 s.cx.v n)
    (hq : ∀ n, keyP n ∉ keys → (f s.cx).rp n = s.cx.rp n)
    (he : ∀ n, keyE n ∉ keys → SMap.get 0 (f s.cx).e n = SMap.get 0 s.cx.e n)
    (hb : ∀ n, keyB n ∉ keys → SMap.get 0 (f s.cx).b n = SMap.get 0 s.cx.b n) :
    ChangesRegs s (s.modCx f) len keys := by
  refine ⟨onlyContext_modCx s f, ?_, ?_, ?_, fun n h => ?_, fun n h => ?_, fun n h => ?_, fun n h => ?_, fun n h => ?_⟩
  · rw [State.cx_modCx]; exact hr
  · rw [Retired, State.cx_modCx]; exact ⟨hp, hx, hw⟩
  · rw [FlagsSame, State.cx_modCx]; exact ⟨hs, hn⟩
  · rw [readG_modCx]; exact hg _ h
  · rw [readV_modCx]; exact hv _ h
  · rw [readP_modCx]; exact hq _ h
  · rw [readE_modCx]; exact he _ h
  · rw [readB_modCx]; exact hb _ h

/-- A g result with retirement: what writeG and then retire do. -/
theorem writeG_retire_spec (s : State) (d : BitVec 5) (w : Word) (l len stl : Nat) :
    ((s.writeG d w l).retire len stl).readG d = (if d = 0 then 0 else w) ∧
      ChangesRegs s ((s.writeG d w l).retire len stl) len [keyG d.toNat] := by
  unfold State.writeG State.retire
  rw [State.modCx_modCx]
  refine ⟨?_, changesRegs_modCx s _ _ _ ?_ ?_ ?_ ?_ ?_ ?_ ?_ ?_ ?_ ?_ ?_⟩
  · rw [readG_modCx]
    simp only [Ctx.rg_goto, Ctx.rg_written, Ctx.rg_wg, if_true]
    by_cases h : d = 0
    · subst h; rfl
    · rw [if_neg h, if_neg (by intro h2; exact h (BitVec.eq_of_toNat_eq (by simpa using h2)))]
  · unfold CtxRest Ctx.wg; split <;> rfl
  · simp
  · rw [Ctx.goto_pfx]; simp [Ctx.pp]; rfl
  · simp
  · simp
  · simp
  · intro n h
    simp only [List.mem_singleton, keyG] at h
    simp only [Ctx.rg_goto, Ctx.rg_written, Ctx.rg_wg, if_neg h]
  · simp
  · simp
  · simp
  · simp

theorem result_spec (s : State) (st : BitVec 3) (d : BitVec 5) (w : Word) (l : Nat) :
    ∃ t, s.result st d w l = .next t ∧ t.readG d = (if d = 0 then 0 else w) ∧ ChangesRegs s t 4 [keyG d.toNat] :=
  ⟨_, rfl, writeG_retire_spec s d w l 4 st.toNat⟩

theorem resultC_spec (s : State) (d : BitVec 5) (w : Word) (l : Nat) :
    ∃ t, s.resultC d w l = .next t ∧ t.readG d = (if d = 0 then 0 else w) ∧ ChangesRegs s t 2 [keyG d.toNat] :=
  ⟨_, rfl, writeG_retire_spec s d w l 2 0⟩

end Sys2Proof.Machine
end

