-- ==== Sys2Proof/Laws/PerInstr.lean ====
section
/-! SUPPORT. Per instruction: an encoded instruction has one halfword below 0x8000 or one word with bit 31 set, so that its
first halfword says its length (R196, R198, R202); an event has no word. -/

namespace Sys2Proof.Laws.Encoded

/-- The word of an instruction has the length that its first halfword says. -/
def Statement (i : Instr) : Prop :=
  ∀ n w : Nat, encode i = some (n, w) → (n = 16 ∧ w < 2 ^ 15) ∨ (n = 32 ∧ 2 ^ 31 ≤ w ∧ w < 2 ^ 32)

theorem of_word {i : Instr} {x : Nat} (h : encode i = some (32, x)) (hx : 2 ^ 31 ≤ x ∧ x < 2 ^ 32) : Statement i := by
  intro n w e
  rw [h] at e
  obtain ⟨rfl, rfl⟩ := Prod.mk.inj (Option.some.inj e)
  exact .inr ⟨rfl, hx⟩

theorem of_half {i : Instr} {x : Nat} (h : encode i = some (16, x)) (hx : x < 2 ^ 15) : Statement i := by
  intro n w e
  rw [h] at e
  obtain ⟨rfl, rfl⟩ := Prod.mk.inj (Option.some.inj e)
  exact .inl ⟨rfl, hx⟩

theorem of_event {i : Instr} (h : encode i = none) : Statement i := by
  intro n w e
  rw [h] at e
  cases e

theorem add (s : BitVec 3) (d : BitVec 5) (a : BitVec 5) (b : BitVec 5) : Statement (.add s d a b) :=
  of_word rfl (by simp only [place]; have hs := s.isLt; have hd := d.isLt; have ha := a.isLt; have hb := b.isLt; omega)
theorem sub (s : BitVec 3) (d : BitVec 5) (a : BitVec 5) (b : BitVec 5) : Statement (.sub s d a b) :=
  of_word rfl (by simp only [place]; have hs := s.isLt; have hd := d.isLt; have ha := a.isLt; have hb := b.isLt; omega)
theorem and (s : BitVec 3) (d : BitVec 5) (a : BitVec 5) (b : BitVec 5) : Statement (.and s d a b) :=
  of_word rfl (by simp only [place]; have hs := s.isLt; have hd := d.isLt; have ha := a.isLt; have hb := b.isLt; omega)
theorem or (s : BitVec 3) (d : BitVec 5) (a : BitVec 5) (b : BitVec 5) : Statement (.or s d a b) :=
  of_word rfl (by simp only [place]; have hs := s.isLt; have hd := d.isLt; have ha := a.isLt; have hb := b.isLt; omega)
theorem xor (s : BitVec 3) (d : BitVec 5) (a : BitVec 5) (b : BitVec 5) : Statement (.xor s d a b) :=
  of_word rfl (by simp only [place]; have hs := s.isLt; have hd := d.isLt; have ha := a.isLt; have hb := b.isLt; omega)
theorem andn (s : BitVec 3) (d : BitVec 5) (a : BitVec 5) (b : BitVec 5) : Statement (.andn s d a b) :=
  of_word rfl (by simp only [place]; have hs := s.isLt; have hd := d.isLt; have ha := a.isLt; have hb := b.isLt; omega)
theorem sll (s : BitVec 3) (d : BitVec 5) (a : BitVec 5) (b : BitVec 5) : Statement (.sll s d a b) :=
  of_word rfl (by simp only [place]; have hs := s.isLt; have hd := d.isLt; have ha := a.isLt; have hb := b.isLt; omega)
theorem srl (s : BitVec 3) (d : BitVec 5) (a : BitVec 5) (b : BitVec 5) : Statement (.srl s d a b) :=
  of_word rfl (by simp only [place]; have hs := s.isLt; have hd := d.isLt; have ha := a.isLt; have hb := b.isLt; omega)
theorem sra (s : BitVec 3) (d : BitVec 5) (a : BitVec 5) (b : BitVec 5) : Statement (.sra s d a b) :=
  of_word rfl (by simp only [place]; have hs := s.isLt; have hd := d.isLt; have ha := a.isLt; have hb := b.isLt; omega)
theorem rol (s : BitVec 3) (d : BitVec 5) (a : BitVec 5) (b : BitVec 5) : Statement (.rol s d a b) :=
  of_word rfl (by simp only [place]; have hs := s.isLt; have hd := d.isLt; have ha := a.isLt; have hb := b.isLt; omega)
theorem ror (s : BitVec 3) (d : BitVec 5) (a : BitVec 5) (b : BitVec 5) : Statement (.ror s d a b) :=
  of_word rfl (by simp only [place]; have hs := s.isLt; have hd := d.isLt; have ha := a.isLt; have hb := b.isLt; omega)
theorem slt (s : BitVec 3) (d : BitVec 5) (a : BitVec 5) (b : BitVec 5) : Statement (.slt s d a b) :=
  of_word rfl (by simp only [place]; have hs := s.isLt; have hd := d.isLt; have ha := a.isLt; have hb := b.isLt; omega)
theorem sltu (s : BitVec 3) (d : BitVec 5) (a : BitVec 5) (b : BitVec 5) : Statement (.sltu s d a b) :=
  of_word rfl (by simp only [place]; have hs := s.isLt; have hd := d.isLt; have ha := a.isLt; have hb := b.isLt; omega)
theorem seq (s : BitVec 3) (d : BitVec 5) (a : BitVec 5) (b : BitVec 5) : Statement (.seq s d a b) :=
  of_word rfl (by simp only [place]; have hs := s.isLt; have hd := d.isLt; have ha := a.isLt; have hb := b.isLt; omega)
theorem min (s : BitVec 3) (d : BitVec 5) (a : BitVec 5) (b : BitVec 5) : Statement (.min s d a b) :=
  of_word rfl (by simp only [place]; have hs := s.isLt; have hd := d.isLt; have ha := a.isLt; have hb := b.isLt; omega)
theorem max (s : BitVec 3) (d : BitVec 5) (a : BitVec 5) (b : BitVec 5) : Statement (.max s d a b) :=
  of_word rfl (by simp only [place]; have hs := s.isLt; have hd := d.isLt; have ha := a.isLt; have hb := b.isLt; omega)
theorem minu (s : BitVec 3) (d : BitVec 5) (a : BitVec 5) (b : BitVec 5) : Statement (.minu s d a b) :=
  of_word rfl (by simp only [place]; have hs := s.isLt; have hd := d.isLt; have ha := a.isLt; have hb := b.isLt; omega)
theorem maxu (s : BitVec 3) (d : BitVec 5) (a : BitVec 5) (b : BitVec 5) : Statement (.maxu s d a b) :=
  of_word rfl (by simp only [place]; have hs := s.isLt; have hd := d.isLt; have ha := a.isLt; have hb := b.isLt; omega)
theorem mul (s : BitVec 3) (d : BitVec 5) (a : BitVec 5) (b : BitVec 5) : Statement (.mul s d a b) :=
  of_word rfl (by simp only [place]; have hs := s.isLt; have hd := d.isLt; have ha := a.isLt; have hb := b.isLt; omega)
theorem mulh (s : BitVec 3) (d : BitVec 5) (a : BitVec 5) (b : BitVec 5) : Statement (.mulh s d a b) :=
  of_word rfl (by simp only [place]; have hs := s.isLt; have hd := d.isLt; have ha := a.isLt; have hb := b.isLt; omega)
theorem mulhu (s : BitVec 3) (d : BitVec 5) (a : BitVec 5) (b : BitVec 5) : Statement (.mulhu s d a b) :=
  of_word rfl (by simp only [place]; have hs := s.isLt; have hd := d.isLt; have ha := a.isLt; have hb := b.isLt; omega)
theorem div (s : BitVec 3) (d : BitVec 5) (a : BitVec 5) (b : BitVec 5) : Statement (.div s d a b) :=
  of_word rfl (by simp only [place]; have hs := s.isLt; have hd := d.isLt; have ha := a.isLt; have hb := b.isLt; omega)
theorem divu (s : BitVec 3) (d : BitVec 5) (a : BitVec 5) (b : BitVec 5) : Statement (.divu s d a b) :=
  of_word rfl (by simp only [place]; have hs := s.isLt; have hd := d.isLt; have ha := a.isLt; have hb := b.isLt; omega)
theorem rem (s : BitVec 3) (d : BitVec 5) (a : BitVec 5) (b : BitVec 5) : Statement (.rem s d a b) :=
  of_word rfl (by simp only [place]; have hs := s.isLt; have hd := d.isLt; have ha := a.isLt; have hb := b.isLt; omega)
theorem remu (s : BitVec 3) (d : BitVec 5) (a : BitVec 5) (b : BitVec 5) : Statement (.remu s d a b) :=
  of_word rfl (by simp only [place]; have hs := s.isLt; have hd := d.isLt; have ha := a.isLt; have hb := b.isLt; omega)
theorem clz (s : BitVec 3) (d : BitVec 5) (a : BitVec 5) : Statement (.clz s d a) :=
  of_word rfl (by simp only [place]; have hs := s.isLt; have hd := d.isLt; have ha := a.isLt; omega)
theorem ctz (s : BitVec 3) (d : BitVec 5) (a : BitVec 5) : Statement (.ctz s d a) :=
  of_word rfl (by simp only [place]; have hs := s.isLt; have hd := d.isLt; have ha := a.isLt; omega)
theorem popc (s : BitVec 3) (d : BitVec 5) (a : BitVec 5) : Statement (.popc s d a) :=
  of_word rfl (by simp only [place]; have hs := s.isLt; have hd := d.isLt; have ha := a.isLt; omega)
theorem bext (s : BitVec 3) (d : BitVec 5) (a : BitVec 5) (b : BitVec 5) : Statement (.bext s d a b) :=
  of_word rfl (by simp only [place]; have hs := s.isLt; have hd := d.isLt; have ha := a.isLt; have hb := b.isLt; omega)
theorem bins (s : BitVec 3) (d : BitVec 5) (a : BitVec 5) (b : BitVec 5) : Statement (.bins s d a b) :=
  of_word rfl (by simp only [place]; have hs := s.isLt; have hd := d.isLt; have ha := a.isLt; have hb := b.isLt; omega)
theorem bswap (s : BitVec 3) (d : BitVec 5) (a : BitVec 5) : Statement (.bswap s d a) :=
  of_word rfl (by simp only [place]; have hs := s.isLt; have hd := d.isLt; have ha := a.isLt; omega)
theorem sext (s : BitVec 3) (d : BitVec 5) (a : BitVec 5) (b : BitVec 5) : Statement (.sext s d a b) :=
  of_word rfl (by simp only [place]; have hs := s.isLt; have hd := d.isLt; have ha := a.isLt; have hb := b.isLt; omega)
theorem addi (s : BitVec 3) (d : BitVec 5) (a : BitVec 5) (i : BitVec 12) : Statement (.addi s d a i) :=
  of_word rfl (by simp only [place]; have hs := s.isLt; have hd := d.isLt; have ha := a.isLt; have hi := i.isLt; omega)
theorem andi (s : BitVec 3) (d : BitVec 5) (a : BitVec 5) (i : BitVec 12) : Statement (.andi s d a i) :=
  of_word rfl (by simp only [place]; have hs := s.isLt; have hd := d.isLt; have ha := a.isLt; have hi := i.isLt; omega)
theorem ori (s : BitVec 3) (d : BitVec 5) (a : BitVec 5) (i : BitVec 12) : Statement (.ori s d a i) :=
  of_word rfl (by simp only [place]; have hs := s.isLt; have hd := d.isLt; have ha := a.isLt; have hi := i.isLt; omega)
theorem xori (s : BitVec 3) (d : BitVec 5) (a : BitVec 5) (i : BitVec 12) : Statement (.xori s d a i) :=
  of_word rfl (by simp only [place]; have hs := s.isLt; have hd := d.isLt; have ha := a.isLt; have hi := i.isLt; omega)
theorem slti (s : BitVec 3) (d : BitVec 5) (a : BitVec 5) (i : BitVec 12) : Statement (.slti s d a i) :=
  of_word rfl (by simp only [place]; have hs := s.isLt; have hd := d.isLt; have ha := a.isLt; have hi := i.isLt; omega)
theorem slli (s : BitVec 3) (d : BitVec 5) (a : BitVec 5) (h : BitVec 6) : Statement (.slli s d a h) :=
  of_word rfl (by simp only [place]; have hs := s.isLt; have hd := d.isLt; have ha := a.isLt; have hh := h.isLt; omega)
theorem srli (s : BitVec 3) (d : BitVec 5) (a : BitVec 5) (h : BitVec 6) : Statement (.srli s d a h) :=
  of_word rfl (by simp only [place]; have hs := s.isLt; have hd := d.isLt; have ha := a.isLt; have hh := h.isLt; omega)
theorem srai (s : BitVec 3) (d : BitVec 5) (a : BitVec 5) (h : BitVec 6) : Statement (.srai s d a h) :=
  of_word rfl (by simp only [place]; have hs := s.isLt; have hd := d.isLt; have ha := a.isLt; have hh := h.isLt; omega)
theorem rori (s : BitVec 3) (d : BitVec 5) (a : BitVec 5) (h : BitVec 6) : Statement (.rori s d a h) :=
  of_word rfl (by simp only [place]; have hs := s.isLt; have hd := d.isLt; have ha := a.isLt; have hh := h.isLt; omega)
theorem lih (s : BitVec 3) (d : BitVec 5) (a : BitVec 5) (i : BitVec 12) : Statement (.lih s d a i) :=
  of_word rfl (by simp only [place]; have hs := s.isLt; have hd := d.isLt; have ha := a.isLt; have hi := i.isLt; omega)
theorem adpc (s : BitVec 3) (d : BitVec 5) (i : BitVec 12) : Statement (.adpc s d i) :=
  of_word rfl (by simp only [place]; have hs := s.isLt; have hd := d.isLt; have hi := i.isLt; omega)
theorem ldc (s : BitVec 3) (d : BitVec 5) (c : BitVec 8) : Statement (.ldc s d c) :=
  of_word rfl (by simp only [place]; have hs := s.isLt; have hd := d.isLt; have hc := c.isLt; omega)
theorem ldcx (s : BitVec 3) (d : BitVec 5) (a : BitVec 5) (c : BitVec 8) : Statement (.ldcx s d a c) :=
  of_word rfl (by simp only [place]; have hs := s.isLt; have hd := d.isLt; have ha := a.isLt; have hc := c.isLt; omega)
theorem addc (s : BitVec 3) (d : BitVec 5) (a : BitVec 5) (c : BitVec 8) : Statement (.addc s d a c) :=
  of_word rfl (by simp only [place]; have hs := s.isLt; have hd := d.isLt; have ha := a.isLt; have hc := c.isLt; omega)
theorem eldc (s : BitVec 3) (d : BitVec 3) (c : BitVec 8) : Statement (.eldc s d c) :=
  of_word rfl (by simp only [place]; have hs := s.isLt; have hd := d.isLt; have hc := c.isLt; omega)
theorem vldc (s : BitVec 3) (d : BitVec 5) (c : BitVec 8) : Statement (.vldc s d c) :=
  of_word rfl (by simp only [place]; have hs := s.isLt; have hd := d.isLt; have hc := c.isLt; omega)
theorem beqz (s : BitVec 3) (a : BitVec 5) (o : BitVec 14) : Statement (.beqz s a o) :=
  of_word rfl (by simp only [place]; have hs := s.isLt; have ha := a.isLt; have ho := o.isLt; omega)
theorem bnez (s : BitVec 3) (a : BitVec 5) (o : BitVec 14) : Statement (.bnez s a o) :=
  of_word rfl (by simp only [place]; have hs := s.isLt; have ha := a.isLt; have ho := o.isLt; omega)
theorem bltz (s : BitVec 3) (a : BitVec 5) (o : BitVec 14) : Statement (.bltz s a o) :=
  of_word rfl (by simp only [place]; have hs := s.isLt; have ha := a.isLt; have ho := o.isLt; omega)
theorem bgez (s : BitVec 3) (a : BitVec 5) (o : BitVec 14) : Statement (.bgez s a o) :=
  of_word rfl (by simp only [place]; have hs := s.isLt; have ha := a.isLt; have ho := o.isLt; omega)
theorem bgtz (s : BitVec 3) (a : BitVec 5) (o : BitVec 14) : Statement (.bgtz s a o) :=
  of_word rfl (by simp only [place]; have hs := s.isLt; have ha := a.isLt; have ho := o.isLt; omega)
theorem blez (s : BitVec 3) (a : BitVec 5) (o : BitVec 14) : Statement (.blez s a o) :=
  of_word rfl (by simp only [place]; have hs := s.isLt; have ha := a.isLt; have ho := o.isLt; omega)
theorem bpany (s : BitVec 3) (a : BitVec 3) (o : BitVec 14) : Statement (.bpany s a o) :=
  of_word rfl (by simp only [place]; have hs := s.isLt; have ha := a.isLt; have ho := o.isLt; omega)
theorem bpnone (s : BitVec 3) (a : BitVec 3) (o : BitVec 14) : Statement (.bpnone s a o) :=
  of_word rfl (by simp only [place]; have hs := s.isLt; have ha := a.isLt; have ho := o.isLt; omega)
theorem br (s : BitVec 3) (o : BitVec 22) : Statement (.br s o) :=
  of_word rfl (by simp only [place]; have hs := s.isLt; have ho := o.isLt; omega)
theorem call (s : BitVec 3) (o : BitVec 22) : Statement (.call s o) :=
  of_word rfl (by simp only [place]; have hs := s.isLt; have ho := o.isLt; omega)
theorem jr (s : BitVec 3) (a : BitVec 5) : Statement (.jr s a) :=
  of_word rfl (by simp only [place]; have hs := s.isLt; have ha := a.isLt; omega)
theorem callr (s : BitVec 3) (a : BitVec 5) : Statement (.callr s a) :=
  of_word rfl (by simp only [place]; have hs := s.isLt; have ha := a.isLt; omega)
theorem ret (s : BitVec 3) : Statement (.ret s) :=
  of_word rfl (by simp only [place]; have hs := s.isLt; omega)
theorem exit (s : BitVec 3) : Statement (.exit s) :=
  of_word rfl (by simp only [place]; have hs := s.isLt; omega)
theorem start (s : BitVec 3) (d : BitVec 5) (a : BitVec 5) (b : BitVec 5) : Statement (.start s d a b) :=
  of_word rfl (by simp only [place]; have hs := s.isLt; have hd := d.isLt; have ha := a.isLt; have hb := b.isLt; omega)
theorem park (s : BitVec 3) (d : BitVec 5) (a : BitVec 5) : Statement (.park s d a) :=
  of_word rfl (by simp only [place]; have hs := s.isLt; have hd := d.isLt; have ha := a.isLt; omega)
theorem yield (s : BitVec 3) : Statement (.yield s) :=
  of_word rfl (by simp only [place]; have hs := s.isLt; omega)
theorem setpri (s : BitVec 3) (a : BitVec 5) (b : BitVec 5) : Statement (.setpri s a b) :=
  of_word rfl (by simp only [place]; have hs := s.isLt; have ha := a.isLt; have hb := b.isLt; omega)
theorem chmset (s : BitVec 3) (d : BitVec 5) (a : BitVec 5) : Statement (.chmset s d a) :=
  of_word rfl (by simp only [place]; have hs := s.isLt; have hd := d.isLt; have ha := a.isLt; omega)
theorem chmclr (s : BitVec 3) (d : BitVec 5) (a : BitVec 5) : Statement (.chmclr s d a) :=
  of_word rfl (by simp only [place]; have hs := s.isLt; have hd := d.isLt; have ha := a.isLt; omega)
theorem qrd (s : BitVec 3) (d : BitVec 5) (q : BitVec 2) : Statement (.qrd s d q) :=
  of_word rfl (by simp only [place]; have hs := s.isLt; have hd := d.isLt; have hq := q.isLt; omega)
theorem qwr (s : BitVec 3) (q : BitVec 2) (a : BitVec 5) : Statement (.qwr s q a) :=
  of_word rfl (by simp only [place]; have hs := s.isLt; have hq := q.isLt; have ha := a.isLt; omega)
theorem recvany (s : BitVec 3) (d : BitVec 5) (a : BitVec 5) (b : BitVec 5) : Statement (.recvany s d a b) :=
  of_word rfl (by simp only [place]; have hs := s.isLt; have hd := d.isLt; have ha := a.isLt; have hb := b.isLt; omega)
theorem recvanyT (s : BitVec 3) (d : BitVec 5) (a : BitVec 5) (b : BitVec 5) : Statement (.recvanyT s d a b) :=
  of_word rfl (by simp only [place]; have hs := s.isLt; have hd := d.isLt; have ha := a.isLt; have hb := b.isLt; omega)
theorem ewr (s : BitVec 3) (d : BitVec 3) (a : BitVec 5) : Statement (.ewr s d a) :=
  of_word rfl (by simp only [place]; have hs := s.isLt; have hd := d.isLt; have ha := a.isLt; omega)
theorem erd (s : BitVec 3) (d : BitVec 5) (a : BitVec 3) : Statement (.erd s d a) :=
  of_word rfl (by simp only [place]; have hs := s.isLt; have hd := d.isLt; have ha := a.isLt; omega)
theorem rds (s : BitVec 3) (d : BitVec 5) (n : BitVec 12) : Statement (.rds s d n) :=
  of_word rfl (by simp only [place]; have hs := s.isLt; have hd := d.isLt; have hn := n.isLt; omega)
theorem wrs (s : BitVec 3) (a : BitVec 5) (n : BitVec 12) : Statement (.wrs s a n) :=
  of_word rfl (by simp only [place]; have hs := s.isLt; have ha := a.isLt; have hn := n.isLt; omega)
theorem copyGo (s : BitVec 3) (d : BitVec 5) : Statement (.copyGo s d) :=
  of_word rfl (by simp only [place]; have hs := s.isLt; have hd := d.isLt; omega)
theorem pfx (s : BitVec 3) (f : BitVec 4) (p : BitVec 1) (g : BitVec 4) (q : BitVec 1) (r : BitVec 3) (t : BitVec 1) : Statement (.pfx s f p g q r t) :=
  of_word rfl (by simp only [place]; have hs := s.isLt; have hf := f.isLt; have hp := p.isLt; have hg := g.isLt; have hq := q.isLt; have hr := r.isLt; have ht := t.isLt; omega)
theorem nop (s : BitVec 3) (h : BitVec 22) : Statement (.nop s h) :=
  of_word rfl (by simp only [place]; have hs := s.isLt; have hh := h.isLt; omega)
theorem ldb (s : BitVec 3) (d : BitVec 5) (a : BitVec 5) (i : BitVec 12) : Statement (.ldb s d a i) :=
  of_word rfl (by simp only [place]; have hs := s.isLt; have hd := d.isLt; have ha := a.isLt; have hi := i.isLt; omega)
theorem ldbu (s : BitVec 3) (d : BitVec 5) (a : BitVec 5) (i : BitVec 12) : Statement (.ldbu s d a i) :=
  of_word rfl (by simp only [place]; have hs := s.isLt; have hd := d.isLt; have ha := a.isLt; have hi := i.isLt; omega)
theorem ldh (s : BitVec 3) (d : BitVec 5) (a : BitVec 5) (i : BitVec 12) : Statement (.ldh s d a i) :=
  of_word rfl (by simp only [place]; have hs := s.isLt; have hd := d.isLt; have ha := a.isLt; have hi := i.isLt; omega)
theorem ldhu (s : BitVec 3) (d : BitVec 5) (a : BitVec 5) (i : BitVec 12) : Statement (.ldhu s d a i) :=
  of_word rfl (by simp only [place]; have hs := s.isLt; have hd := d.isLt; have ha := a.isLt; have hi := i.isLt; omega)
theorem ldw (s : BitVec 3) (d : BitVec 5) (a : BitVec 5) (i : BitVec 12) : Statement (.ldw s d a i) :=
  of_word rfl (by simp only [place]; have hs := s.isLt; have hd := d.isLt; have ha := a.isLt; have hi := i.isLt; omega)
theorem ldwu (s : BitVec 3) (d : BitVec 5) (a : BitVec 5) (i : BitVec 12) : Statement (.ldwu s d a i) :=
  of_word rfl (by simp only [place]; have hs := s.isLt; have hd := d.isLt; have ha := a.isLt; have hi := i.isLt; omega)
theorem ldd (s : BitVec 3) (d : BitVec 5) (a : BitVec 5) (i : BitVec 12) : Statement (.ldd s d a i) :=
  of_word rfl (by simp only [place]; have hs := s.isLt; have hd := d.isLt; have ha := a.isLt; have hi := i.isLt; omega)
theorem stb (s : BitVec 3) (d : BitVec 5) (a : BitVec 5) (i : BitVec 12) : Statement (.stb s d a i) :=
  of_word rfl (by simp only [place]; have hs := s.isLt; have hd := d.isLt; have ha := a.isLt; have hi := i.isLt; omega)
theorem sth (s : BitVec 3) (d : BitVec 5) (a : BitVec 5) (i : BitVec 12) : Statement (.sth s d a i) :=
  of_word rfl (by simp only [place]; have hs := s.isLt; have hd := d.isLt; have ha := a.isLt; have hi := i.isLt; omega)
theorem stw (s : BitVec 3) (d : BitVec 5) (a : BitVec 5) (i : BitVec 12) : Statement (.stw s d a i) :=
  of_word rfl (by simp only [place]; have hs := s.isLt; have hd := d.isLt; have ha := a.isLt; have hi := i.isLt; omega)
theorem std (s : BitVec 3) (d : BitVec 5) (a : BitVec 5) (i : BitVec 12) : Statement (.std s d a i) :=
  of_word rfl (by simp only [place]; have hs := s.isLt; have hd := d.isLt; have ha := a.isLt; have hi := i.isLt; omega)
theorem ldxb (s : BitVec 3) (d : BitVec 5) (a : BitVec 5) (b : BitVec 5) : Statement (.ldxb s d a b) :=
  of_word rfl (by simp only [place]; have hs := s.isLt; have hd := d.isLt; have ha := a.isLt; have hb := b.isLt; omega)
theorem ldxbu (s : BitVec 3) (d : BitVec 5) (a : BitVec 5) (b : BitVec 5) : Statement (.ldxbu s d a b) :=
  of_word rfl (by simp only [place]; have hs := s.isLt; have hd := d.isLt; have ha := a.isLt; have hb := b.isLt; omega)
theorem ldxh (s : BitVec 3) (d : BitVec 5) (a : BitVec 5) (b : BitVec 5) : Statement (.ldxh s d a b) :=
  of_word rfl (by simp only [place]; have hs := s.isLt; have hd := d.isLt; have ha := a.isLt; have hb := b.isLt; omega)
theorem ldxhu (s : BitVec 3) (d : BitVec 5) (a : BitVec 5) (b : BitVec 5) : Statement (.ldxhu s d a b) :=
  of_word rfl (by simp only [place]; have hs := s.isLt; have hd := d.isLt; have ha := a.isLt; have hb := b.isLt; omega)
theorem ldxw (s : BitVec 3) (d : BitVec 5) (a : BitVec 5) (b : BitVec 5) : Statement (.ldxw s d a b) :=
  of_word rfl (by simp only [place]; have hs := s.isLt; have hd := d.isLt; have ha := a.isLt; have hb := b.isLt; omega)
theorem ldxwu (s : BitVec 3) (d : BitVec 5) (a : BitVec 5) (b : BitVec 5) : Statement (.ldxwu s d a b) :=
  of_word rfl (by simp only [place]; have hs := s.isLt; have hd := d.isLt; have ha := a.isLt; have hb := b.isLt; omega)
theorem ldxd (s : BitVec 3) (d : BitVec 5) (a : BitVec 5) (b : BitVec 5) : Statement (.ldxd s d a b) :=
  of_word rfl (by simp only [place]; have hs := s.isLt; have hd := d.isLt; have ha := a.isLt; have hb := b.isLt; omega)
theorem stxb (s : BitVec 3) (d : BitVec 5) (a : BitVec 5) (b : BitVec 5) : Statement (.stxb s d a b) :=
  of_word rfl (by simp only [place]; have hs := s.isLt; have hd := d.isLt; have ha := a.isLt; have hb := b.isLt; omega)
theorem stxh (s : BitVec 3) (d : BitVec 5) (a : BitVec 5) (b : BitVec 5) : Statement (.stxh s d a b) :=
  of_word rfl (by simp only [place]; have hs := s.isLt; have hd := d.isLt; have ha := a.isLt; have hb := b.isLt; omega)
theorem stxw (s : BitVec 3) (d : BitVec 5) (a : BitVec 5) (b : BitVec 5) : Statement (.stxw s d a b) :=
  of_word rfl (by simp only [place]; have hs := s.isLt; have hd := d.isLt; have ha := a.isLt; have hb := b.isLt; omega)
theorem stxd (s : BitVec 3) (d : BitVec 5) (a : BitVec 5) (b : BitVec 5) : Statement (.stxd s d a b) :=
  of_word rfl (by simp only [place]; have hs := s.isLt; have hd := d.isLt; have ha := a.isLt; have hb := b.isLt; omega)
theorem bld (s : BitVec 3) (d : BitVec 5) (n : BitVec 2) (b : BitVec 5) : Statement (.bld s d n b) :=
  of_word rfl (by simp only [place]; have hs := s.isLt; have hd := d.isLt; have hn := n.isLt; have hb := b.isLt; omega)
theorem bst (s : BitVec 3) (d : BitVec 5) (n : BitVec 2) (b : BitVec 5) : Statement (.bst s d n b) :=
  of_word rfl (by simp only [place]; have hs := s.isLt; have hd := d.isLt; have hn := n.isLt; have hb := b.isLt; omega)
theorem bldI (s : BitVec 3) (d : BitVec 5) (n : BitVec 2) (w : BitVec 5) : Statement (.bldI s d n w) :=
  of_word rfl (by simp only [place]; have hs := s.isLt; have hd := d.isLt; have hn := n.isLt; have hw := w.isLt; omega)
theorem bstI (s : BitVec 3) (d : BitVec 5) (n : BitVec 2) (w : BitVec 5) : Statement (.bstI s d n w) :=
  of_word rfl (by simp only [place]; have hs := s.isLt; have hd := d.isLt; have hn := n.isLt; have hw := w.isLt; omega)
theorem bpset (s : BitVec 3) (n : BitVec 2) (a : BitVec 5) : Statement (.bpset s n a) :=
  of_word rfl (by simp only [place]; have hs := s.isLt; have hn := n.isLt; have ha := a.isLt; omega)
theorem bprd (s : BitVec 3) (d : BitVec 5) (n : BitVec 2) : Statement (.bprd s d n) :=
  of_word rfl (by simp only [place]; have hs := s.isLt; have hd := d.isLt; have hn := n.isLt; omega)
theorem bpadd (s : BitVec 3) (n : BitVec 2) (a : BitVec 5) : Statement (.bpadd s n a) :=
  of_word rfl (by simp only [place]; have hs := s.isLt; have hn := n.isLt; have ha := a.isLt; omega)
theorem gldb (s : BitVec 3) (d : BitVec 5) (a : BitVec 5) (b : BitVec 5) : Statement (.gldb s d a b) :=
  of_word rfl (by simp only [place]; have hs := s.isLt; have hd := d.isLt; have ha := a.isLt; have hb := b.isLt; omega)
theorem gldh (s : BitVec 3) (d : BitVec 5) (a : BitVec 5) (b : BitVec 5) : Statement (.gldh s d a b) :=
  of_word rfl (by simp only [place]; have hs := s.isLt; have hd := d.isLt; have ha := a.isLt; have hb := b.isLt; omega)
theorem gldw (s : BitVec 3) (d : BitVec 5) (a : BitVec 5) (b : BitVec 5) : Statement (.gldw s d a b) :=
  of_word rfl (by simp only [place]; have hs := s.isLt; have hd := d.isLt; have ha := a.isLt; have hb := b.isLt; omega)
theorem gldd (s : BitVec 3) (d : BitVec 5) (a : BitVec 5) (b : BitVec 5) : Statement (.gldd s d a b) :=
  of_word rfl (by simp only [place]; have hs := s.isLt; have hd := d.isLt; have ha := a.isLt; have hb := b.isLt; omega)
theorem gstb (s : BitVec 3) (d : BitVec 5) (a : BitVec 5) (b : BitVec 5) : Statement (.gstb s d a b) :=
  of_word rfl (by simp only [place]; have hs := s.isLt; have hd := d.isLt; have ha := a.isLt; have hb := b.isLt; omega)
theorem gsth (s : BitVec 3) (d : BitVec 5) (a : BitVec 5) (b : BitVec 5) : Statement (.gsth s d a b) :=
  of_word rfl (by simp only [place]; have hs := s.isLt; have hd := d.isLt; have ha := a.isLt; have hb := b.isLt; omega)
theorem gstw (s : BitVec 3) (d : BitVec 5) (a : BitVec 5) (b : BitVec 5) : Statement (.gstw s d a b) :=
  of_word rfl (by simp only [place]; have hs := s.isLt; have hd := d.isLt; have ha := a.isLt; have hb := b.isLt; omega)
theorem gstd (s : BitVec 3) (d : BitVec 5) (a : BitVec 5) (b : BitVec 5) : Statement (.gstd s d a b) :=
  of_word rfl (by simp only [place]; have hs := s.isLt; have hd := d.isLt; have ha := a.isLt; have hb := b.isLt; omega)
theorem sptst (s : BitVec 3) (d : BitVec 5) (a : BitVec 5) : Statement (.sptst s d a) :=
  of_word rfl (by simp only [place]; have hs := s.isLt; have hd := d.isLt; have ha := a.isLt; omega)
theorem spcst (s : BitVec 3) (d : BitVec 5) (a : BitVec 5) (c : BitVec 3) : Statement (.spcst s d a c) :=
  of_word rfl (by simp only [place]; have hs := s.isLt; have hd := d.isLt; have ha := a.isLt; have hc := c.isLt; omega)
theorem spmk (s : BitVec 3) (d : BitVec 5) (a : BitVec 5) (b : BitVec 5) : Statement (.spmk s d a b) :=
  of_word rfl (by simp only [place]; have hs := s.isLt; have hd := d.isLt; have ha := a.isLt; have hb := b.isLt; omega)
theorem iflush (s : BitVec 3) (a : BitVec 5) (b : BitVec 5) : Statement (.iflush s a b) :=
  of_word rfl (by simp only [place]; have hs := s.isLt; have ha := a.isLt; have hb := b.isLt; omega)
theorem vld (s : BitVec 3) (d : BitVec 5) (a : BitVec 5) (p : BitVec 3) (z : BitVec 1) : Statement (.vld s d a p z) :=
  of_word rfl (by simp only [place]; have hs := s.isLt; have hd := d.isLt; have ha := a.isLt; have hp := p.isLt; have hz := z.isLt; omega)
theorem vst (s : BitVec 3) (d : BitVec 5) (a : BitVec 5) (p : BitVec 3) : Statement (.vst s d a p) :=
  of_word rfl (by simp only [place]; have hs := s.isLt; have hd := d.isLt; have ha := a.isLt; have hp := p.isLt; omega)
theorem vlds (s : BitVec 3) (d : BitVec 5) (a : BitVec 5) (b : BitVec 5) (p : BitVec 3) (z : BitVec 1) : Statement (.vlds s d a b p z) :=
  of_word rfl (by simp only [place]; have hs := s.isLt; have hd := d.isLt; have ha := a.isLt; have hb := b.isLt; have hp := p.isLt; have hz := z.isLt; omega)
theorem vsts (s : BitVec 3) (d : BitVec 5) (a : BitVec 5) (b : BitVec 5) (p : BitVec 3) : Statement (.vsts s d a b p) :=
  of_word rfl (by simp only [place]; have hs := s.isLt; have hd := d.isLt; have ha := a.isLt; have hb := b.isLt; have hp := p.isLt; omega)
theorem vldg (s : BitVec 3) (d : BitVec 5) (a : BitVec 5) (b : BitVec 5) (p : BitVec 3) (z : BitVec 1) : Statement (.vldg s d a b p z) :=
  of_word rfl (by simp only [place]; have hs := s.isLt; have hd := d.isLt; have ha := a.isLt; have hb := b.isLt; have hp := p.isLt; have hz := z.isLt; omega)
theorem vstsc (s : BitVec 3) (d : BitVec 5) (a : BitVec 5) (b : BitVec 5) (p : BitVec 3) : Statement (.vstsc s d a b p) :=
  of_word rfl (by simp only [place]; have hs := s.isLt; have hd := d.isLt; have ha := a.isLt; have hb := b.isLt; have hp := p.isLt; omega)
theorem vadd (s : BitVec 3) (d : BitVec 5) (a : BitVec 5) (b : BitVec 5) (p : BitVec 3) (z : BitVec 1) : Statement (.vadd s d a b p z) :=
  of_word rfl (by simp only [place]; have hs := s.isLt; have hd := d.isLt; have ha := a.isLt; have hb := b.isLt; have hp := p.isLt; have hz := z.isLt; omega)
theorem vsub (s : BitVec 3) (d : BitVec 5) (a : BitVec 5) (b : BitVec 5) (p : BitVec 3) (z : BitVec 1) : Statement (.vsub s d a b p z) :=
  of_word rfl (by simp only [place]; have hs := s.isLt; have hd := d.isLt; have ha := a.isLt; have hb := b.isLt; have hp := p.isLt; have hz := z.isLt; omega)
theorem vmul (s : BitVec 3) (d : BitVec 5) (a : BitVec 5) (b : BitVec 5) (p : BitVec 3) (z : BitVec 1) : Statement (.vmul s d a b p z) :=
  of_word rfl (by simp only [place]; have hs := s.isLt; have hd := d.isLt; have ha := a.isLt; have hb := b.isLt; have hp := p.isLt; have hz := z.isLt; omega)
theorem vfma (s : BitVec 3) (d : BitVec 5) (a : BitVec 5) (b : BitVec 5) (p : BitVec 3) (z : BitVec 1) : Statement (.vfma s d a b p z) :=
  of_word rfl (by simp only [place]; have hs := s.isLt; have hd := d.isLt; have ha := a.isLt; have hb := b.isLt; have hp := p.isLt; have hz := z.isLt; omega)
theorem vfms (s : BitVec 3) (d : BitVec 5) (a : BitVec 5) (b : BitVec 5) (p : BitVec 3) (z : BitVec 1) : Statement (.vfms s d a b p z) :=
  of_word rfl (by simp only [place]; have hs := s.isLt; have hd := d.isLt; have ha := a.isLt; have hb := b.isLt; have hp := p.isLt; have hz := z.isLt; omega)
theorem vfnma (s : BitVec 3) (d : BitVec 5) (a : BitVec 5) (b : BitVec 5) (p : BitVec 3) (z : BitVec 1) : Statement (.vfnma s d a b p z) :=
  of_word rfl (by simp only [place]; have hs := s.isLt; have hd := d.isLt; have ha := a.isLt; have hb := b.isLt; have hp := p.isLt; have hz := z.isLt; omega)
theorem vmin (s : BitVec 3) (d : BitVec 5) (a : BitVec 5) (b : BitVec 5) (p : BitVec 3) (z : BitVec 1) : Statement (.vmin s d a b p z) :=
  of_word rfl (by simp only [place]; have hs := s.isLt; have hd := d.isLt; have ha := a.isLt; have hb := b.isLt; have hp := p.isLt; have hz := z.isLt; omega)
theorem vmax (s : BitVec 3) (d : BitVec 5) (a : BitVec 5) (b : BitVec 5) (p : BitVec 3) (z : BitVec 1) : Statement (.vmax s d a b p z) :=
  of_word rfl (by simp only [place]; have hs := s.isLt; have hd := d.isLt; have ha := a.isLt; have hb := b.isLt; have hp := p.isLt; have hz := z.isLt; omega)
theorem vdiv (s : BitVec 3) (d : BitVec 5) (a : BitVec 5) (b : BitVec 5) (p : BitVec 3) (z : BitVec 1) : Statement (.vdiv s d a b p z) :=
  of_word rfl (by simp only [place]; have hs := s.isLt; have hd := d.isLt; have ha := a.isLt; have hb := b.isLt; have hp := p.isLt; have hz := z.isLt; omega)
theorem vsqrt (s : BitVec 3) (d : BitVec 5) (a : BitVec 5) (p : BitVec 3) (z : BitVec 1) : Statement (.vsqrt s d a p z) :=
  of_word rfl (by simp only [place]; have hs := s.isLt; have hd := d.isLt; have ha := a.isLt; have hp := p.isLt; have hz := z.isLt; omega)
theorem vexp2 (s : BitVec 3) (d : BitVec 5) (a : BitVec 5) (p : BitVec 3) (z : BitVec 1) : Statement (.vexp2 s d a p z) :=
  of_word rfl (by simp only [place]; have hs := s.isLt; have hd := d.isLt; have ha := a.isLt; have hp := p.isLt; have hz := z.isLt; omega)
theorem vlog2 (s : BitVec 3) (d : BitVec 5) (a : BitVec 5) (p : BitVec 3) (z : BitVec 1) : Statement (.vlog2 s d a p z) :=
  of_word rfl (by simp only [place]; have hs := s.isLt; have hd := d.isLt; have ha := a.isLt; have hp := p.isLt; have hz := z.isLt; omega)
theorem vrcpe (s : BitVec 3) (d : BitVec 5) (a : BitVec 5) (p : BitVec 3) (z : BitVec 1) : Statement (.vrcpe s d a p z) :=
  of_word rfl (by simp only [place]; have hs := s.isLt; have hd := d.isLt; have ha := a.isLt; have hp := p.isLt; have hz := z.isLt; omega)
theorem vrsqe (s : BitVec 3) (d : BitVec 5) (a : BitVec 5) (p : BitVec 3) (z : BitVec 1) : Statement (.vrsqe s d a p z) :=
  of_word rfl (by simp only [place]; have hs := s.isLt; have hd := d.isLt; have ha := a.isLt; have hp := p.isLt; have hz := z.isLt; omega)
theorem vabs (s : BitVec 3) (d : BitVec 5) (a : BitVec 5) (p : BitVec 3) (z : BitVec 1) : Statement (.vabs s d a p z) :=
  of_word rfl (by simp only [place]; have hs := s.isLt; have hd := d.isLt; have ha := a.isLt; have hp := p.isLt; have hz := z.isLt; omega)
theorem vneg (s : BitVec 3) (d : BitVec 5) (a : BitVec 5) (p : BitVec 3) (z : BitVec 1) : Statement (.vneg s d a p z) :=
  of_word rfl (by simp only [place]; have hs := s.isLt; have hd := d.isLt; have ha := a.isLt; have hp := p.isLt; have hz := z.isLt; omega)
theorem vcmpeq (s : BitVec 3) (d : BitVec 3) (a : BitVec 5) (b : BitVec 5) (p : BitVec 3) (z : BitVec 1) : Statement (.vcmpeq s d a b p z) :=
  of_word rfl (by simp only [place]; have hs := s.isLt; have hd := d.isLt; have ha := a.isLt; have hb := b.isLt; have hp := p.isLt; have hz := z.isLt; omega)
theorem vcmpne (s : BitVec 3) (d : BitVec 3) (a : BitVec 5) (b : BitVec 5) (p : BitVec 3) (z : BitVec 1) : Statement (.vcmpne s d a b p z) :=
  of_word rfl (by simp only [place]; have hs := s.isLt; have hd := d.isLt; have ha := a.isLt; have hb := b.isLt; have hp := p.isLt; have hz := z.isLt; omega)
theorem vcmplt (s : BitVec 3) (d : BitVec 3) (a : BitVec 5) (b : BitVec 5) (p : BitVec 3) (z : BitVec 1) : Statement (.vcmplt s d a b p z) :=
  of_word rfl (by simp only [place]; have hs := s.isLt; have hd := d.isLt; have ha := a.isLt; have hb := b.isLt; have hp := p.isLt; have hz := z.isLt; omega)
theorem vcmple (s : BitVec 3) (d : BitVec 3) (a : BitVec 5) (b : BitVec 5) (p : BitVec 3) (z : BitVec 1) : Statement (.vcmple s d a b p z) :=
  of_word rfl (by simp only [place]; have hs := s.isLt; have hd := d.isLt; have ha := a.isLt; have hb := b.isLt; have hp := p.isLt; have hz := z.isLt; omega)
theorem vcmpun (s : BitVec 3) (d : BitVec 3) (a : BitVec 5) (b : BitVec 5) (p : BitVec 3) (z : BitVec 1) : Statement (.vcmpun s d a b p z) :=
  of_word rfl (by simp only [place]; have hs := s.isLt; have hd := d.isLt; have ha := a.isLt; have hb := b.isLt; have hp := p.isLt; have hz := z.isLt; omega)
theorem vsel (s : BitVec 3) (d : BitVec 5) (a : BitVec 5) (b : BitVec 5) (p : BitVec 3) : Statement (.vsel s d a b p) :=
  of_word rfl (by simp only [place]; have hs := s.isLt; have hd := d.isLt; have ha := a.isLt; have hb := b.isLt; have hp := p.isLt; omega)
theorem vcpsgn (s : BitVec 3) (d : BitVec 5) (a : BitVec 5) (b : BitVec 5) (p : BitVec 3) (z : BitVec 1) : Statement (.vcpsgn s d a b p z) :=
  of_word rfl (by simp only [place]; have hs := s.isLt; have hd := d.isLt; have ha := a.isLt; have hb := b.isLt; have hp := p.isLt; have hz := z.isLt; omega)
theorem vrint (s : BitVec 3) (d : BitVec 5) (a : BitVec 5) (p : BitVec 3) (z : BitVec 1) : Statement (.vrint s d a p z) :=
  of_word rfl (by simp only [place]; have hs := s.isLt; have hd := d.isLt; have ha := a.isLt; have hp := p.isLt; have hz := z.isLt; omega)
theorem viadd (s : BitVec 3) (d : BitVec 5) (a : BitVec 5) (b : BitVec 5) (p : BitVec 3) (z : BitVec 1) : Statement (.viadd s d a b p z) :=
  of_word rfl (by simp only [place]; have hs := s.isLt; have hd := d.isLt; have ha := a.isLt; have hb := b.isLt; have hp := p.isLt; have hz := z.isLt; omega)
theorem visub (s : BitVec 3) (d : BitVec 5) (a : BitVec 5) (b : BitVec 5) (p : BitVec 3) (z : BitVec 1) : Statement (.visub s d a b p z) :=
  of_word rfl (by simp only [place]; have hs := s.isLt; have hd := d.isLt; have ha := a.isLt; have hb := b.isLt; have hp := p.isLt; have hz := z.isLt; omega)
theorem vimul (s : BitVec 3) (d : BitVec 5) (a : BitVec 5) (b : BitVec 5) (p : BitVec 3) (z : BitVec 1) : Statement (.vimul s d a b p z) :=
  of_word rfl (by simp only [place]; have hs := s.isLt; have hd := d.isLt; have ha := a.isLt; have hb := b.isLt; have hp := p.isLt; have hz := z.isLt; omega)
theorem vimin (s : BitVec 3) (d : BitVec 5) (a : BitVec 5) (b : BitVec 5) (p : BitVec 3) (z : BitVec 1) : Statement (.vimin s d a b p z) :=
  of_word rfl (by simp only [place]; have hs := s.isLt; have hd := d.isLt; have ha := a.isLt; have hb := b.isLt; have hp := p.isLt; have hz := z.isLt; omega)
theorem vimax (s : BitVec 3) (d : BitVec 5) (a : BitVec 5) (b : BitVec 5) (p : BitVec 3) (z : BitVec 1) : Statement (.vimax s d a b p z) :=
  of_word rfl (by simp only [place]; have hs := s.isLt; have hd := d.isLt; have ha := a.isLt; have hb := b.isLt; have hp := p.isLt; have hz := z.isLt; omega)
theorem viminu (s : BitVec 3) (d : BitVec 5) (a : BitVec 5) (b : BitVec 5) (p : BitVec 3) (z : BitVec 1) : Statement (.viminu s d a b p z) :=
  of_word rfl (by simp only [place]; have hs := s.isLt; have hd := d.isLt; have ha := a.isLt; have hb := b.isLt; have hp := p.isLt; have hz := z.isLt; omega)
theorem vimaxu (s : BitVec 3) (d : BitVec 5) (a : BitVec 5) (b : BitVec 5) (p : BitVec 3) (z : BitVec 1) : Statement (.vimaxu s d a b p z) :=
  of_word rfl (by simp only [place]; have hs := s.isLt; have hd := d.isLt; have ha := a.isLt; have hb := b.isLt; have hp := p.isLt; have hz := z.isLt; omega)
theorem viabs (s : BitVec 3) (d : BitVec 5) (a : BitVec 5) (p : BitVec 3) (z : BitVec 1) : Statement (.viabs s d a p z) :=
  of_word rfl (by simp only [place]; have hs := s.isLt; have hd := d.isLt; have ha := a.isLt; have hp := p.isLt; have hz := z.isLt; omega)
theorem vand (s : BitVec 3) (d : BitVec 5) (a : BitVec 5) (b : BitVec 5) (p : BitVec 3) (z : BitVec 1) : Statement (.vand s d a b p z) :=
  of_word rfl (by simp only [place]; have hs := s.isLt; have hd := d.isLt; have ha := a.isLt; have hb := b.isLt; have hp := p.isLt; have hz := z.isLt; omega)
theorem vor (s : BitVec 3) (d : BitVec 5) (a : BitVec 5) (b : BitVec 5) (p : BitVec 3) (z : BitVec 1) : Statement (.vor s d a b p z) :=
  of_word rfl (by simp only [place]; have hs := s.isLt; have hd := d.isLt; have ha := a.isLt; have hb := b.isLt; have hp := p.isLt; have hz := z.isLt; omega)
theorem vxor (s : BitVec 3) (d : BitVec 5) (a : BitVec 5) (b : BitVec 5) (p : BitVec 3) (z : BitVec 1) : Statement (.vxor s d a b p z) :=
  of_word rfl (by simp only [place]; have hs := s.isLt; have hd := d.isLt; have ha := a.isLt; have hb := b.isLt; have hp := p.isLt; have hz := z.isLt; omega)
theorem vandn (s : BitVec 3) (d : BitVec 5) (a : BitVec 5) (b : BitVec 5) (p : BitVec 3) (z : BitVec 1) : Statement (.vandn s d a b p z) :=
  of_word rfl (by simp only [place]; have hs := s.isLt; have hd := d.isLt; have ha := a.isLt; have hb := b.isLt; have hp := p.isLt; have hz := z.isLt; omega)
theorem vshl (s : BitVec 3) (d : BitVec 5) (a : BitVec 5) (b : BitVec 5) (p : BitVec 3) (z : BitVec 1) : Statement (.vshl s d a b p z) :=
  of_word rfl (by simp only [place]; have hs := s.isLt; have hd := d.isLt; have ha := a.isLt; have hb := b.isLt; have hp := p.isLt; have hz := z.isLt; omega)
theorem vshr (s : BitVec 3) (d : BitVec 5) (a : BitVec 5) (b : BitVec 5) (p : BitVec 3) (z : BitVec 1) : Statement (.vshr s d a b p z) :=
  of_word rfl (by simp only [place]; have hs := s.isLt; have hd := d.isLt; have ha := a.isLt; have hb := b.isLt; have hp := p.isLt; have hz := z.isLt; omega)
theorem vsar (s : BitVec 3) (d : BitVec 5) (a : BitVec 5) (b : BitVec 5) (p : BitVec 3) (z : BitVec 1) : Statement (.vsar s d a b p z) :=
  of_word rfl (by simp only [place]; have hs := s.isLt; have hd := d.isLt; have ha := a.isLt; have hb := b.isLt; have hp := p.isLt; have hz := z.isLt; omega)
theorem viaddsat (s : BitVec 3) (d : BitVec 5) (a : BitVec 5) (b : BitVec 5) (p : BitVec 3) (z : BitVec 1) : Statement (.viaddsat s d a b p z) :=
  of_word rfl (by simp only [place]; have hs := s.isLt; have hd := d.isLt; have ha := a.isLt; have hb := b.isLt; have hp := p.isLt; have hz := z.isLt; omega)
theorem vicmpeq (s : BitVec 3) (d : BitVec 3) (a : BitVec 5) (b : BitVec 5) (p : BitVec 3) (z : BitVec 1) : Statement (.vicmpeq s d a b p z) :=
  of_word rfl (by simp only [place]; have hs := s.isLt; have hd := d.isLt; have ha := a.isLt; have hb := b.isLt; have hp := p.isLt; have hz := z.isLt; omega)
theorem vicmpne (s : BitVec 3) (d : BitVec 3) (a : BitVec 5) (b : BitVec 5) (p : BitVec 3) (z : BitVec 1) : Statement (.vicmpne s d a b p z) :=
  of_word rfl (by simp only [place]; have hs := s.isLt; have hd := d.isLt; have ha := a.isLt; have hb := b.isLt; have hp := p.isLt; have hz := z.isLt; omega)
theorem vicmplt (s : BitVec 3) (d : BitVec 3) (a : BitVec 5) (b : BitVec 5) (p : BitVec 3) (z : BitVec 1) : Statement (.vicmplt s d a b p z) :=
  of_word rfl (by simp only [place]; have hs := s.isLt; have hd := d.isLt; have ha := a.isLt; have hb := b.isLt; have hp := p.isLt; have hz := z.isLt; omega)
theorem vicmpltu (s : BitVec 3) (d : BitVec 3) (a : BitVec 5) (b : BitVec 5) (p : BitVec 3) (z : BitVec 1) : Statement (.vicmpltu s d a b p z) :=
  of_word rfl (by simp only [place]; have hs := s.isLt; have hd := d.isLt; have ha := a.isLt; have hb := b.isLt; have hp := p.isLt; have hz := z.isLt; omega)
theorem vicmple (s : BitVec 3) (d : BitVec 3) (a : BitVec 5) (b : BitVec 5) (p : BitVec 3) (z : BitVec 1) : Statement (.vicmple s d a b p z) :=
  of_word rfl (by simp only [place]; have hs := s.isLt; have hd := d.isLt; have ha := a.isLt; have hb := b.isLt; have hp := p.isLt; have hz := z.isLt; omega)
theorem vicmpleu (s : BitVec 3) (d : BitVec 3) (a : BitVec 5) (b : BitVec 5) (p : BitVec 3) (z : BitVec 1) : Statement (.vicmpleu s d a b p z) :=
  of_word rfl (by simp only [place]; have hs := s.isLt; have hd := d.isLt; have ha := a.isLt; have hb := b.isLt; have hp := p.isLt; have hz := z.isLt; omega)
theorem vimulh (s : BitVec 3) (d : BitVec 5) (a : BitVec 5) (b : BitVec 5) (p : BitVec 3) (z : BitVec 1) : Statement (.vimulh s d a b p z) :=
  of_word rfl (by simp only [place]; have hs := s.isLt; have hd := d.isLt; have ha := a.isLt; have hb := b.isLt; have hp := p.isLt; have hz := z.isLt; omega)
theorem vimulhu (s : BitVec 3) (d : BitVec 5) (a : BitVec 5) (b : BitVec 5) (p : BitVec 3) (z : BitVec 1) : Statement (.vimulhu s d a b p z) :=
  of_word rfl (by simp only [place]; have hs := s.isLt; have hd := d.isLt; have ha := a.isLt; have hb := b.isLt; have hp := p.isLt; have hz := z.isLt; omega)
theorem vperm (s : BitVec 3) (d : BitVec 5) (a : BitVec 5) (b : BitVec 5) (p : BitVec 3) (z : BitVec 1) : Statement (.vperm s d a b p z) :=
  of_word rfl (by simp only [place]; have hs := s.isLt; have hd := d.isLt; have ha := a.isLt; have hb := b.isLt; have hp := p.isLt; have hz := z.isLt; omega)
theorem vslideup (s : BitVec 3) (d : BitVec 5) (a : BitVec 5) (b : BitVec 5) (p : BitVec 3) (z : BitVec 1) : Statement (.vslideup s d a b p z) :=
  of_word rfl (by simp only [place]; have hs := s.isLt; have hd := d.isLt; have ha := a.isLt; have hb := b.isLt; have hp := p.isLt; have hz := z.isLt; omega)
theorem vslidedn (s : BitVec 3) (d : BitVec 5) (a : BitVec 5) (b : BitVec 5) (p : BitVec 3) (z : BitVec 1) : Statement (.vslidedn s d a b p z) :=
  of_word rfl (by simp only [place]; have hs := s.isLt; have hd := d.isLt; have ha := a.isLt; have hb := b.isLt; have hp := p.isLt; have hz := z.isLt; omega)
theorem vbcast (s : BitVec 3) (d : BitVec 5) (a : BitVec 5) (p : BitVec 3) (z : BitVec 1) : Statement (.vbcast s d a p z) :=
  of_word rfl (by simp only [place]; have hs := s.isLt; have hd := d.isLt; have ha := a.isLt; have hp := p.isLt; have hz := z.isLt; omega)
theorem vext (s : BitVec 3) (d : BitVec 5) (a : BitVec 5) (b : BitVec 5) : Statement (.vext s d a b) :=
  of_word rfl (by simp only [place]; have hs := s.isLt; have hd := d.isLt; have ha := a.isLt; have hb := b.isLt; omega)
theorem vins (s : BitVec 3) (d : BitVec 5) (a : BitVec 5) (b : BitVec 5) : Statement (.vins s d a b) :=
  of_word rfl (by simp only [place]; have hs := s.isLt; have hd := d.isLt; have ha := a.isLt; have hb := b.isLt; omega)
theorem vzip (s : BitVec 3) (d : BitVec 5) (a : BitVec 5) (b : BitVec 5) (p : BitVec 3) (z : BitVec 1) : Statement (.vzip s d a b p z) :=
  of_word rfl (by simp only [place]; have hs := s.isLt; have hd := d.isLt; have ha := a.isLt; have hb := b.isLt; have hp := p.isLt; have hz := z.isLt; omega)
theorem vunzip (s : BitVec 3) (d : BitVec 5) (a : BitVec 5) (b : BitVec 5) (p : BitVec 3) (z : BitVec 1) : Statement (.vunzip s d a b p z) :=
  of_word rfl (by simp only [place]; have hs := s.isLt; have hd := d.isLt; have ha := a.isLt; have hb := b.isLt; have hp := p.isLt; have hz := z.isLt; omega)
theorem vredadd (s : BitVec 3) (d : BitVec 5) (a : BitVec 5) (p : BitVec 3) : Statement (.vredadd s d a p) :=
  of_word rfl (by simp only [place]; have hs := s.isLt; have hd := d.isLt; have ha := a.isLt; have hp := p.isLt; omega)
theorem vredmax (s : BitVec 3) (d : BitVec 5) (a : BitVec 5) (p : BitVec 3) : Statement (.vredmax s d a p) :=
  of_word rfl (by simp only [place]; have hs := s.isLt; have hd := d.isLt; have ha := a.isLt; have hp := p.isLt; omega)
theorem vredmin (s : BitVec 3) (d : BitVec 5) (a : BitVec 5) (p : BitVec 3) : Statement (.vredmin s d a p) :=
  of_word rfl (by simp only [place]; have hs := s.isLt; have hd := d.isLt; have ha := a.isLt; have hp := p.isLt; omega)
theorem viredadd (s : BitVec 3) (d : BitVec 5) (a : BitVec 5) (p : BitVec 3) : Statement (.viredadd s d a p) :=
  of_word rfl (by simp only [place]; have hs := s.isLt; have hd := d.isLt; have ha := a.isLt; have hp := p.isLt; omega)
theorem viredmax (s : BitVec 3) (d : BitVec 5) (a : BitVec 5) (p : BitVec 3) : Statement (.viredmax s d a p) :=
  of_word rfl (by simp only [place]; have hs := s.isLt; have hd := d.isLt; have ha := a.isLt; have hp := p.isLt; omega)
theorem viredmin (s : BitVec 3) (d : BitVec 5) (a : BitVec 5) (p : BitVec 3) : Statement (.viredmin s d a p) :=
  of_word rfl (by simp only [place]; have hs := s.isLt; have hd := d.isLt; have ha := a.isLt; have hp := p.isLt; omega)
theorem vredand (s : BitVec 3) (d : BitVec 5) (a : BitVec 5) (p : BitVec 3) : Statement (.vredand s d a p) :=
  of_word rfl (by simp only [place]; have hs := s.isLt; have hd := d.isLt; have ha := a.isLt; have hp := p.isLt; omega)
theorem vredor (s : BitVec 3) (d : BitVec 5) (a : BitVec 5) (p : BitVec 3) : Statement (.vredor s d a p) :=
  of_word rfl (by simp only [place]; have hs := s.isLt; have hd := d.isLt; have ha := a.isLt; have hp := p.isLt; omega)
theorem vcvt (s : BitVec 3) (d : BitVec 5) (a : BitVec 5) (p : BitVec 3) (z : BitVec 1) : Statement (.vcvt s d a p z) :=
  of_word rfl (by simp only [place]; have hs := s.isLt; have hd := d.isLt; have ha := a.isLt; have hp := p.isLt; have hz := z.isLt; omega)
theorem vcvtfi (s : BitVec 3) (d : BitVec 5) (a : BitVec 5) (p : BitVec 3) (z : BitVec 1) : Statement (.vcvtfi s d a p z) :=
  of_word rfl (by simp only [place]; have hs := s.isLt; have hd := d.isLt; have ha := a.isLt; have hp := p.isLt; have hz := z.isLt; omega)
theorem vcvtif (s : BitVec 3) (d : BitVec 5) (a : BitVec 5) (p : BitVec 3) (z : BitVec 1) : Statement (.vcvtif s d a p z) :=
  of_word rfl (by simp only [place]; have hs := s.isLt; have hd := d.isLt; have ha := a.isLt; have hp := p.isLt; have hz := z.isLt; omega)
theorem vnarrow (s : BitVec 3) (d : BitVec 5) (a : BitVec 5) (p : BitVec 3) (z : BitVec 1) : Statement (.vnarrow s d a p z) :=
  of_word rfl (by simp only [place]; have hs := s.isLt; have hd := d.isLt; have ha := a.isLt; have hp := p.isLt; have hz := z.isLt; omega)
theorem vwiden (s : BitVec 3) (d : BitVec 5) (a : BitVec 5) (p : BitVec 3) (z : BitVec 1) : Statement (.vwiden s d a p z) :=
  of_word rfl (by simp only [place]; have hs := s.isLt; have hd := d.isLt; have ha := a.isLt; have hp := p.isLt; have hz := z.isLt; omega)
theorem vrand (s : BitVec 3) (d : BitVec 5) (a : BitVec 5) (p : BitVec 3) (z : BitVec 1) : Statement (.vrand s d a p z) :=
  of_word rfl (by simp only [place]; have hs := s.isLt; have hd := d.isLt; have ha := a.isLt; have hp := p.isLt; have hz := z.isLt; omega)
theorem dmask (s : BitVec 3) (d : BitVec 3) (a : BitVec 5) (b : BitVec 5) (p : BitVec 3) (z : BitVec 1) : Statement (.dmask s d a b p z) :=
  of_word rfl (by simp only [place]; have hs := s.isLt; have hd := d.isLt; have ha := a.isLt; have hb := b.isLt; have hp := p.isLt; have hz := z.isLt; omega)
theorem vmov (s : BitVec 3) (d : BitVec 5) (a : BitVec 5) (p : BitVec 3) (z : BitVec 1) : Statement (.vmov s d a p z) :=
  of_word rfl (by simp only [place]; have hs := s.isLt; have hd := d.isLt; have ha := a.isLt; have hp := p.isLt; have hz := z.isLt; omega)
theorem pand (s : BitVec 3) (d : BitVec 3) (a : BitVec 3) (b : BitVec 3) : Statement (.pand s d a b) :=
  of_word rfl (by simp only [place]; have hs := s.isLt; have hd := d.isLt; have ha := a.isLt; have hb := b.isLt; omega)
theorem por (s : BitVec 3) (d : BitVec 3) (a : BitVec 3) (b : BitVec 3) : Statement (.por s d a b) :=
  of_word rfl (by simp only [place]; have hs := s.isLt; have hd := d.isLt; have ha := a.isLt; have hb := b.isLt; omega)
theorem pxor (s : BitVec 3) (d : BitVec 3) (a : BitVec 3) (b : BitVec 3) : Statement (.pxor s d a b) :=
  of_word rfl (by simp only [place]; have hs := s.isLt; have hd := d.isLt; have ha := a.isLt; have hb := b.isLt; omega)
theorem pandn (s : BitVec 3) (d : BitVec 3) (a : BitVec 3) (b : BitVec 3) : Statement (.pandn s d a b) :=
  of_word rfl (by simp only [place]; have hs := s.isLt; have hd := d.isLt; have ha := a.isLt; have hb := b.isLt; omega)
theorem pnot (s : BitVec 3) (d : BitVec 3) (a : BitVec 3) : Statement (.pnot s d a) :=
  of_word rfl (by simp only [place]; have hs := s.isLt; have hd := d.isLt; have ha := a.isLt; omega)
theorem pmov (s : BitVec 3) (d : BitVec 3) (a : BitVec 5) : Statement (.pmov s d a) :=
  of_word rfl (by simp only [place]; have hs := s.isLt; have hd := d.isLt; have ha := a.isLt; omega)
theorem pget (s : BitVec 3) (d : BitVec 5) (a : BitVec 3) : Statement (.pget s d a) :=
  of_word rfl (by simp only [place]; have hs := s.isLt; have hd := d.isLt; have ha := a.isLt; omega)
theorem pcnt (s : BitVec 3) (d : BitVec 5) (a : BitVec 3) : Statement (.pcnt s d a) :=
  of_word rfl (by simp only [place]; have hs := s.isLt; have hd := d.isLt; have ha := a.isLt; omega)
theorem pfirst (s : BitVec 3) (d : BitVec 5) (a : BitVec 3) : Statement (.pfirst s d a) :=
  of_word rfl (by simp only [place]; have hs := s.isLt; have hd := d.isLt; have ha := a.isLt; omega)
theorem rand (s : BitVec 3) (d : BitVec 5) (a : BitVec 5) : Statement (.rand s d a) :=
  of_word rfl (by simp only [place]; have hs := s.isLt; have hd := d.isLt; have ha := a.isLt; omega)
theorem qnt (s : BitVec 3) (d : BitVec 5) (a : BitVec 5) (e : BitVec 3) : Statement (.qnt s d a e) :=
  of_word rfl (by simp only [place]; have hs := s.isLt; have hd := d.isLt; have ha := a.isLt; have he := e.isLt; omega)
theorem qntb (s : BitVec 3) (d : BitVec 5) (a : BitVec 5) (e : BitVec 3) : Statement (.qntb s d a e) :=
  of_word rfl (by simp only [place]; have hs := s.isLt; have hd := d.isLt; have ha := a.isLt; have he := e.isLt; omega)
theorem dqnt (s : BitVec 3) (d : BitVec 5) (a : BitVec 5) (e : BitVec 3) : Statement (.dqnt s d a e) :=
  of_word rfl (by simp only [place]; have hs := s.isLt; have hd := d.isLt; have ha := a.isLt; have he := e.isLt; omega)
theorem strd (s : BitVec 3) (d : BitVec 5) (e : BitVec 3) : Statement (.strd s d e) :=
  of_word rfl (by simp only [place]; have hs := s.isLt; have hd := d.isLt; have he := e.isLt; omega)
theorem stclr (s : BitVec 3) (e : BitVec 3) : Statement (.stclr s e) :=
  of_word rfl (by simp only [place]; have hs := s.isLt; have he := e.isLt; omega)
theorem stfrz (s : BitVec 3) (e : BitVec 3) : Statement (.stfrz s e) :=
  of_word rfl (by simp only [place]; have hs := s.isLt; have he := e.isLt; omega)
theorem stsync (s : BitVec 3) (c : BitVec 3) : Statement (.stsync s c) :=
  of_word rfl (by simp only [place]; have hs := s.isLt; have hc := c.isLt; omega)
theorem vstS (s : BitVec 3) (d : BitVec 5) (a : BitVec 5) (e : BitVec 3) : Statement (.vstS s d a e) :=
  of_word rfl (by simp only [place]; have hs := s.isLt; have hd := d.isLt; have ha := a.isLt; have he := e.isLt; omega)
theorem vstsS (s : BitVec 3) (d : BitVec 5) (a : BitVec 5) (b : BitVec 5) (e : BitVec 3) : Statement (.vstsS s d a b e) :=
  of_word rfl (by simp only [place]; have hs := s.isLt; have hd := d.isLt; have ha := a.isLt; have hb := b.isLt; have he := e.isLt; omega)
theorem vstscS (s : BitVec 3) (d : BitVec 5) (a : BitVec 5) (b : BitVec 5) (e : BitVec 3) : Statement (.vstscS s d a b e) :=
  of_word rfl (by simp only [place]; have hs := s.isLt; have hd := d.isLt; have ha := a.isLt; have hb := b.isLt; have he := e.isLt; omega)
theorem oclm (s : BitVec 3) (d : BitVec 5) (a : BitVec 5) : Statement (.oclm s d a) :=
  of_word rfl (by simp only [place]; have hs := s.isLt; have hd := d.isLt; have ha := a.isLt; omega)
theorem orel (s : BitVec 3) (a : BitVec 5) : Statement (.orel s a) :=
  of_word rfl (by simp only [place]; have hs := s.isLt; have ha := a.isLt; omega)
theorem old (s : BitVec 3) (o : BitVec 4) (a : BitVec 5) (b : BitVec 5) (e : BitVec 3) : Statement (.old s o a b e) :=
  of_word rfl (by simp only [place]; have hs := s.isLt; have ho := o.isLt; have ha := a.isLt; have hb := b.isLt; have he := e.isLt; omega)
theorem mma (s : BitVec 3) (d : BitVec 5) (o : BitVec 4) (q : BitVec 4) (e : BitVec 3) : Statement (.mma s d o q e) :=
  of_word rfl (by simp only [place]; have hs := s.isLt; have hd := d.isLt; have ho := o.isLt; have hq := q.isLt; have he := e.isLt; omega)
theorem mmaZ (s : BitVec 3) (d : BitVec 5) (o : BitVec 4) (q : BitVec 4) (e : BitVec 3) : Statement (.mmaZ s d o q e) :=
  of_word rfl (by simp only [place]; have hs := s.isLt; have hd := d.isLt; have ho := o.isLt; have hq := q.isLt; have he := e.isLt; omega)
theorem ard (s : BitVec 3) (d : BitVec 5) (a : BitVec 5) (b : BitVec 5) : Statement (.ard s d a b) :=
  of_word rfl (by simp only [place]; have hs := s.isLt; have hd := d.isLt; have ha := a.isLt; have hb := b.isLt; omega)
theorem asto (s : BitVec 3) (d : BitVec 5) (a : BitVec 5) (b : BitVec 5) (e : BitVec 3) : Statement (.asto s d a b e) :=
  of_word rfl (by simp only [place]; have hs := s.isLt; have hd := d.isLt; have ha := a.isLt; have hb := b.isLt; have he := e.isLt; omega)
theorem arel (s : BitVec 3) (a : BitVec 5) : Statement (.arel s a) :=
  of_word rfl (by simp only [place]; have hs := s.isLt; have ha := a.isLt; omega)
theorem send (s : BitVec 3) (d : BitVec 5) (a : BitVec 5) (b : BitVec 5) (c : BitVec 2) : Statement (.send s d a b c) :=
  of_word rfl (by simp only [place]; have hs := s.isLt; have hd := d.isLt; have ha := a.isLt; have hb := b.isLt; have hc := c.isLt; omega)
theorem sendhost (s : BitVec 3) (d : BitVec 5) (a : BitVec 5) (b : BitVec 5) (c : BitVec 2) : Statement (.sendhost s d a b c) :=
  of_word rfl (by simp only [place]; have hs := s.isLt; have hd := d.isLt; have ha := a.isLt; have hb := b.isLt; have hc := c.isLt; omega)
theorem put (s : BitVec 3) (d : BitVec 5) (a : BitVec 5) (b : BitVec 5) (c : BitVec 2) : Statement (.put s d a b c) :=
  of_word rfl (by simp only [place]; have hs := s.isLt; have hd := d.isLt; have ha := a.isLt; have hb := b.isLt; have hc := c.isLt; omega)
theorem rfadd (s : BitVec 3) (d : BitVec 5) (a : BitVec 5) (b : BitVec 5) (c : BitVec 2) : Statement (.rfadd s d a b c) :=
  of_word rfl (by simp only [place]; have hs := s.isLt; have hd := d.isLt; have ha := a.isLt; have hb := b.isLt; have hc := c.isLt; omega)
theorem rfaddT (s : BitVec 3) (d : BitVec 5) (a : BitVec 5) (b : BitVec 5) (c : BitVec 2) : Statement (.rfaddT s d a b c) :=
  of_word rfl (by simp only [place]; have hs := s.isLt; have hd := d.isLt; have ha := a.isLt; have hb := b.isLt; have hc := c.isLt; omega)
theorem vfaddT (s : BitVec 3) (d : BitVec 5) (a : BitVec 5) (b : BitVec 5) (c : BitVec 2) : Statement (.vfaddT s d a b c) :=
  of_word rfl (by simp only [place]; have hs := s.isLt; have hd := d.isLt; have ha := a.isLt; have hb := b.isLt; have hc := c.isLt; omega)
theorem tsopen (s : BitVec 3) (d : BitVec 5) (a : BitVec 5) (c : BitVec 2) : Statement (.tsopen s d a c) :=
  of_word rfl (by simp only [place]; have hs := s.isLt; have hd := d.isLt; have ha := a.isLt; have hc := c.isLt; omega)
theorem tsclose (s : BitVec 3) (d : BitVec 5) (a : BitVec 5) (c : BitVec 2) : Statement (.tsclose s d a c) :=
  of_word rfl (by simp only [place]; have hs := s.isLt; have hd := d.isLt; have ha := a.isLt; have hc := c.isLt; omega)
theorem tskip (s : BitVec 3) (d : BitVec 5) (a : BitVec 5) (b : BitVec 5) (c : BitVec 2) : Statement (.tskip s d a b c) :=
  of_word rfl (by simp only [place]; have hs := s.isLt; have hd := d.isLt; have ha := a.isLt; have hb := b.isLt; have hc := c.isLt; omega)
theorem tdrain (s : BitVec 3) (a : BitVec 5) (c : BitVec 2) : Statement (.tdrain s a c) :=
  of_word rfl (by simp only [place]; have hs := s.isLt; have ha := a.isLt; have hc := c.isLt; omega)
theorem halo (s : BitVec 3) (d : BitVec 5) (a : BitVec 5) (b : BitVec 5) (c : BitVec 2) : Statement (.halo s d a b c) :=
  of_word rfl (by simp only [place]; have hs := s.isLt; have hd := d.isLt; have ha := a.isLt; have hb := b.isLt; have hc := c.isLt; omega)
theorem zwatch (s : BitVec 3) (d : BitVec 5) (a : BitVec 5) (b : BitVec 5) : Statement (.zwatch s d a b) :=
  of_word rfl (by simp only [place]; have hs := s.isLt; have hd := d.isLt; have ha := a.isLt; have hb := b.isLt; omega)
theorem aaddW (s : BitVec 3) (d : BitVec 5) (a : BitVec 5) (b : BitVec 5) (c : BitVec 2) : Statement (.aaddW s d a b c) :=
  of_word rfl (by simp only [place]; have hs := s.isLt; have hd := d.isLt; have ha := a.isLt; have hb := b.isLt; have hc := c.isLt; omega)
theorem aaddfW (s : BitVec 3) (d : BitVec 5) (a : BitVec 5) (b : BitVec 5) (c : BitVec 2) : Statement (.aaddfW s d a b c) :=
  of_word rfl (by simp only [place]; have hs := s.isLt; have hd := d.isLt; have ha := a.isLt; have hb := b.isLt; have hc := c.isLt; omega)
theorem asminW (s : BitVec 3) (d : BitVec 5) (a : BitVec 5) (b : BitVec 5) (c : BitVec 2) : Statement (.asminW s d a b c) :=
  of_word rfl (by simp only [place]; have hs := s.isLt; have hd := d.isLt; have ha := a.isLt; have hb := b.isLt; have hc := c.isLt; omega)
theorem asminfW (s : BitVec 3) (d : BitVec 5) (a : BitVec 5) (b : BitVec 5) (c : BitVec 2) : Statement (.asminfW s d a b c) :=
  of_word rfl (by simp only [place]; have hs := s.isLt; have hd := d.isLt; have ha := a.isLt; have hb := b.isLt; have hc := c.isLt; omega)
theorem asmaxW (s : BitVec 3) (d : BitVec 5) (a : BitVec 5) (b : BitVec 5) (c : BitVec 2) : Statement (.asmaxW s d a b c) :=
  of_word rfl (by simp only [place]; have hs := s.isLt; have hd := d.isLt; have ha := a.isLt; have hb := b.isLt; have hc := c.isLt; omega)
theorem asmaxfW (s : BitVec 3) (d : BitVec 5) (a : BitVec 5) (b : BitVec 5) (c : BitVec 2) : Statement (.asmaxfW s d a b c) :=
  of_word rfl (by simp only [place]; have hs := s.isLt; have hd := d.isLt; have ha := a.isLt; have hb := b.isLt; have hc := c.isLt; omega)
theorem auminW (s : BitVec 3) (d : BitVec 5) (a : BitVec 5) (b : BitVec 5) (c : BitVec 2) : Statement (.auminW s d a b c) :=
  of_word rfl (by simp only [place]; have hs := s.isLt; have hd := d.isLt; have ha := a.isLt; have hb := b.isLt; have hc := c.isLt; omega)
theorem auminfW (s : BitVec 3) (d : BitVec 5) (a : BitVec 5) (b : BitVec 5) (c : BitVec 2) : Statement (.auminfW s d a b c) :=
  of_word rfl (by simp only [place]; have hs := s.isLt; have hd := d.isLt; have ha := a.isLt; have hb := b.isLt; have hc := c.isLt; omega)
theorem aumaxW (s : BitVec 3) (d : BitVec 5) (a : BitVec 5) (b : BitVec 5) (c : BitVec 2) : Statement (.aumaxW s d a b c) :=
  of_word rfl (by simp only [place]; have hs := s.isLt; have hd := d.isLt; have ha := a.isLt; have hb := b.isLt; have hc := c.isLt; omega)
theorem aumaxfW (s : BitVec 3) (d : BitVec 5) (a : BitVec 5) (b : BitVec 5) (c : BitVec 2) : Statement (.aumaxfW s d a b c) :=
  of_word rfl (by simp only [place]; have hs := s.isLt; have hd := d.isLt; have ha := a.isLt; have hb := b.isLt; have hc := c.isLt; omega)
theorem aandW (s : BitVec 3) (d : BitVec 5) (a : BitVec 5) (b : BitVec 5) (c : BitVec 2) : Statement (.aandW s d a b c) :=
  of_word rfl (by simp only [place]; have hs := s.isLt; have hd := d.isLt; have ha := a.isLt; have hb := b.isLt; have hc := c.isLt; omega)
theorem aandfW (s : BitVec 3) (d : BitVec 5) (a : BitVec 5) (b : BitVec 5) (c : BitVec 2) : Statement (.aandfW s d a b c) :=
  of_word rfl (by simp only [place]; have hs := s.isLt; have hd := d.isLt; have ha := a.isLt; have hb := b.isLt; have hc := c.isLt; omega)
theorem aorW (s : BitVec 3) (d : BitVec 5) (a : BitVec 5) (b : BitVec 5) (c : BitVec 2) : Statement (.aorW s d a b c) :=
  of_word rfl (by simp only [place]; have hs := s.isLt; have hd := d.isLt; have ha := a.isLt; have hb := b.isLt; have hc := c.isLt; omega)
theorem aorfW (s : BitVec 3) (d : BitVec 5) (a : BitVec 5) (b : BitVec 5) (c : BitVec 2) : Statement (.aorfW s d a b c) :=
  of_word rfl (by simp only [place]; have hs := s.isLt; have hd := d.isLt; have ha := a.isLt; have hb := b.isLt; have hc := c.isLt; omega)
theorem axorW (s : BitVec 3) (d : BitVec 5) (a : BitVec 5) (b : BitVec 5) (c : BitVec 2) : Statement (.axorW s d a b c) :=
  of_word rfl (by simp only [place]; have hs := s.isLt; have hd := d.isLt; have ha := a.isLt; have hb := b.isLt; have hc := c.isLt; omega)
theorem axorfW (s : BitVec 3) (d : BitVec 5) (a : BitVec 5) (b : BitVec 5) (c : BitVec 2) : Statement (.axorfW s d a b c) :=
  of_word rfl (by simp only [place]; have hs := s.isLt; have hd := d.isLt; have ha := a.isLt; have hb := b.isLt; have hc := c.isLt; omega)
theorem aswapW (s : BitVec 3) (d : BitVec 5) (a : BitVec 5) (b : BitVec 5) (c : BitVec 2) : Statement (.aswapW s d a b c) :=
  of_word rfl (by simp only [place]; have hs := s.isLt; have hd := d.isLt; have ha := a.isLt; have hb := b.isLt; have hc := c.isLt; omega)
theorem acasW (s : BitVec 3) (d : BitVec 5) (a : BitVec 5) (b : BitVec 5) (c : BitVec 2) : Statement (.acasW s d a b c) :=
  of_word rfl (by simp only [place]; have hs := s.isLt; have hd := d.isLt; have ha := a.isLt; have hb := b.isLt; have hc := c.isLt; omega)
theorem aaddD (s : BitVec 3) (d : BitVec 5) (a : BitVec 5) (b : BitVec 5) (c : BitVec 2) : Statement (.aaddD s d a b c) :=
  of_word rfl (by simp only [place]; have hs := s.isLt; have hd := d.isLt; have ha := a.isLt; have hb := b.isLt; have hc := c.isLt; omega)
theorem aaddfD (s : BitVec 3) (d : BitVec 5) (a : BitVec 5) (b : BitVec 5) (c : BitVec 2) : Statement (.aaddfD s d a b c) :=
  of_word rfl (by simp only [place]; have hs := s.isLt; have hd := d.isLt; have ha := a.isLt; have hb := b.isLt; have hc := c.isLt; omega)
theorem asminD (s : BitVec 3) (d : BitVec 5) (a : BitVec 5) (b : BitVec 5) (c : BitVec 2) : Statement (.asminD s d a b c) :=
  of_word rfl (by simp only [place]; have hs := s.isLt; have hd := d.isLt; have ha := a.isLt; have hb := b.isLt; have hc := c.isLt; omega)
theorem asminfD (s : BitVec 3) (d : BitVec 5) (a : BitVec 5) (b : BitVec 5) (c : BitVec 2) : Statement (.asminfD s d a b c) :=
  of_word rfl (by simp only [place]; have hs := s.isLt; have hd := d.isLt; have ha := a.isLt; have hb := b.isLt; have hc := c.isLt; omega)
theorem asmaxD (s : BitVec 3) (d : BitVec 5) (a : BitVec 5) (b : BitVec 5) (c : BitVec 2) : Statement (.asmaxD s d a b c) :=
  of_word rfl (by simp only [place]; have hs := s.isLt; have hd := d.isLt; have ha := a.isLt; have hb := b.isLt; have hc := c.isLt; omega)
theorem asmaxfD (s : BitVec 3) (d : BitVec 5) (a : BitVec 5) (b : BitVec 5) (c : BitVec 2) : Statement (.asmaxfD s d a b c) :=
  of_word rfl (by simp only [place]; have hs := s.isLt; have hd := d.isLt; have ha := a.isLt; have hb := b.isLt; have hc := c.isLt; omega)
theorem auminD (s : BitVec 3) (d : BitVec 5) (a : BitVec 5) (b : BitVec 5) (c : BitVec 2) : Statement (.auminD s d a b c) :=
  of_word rfl (by simp only [place]; have hs := s.isLt; have hd := d.isLt; have ha := a.isLt; have hb := b.isLt; have hc := c.isLt; omega)
theorem auminfD (s : BitVec 3) (d : BitVec 5) (a : BitVec 5) (b : BitVec 5) (c : BitVec 2) : Statement (.auminfD s d a b c) :=
  of_word rfl (by simp only [place]; have hs := s.isLt; have hd := d.isLt; have ha := a.isLt; have hb := b.isLt; have hc := c.isLt; omega)
theorem aumaxD (s : BitVec 3) (d : BitVec 5) (a : BitVec 5) (b : BitVec 5) (c : BitVec 2) : Statement (.aumaxD s d a b c) :=
  of_word rfl (by simp only [place]; have hs := s.isLt; have hd := d.isLt; have ha := a.isLt; have hb := b.isLt; have hc := c.isLt; omega)
theorem aumaxfD (s : BitVec 3) (d : BitVec 5) (a : BitVec 5) (b : BitVec 5) (c : BitVec 2) : Statement (.aumaxfD s d a b c) :=
  of_word rfl (by simp only [place]; have hs := s.isLt; have hd := d.isLt; have ha := a.isLt; have hb := b.isLt; have hc := c.isLt; omega)
theorem aandD (s : BitVec 3) (d : BitVec 5) (a : BitVec 5) (b : BitVec 5) (c : BitVec 2) : Statement (.aandD s d a b c) :=
  of_word rfl (by simp only [place]; have hs := s.isLt; have hd := d.isLt; have ha := a.isLt; have hb := b.isLt; have hc := c.isLt; omega)
theorem aandfD (s : BitVec 3) (d : BitVec 5) (a : BitVec 5) (b : BitVec 5) (c : BitVec 2) : Statement (.aandfD s d a b c) :=
  of_word rfl (by simp only [place]; have hs := s.isLt; have hd := d.isLt; have ha := a.isLt; have hb := b.isLt; have hc := c.isLt; omega)
theorem aorD (s : BitVec 3) (d : BitVec 5) (a : BitVec 5) (b : BitVec 5) (c : BitVec 2) : Statement (.aorD s d a b c) :=
  of_word rfl (by simp only [place]; have hs := s.isLt; have hd := d.isLt; have ha := a.isLt; have hb := b.isLt; have hc := c.isLt; omega)
theorem aorfD (s : BitVec 3) (d : BitVec 5) (a : BitVec 5) (b : BitVec 5) (c : BitVec 2) : Statement (.aorfD s d a b c) :=
  of_word rfl (by simp only [place]; have hs := s.isLt; have hd := d.isLt; have ha := a.isLt; have hb := b.isLt; have hc := c.isLt; omega)
theorem axorD (s : BitVec 3) (d : BitVec 5) (a : BitVec 5) (b : BitVec 5) (c : BitVec 2) : Statement (.axorD s d a b c) :=
  of_word rfl (by simp only [place]; have hs := s.isLt; have hd := d.isLt; have ha := a.isLt; have hb := b.isLt; have hc := c.isLt; omega)
theorem axorfD (s : BitVec 3) (d : BitVec 5) (a : BitVec 5) (b : BitVec 5) (c : BitVec 2) : Statement (.axorfD s d a b c) :=
  of_word rfl (by simp only [place]; have hs := s.isLt; have hd := d.isLt; have ha := a.isLt; have hb := b.isLt; have hc := c.isLt; omega)
theorem aswapD (s : BitVec 3) (d : BitVec 5) (a : BitVec 5) (b : BitVec 5) (c : BitVec 2) : Statement (.aswapD s d a b c) :=
  of_word rfl (by simp only [place]; have hs := s.isLt; have hd := d.isLt; have ha := a.isLt; have hb := b.isLt; have hc := c.isLt; omega)
theorem acasD (s : BitVec 3) (d : BitVec 5) (a : BitVec 5) (b : BitVec 5) (c : BitVec 2) : Statement (.acasD s d a b c) :=
  of_word rfl (by simp only [place]; have hs := s.isLt; have hd := d.isLt; have ha := a.isLt; have hb := b.isLt; have hc := c.isLt; omega)
theorem arrive (s : BitVec 3) (n : BitVec 3) : Statement (.arrive s n) :=
  of_word rfl (by simp only [place]; have hs := s.isLt; have hn := n.isLt; omega)
theorem wait (s : BitVec 3) (d : BitVec 5) (n : BitVec 3) : Statement (.wait s d n) :=
  of_word rfl (by simp only [place]; have hs := s.isLt; have hd := d.isLt; have hn := n.isLt; omega)
theorem arvdrop (s : BitVec 3) (n : BitVec 3) : Statement (.arvdrop s n) :=
  of_word rfl (by simp only [place]; have hs := s.isLt; have hn := n.isLt; omega)
theorem fence (s : BitVec 3) (c : BitVec 3) : Statement (.fence s c) :=
  of_word rfl (by simp only [place]; have hs := s.isLt; have hc := c.isLt; omega)
theorem fenceAcq (s : BitVec 3) (c : BitVec 3) : Statement (.fenceAcq s c) :=
  of_word rfl (by simp only [place]; have hs := s.isLt; have hc := c.isLt; omega)
theorem fenceRel (s : BitVec 3) (c : BitVec 3) : Statement (.fenceRel s c) :=
  of_word rfl (by simp only [place]; have hs := s.isLt; have hc := c.isLt; omega)
theorem fenceSc (s : BitVec 3) (c : BitVec 3) : Statement (.fenceSc s c) :=
  of_word rfl (by simp only [place]; have hs := s.isLt; have hc := c.isLt; omega)
theorem genend (s : BitVec 3) : Statement (.genend s) :=
  of_word rfl (by simp only [place]; have hs := s.isLt; omega)
theorem genq (s : BitVec 3) (d : BitVec 5) (q : BitVec 5) : Statement (.genq s d q) :=
  of_word rfl (by simp only [place]; have hs := s.isLt; have hd := d.isLt; have hq := q.isLt; omega)
theorem migrate (s : BitVec 3) (d : BitVec 5) (a : BitVec 5) : Statement (.migrate s d a) :=
  of_word rfl (by simp only [place]; have hs := s.isLt; have hd := d.isLt; have ha := a.isLt; omega)
theorem tret (s : BitVec 3) (a : BitVec 5) : Statement (.tret s a) :=
  of_word rfl (by simp only [place]; have hs := s.isLt; have ha := a.isLt; omega)
theorem xrd (s : BitVec 3) (d : BitVec 5) (a : BitVec 5) (b : BitVec 5) : Statement (.xrd s d a b) :=
  of_word rfl (by simp only [place]; have hs := s.isLt; have hd := d.isLt; have ha := a.isLt; have hb := b.isLt; omega)
theorem xwr (s : BitVec 3) (d : BitVec 5) (a : BitVec 5) (b : BitVec 5) : Statement (.xwr s d a b) :=
  of_word rfl (by simp only [place]; have hs := s.isLt; have hd := d.isLt; have ha := a.isLt; have hb := b.isLt; omega)
theorem eresume (s : BitVec 3) (a : BitVec 5) : Statement (.eresume s a) :=
  of_word rfl (by simp only [place]; have hs := s.isLt; have ha := a.isLt; omega)
theorem eabort (s : BitVec 3) (a : BitVec 5) : Statement (.eabort s a) :=
  of_word rfl (by simp only [place]; have hs := s.isLt; have ha := a.isLt; omega)
theorem xinv (s : BitVec 3) (a : BitVec 5) (b : BitVec 5) : Statement (.xinv s a b) :=
  of_word rfl (by simp only [place]; have hs := s.isLt; have ha := a.isLt; have hb := b.isLt; omega)
theorem cMv (d : BitVec 5) (a : BitVec 5) : Statement (.cMv d a) :=
  of_half rfl (by simp only [place]; have hd := d.isLt; have ha := a.isLt; omega)
theorem cAdd (d : BitVec 5) (a : BitVec 5) : Statement (.cAdd d a) :=
  of_half rfl (by simp only [place]; have hd := d.isLt; have ha := a.isLt; omega)
theorem cSub (d : BitVec 5) (a : BitVec 5) : Statement (.cSub d a) :=
  of_half rfl (by simp only [place]; have hd := d.isLt; have ha := a.isLt; omega)
theorem cAnd (d : BitVec 5) (a : BitVec 5) : Statement (.cAnd d a) :=
  of_half rfl (by simp only [place]; have hd := d.isLt; have ha := a.isLt; omega)
theorem cOr (d : BitVec 5) (a : BitVec 5) : Statement (.cOr d a) :=
  of_half rfl (by simp only [place]; have hd := d.isLt; have ha := a.isLt; omega)
theorem cXor (d : BitVec 5) (a : BitVec 5) : Statement (.cXor d a) :=
  of_half rfl (by simp only [place]; have hd := d.isLt; have ha := a.isLt; omega)
theorem cAddi (d : BitVec 5) (i : BitVec 5) : Statement (.cAddi d i) :=
  of_half rfl (by simp only [place]; have hd := d.isLt; have hi := i.isLt; omega)
theorem cLi (d : BitVec 5) (i : BitVec 5) : Statement (.cLi d i) :=
  of_half rfl (by simp only [place]; have hd := d.isLt; have hi := i.isLt; omega)
theorem cSlli (d : BitVec 5) (h : BitVec 5) : Statement (.cSlli d h) :=
  of_half rfl (by simp only [place]; have hd := d.isLt; have hh := h.isLt; omega)
theorem cSrli (d : BitVec 5) (h : BitVec 5) : Statement (.cSrli d h) :=
  of_half rfl (by simp only [place]; have hd := d.isLt; have hh := h.isLt; omega)
theorem cSrai (d : BitVec 5) (h : BitVec 5) : Statement (.cSrai d h) :=
  of_half rfl (by simp only [place]; have hd := d.isLt; have hh := h.isLt; omega)
theorem cLd (d : BitVec 5) (a : BitVec 5) : Statement (.cLd d a) :=
  of_half rfl (by simp only [place]; have hd := d.isLt; have ha := a.isLt; omega)
theorem cSd (d : BitVec 5) (a : BitVec 5) : Statement (.cSd d a) :=
  of_half rfl (by simp only [place]; have hd := d.isLt; have ha := a.isLt; omega)
theorem cBeqz (d : BitVec 5) (o : BitVec 5) : Statement (.cBeqz d o) :=
  of_half rfl (by simp only [place]; have hd := d.isLt; have ho := o.isLt; omega)
theorem cBnez (d : BitVec 5) (o : BitVec 5) : Statement (.cBnez d o) :=
  of_half rfl (by simp only [place]; have hd := d.isLt; have ho := o.isLt; omega)
theorem cJ (o : BitVec 10) : Statement (.cJ o) :=
  of_half rfl (by simp only [place]; have ho := o.isLt; omega)
theorem cJr (a : BitVec 5) : Statement (.cJr a) :=
  of_half rfl (by simp only [place]; have ha := a.isLt; omega)
theorem cExit : Statement (.cExit) :=
  of_half rfl (by decide)
theorem cHint (h : BitVec 10) : Statement (.cHint h) :=
  of_half rfl (by simp only [place]; have hh := h.isLt; omega)
theorem launchRecord (p : BitVec 4) : Statement (.launchRecord p) := of_event rfl
theorem wakeArrival (cn : CoreNo) : Statement (.wakeArrival cn) := of_event rfl
theorem selection (cn : CoreNo) : Statement (.selection cn) := of_event rfl
theorem messageArrival (i : Nat) : Statement (.messageArrival i) := of_event rfl
theorem heldMessagePlacement (cn : CoreNo) (c : BitVec 6) : Statement (.heldMessagePlacement cn c) := of_event rfl
theorem corePartEnd (cn : CoreNo) : Statement (.corePartEnd cn) := of_event rfl
theorem completionReport (i : Nat) : Statement (.completionReport i) := of_event rfl
theorem launchCompletion (p : BitVec 4) (lid : BitVec 32) : Statement (.launchCompletion p lid) := of_event rfl
theorem rectangleRelease (p : BitVec 4) (lid : BitVec 32) : Statement (.rectangleRelease p lid) := of_event rfl
theorem stopCmd (p : BitVec 4) : Statement (.stopCmd p) := of_event rfl
theorem resumeCmd (p : BitVec 4) : Statement (.resumeCmd p) := of_event rfl
theorem launchResumption (p : BitVec 4) (lid : BitVec 32) : Statement (.launchResumption p lid) := of_event rfl
theorem endCmd (p : BitVec 4) : Statement (.endCmd p) := of_event rfl
theorem commandMalformed (p : BitVec 4) : Statement (.commandMalformed p) := of_event rfl
theorem transactionCompletion (i : Nat) : Statement (.transactionCompletion i) := of_event rfl
theorem replyArrival (i : Nat) : Statement (.replyArrival i) := of_event rfl
theorem retryResend (i : Nat) : Statement (.retryResend i) := of_event rfl
theorem putAtTarget (i : Nat) : Statement (.putAtTarget i) := of_event rfl
theorem atomicAtHome (i : Nat) : Statement (.atomicAtHome i) := of_event rfl
theorem fpUpdateAtHome (i : Nat) : Statement (.fpUpdateAtHome i) := of_event rfl
theorem ticketedUpdateArrival (i : Nat) : Statement (.ticketedUpdateArrival i) := of_event rfl
theorem copyBlockWrite (cn : CoreNo) (id : BitVec 16) : Statement (.copyBlockWrite cn id) := of_event rfl
theorem copyCompletion (cn : CoreNo) (id : BitVec 16) : Statement (.copyCompletion cn id) := of_event rfl
theorem haloArrival (i : Nat) : Statement (.haloArrival i) := of_event rfl
theorem haloAcknowledgement (i : Nat) : Statement (.haloAcknowledgement i) := of_event rfl
theorem arbitrationRound (o : Nat) (joins : List (Nat × Nat)) : Statement (.arbitrationRound o joins) := of_event rfl
theorem exhaustionNotice (i : Nat) : Statement (.exhaustionNotice i) := of_event rfl
theorem congestionNotice (cn : CoreNo) (key : DestKey) : Statement (.congestionNotice cn key) := of_event rfl
theorem retransmission (i : Nat) : Statement (.retransmission i) := of_event rfl
theorem sutrePacketArrival (h : SutreHeader) (payload : List Word) : Statement (.sutrePacketArrival h payload) := of_event rfl
theorem accumulatorFlush (owner : Option CoreNo) (n : Nat) : Statement (.accumulatorFlush owner n) := of_event rfl
theorem flushMerge (i : Nat) : Statement (.flushMerge i) := of_event rfl
theorem barrierPhaseCompletion (p : BitVec 4) (lid : BitVec 32) (n : BitVec 3) : Statement (.barrierPhaseCompletion p lid n) := of_event rfl
theorem deadlock (p : BitVec 4) (lid : BitVec 32) : Statement (.deadlock p lid) := of_event rfl
theorem generationBoundary (g : BitVec 6) : Statement (.generationBoundary g) := of_event rfl
theorem generationResumption (g : BitVec 6) : Statement (.generationResumption g) := of_event rfl
theorem immigrantBatch (b : Batch) : Statement (.immigrantBatch b) := of_event rfl
theorem trapEntry (cn : CoreNo) : Statement (.trapEntry cn) := of_event rfl
theorem hostWake (cn : CoreNo) : Statement (.hostWake cn) := of_event rfl
theorem pageWalk (cn : CoreNo) (va : BitVec 48) : Statement (.pageWalk cn va) := of_event rfl
theorem invalidatePage (p : BitVec 4) : Statement (.invalidatePage p) := of_event rfl
theorem invalidateAsid (p : BitVec 4) : Statement (.invalidateAsid p) := of_event rfl
theorem invalidateMalformed (p : BitVec 4) : Statement (.invalidateMalformed p) := of_event rfl
theorem portRetryExhausted (eth : Bool) (port : BitVec 6) : Statement (.portRetryExhausted eth port) := of_event rfl
theorem packageLost (pkg : BitVec 16) : Statement (.packageLost pkg) := of_event rfl
theorem meshLinkError (a b : CoreNo) : Statement (.meshLinkError a b) := of_event rfl
theorem machineCheck (cn : CoreNo) : Statement (.machineCheck cn) := of_event rfl
theorem coreHalt (cn : CoreNo) : Statement (.coreHalt cn) := of_event rfl
theorem haltRelease (cn : CoreNo) : Statement (.haltRelease cn) := of_event rfl
theorem matrixEnginePowerDown (cn : CoreNo) : Statement (.matrixEnginePowerDown cn) := of_event rfl
theorem matrixEngineReady (cn : CoreNo) : Statement (.matrixEngineReady cn) := of_event rfl
theorem packageReset : Statement (.packageReset) := of_event rfl
theorem unitStart : Statement (.unitStart) := of_event rfl
theorem recoveryLoad : Statement (.recoveryLoad) := of_event rfl
theorem attestation : Statement (.attestation) := of_event rfl
theorem mailboxUnknownCommand : Statement (.mailboxUnknownCommand) := of_event rfl
theorem hsemRead (reads : List (BitVec 2 × BitVec 5)) : Statement (.hsemRead reads) := of_event rfl
theorem hsemWrite (port : BitVec 2) (n : BitVec 5) (w : Word) : Statement (.hsemWrite port n w) := of_event rfl
theorem hostLinkReset (port : BitVec 1) : Statement (.hostLinkReset port) := of_event rfl
theorem dstopWrite (p : BitVec 4) (lid : BitVec 32) : Statement (.dstopWrite p lid) := of_event rfl
theorem debugStop (cn : CoreNo) : Statement (.debugStop cn) := of_event rfl
theorem drelWrite (p : BitVec 4) (lid : BitVec 32) : Statement (.drelWrite p lid) := of_event rfl
theorem recordHomeOperation (i : Nat) : Statement (.recordHomeOperation i) := of_event rfl
theorem sequencePartQuery (i : Nat) : Statement (.sequencePartQuery i) := of_event rfl
theorem fenceScOrderFixed (cn : CoreNo) (k : BitVec 4) : Statement (.fenceScOrderFixed cn k) := of_event rfl
theorem partitionDescriptorWrite (p : BitVec 4) (dws : List Word) : Statement (.partitionDescriptorWrite p dws) := of_event rfl

end Sys2Proof.Laws.Encoded
end

