-- ==== Sys2Proof/Laws/Weak.lean ====
section
/-! SUPPORT. What a store into local SRAM changes, and what running an instruction of a context does, by how far the context and the
instruction leave program order. -/

namespace Sys2Proof.Machine

/-! ### Stores into local SRAM, whoever performs them -/

/-- A core is another but for local memory, its errors and the image mark. -/
def Core.storedFrom (d c : Core) : Prop := d = { c with mem := d.mem, image := d.image, bad := d.bad }

theorem Core.storedFrom_trans {a b c : Core} (h : b.storedFrom a) (k : c.storedFrom b) : c.storedFrom a := by
  unfold Core.storedFrom at h k ⊢; rw [k, h]
theorem Core.storedFrom_put (c : Core) (a : Nat) (bs : List Byte) : (c.put a bs).storedFrom c := rfl
theorem Core.wf_put {c : Core} (h : Memory.wf c.mem = true) (a : Nat) (bs : List Byte) : Memory.wf (c.put a bs).mem = true :=
  Memory.wf_write h a _

/-- Bytes put one by one change what one put changes, and keep the canonical form. -/
theorem Core.puts_spec (ws : List (Nat × Byte)) (c : Core) :
    (ws.foldl (fun c e => c.put e.1 [e.2]) c).storedFrom c ∧
    (Memory.wf c.mem = true → Memory.wf (ws.foldl (fun c e => c.put e.1 [e.2]) c).mem = true) := by
  induction ws generalizing c with
  | nil => exact ⟨rfl, id⟩
  | cons w ws ih =>
    obtain ⟨h, k⟩ := ih (c.put w.1 [w.2])
    exact ⟨Core.storedFrom_trans (Core.storedFrom_put c _ _) h, fun hw => k (Core.wf_put hw _ _)⟩
theorem Core.storedFrom_putAll (c : Core) (ws : List (Nat × Byte)) : (c.putAll ws).storedFrom c := by
  have h := (Core.puts_spec ws c).1
  unfold Core.storedFrom at h; unfold Core.storedFrom Core.putAll; rw [h]
theorem Core.wf_putAll {c : Core} (h : Memory.wf c.mem = true) (ws : List (Nat × Byte)) : Memory.wf (c.putAll ws).mem = true :=
  (Core.puts_spec ws c).2 h

/-- A store performed late changes local memory, its errors and the image mark alone. -/
theorem Core.storedFrom_performOne (c : Core) (e : Nat × Nat × Nat) : (c.performOne e).storedFrom c := Core.storedFrom_putAll c _
theorem Core.wf_performOne {c : Core} (h : Memory.wf c.mem = true) (e : Nat × Nat × Nat) : Memory.wf (c.performOne e).mem = true :=
  Core.wf_putAll h _

/-- So do several; their context then has the rest of its stores left. -/
theorem Core.performs_spec (es : List (Nat × Nat × Nat)) (c : Core) :
    (es.foldl Core.performOne c).storedFrom c ∧ (Memory.wf c.mem = true → Memory.wf (es.foldl Core.performOne c).mem = true) := by
  induction es generalizing c with
  | nil => exact ⟨rfl, id⟩
  | cons e es ih =>
    obtain ⟨h, k⟩ := ih (c.performOne e)
    exact ⟨Core.storedFrom_trans (Core.storedFrom_performOne c e) h, fun hw => k (Core.wf_performOne hw e)⟩
theorem Core.wf_performAll {c : Core} (h : Memory.wf c.mem = true) (k : Nat) : Memory.wf (c.performAll k).mem = true := by
  unfold Core.performAll
  split
  · exact h
  · exact (Core.performs_spec _ c).2 h
theorem Core.wf_performSome {c : Core} (h : Memory.wf c.mem = true) (k : Nat) (f : Nat × Nat × Nat → Bool) :
    Memory.wf (c.performSome k f).mem = true :=
  (Core.performs_spec _ (c.modCx k _)).2 h

/-! ### Running an instruction -/

/-- A context with nothing out of program order runs its instruction as exec gives it. -/
theorem State.run_ordered {s : State} {cn k : Nat} {i : Instr} (h : (((s.cleared cn k i).core cn).cx k).ordered = true) :
    s.run cn k false i = exec i ((s.cleared cn k i).latchInstr i) := by simp [State.run, h]

/-- An instruction that keeps program order first puts its context there. -/
theorem State.run_strict {s : State} {cn k : Nat} {late : Bool} {i : Instr} (hi : i.looseness = .strict)
    (h : late = true ∨ (((s.cleared cn k i).core cn).cx k).ordered = false) :
    s.run cn k late i = exec i (((s.cleared cn k i).inOrder cn k).latchInstr i) := by
  rcases h with h | h <;> simp [State.run, h, hi]

/-- An instruction of a context other than CT that accesses no byte of the context's own requests finds the state as it is. -/
theorem State.cleared_self {s : State} {cn k : Nat} {i : Instr} (hk : k ≠ 11) (h : s.ownPackets cn k (s.accesses i) = []) :
    s.cleared cn k i = s := by simp [State.cleared, State.ownFirst, h, hk]

/-- A context that has settled, and has left no store for later, stands in program order. -/
theorem Ctx.ordered_settled {x : Ctx} (h : x.late = []) : x.settled.ordered = true := by
  simp [Ctx.settled, Ctx.forget, Ctx.ordered, h]

/-- Once its stores are performed, a context has left none for later. -/
theorem Core.late_performAll (c : Core) (k : Nat) : ((c.performAll k).cx k).late = [] := by
  unfold Core.performAll
  split
  · next h => simpa using h
  · simp

/-- A context that has been put in program order stands there. -/
theorem State.ordered_inOrder (s : State) (cn k : Nat) : (((s.inOrder cn k).core cn).cx k).ordered = true := by
  simp [State.inOrder, Ctx.ordered_settled (Core.late_performAll (s.core cn) k)]

/-- A move that performs a store needs one, which no earlier one stands before; it changes its core alone. -/
theorem State.performNth_spec {s t : State} {cn k j : Nat} (h : s.performNth cn k j = .next t) :
    let x := (s.core cn).cx k
    ∃ e, x.late[j]? = some e ∧ (x.late.take j).any (lateMeets e) = false ∧
      t = s.modCore cn fun c => (c.performOne e).modCx k fun x => { x with late := x.late.eraseIdx j } := by
  unfold State.performNth at h
  dsimp only at h ⊢
  split at h
  · cases h
  · next e he =>
    split at h
    · cases h
    · next hn => exact ⟨e, he, by simpa using hn, by cases h; rfl⟩

/-- A move that reads ahead changes the context's list of such bytes, and whether it has read, alone. -/
theorem State.readEarly_spec {s t : State} {cn k a n : Nat} (h : s.readEarly cn k a n = .next t) :
    s.mayRead cn k a n = true ∧ t = s.modCore cn fun c => c.modCx k fun x =>
      { x with early := x.early ++ [(a, Memory.read c.mem a n)], reads := x.reads || c.txs.any fun t => t.ctx == k && t.fetch } := by
  unfold State.readEarly at h
  split at h
  · next hr => exact ⟨hr, by cases h; rfl⟩
  · cases h

/-- A move that performs a load needs one; it changes its context alone. -/
theorem State.readLate_spec {s t : State} {cn k j : Nat} (h : s.readLate cn k j = .next t) :
    (∃ d, ((s.core cn).cx k).deferred[j]? = some d) ∧ ∃ f : Ctx → Ctx, t = s.modCore cn fun c => c.modCx k f := by
  unfold State.readLate at h
  split at h
  · cases h
  · next d hd =>
    refine ⟨⟨d, hd⟩, ?_⟩
    dsimp only at h
    split at h
    · exact ⟨_, by cases h; rfl⟩
    · cases h

end Sys2Proof.Machine
end

