-- ==== Sys2Proof/Tests/Slice0.lean ====
section
/-! SUPPORT. Tests: what WellFormed refuses, words that the manual assembles, results that the manual or its tables give, and
for every statement with hypotheses a state and operands that meet them, clause by clause. -/

noncomputable section

namespace Sys2Proof.Tests

set_option Elab.async false

open Machine

/-! ### WellFormed: an ill-formed term for each check -/

theorem test_wf_even_registers : [Instr.recvany 0 3 0 0, .recvanyT 0 3 0 0, .put 0 0 0 11 0, .rfaddT 0 0 0 11 0, .vfaddT 0 11 0 0 0,
    .acasW 0 0 0 11 0, .acasD 0 0 0 11 0].all (fun i => !i.wf) = true := by decide +kernel
theorem test_wf_scopes : [Instr.stsync 0 6, .fence 0 6, .fenceAcq 0 7, .fenceRel 0 6, .fenceSc 0 7].all (fun i => !i.wf) = true := by
  decide +kernel
theorem test_wf_prefix : [Instr.pfx 0 0 1 0 0 0 0, .pfx 0 0 0 0 1 0 0, .pfx 0 0 0 0 0 7 1].all (fun i => !i.wf) = true := by
  decide +kernel
theorem test_wf_others : [Instr.rds 0 1 0x025, .genq 0 1 7, .cMv 0 0, .accumulatorFlush none 8, .portRetryExhausted false 36,
    .portRetryExhausted true 16, .hsemRead [], .hsemRead [(3, 0)], .hsemRead [(0, 0), (0, 1)], .hsemRead [(0, 0), (2, 1)],
    .hsemWrite 3 0 0, .partitionDescriptorWrite 0 [0]].all (fun i => !i.wf) = true := by decide +kernel
theorem test_wf_accepts : [Instr.put 0 0 0 10 0, .stsync 0 5, .pfx 0 5 1 0 0 5 1, .genq 0 1 6, .cMv 0 1, .accumulatorFlush none 7,
    .portRetryExhausted false 35, .portRetryExhausted true 15, .hsemRead [(0, 0), (1, 0)], .hsemWrite 2 0 0].all (fun i => i.wf) = true := by
  decide +kernel

/-! ### Words: spec 09 (R198), spec 10 to 14 ("Assembled words"), spec 17 (R356) -/

theorem test_words_scalar : decodeTableWord 32 0x80464280 = some (.add 0 3 4 5) ∧ decodeTableWord 32 0x908A6FFD = some (.addi 1 5 6 0xFFD) ∧
    decodeTableWord 32 0x820A5678 = some (.lih 0 5 5 0x678) ∧ decodeTableWord 32 0x824A001C = some (.adpc 0 5 0x01C) ∧
    decodeTableWord 32 0x804E7400 = some (.add 0 7 7 8) := by decide +kernel
theorem test_words_control : decodeTableWord 32 0x83400006 = some (.call 0 6) ∧ decodeTableWord 32 0x82C9BFF8 = some (.bnez 0 6 0x3FF8) ∧
    decodeTableWord 32 0x83800002 = some (.ret 0) ∧ decodeTableWord 32 0x83800003 = some (.exit 0) ∧
    decodeTableWord 32 0x83864284 = some (.start 0 3 4 5) ∧ decodeTableWord 32 0x83847005 = some (.park 0 2 7) ∧
    decodeTableWord 32 0x83C80009 = some (.rds 0 4 9) ∧ decodeTableWord 32 0x83CA0025 = some (.copyGo 0 5) ∧
    decodeTableWord 32 0x84800000 = some (.nop 0 0) := by decide +kernel
theorem test_words_prefix : decodeTableWord 32 0x84560B00 = some (.pfx 0 5 1 0 0 5 1) ∧
    decodeTableWord 32 0x84409300 = some (.pfx 0 0 0 4 1 1 1) ∧ decodeTableWord 32 0x8456B000 = some (.pfx 0 5 1 5 1 0 0) ∧
    decodeTableWord 32 0x844E5000 = some (.pfx 0 3 1 2 1 0 0) := by decide +kernel
theorem test_words_memory : decodeTableWord 32 0x96509000 = some (.ldd 1 8 9 0) ∧ decodeTableWord 32 0x87843206 = some (.ldxd 0 2 3 4) ∧
    decodeTableWord 32 0x878A6015 = some (.gldd 0 5 6 0) ∧ decodeTableWord 32 0x82880E60 = some (.ldc 0 4 230) ∧
    decodeTableWord 32 0x82800003 = some (.eldc 0 0 0) ∧ decodeTableWord 32 0x8788201A = some (.sptst 0 4 2) ∧
    decodeTableWord 32 0x87C45010 = some (.vld 0 2 5 1 0) ∧ decodeTableWord 32 0x87C45018 = some (.vld 0 2 5 1 1) := by decide +kernel
theorem test_words_vector : decodeTableWord 32 0x88081133 = some (.vfma 0 4 1 2 3 0) ∧ decodeTableWord 32 0x880221C8 = some (.vadd 0 1 2 3 4 1) ∧
    decodeTableWord 32 0x88441004 = some (.vrcpe 0 2 1 0 0) ∧ decodeTableWord 32 0x88845302 = some (.vcmplt 0 2 5 6 0 0) ∧
    decodeTableWord 32 0x89CE3010 = some (.vredadd 0 7 3 1) ∧ decodeTableWord 32 0x8A024286 = some (.dmask 0 1 4 5 0 0) ∧
    decodeTableWord 32 0x8A422180 = some (.pand 0 1 2 3) ∧ decodeTableWord 32 0x8A4C7009 = some (.rand 0 6 7) ∧
    decodeTableWord 32 0xB81CC685 = some (.vfnma 3 14 12 13 0 0) := by decide +kernel
theorem test_words_tensor : decodeTableWord 32 0x8A841000 = some (.qnt 0 2 1 0) ∧ decodeTableWord 32 0x8A804006 = some (.stsync 0 4) ∧
    decodeTableWord 32 0x8A864027 = some (.vstS 0 3 4 2) ∧ decodeTableWord 32 0x8AD28000 = some (.oclm 0 9 8) ∧
    decodeTableWord 32 0x8AC25392 = some (.old 0 1 5 7 1) ∧ decodeTableWord 32 0x8AD400A4 = some (.mmaZ 0 10 0 1 2) ∧
    decodeTableWord 32 0x8AD463B6 = some (.asto 0 10 6 7 3) ∧ decodeTableWord 32 0x8AC2A005 = some (.ard 0 1 10 0) ∧
    decodeTableWord 32 0x8AC0A007 = some (.arel 0 10) ∧ decodeTableWord 32 0x8AC08001 = some (.orel 0 8) := by decide +kernel
theorem test_words_communication : decodeTableWord 32 0x8B085320 = some (.send 0 4 5 6 1) ∧ decodeTableWord 32 0x8B1E8402 = some (.put 0 15 8 8 0) ∧
    decodeTableWord 32 0x8B109544 = some (.rfaddT 0 8 9 10 2) ∧ decodeTableWord 32 0x8B18E285 = some (.vfaddT 0 12 14 5 0) ∧
    decodeTableWord 32 0x8B062006 = some (.tsopen 0 3 2 0) ∧ decodeTableWord 32 0x8B0C746A = some (.halo 0 6 7 8 3) ∧
    decodeTableWord 32 0x8B06428B = some (.zwatch 0 3 4 5) ∧ decodeTableWord 32 0x8B485311 = some (.acasW 0 4 5 6 0) ∧
    decodeTableWord 32 0x8B885301 = some (.aaddfD 0 4 5 6 0) := by decide +kernel
theorem test_words_sync : decodeTableWord 32 0x8BC03000 = some (.arrive 0 3) ∧ decodeTableWord 32 0x8BCA3001 = some (.wait 0 5 3) ∧
    decodeTableWord 32 0x8BC01002 = some (.arvdrop 0 1) ∧ decodeTableWord 32 0x8BC62003 = some (.fenceSc 0 2) ∧
    decodeTableWord 32 0x8BC43003 = some (.fenceRel 0 3) ∧ decodeTableWord 32 0x8BC00004 = some (.genend 0) := by decide +kernel
theorem test_words_system : decodeTableWord 32 0x8F800000 = some (.tret 0 0) ∧ decodeTableWord 32 0x8F8A6381 = some (.xrd 0 5 6 7) ∧
    decodeTableWord 32 0x8F8A6382 = some (.xwr 0 5 6 7) ∧ decodeTableWord 32 0x8F804003 = some (.eresume 0 4) ∧
    decodeTableWord 32 0x8F804004 = some (.eabort 0 4) ∧ decodeTableWord 32 0x8F804285 = some (.xinv 0 4 5) := by decide +kernel
/-- R202: opcode in [14:10], f1 in [9:5], f2 in [4:0]. -/
theorem test_words_compact : decodeTableWord 16 0b0000010001000011 = some (.cAdd 2 3) ∧ decodeTableWord 16 0b0010110001000011 = some (.cLd 2 3) ∧
    decodeTableWord 16 0b0000000001000011 = some (.cMv 2 3) ∧ decodeTableWord 16 0b0100010000000000 = some .cExit := by decide +kernel
/-- R202: the halfword 0; R220: a res0 field; R309: an odd register; R168: a reserved scope; R328: a reserved selector. -/
theorem test_words_refused : [(16, 0), (16, 0b0100110000000000), (32, 0x80400099), (32, 0x8B1095C4), (32, 0x8BC66003), (32, 0x8BC09005)].all
    (fun p => decodeTableWord p.1 p.2 == none) = true := by decide +kernel

/-! ### States for the tests -/

def x0 : Ctx := { live := true, pc := 0x2000 }
def c0 : Core := { job := some (0, 1), part := .running, fmt := placedFmt, ctx := [(0, x0)] }
def base : State := { State.reset with cores := [(0, c0)], launches := [placedLaunch] }
def onCore (f : Core → Core) : State := { base with cores := [(0, f c0)] }
def onCtx (f : Ctx → Ctx) : State := onCore fun c => { c with ctx := [(0, f x0)] }
def inG (l : SMap Word) : State := onCtx fun x => { x with g := l }
def onLaunch (f : Launch → Launch) : State := { base with launches := [f placedLaunch] }
/-- A context with an outstanding PUT to its own core, in the scope of any release. -/
def put1 : Tx := { seq := 0, ctx := 0, kind := 1, cls := 0, slk := 0, dest := 0, addr := 0, home := .core 0, key := .core 0, first := 0, body := .put [] }
def owing : State := onCore fun c => { c with txs := [put1] }
/-- 32 of them, which fill the window toward core 0. -/
def fullWindow : State := onCore fun c => { c with txs := List.replicate 32 put1 }
/-- A reply slot that another context holds. -/
def slot1 : Reply := { tx := none, owner := 1, orphan := false, answer := none }
/-- The router refuses core 0's packets. -/
def choked : State := onCore fun c => { c with choked := true }
/-- A packet of context 0 of core 0 to core 0. -/
def pk (b : Body) : Packet := { cn := 0, seq := 0, ctx := 0, pc := 0, kind := 1, part := 0, lid := 1, home := .core 0, addr := 0x2000, slack := 0,
                                rallow := 0, cls := 0, body := b }
def onNet (p : Packet) (s : State) : State := { s with net := [(0, p)] }
/-- CT of core 0 handles a record. -/
def inCT (f : Core → Core) : State :=
  { base with curCtx := 11, cores := [(0, f { c0 with ctx := [(0, x0), (11, x0)], trap := { busy := true } })] }
/-- The next state's g d after an instruction. -/
def gAfter (i : Instr) (s : State) (d : BitVec 5) : Option Word :=
  match exec i s with
  | .next t => some (t.readG d)
  | _ => none
/-- The cause in TCAUSE after an instruction that traps into an idle CT. -/
def causeAfter (i : Instr) (s : State) : Option Nat :=
  match exec i s with
  | .next t => if t.me.trap.busy then some (wfld t.me.trap.tcause 0 53) else none
  | _ => none

/-! ### Results that the manual gives -/

/-- R226's example: bext of 0xABCD00 with pos 8 and len 12, and bins of 0x123 into 0. -/
theorem test_bext : gAfter (.bext 0 1 2 3) (inG [(2, 0xABCD00), (3, 0xB08)]) 1 = some 0xBCD := by decide +kernel
theorem test_bins : gAfter (.bins 0 1 2 3) (inG [(2, 0x123), (3, 0xB08)]) 1 = some 0x12300 := by decide +kernel
/-- R225's table. -/
theorem test_div_corner : gAfter (.div 0 1 2 3) (inG [(2, 0x8000000000000000), (3, 0xFFFFFFFFFFFFFFFF)]) 1 = some 0x8000000000000000 ∧
    gAfter (.rem 0 1 2 3) (inG [(2, 0x8000000000000000), (3, 0xFFFFFFFFFFFFFFFF)]) 1 = some 0 ∧
    gAfter (.div 0 1 2 3) (inG [(2, 7)]) 1 = some 0xFFFFFFFFFFFFFFFF ∧ gAfter (.remu 0 1 2 3) (inG [(2, 7)]) 1 = some 7 := by decide +kernel
/-- R229's table. -/
theorem test_lih : gAfter (.lih 0 5 5 0x345) (inG [(5, 0x12)]) 5 = some 0x12345 := by decide +kernel
/-- R224: mulh of −1 and 2 is −1, mulhu is 1. -/
theorem test_mulh : gAfter (.mulh 0 1 2 3) (inG [(2, 0xFFFFFFFFFFFFFFFF), (3, 2)]) 1 = some 0xFFFFFFFFFFFFFFFF ∧
    gAfter (.mulhu 0 1 2 3) (inG [(2, 0xFFFFFFFFFFFFFFFF), (3, 2)]) 1 = some 1 := by decide +kernel
/-- R224: only gb[5:0] shifts; sra copies the sign. -/
theorem test_shift : gAfter (.sll 0 1 2 3) (inG [(2, 3), (3, 0x41)]) 1 = some 6 ∧
    gAfter (.sra 0 1 2 3) (inG [(2, 0x8000000000000000), (3, 63)]) 1 = some 0xFFFFFFFFFFFFFFFF := by decide +kernel
/-- R212: a write of g0 is discarded. -/
theorem test_g0 : gAfter (.addi 0 0 0 5) base 0 = some 0 := by decide +kernel
/-- R231: a call writes the address behind it. -/
theorem test_call : gAfter (.call 0 6) base 31 = some 0x2004 := by decide +kernel
/-- R49: range comes before alignment. -/
theorem test_load_range : causeAfter (.ldd 0 1 2 0) (inG [(2, 0x2FFFFC)]) = some 0x20 ∧ causeAfter (.ldd 0 1 2 0) (inG [(2, 0x2004)]) = some 0x21 := by
  decide +kernel
/-- R30: a store at U to entry 48. -/
theorem test_store_protect : causeAfter (.stb 0 1 2 0) (inG [(2, 0xE00)]) = some 0x22 := by decide +kernel
/-- R250: a byte load extends the sign. -/
theorem test_ldb : gAfter (.ldb 0 1 2 0) { inG [(2, 0x2000)] with cores := [(0, { c0 with ctx := [(0, { x0 with g := [(2, 0x2000)] })], mem := [(0x2000, 0x80)] })] } 1
    = some 0xFFFFFFFFFFFFFF80 := by decide +kernel
/-- R268: vmin puts −0 below +0 (FP32). -/
theorem test_vmin : (match exec (.vmin 0 1 2 3 0 0) (onCtx fun x => { x with v := [(2, 0x80000000)] }) with
    | .next t => some ((t.readV 1).toNat % 2 ^ 32) | _ => none) = some 0x80000000 := by decide +kernel
/-- R284: pfirst of an empty predicate is 64. -/
theorem test_pfirst : gAfter (.pfirst 0 1 2) base 1 = some 64 := by decide +kernel
/-- R282: rand depends on its source register's value alone, so that equal counters give equal words. -/
theorem test_rand_repeats : gAfter (.rand 0 1 2) (inG [(2, 5)]) 1 = gAfter (.rand 0 1 2) (inG [(2, 5), (3, 9)]) 1 := by decide +kernel

/-! ### Witnesses: scalar, control, special registers, memory -/

theorem witness_BranchAndJumpRules :
    ¬((inG [(1, 5)]).readG 1 = 0) ∧
    (base.readG 1 = 0 ∧ (base.cx.pc + 2 * (1 : BitVec 14).signExtend 64).toNat < 0x300000) ∧
    (base.readG 1 = 0 ∧ 0x300000 ≤ (base.cx.pc + 2 * (0x2FFF : BitVec 14).signExtend 64).toNat) ∧
    (let s := onCtx fun x => { x with pc := 0x2FFFFE }
     0x300000 ≤ (s.cx.pc + 2 * (1 : BitVec 22).signExtend 64).toNat ∧ (s.cx.pc + 2 * (0 : BitVec 22).signExtend 64).toNat < 0x300000) ∧
    ((inG [(1, 3)]).readG 1).getLsbD 0 = true ∧
    (((inG [(1, 0x300000)]).readG 1).getLsbD 0 = false ∧ 0x300000 ≤ ((inG [(1, 0x300000)]).readG 1).toNat) ∧
    (((inG [(1, 0x2FFFFE)]).readG 1).getLsbD 0 = false ∧ ((inG [(1, 0x2FFFFE)]).readG 1).toNat < 0x300000) := by decide +kernel

theorem witness_PrefixAndHints :
    (let ill := fun (f : BitVec 4) (p : BitVec 1) (g : BitVec 4) (q : BitVec 1) (r : BitVec 3) (t : BitVec 1) =>
       (p = 1 ∧ f = 0) ∨ (q = 1 ∧ g = 0) ∨ (t = 1 ∧ r = 7)
     ¬ill 5 1 0 0 5 1 ∧ ill 0 1 0 0 0 0 ∧ ill 0 0 0 1 0 0 ∧ ill 1 1 1 1 7 1) := by decide +kernel

/-- exit in C0 and in C10, with a transaction to the own core and with none, in CT; start in C0 with every activation context
live, with C1 free and with C10 alone free, and with each fault. -/
theorem witness_ActivationRules :
    ((base.curCtx < 11 ∧ base.curCtx = 0) ∧ ({ base with curCtx := 10 }.curCtx < 11 ∧ { base with curCtx := 10 }.curCtx ≠ 0) ∧
     (base.me.ownTxs base.curCore 10 = [] ∧ owing.me.ownTxs owing.curCore 0 ≠ [] ∧ owing.me.inbuf = [] ∧ owing.me.ending = []) ∧
     (inCT id).curCtx = 11 ∧ { base with curCtx := 1 }.curCtx ≠ 0 ∧
     (base.curCtx = 0 ∧ ((inG [(1, 0x2001)]).readG 1).getLsbD 0 = true) ∧
     (((inG [(1, 0x300000)]).readG 1).getLsbD 0 = false ∧ 0x300000 ≤ ((inG [(1, 0x300000)]).readG 1).toNat) ∧
     ((base.me.cx 1).live = false ∧ base.diverges 0 ⟨1, 2, 0, 0, sourceId 2 (base.jobRank 0) 0, 0x2000, mixer 0 0⟩ = false) ∧
     (let s := onCore fun c => { c with ctx := (List.range 10).map fun i => (i, x0) }
      (s.me.cx 10).live = false ∧ s.diverges 0 ⟨10, 2, 0, 0, sourceId 2 (s.jobRank 0) 0, 0x2000, mixer 0 0⟩ = false) ∧
     (let s := { onCore (fun c => { c with ctx := [(0, { x0 with slot := some ⟨63, 0x3000, 8⟩, rslot := some ⟨0, 0x4000, 8⟩ }),
        (1, { x0 with slot := some ⟨1, 0x5000, 8⟩ })] }) with curCtx := 0 }
      s.me.inbuf = [] ∧ SMap.rising s.me.ctx = true ∧ (∀ x ∈ s.cx.slot.toList ++ s.cx.rslot.toList, x.chan < 64 ∧ x.chan ≠ 1) ∧
        (s.me.cx 1).slot.toList.map (·.chan) = [1] ∧ (s.me.cx 1).rslot = none ∧ ∀ e ∈ s.me.ctx, e.1 < 2)) ∧
    (∀ k, 1 ≤ k → k ≤ 10 → ((onCore fun c => { c with ctx := (List.range 11).map fun i => (i, x0) }).me.cx k).live = true) ∧
    ∀ j, 1 ≤ j → j < 10 → ((onCore fun c => { c with ctx := (List.range 10).map fun i => (i, x0) }).me.cx j).live = true := by
  refine ⟨by decide +kernel, ?_, ?_⟩ <;> (intro k h1 h2; interval_cases k <;> rfl)

/-- park: the empty set, an event that is absent and one that is present; setpri: channels 64, 48 at U, 47, and 63 at S. -/
theorem witness_ParkYieldAndChannels :
    (base.readG 1).toNat % 256 = 0 ∧
    (let s := inG [(1, 1)]; (s.readG 1).toNat % 256 ≠ 0 ∧ s.me.events s.curCtx &&& (s.readG 1).toNat % 256 = 0) ∧
    (let s := onCore fun c => { c with q0 := [7], ctx := [(0, { x0 with g := [(1, 1)] })] }
     s.me.events s.curCtx &&& (s.readG 1).toNat % 256 ≠ 0) ∧
    63 < ((inG [(1, 64)]).readG 1).toNat ∧ (48 ≤ ((inG [(1, 48)]).readG 1).toNat ∧ (inG [(1, 48)]).isS = false) ∧
    (let s := inG [(1, 47)]
     ¬(63 < (s.readG 1).toNat ∨ (48 ≤ (s.readG 1).toNat ∧ s.isS = false)) ∧ s.me.badIn (0x810 + 32 * 47) 8 = false) ∧
    (let s := inCT fun c => { c with ctx := [(11, { x0 with g := [(1, 63)] })] }
     ¬(63 < (s.readG 1).toNat ∨ (48 ≤ (s.readG 1).toNat ∧ s.isS = false)) ∧ s.me.badIn (0x810 + 32 * 63) 8 = false) := by decide +kernel

theorem witness_QueueAccess :
    base.me.q0 = [] ∧ (onCore fun c => { c with q0 := [7] }).me.q0 = [7] ∧ base.cx.q1 = [] ∧ (onCtx fun x => { x with q1 := [7, 8] }).cx.q1 = [7, 8] ∧
    base.me.q2 = [] ∧ (onCore fun c => { c with q2 := [7] }).me.q2 = [7] ∧ base.me.oldestReply base.curCtx = none ∧
    (let r : Reply := { tx := some 3, owner := 0, orphan := false, answer := some (0, 9) }
     (onCore fun c => { c with q3 := [r] }).me.oldestReply 0 = some r ∧ r.answer = some (0, 9)) ∧
    (let r : Reply := { tx := some 3, owner := 0, orphan := false, answer := some (4, 0) }
     (onCore fun c => { c with q3 := [r] }).me.oldestReply 0 = some r ∧ r.answer = some (4, 0)) ∧
    (onCore fun c => { c with q0 := List.replicate 31 0 }).me.q0.length < 32 ∧ 32 ≤ (onCore fun c => { c with q0 := List.replicate 32 0 }).me.q0.length ∧
    (onCtx fun x => { x with q1 := List.replicate 255 0 }).cx.q1.length < 256 ∧ 256 ≤ (onCtx fun x => { x with q1 := List.replicate 256 0 }).cx.q1.length ∧
    (onCore fun c => { c with q2 := List.replicate 7 0 }).me.q2.length < 8 ∧ 8 ≤ (onCore fun c => { c with q2 := List.replicate 8 0 }).me.q2.length ∧
    base.me.q3.length < 32 ∧ 32 ≤ (onCore fun c => { c with q3 := List.replicate 32 ⟨none, 1, false, none, {}, 0, 0⟩ }).me.q3.length := by
  decide +kernel

/-- A core with one message pending on channel 3, whose entry stands in memory. -/
def msg3 : Msg := { chan := 3, tag := 5, bytes := [1, 2, 3, 4, 5, 6, 7, 8], src := 0 }
def entry3 : Memory :=
  Memory.setNum (Memory.setNum (Memory.setNum (Memory.setNum [] 0x860 8 0x2100) 0x868 8 (0x1000 * 2 ^ 32 + 0x3000)) 0x870 8 0) 0x878 8
    (2 ^ 44 + 0x3008)
def withMsg (f : Core → Core) : State := onCore fun c => f { c with mem := entry3, placed := [(0x3000, msg3)] }

/-- recvany: an odd register, an ORDERED launch, a channel set that U may not name, an empty set, a set with no message, and
one with a message. -/
theorem witness_Receptions :
    (3 : BitVec 5).toNat % 2 = 1 ∧ (4 : BitVec 5).toNat % 2 = 0 ∧ (onLaunch fun l => { l with ordered := true }).ordered 0 = true ∧
    (base.ordered 0 = false ∧ base.isS = false ∧ 2 ^ 48 ≤ ((inG [(1, 0x1000000000000)]).readG 1).toNat) ∧
    (base.readG 1).toNat = 0 ∧
    (let s := inG [(1, 8)]; (s.readG 1).toNat ≠ 0 ∧ (s.readG 1).toNat < 2 ^ 48 ∧ ∀ ch < 64, (s.modMe fun c => c.releaseReception 0).me.pend ch = 0) ∧
    (let s := withMsg fun c => { c with ctx := [(0, { x0 with g := [(1, 8)] })] }
     let u := s.modMe fun c => c.releaseReception 0
     u.me.oldest 3 = some (0x3000, msg3) ∧ u.me.pend 3 ≠ 0 ∧ u.me.liveBit 3 = false ∧ (s.readG 1).toNat / 2 ^ 3 % 2 = 1 ∧ s.cx.rslot = none ∧
       (∀ j < 3, u.me.pend j = 0) ∧ (∀ e ∈ u.me.placed, e.2.chan = 3) ∧ wbit (s.debugOf (s.partOf 0)).trctl 63 = false ∧
       (s.replayLog 0).1 = 0) := by decide +kernel

theorem witness_SpecialRegisters :
    (base.isS = false ∧ 0x800 ≤ (0x800 : BitVec 12).toNat) ∧ (0x040 ≤ (0x040 : BitVec 12).toNat ∧ (0x05F : BitVec 12).toNat < 0x060) ∧
    (∀ n ∈ [0x005, 0x01B, 0x0FF, 0x7FF], n < 0x800 ∧
      ¬(n < 5 ∨ (8 ≤ n ∧ n < 0x00D) ∨ (0x010 ≤ n ∧ n < 0x01B) ∨ (0x020 ≤ n ∧ n < 0x026) ∨ n = 0x030 ∨ (0x040 ≤ n ∧ n < 0x060))) ∧
    (∀ n ∈ [0x806, 0x80F, 0x819, 0xFFF], 0x800 ≤ n ∧ ¬(n < 0x806 ∨ n = 0x808 ∨ (0x810 ≤ n ∧ n < 0x819) ∨ (0x820 ≤ n ∧ n < 0x828))) ∧
    (inCT id).isS = true ∧ (0x810 ≤ (0x817 : BitVec 12).toNat ∧ (0x817 : BitVec 12).toNat < 0x818) ∧
    (let ill := fun w : Word => let P := w.extractLsb' 8 14
       (P.getLsbD 9 = true ∧ P.extractLsb' 10 4 = 0) ∨ (P.getLsbD 4 = true ∧ P.extractLsb' 5 4 = 0) ∨ (P.getLsbD 0 = true ∧ P.extractLsb' 1 3 = 7)
     ill 0x20000 ∧ ill 0x1000 ∧ ill 0xF00 ∧ ¬ill 0x62000) := by decide +kernel

theorem witness_ExtensionAndConstants :
    (onCore fun c => { c with bad := [5] }).me.badIn (8 * 5) 8 = true ∧ base.me.badIn (8 * 5) 8 = false ∧
    (∃ j < 32, (onCore fun c => { c with bad := [0] }).me.badIn (8 * ((225 + j) % 256)) 8 = true) ∧
    (∀ j < 32, base.me.badIn (8 * ((255 + j) % 256)) 8 = false) := by
  refine ⟨by decide +kernel, by decide +kernel, ⟨31, by decide, by decide +kernel⟩, by decide +kernel⟩

/-- Each check of a load and of a store, at the end of local SRAM and at the edges of the protected areas. -/
theorem witness_ScalarMemory :
    0x300000 < (0x2FFFF9 : Word).toNat + 8 ∧ (¬(0x300000 < (0x2FFFF4 : Word).toNat + 8) ∧ (0x2FFFF4 : Word).toNat % 8 ≠ 0) ∧
    (¬(0x300000 < (0x2FFFF8 : Word).toNat + 8) ∧ (0x2FFFF8 : Word).toNat % 8 = 0 ∧ (onCore fun c => { c with bad := [0x5FFFF] }).me.badIn 0x2FFFF8 8 = true) ∧
    base.me.badIn 0x2FFFF8 8 = false ∧ base.storeProtected 0 false 0x7F8 8 = true ∧ base.storeProtected 0 false 0x1100 1 = true ∧
    base.storeProtected 0 false 0x800 8 = false ∧ base.storeProtected 0 false 0x2000 8 = false ∧
    (onCore fun c => { c with bad := [0x400] }).me.badPartly 0x2000 4 = true ∧ base.me.badPartly 0x2000 8 = false := by decide +kernel

theorem witness_BitGranularAndGenericAccess :
    (0x1800000 < 0x17FFFFF + 2) ∧ (¬(0x1800000 < 0x17FFFFF + 1) ∧ (onCore fun c => { c with bad := [0x5FFFF] }).me.badIn 0x2FFFFF 1 = true) ∧
    base.me.badIn 0x2FFFFF 1 = false ∧ base.storeProtected 0 false 0x7FF 1 = true ∧ base.storeProtected 0 false 0x2000 2 = false ∧
    (0x2000 + 1 ≤ 0x1168 ∨ 0x2000 ≤ 0x2000) ∧
    base.pointerFault .load 0 8 = some 0x28 ∧
    (let s := onCore fun c => { c with mem := Memory.setNum [] 0x1100 8 (0x1000 * 2 ^ 32 + 0x4000), bad := [0x800] }
     s.pointerFault .load 0 8 = none ∧ s.pointerFault .store 0 8 = none ∧ (∃ x ∈ s.genericBytes 0 8, x / 8 ∈ s.me.bad) ∧
       (∀ x ∈ s.genericBytes 0 8, x / 8 ∈ s.me.bad → ∀ j < 8, x / 8 * 8 + j ∈ s.genericBytes 0 8) ∧
       (∃ x ∈ s.genericBytes 0 4, x / 8 ∈ s.me.bad ∧ ∃ j < 8, x / 8 * 8 + j ∉ s.genericBytes 0 4)) ∧
    (let m : Memory := Memory.setNum [] 0x1100 8 (0x1000 * 2 ^ 32 + 0x4000)
     let s := onCore fun c => { c with mem := m }
     s.pointerFault .load 0xFF8 8 = none ∧ s.pointerFault .store 0xFF8 8 = none ∧ (∀ x ∈ s.genericBytes 0xFF8 8, x / 8 ∉ s.me.bad) ∧
     (∀ k < 8, (∀ j < 8, j ≠ k → (s.genericBytes 0xFF8 8).getD j 0 ≠ (s.genericBytes 0xFF8 8).getD k 0) ∧
       ¬(0x1168 ≤ (s.genericBytes 0xFF8 8).getD k 0 ∧ (s.genericBytes 0xFF8 8).getD k 0 < 0x2000))) := by decide +kernel

/-- Pointers of every space, good and bad, at the places where the clauses meet. -/
theorem witness_PointerTools :
    (let good := fun p : Word => p.toNat < 2 ^ 63 ∧ (p.toNat / 2 ^ 61 = 3 → p.toNat / 2 ^ 48 % 2 ^ 13 = 0)
     (onCore fun c => { c with bad := [0x220] }).windowBad 0 = true ∧ base.windowBad 0 = false ∧
     2 ^ 63 ≤ (0x8000000000000000 : Word).toNat ∧
     ((0x6001000000000000 : Word).toNat / 2 ^ 61 = 3 ∧ ¬good 0x6001000000000000) ∧
     (good 0 ∧ 4 ≤ (4 : BitVec 3).toNat) ∧ (good 0x6000FFFFFFFFFFFF ∧ (0x6000FFFFFFFFFFFF : Word).toNat / 2 ^ 61 = (3 : BitVec 3).toNat) ∧
     (let s := onCore fun c => { c with mem := Memory.setNum [] 0x1100 8 (0x1000 * 2 ^ 32 + 0x4000) }
      good 0xFFF ∧ (0xFFF : Word).toNat / 2 ^ 61 = 0 ∧ (0xFFF : Word).toNat / 2 ^ 50 % 2 ^ 11 = s.curCore ∧ s.windowBad 0xFFF = false ∧
        (0xFFF : Word).toNat / 2 ^ 46 % 16 < 11 ∧ (0xFFF : Word).toNat % 2 ^ 46 < (s.me.window 0).2) ∧
     (good 0x0004000000000000 ∧ (0x0004000000000000 : Word).toNat / 2 ^ 50 % 2 ^ 11 ≠ base.curCore) ∧
     (let s := onCore fun c => { c with mem := Memory.setNum [] 0x1100 8 (0x1000 * 2 ^ 32 + 0x4000) }
      good 0x4000000000004FFF ∧ (0x4000000000004FFF : Word).toNat / 2 ^ 61 = 2 ∧ (0x4000000000004FFF : Word).toNat / 2 ^ 57 % 16 = 0 ∧
        s.me.badIn 0x1100 8 = false ∧ (s.me.window 0).1 ≤ (0x4000000000004FFF : Word).toNat % 2 ^ 57 ∧
        (0x4000000000004FFF : Word).toNat % 2 ^ 57 < (s.me.window 0).1 + (s.me.window 0).2) ∧
     (good 0x4200000000000000 ∧ (0x4200000000000000 : Word).toNat / 2 ^ 57 % 16 ≠ 0) ∧
     (good 0x6000000000000000 ∧ (2 : BitVec 3).toNat < 3) ∧
     (0 : Word).toNat % 8 = 0 ∧ (1 : Word).toNat % 8 = 1 ∧ (2 : Word).toNat % 8 = 2 ∧ (3 : Word).toNat % 8 = 3 ∧ 4 ≤ (4 : Word).toNat % 8 ∧
     ((0x3FFFFFFFFFFF : Word).toNat < 2 ^ 46 ∧ ¬((0x400000000000 : Word).toNat < 2 ^ 46))) := by decide +kernel

/-- Casts: bad doublewords, ends of windows, scratch with and without a definition, a context 11 at U and at S, other cores. -/
theorem witness_PointerCasts :
    (let bad := onCore fun c => { c with bad := [0x220, 0x22C] }
     bad.windowBad 0 = true ∧ bad.windowBad 0x2000000000000000 = true ∧ bad.me.badIn 0x1160 8 = true ∧ bad.me.badIn 0x1100 8 = true) ∧
    (let s := onCore fun c => { c with mem := Memory.setNum (Memory.setNum [] 0x1100 8 (0x1000 * 2 ^ 32 + 0x4000)) 0x1160 8 (12 * 2 ^ 32 + 0x8000) }
     let D := Memory.num s.me.mem 0x1160 8
     s.windowBad 0x1000 = false ∧ ¬((0x1000 : Word).toNat % 2 ^ 46 < (s.me.window 0).2) ∧ ¬((0x0002C00000000000 : Word).toNat / 2 ^ 46 % 16 < 11) ∧
       s.isS = false ∧ passesRow8 (s.pointerFault .load 0xFFF 1) = true ∧ s.windowBad 0x0002C00000000000 = false ∧ D ≠ 0 ∧ D % 2 ^ 22 = 0x8000 ∧ 2 ^ (D / 2 ^ 32 % 2 ^ 6) = 0x1000 ∧
       s.windowBad 0x2000000000001001 = false ∧ (0x2000000000001001 : Word).toNat / 2 ^ 61 = 1 ∧
       (0x2000000000001001 : Word).toNat / 2 ^ 50 % 2 ^ 11 = s.curCore ∧ s.me.badIn 0x1160 8 = false ∧
       (0x8000 ≤ (0x4000000000008FFF : Word).toNat % 2 ^ 57 ∧ (0x4000000000008FFF : Word).toNat % 2 ^ 57 < 0x8000 + 0x1000) ∧
       0x8000 + 0x1000 ≤ (0x4000000000009000 : Word).toNat % 2 ^ 57 ∧ (0x4000000000007FFF : Word).toNat % 2 ^ 57 < 0x8000 ∧
       (s.me.window 0).1 + (s.me.window 0).2 ≤ (0x4000000000005000 : Word).toNat % 2 ^ 57) ∧
    (let s := inCT fun c => { c with mem := Memory.setNum [] 0x1158 8 (0x1000 * 2 ^ 32 + 0x4000) }
     s.isS = true ∧ (0x0002C00000000FFF : Word).toNat / 2 ^ 46 % 16 = 11 ∧ (0x0002C00000000FFF : Word).toNat % 2 ^ 46 < (s.me.window 11).2) ∧
    ((0x2004000000000000 : Word).toNat / 2 ^ 50 % 2 ^ 11 ≠ base.curCore) ∧
    Memory.num base.me.mem 0x1160 8 = 0 ∧ base.windowBad 0x2000000000000000 = false ∧
    (passesRow8 (base.pointerFault .load 0x6000000000000000 1) = false ∧ passesRow8 (base.pointerFault .load 0x4200000000002000 1) = false) := by decide +kernel

/-! ### Witnesses: vectors, tensor instructions, the matrix engine -/

/-- A prefix gives the primary format f. -/
def withF1 (f : Nat) : State := onCtx fun x => { x with stat := 0x4000, pfx := .ofNat 14 (f * 1024 + 512) }
/-- FMT.VF is f. -/
def withVF (f : Nat) : State := onCore fun c => { c with fmt := .ofNat 24 (0x330200 + 16 * f) }

/-- Formats outside and inside the allowed ones; a gather of 16-bit elements; elements past the end of local SRAM, and none. -/
theorem witness_VectorMemory :
    (let ok := fun s : State => (1 ≤ s.fmt1 ∧ s.fmt1 ≤ 6) ∨ isInt s.fmt1 = true
     ¬ok (withF1 7) ∧ ok (withVF 3) ∧ (fmtBits (withVF 3).fmt1 ≠ 32 ∧ fmtBits (withVF 3).fmt1 ≠ 64) ∧ ok base ∧ fmtBits base.fmt1 = 32 ∧ ok (withF1 15)) ∧
    (∃ k ∈ base.activeLanes 0 32, ¬(((0x2FFFFC : Word) + .ofNat 64 (k * 4)).toNat + 4 ≤ 0x300000)) ∧
    (∀ k ∈ base.activeLanes 0 32, ((0x2000 : Word) + .ofNat 64 (k * 4)).toNat + 4 ≤ 0x300000 ∧ ((0x2000 : Word) + .ofNat 64 (k * 4)).toNat % 4 = 0 ∧
      base.me.badIn ((0x2000 : Word) + .ofNat 64 (k * 4)).toNat 4 = false ∧
      base.storeProtected base.curCore base.isS ((0x2000 : Word) + .ofNat 64 (k * 4)).toNat 4 = false ∧
      base.me.badPartly ((0x2000 : Word) + .ofNat 64 (k * 4)).toNat 4 = false) ∧
    (∃ k ∈ base.activeLanes 0 32, ¬(base.storeProtected base.curCore base.isS ((0x7FC : Word) + .ofNat 64 (k * 4)).toNat 4 = false)) := by
  refine ⟨by decide +kernel, ⟨1, by decide +kernel, by decide⟩, by decide +kernel, ⟨0, by decide +kernel, by decide +kernel⟩⟩

/-- A context that handles a message in an ORDERED launch, where stochastic rounding is forbidden. -/
def srState : State :=
  { onLaunch (fun l => { l with ordered := true }) with curCtx := 1, cores := [(0, { c0 with fmt := 0x330225, ctx := [(0, x0), (1, x0)] })] }

/-- The branches of the definitions that float instructions share. -/
theorem witness_VectorFloat :
    ((withVF 5).fmt1 < 1 ∨ 4 < (withVF 5).fmt1) ∧ ¬((withVF 4).fmt1 < 1 ∨ 4 < (withVF 4).fmt1) ∧ ¬((withVF 1).fmt1 < 1 ∨ 4 < (withVF 1).fmt1) ∧
    srState.srForbidden srState.rm = true ∧ base.srForbidden base.rm = false ∧ (withF1 3).intWidth = none ∧ base.intWidth = some 32 ∧
    (withF1 9).dataWidth = none ∧ (withF1 1).dataWidth = some 64 := by decide +kernel

theorem witness_VectorReductions :
    (¬(1 ≤ (withVF 5).fmt1 ∧ (withVF 5).fmt1 ≤ 4)) ∧ (1 ≤ base.fmt1 ∧ base.fmt1 ≤ 4) ∧ (withF1 3).intWidth = none ∧ (withF1 13).intWidth = some 8 := by
  decide +kernel

theorem witness_VectorConversions :
    (withF1 3).intWidth = none ∧ (withF1 10).intWidth = some 8 ∧ (onCore fun c => { c with fmt := 0x330320 }).intWidth = some 64 ∧
    (base.intWidth = some 32 ∧ (32 : Nat) ≠ 8 ∧ (32 : Nat) ≠ 64) ∧ (withF1 2).intTy (withF1 2).cx.f1 = none ∧
    base.intTy base.cx.f2 = some (.int 32 true) ∧ (1 ≤ base.fmt1 ∧ base.fmt1 ≤ 6) ∧ ¬((withF1 7).fmt1 ≤ 6) := by decide +kernel

/-- A launch with one record, whose number an operand in e0 names. -/
def tensor (e : Word) (w : Wait) (f : Core → Core) : State :=
  { onLaunch (fun l => { l with rcount := 1 }) with cores := [(0, f { c0 with ctx := [(0, { x0 with e := [(0, e)], wait := w })] })] }
/-- What a record's home answers: eight doublewords of the record, and the count of STSYNC instructions, here 0. -/
def answer0 : Wait := .got 0 (List.replicate 9 0)
def record0 : Nat := dwordsNum (List.replicate 8 0)
theorem answered0 (f : Core → Core) (h : (f { c0 with ctx := [(0, { x0 with e := [(0, 0x80000000000)], wait := answer0 })] }).ctx =
    [(0, { x0 with e := [(0, 0x80000000000)], wait := answer0 })]) : Answered (tensor 0x80000000000 answer0 f) record0 0 := by
  refine ⟨0, List.replicate 9 0, ?_, rfl, rfl, rfl⟩
  show ((f _).cx 0).wait = _
  rw [Core.cx, h]; rfl

theorem witness_RecordInstructions :
    ((let s := tensor 0x100000000000 .none id; s.cx.wait = .none ∧ s.badRecid (tRecid (s.readE 0)) = true) ∧
     (let s := tensor 0x80000000000 .none id
      s.cx.wait = .none ∧ s.badRecid (tRecid (s.readE 0)) = false ∧ tRecen (s.readE 0) = true ∧ 1 ≤ s.fmt1 ∧ s.fmt1 ≤ 4 ∧
        1 ≤ s.cx.f2.getD s.vf ∧ s.cx.f2.getD s.vf ≤ 4 ∧ s.me.statEntry 0 = none) ∧
     (tensor 0 .none fun c => { c with stats := [entryOf 0 0] }).me.statEntry 0 = some (entryOf 0 0) ∧
     (¬(3 ≤ tTgt (0x200 : Word) ∧ tTgt (0x200 : Word) ≤ 9)) ∧ (3 ≤ tTgt (0x300 : Word) ∧ tTgt (0x900 : Word) ≤ 9) ∧
     ¬(tFmode (0x30000000 : Word) ≠ 3) ∧ ¬¬(tFmode (0xFF : Word) = 0 ∧ tScale (0xFF : Word) = 255) ∧
     (tFmode (0x200000FF : Word) ≠ 3 ∧ ¬(tFmode (0x200000FF : Word) = 0 ∧ tScale (0x200000FF : Word) = 255)) ∧
     (let s := tensor 0x300 (.got 0 [1]) id; s.cx.wait = .got 0 [1] ∧ s.badRecid 0 = false) ∧
     (let s := tensor 0x300 (.got 1 [1]) id; s.cx.wait = .got (0 + 1) [1]) ∧ (tensor 0x300 (.merge 0) id).cx.wait = .merge 0 ∧
     (let s := tensor 0x300 .none fun c => { c with txs := [{ put1 with ctx := 15, body := .flush 0 {} }] }
      s.me.statEntry 0 = none ∧ s.me.flushing 0 = true) ∧ (tensor 0x300 .none id).me.flushing 0 = false ∧
     (let key := (base.homeAtIssue (base.partOf 0) (base.recordVa 0 0)).key
      let s := tensor 0 .none fun c => { c with stats := [entryOf 0 0], txs := List.replicate 32 { put1 with key := key } }
      s.me.stats = [entryOf 0 0] ∧ s.me.choked = false ∧ s.me.windowFull key = true) ∧
     (let s := onCore fun c => { c with stats := [entryOf 0 0], choked := true }; s.me.stats ≠ [] ∧ s.me.choked = true) ∧
     5 < (6 : BitVec 3).toNat ∧ owing.releasePending 0 0 5 = true ∧
     (base.releasePending 0 0 5 = false ∧ base.me.stats = [] ∧ base.me.flushes = 0 ∧ base.cx.wait ≠ .merges) ∧
     (onCore fun c => { c with flushes := 1 }).me.flushes ≠ 0 ∧ (tensor 0 .merges id).cx.wait = .merges) ∧
    (∀ d, (onCore fun c => { c with stats := [entryOf 0 0] }).me.txs.length + 1 ≤ (onCore fun c => { c with stats := [entryOf 0 0] }).me.window_ d) ∧
    ∃ r k, Answered (tensor 0x80000000000 answer0 id) r k :=
  ⟨by decide +kernel, fun _ => by show 0 + 1 ≤ 32; decide, record0, 0, answered0 id rfl⟩

theorem witness_QuantiseAndDequantise :
    (((withVF 5).fmt1 < 1 ∨ 4 < (withVF 5).fmt1) ∧ ((withVF 5).cx.f2.getD (withVF 5).vf < 1 ∨ 4 < (withVF 5).cx.f2.getD (withVF 5).vf) ∧
     tScale (0x3FF : Word) = 255 ∧ (tTgt (0x200 : Word) < 3) ∧ (3 ≤ tTgt (0x37F : Word) ∧ tTgt (0x87F : Word) ≤ 8 ∧ tScale (0x37F : Word) ≠ 255) ∧
     (tTgt (0x600 : Word) < 7) ∧ (7 ≤ tTgt (0x700 : Word) ∧ tTgt (0x900 : Word) ≤ 9) ∧ base.srForbidden base.rm = false ∧
     (let r := 127 * 2 ^ 64 + 5 * 2 ^ 80 + 3 * 2 ^ 88
      (recFrozen r && recRstrap r) = true ∧ exceeds (decode 2 0x7F800000) 5 127 = true ∧ exceeds (decode 2 0x7F800000) 7 127 = true ∧
        exceeds (decode 2 0) 5 127 = false ∧ exceeds (decode 2 0) 7 127 = false) ∧
     (tBlk (0x1700 : Word) = true ∧ 7 ≤ tTgt (0x1700 : Word)) ∧ (tBlk (0x300 : Word) = false)) ∧
    RecordFor base (base.readE 0) none ∧ RecordFor (tensor 0x80000000000 answer0 id) 0x80000000000 (some record0) :=
  ⟨by decide +kernel, .inl ⟨by decide +kernel, rfl⟩, .inr ⟨by decide +kernel, record0, 0, answered0 id rfl, rfl⟩⟩

theorem witness_TrackedStores :
    (((withVF 7).fmt1 < 1 ∨ 6 < (withVF 7).fmt1) ∧ (1 ≤ base.fmt1 ∧ base.fmt1 ≤ 6 ∧ fmtBits base.fmt1 = 32) ∧
     base.badRecid 0 = true ∧
     (let en := entryOf 0 0
      let s := tensor 0x80000000000 .none fun c => { c with stats := [en] }
      s.badRecid (tRecid (s.readE 0)) = false ∧ s.me.statEntry 0 = some en ∧ en.rstrap = false ∧
        ∀ k ∈ s.activeLanes (tPg (s.readE 0)) 32, ((0x2000 : Word) + .ofNat 64 (k * 4)).toNat + 4 ≤ 0x300000 ∧
          ((0x2000 : Word) + .ofNat 64 (k * 4)).toNat % 4 = 0 ∧ s.storeProtected 0 s.isS ((0x2000 : Word) + .ofNat 64 (k * 4)).toNat 4 = false ∧
          s.me.badPartly ((0x2000 : Word) + .ofNat 64 (k * 4)).toNat 4 = false) ∧
     (let en := entryOf 0 (127 * 2 ^ 64 + 5 * 2 ^ 80 + 3 * 2 ^ 88)
      en.rstrap = true ∧ en.excess (decode 2 0x7F800000) = true ∧ en.excess (decode 2 0) = false) ∧
     (let s := tensor 0x80000000000 answer0 id; s.me.statEntry 0 = none ∧ s.me.stats.length < 8 ∧ s.me.syncs = 0)) ∧
    Answered (tensor 0x80000000000 answer0 id) record0 (tensor 0x80000000000 answer0 id).me.syncs :=
  ⟨by decide +kernel, answered0 id rfl⟩

/-- The engine of core 0, with owners of slots. -/
def engine (m : Matrix) (x : Ctx) : State := onCore fun c => { c with matrix := m, ctx := [(0, x)] }

theorem witness_MatrixSlotsAndLoads :
    (engine { powered := false } x0).me.matrix.powered = false ∧ base.me.matrix.powered = true ∧
    (∀ n < 16, ((inG [(1, 0xFFFF)]).readG 1).getLsbD n = true → base.me.matrix.free n = true ∨ base.me.matrix.owns n 0 = true) ∧
    ¬(∀ n < 16, ((inG [(1, 0xFFFF)]).readG 1).getLsbD n = true →
      (engine { owner := [(15, 1)] } x0).me.matrix.free n = true ∨ (engine { owner := [(15, 1)] } x0).me.matrix.owns n 0 = true) ∧
    (∀ n < 16, ((inG [(1, 0x8001)]).readG 1).getLsbD n = true → (engine { owner := [(0, 0), (15, 0)] } x0).me.matrix.owns n 0 = true) ∧
    (((inG [(1, 0x8000)]).readG 1).getLsbD 15 = true ∧ (engine { owner := [(15, 1)] } x0).me.matrix.owns 15 0 = false) ∧
    ((15 : Word).toNat < 16 ∧ (engine { owner := [(31, 0)] } x0).me.matrix.owns (16 + 15) 0 = true) ∧ ¬((16 : Word).toNat < 16) ∧
    (let s := engine { owner := [(0, 0)] } { x0 with g := [(1, 0x2000), (2, 128)] }
     s.me.matrix.owns 0 0 = true ∧ (s.readG 2).toNat % 8 = 0 ∧
       ∀ k < 32, (s.readG 1 + .ofNat 64 k * s.readG 2).toNat + 128 ≤ 0x300000 ∧ (s.readG 1 + .ofNat 64 k * s.readG 2).toNat % 8 = 0 ∧
         s.me.badIn (s.readG 1 + .ofNat 64 k * s.readG 2).toNat 128 = false) ∧
    ((inG [(2, 4)]).readG 2).toNat % 8 ≠ 0 ∧ tScale (0xFF : Word) = 255 ∧
    (let s := tensor 0x80000000000 .none fun c => { c with matrix := { owner := [(0, 0)] } }
     s.me.matrix.owns 0 0 = true ∧ tRecen (s.readE 0) = true ∧ s.cx.wait = .none ∧ s.badRecid (tRecid (s.readE 0)) = false) ∧
    (3 ≤ recTgt (5 * 2 ^ 80) ∧ recTgt (9 * 2 ^ 80) ≤ 9) ∧ (engine { owner := [(31, 0)] } x0).me.matrix.badIn 31 (32 * 15) 32 = false := by
  decide +kernel

theorem witness_MatrixProductsAndStore :
    ((let formats := fun s : State => let fa := s.cx.f1.getD s.mfa; let fb := s.cx.f2.getD s.mfb
       3 ≤ fa ∧ fa ≤ 9 ∧ 3 ≤ fb ∧ fb ≤ 9 ∧ matK fa = matK fb
     ¬formats (withF1 2) ∧ ¬formats (withF1 5) ∧ formats base ∧ matK (base.cx.f1.getD base.mfa) / 32 - 1 < 2 ∧
       1 ≤ matK (base.cx.f1.getD base.mfa) / 32 - 1 ∧ 3 ≤ matK 5 / 32 - 1) ∧
    ¬(base.me.matrix.owns 0 0 = true ∧ base.me.matrix.owns 1 0 = true) ∧
    (let m := (engine { owner := [(0, 0), (1, 0), (31, 0)] } x0).me.matrix
     m.owns 0 0 = true ∧ m.owns 1 0 = true ∧ (15 < 16 ∧ m.owns (16 + 15) 0 = true) ∧ m.badIn 0 0 512 = false ∧ m.badIn 1 0 512 = false ∧
       m.badIn 31 0 512 = false ∧ m.free (16 + 0) = true ∧ ∀ n < 0, m.free (16 + n) = false) ∧
    (let m := (engine { owner := (List.range 32).map fun k => (k, 0) } x0).me.matrix; ∀ n < 16, m.free (16 + n) = false) ∧
    (tScale (0x27F : Word) ≠ 255 ∧ tEchan (0x27F : Word) ≤ 47) ∧ (6 < tTgt (0x700 : Word)) ∧ (1 ≤ tTgt (0x100 : Word) ∧ tTgt (0x600 : Word) ≤ 6) ∧
    (let s := tensor 0x80000000000 .none fun c => { c with matrix := { owner := [(31, 0)] } }
     s.me.matrix.owns (16 + 15) 0 = true ∧ tRecen (s.readE 0) = true ∧ s.cx.wait = .none ∧ s.me.statEntry 0 = none ∧ s.me.stats.length < 8) ∧
    (let en := entryOf 0 (127 * 2 ^ 64 + 5 * 2 ^ 80 + 3 * 2 ^ 88)
     en.rstrap = true ∧ (List.range 1024).countP (fun k => en.excess (decode 2 (0x7F800000 / 2 ^ (32 * k) % 2 ^ 32))) ≠ 0 ∧ (entryOf 0 0).rstrap = false) ∧
    (∀ k < 1024, ((0x2000 : Word) + .ofNat 64 (k / 32) * 128 + .ofNat 64 (k % 32 * 4)).toNat + 4 ≤ 0x300000 ∧
      ((0x2000 : Word) + .ofNat 64 (k / 32) * 128 + .ofNat 64 (k % 32 * 4)).toNat % 4 = 0)) ∧
    RecordFor base (base.readE 0) none ∧
    let s := tensor 0x80000000000 answer0 fun c => { c with matrix := { owner := [(31, 0)] } }
    s.me.matrix.owns (16 + 15) 0 = true ∧ RecordFor s 0x80000000000 (some record0) ∧ Answered s record0 s.me.syncs :=
  ⟨by decide +kernel, .inl ⟨by decide +kernel, rfl⟩, rfl, .inr ⟨by decide +kernel, record0, 0, answered0 _ rfl, rfl⟩, answered0 _ rfl⟩

/-! ### Witnesses: instructions that send -/

/-- Each row of R113 on one of its instructions, with the rows before it passed. -/
theorem witness_aim_rows :
    (2048 < 2049 ∧ 2048 < (65535 : Nat) ∧ 48 < 49) ∧
    base.destForm .send 0x8000000000000000 = true ∧ base.destForm .put 0x0001000000000000 = true ∧ base.destForm .send 0x4000000000000000 = true ∧
    (base.destForm .send 0x0030000000000000 = false ∧ 48 ≤ destChan 0x0030000000000000 ∧ base.isS = false) ∧
    (base.destForm .put 1 = false ∧ (1 : Word).toNat / 2 ^ 62 = 0 ∧ base.sameLaunch base.curCore ((1 : Word).toNat % 2048) = false) ∧
    (base.destForm .atomic 0xC000000000000000 = false ∧ (0xC000000000000000 : Word).toNat / 2 ^ 62 = 3 ∧ base.pointerFault .remote 0 8 = some 0x25) ∧
    (base.destForm .put 0 = false ∧ base.sameLaunch base.curCore ((0 : Word).toNat % 2048) = true ∧
      ((0x1FFF : Word).toNat < 0x2000 ∨ 0x300000 < (0x1FFF : Word).toNat + 1)) ∧
    ((0x2FFFFF : Word).toNat < 0x2000 ∨ 0x300000 < (0x2FFFFF : Word).toNat + 2) ∧
    (¬((0x2004 : Word).toNat < 0x2000 ∨ 0x300000 < (0x2004 : Word).toNat + 8) ∧ (0x2004 : Word).toNat % 8 ≠ 0) ∧
    ({ base with ip := [] }.capMissing 0 0 = true) ∧ base.capMissing 0 13 = false ∧
    (base.pointerFault .remote 0x6000000000002000 8 = none ∧ base.destForm .atomic 0xC000000000000000 = false) := by decide +kernel

/-- send: a payload that is misaligned, too long, empty, readable; its release; a full window and an open one; a router that refuses; a payload with an error. -/
theorem witness_SendMessage :
    (let s := inG [(2, 0x2001)]; ((s.readG 2).toNat % 8 ≠ 0 ∧ (s.readG 3).toNat % 2 ^ 16 = 0)) ∧
    (let s := inG [(2, 0x2FFFFC), (3, 8)]; (s.readG 3).toNat % 2 ^ 16 ≠ 0 ∧ 0x300000 < (s.readG 2).toNat + (s.readG 3).toNat % 2 ^ 16) ∧
    (let s := inG [(2, 0x2FF800), (3, 2048)]
     ¬2048 < (s.readG 3).toNat % 2 ^ 16 ∧ (s.readG 2).toNat % 8 = 0 ∧ (s.readG 2).toNat + 2048 ≤ 0x300000 ∧ s.me.badIn (s.readG 2).toNat 2048 = false ∧
       s.destForm .send 0 = false ∧ s.sameLaunch s.curCore 0 = true) ∧
    owing.releasePending 0 0 4 = true ∧ base.releasePending 0 0 4 = false ∧ base.releasePending 0 0 5 = false ∧
    fullWindow.me.windowFull (.core 0) = true ∧ base.me.windowFull (.core 0) = false ∧
    (onCore fun c => { c with txs := List.replicate 31 put1 }).me.windowFull (.core 0) = false ∧
    choked.me.choked = true ∧ base.me.choked = false ∧ (onCore fun c => { c with bad := [0x400] }).me.badIn 0x2000 8 = true := by decide +kernel

/-- A partition whose page table maps page 0x1000 to physical page 0x3000, which may be read and written, with host ring 0
enabled: table levels at 0x10000 to 0x13000, the queue table at 0x8000. -/
def tables : Memory :=
  let m := Memory.setNum (Memory.setNum (Memory.setNum [] 0x10000 8 0x11001) 0x11000 8 0x12001) 0x12000 8 0x13001
  Memory.setNum (Memory.setNum (Memory.setNum m 0x13008 8 0x300F) 0x8040 8 0x1000) 0x8048 8 0x8000000000000001
def desc0 : List Word := [0, 0, 0x8000000000000001, 0x10000, 0x8000, 0, 0, 0]
def mapped (s : State) : State := { s with gmem := tables, parts := [(0, desc0)] }

/-- sendhost: ring 0 disabled, enabled, full (of two records), and one whose address translates; a window toward the home of
its next record that is full; a host message that is on its way. -/
theorem witness_SendToHost :
    (let s := inG [(2, 0x2FFFF8), (3, 48)]; (s.readG 2).toNat % 8 = 0 ∧ 0x300000 < (s.readG 2).toNat + (s.readG 3).toNat % 2 ^ 16) ∧
    (let s := inG [(2, 0x2FFFCF), (3, 48)]; (s.readG 2).toNat % 8 ≠ 0 ∧ (s.readG 2).toNat + (s.readG 3).toNat % 2 ^ 16 ≤ 0x300000) ∧
    (base.destForm .sendhost 0x8000000000000000 = false ∧ (base.ring 0 0).2.1 = false) ∧ ((mapped base).ring 0 0).2.1 = true ∧
    (mapped owing).releasePending 0 0 4 = true ∧ { mapped base with rings := [(0, 2)] }.ringFull 0 0 = true ∧
    ((mapped base).ringFull 0 0 = false ∧ ((mapped base).translate (some 0) 0 0x1000 .write).1 = .ok 0x3000) ∧
    (let key := ((mapped base).homeAtIssue 0 0x1000).key
     (mapped base).me.windowFull key = false ∧
       (onCore fun c => { c with txs := List.replicate 32 { put1 with key := key } }).me.windowFull key = true) ∧
    (let p : Packet := { pk (.hostMsg 0 7 [1]) with kind := 6, home := .hbm 0 0, addr := 0x1000 }
     let s : State := { mapped owing with net := [(0, p)] }
     s.packet 0 = some p ∧ s.txOf p = some put1 ∧ p.marked = false ∧ ∀ k < 64, s.sequencerField (0x3000 + k) = false) := by decide +kernel

theorem witness_PutBytes :
    (3 : BitVec 5).toNat % 2 = 1 ∧ (2 : BitVec 5).toNat % 2 = 0 ∧
    (let s := inG [(1, 0x2000), (2, 0x2FFFFF), (3, 2)]; 0x300000 < (s.readG 2).toNat + (s.readG (2 + 1)).toNat) ∧
    (let s := onCore fun c => { c with bad := [0x5FFFF], ctx := [(0, { x0 with g := [(1, 0x2000), (2, 0x2FFFFF), (3, 1)] })] }
     (s.readG 2).toNat + (s.readG (2 + 1)).toNat ≤ 0x300000 ∧ s.me.badIn (s.readG 2).toNat 1 = true) ∧
    (let s := inG [(1, 0x2000), (2, 0), (3, 2048)]
     ¬((s.readG (2 + 1)).toNat = 0 ∨ 2048 < (s.readG (2 + 1)).toNat) ∧ s.destForm .put (s.readG 0) = false ∧ s.sameLaunch 0 0 = true ∧
       ¬((s.readG 1).toNat < 0x2000 ∨ 0x300000 < (s.readG 1).toNat + 2048) ∧ s.me.badIn 0 2048 = false ∧ s.me.windowFull (.core 0) = false) := by
  decide +kernel

/-- A compare-and-swap with an odd and an even pair; an atomic that goes out; a full window and a full q3. -/
theorem witness_RemoteAtomics :
    (3 : BitVec 5).toNat % 2 = 1 ∧ (2 : BitVec 5).toNat % 2 = 0 ∧
    (let s := inG [(1, 0x2FFFF8)]
     s.destForm .atomic (s.readG 0) = false ∧ s.sameLaunch 0 0 = true ∧ ¬((s.readG 1).toNat < 0x2000 ∨ 0x300000 < (s.readG 1).toNat + 8) ∧
       (s.readG 1).toNat % 8 = 0 ∧ (∀ b < 4, s.capMissing (s.readG 0) b = false) ∧ s.me.windowFull (.core 0) = false ∧ s.me.q3.length < 32) ∧
    fullWindow.me.windowFull (.core 0) = true ∧
    (let s := onCore fun c => { c with q3 := List.replicate 32 slot1 }
     s.me.windowFull (.core 0) = false ∧ 32 ≤ s.me.q3.length) := by decide +kernel

/-- Formats that updates have and lack; an ORDERED launch; statuses 0 and 4 of a ticketed update; tskip of no line, before its
last line and after it, with a line to send, and after a status that is not 0. -/
theorem witness_FloatUpdates :
    ((let ok := fun s : State => s.fmt1 = 1 ∨ s.fmt1 = 2 ∨ s.fmt1 = 4
      ¬ok (withF1 3) ∧ ok (withF1 1) ∧ ok base ∧ ok (withF1 4)) ∧
     (onLaunch fun l => { l with ordered := true }).ordered 0 = true ∧ base.ordered base.curCore = false ∧
     (onCtx fun x => { x with wait := .got 0 [0x2000] }).cx.wait = .got 0 [0x2000] ∧
     (onCtx fun x => { x with wait := .got 4 [0x2000, 3] }).cx.wait = .got (3 + 1) [0x2000, 3] ∧
     (base.readG 2).toNat / 2 ^ 32 % 2 ^ 24 = 0 ∧
     (let s := onCtx fun x => { x with g := [(1, 0x2000), (2, 0x100000000)], wait := .got 0 [0x2000, 0, 0, 0] }
      s.cx.wait = .got 0 [0x2000, 0, 0, 0] ∧ (s.readG 2).toNat / 2 ^ 32 % 2 ^ 24 = 1 ∧ (0x2000 : Word) + 64 = s.readG 1 + .ofNat 64 (64 * 1) ∧
        (0x2000 : Word) + 64 ≠ s.readG 1 + .ofNat 64 (64 * 2)) ∧
     (onCtx fun x => { x with wait := .line 0x2040 (.core 0) 0 none }).cx.wait = .line 0x2040 (.core 0) 0 none ∧
     (let s := inG [(1, 0x2000)]
      s.destForm .atomic (s.readG 0) = false ∧ s.sameLaunch 0 0 = true ∧ ¬((s.readG 1).toNat < 0x2000 ∨ 0x300000 < (s.readG 1).toNat + 64) ∧
        (s.readG 1).toNat % 64 = 0 ∧ ∀ k < 3, s.capMissing (s.readG 0) (4 + k) = false ∧ s.capMissing (s.readG 0) (7 + k) = false)) ∧
    (∀ n data, base.cx.wait ≠ .got n data) ∧ ∀ w key n v, base.cx.wait ≠ .line w key n v :=
  ⟨by decide +kernel, (fun _ _ h => by cases h), fun _ _ _ _ h => by cases h⟩

/-- A sequence over one line at 0x3000 of core 0, and a descriptor of it at 0x2000. -/
def seq1 : Seq := { serial := 1, base := 0x4000000000003000, lines := [⟨0, .core 0, 0x3000, 0⟩], p := 1, fmt := 2, rm := 0, lenient := false,
                    state := .opened, dup := 0, held := [], queried := [] }
def desc1 : Memory := Memory.setNum (Memory.setNum (Memory.setNum [] 0x2000 8 0x4000000000003000) 0x2008 8 0x100000001) 0x2010 8 0x200
/-- Handle 0x100 (slot 0, serial 1) in g1. -/
def withSeq (q : Seq) (x : Ctx) : State :=
  { onLaunch (fun l => { l with seqs := [(0, q)] }) with cores := [(0, { c0 with ctx := [(0, { x with g := [(1, 0x100)] })] })] }

/-- A sequence that opens in slot 0, whose one part has answered. -/
def opening1 (q : Seq) : State :=
  { onLaunch (fun l => { l with seqs := [(0, q)] }) with cores := [(0, { c0 with ctx := [(0, { x0 with wait := .got 0 [0] })] })] }

/-- A descriptor at 0x2000 of a sequence over one line at a global address, whose page maps to 0x3000, to host memory, to nothing. -/
def descG (va : Nat) : Memory := Memory.setNum desc1 0x2000 8 (0x6000000000000000 + va)
def inGlobal (va pte : Nat) : State :=
  let s := mapped (onCore fun c => { c with mem := descG va })
  { s with gmem := Memory.setNum s.gmem 0x13008 8 pte }

/-- tsopen of a global range: its one line's address translates; or is in host memory, or does not translate. -/
theorem witness_TicketSequencesGlobal :
    (∀ s ∈ [inGlobal 0x1000 0x300F, inGlobal 0x1000 (2 ^ 45 + 15), inGlobal 0x2000 0x300F],
      let o := s.seqDesc 0x2000
      s.launchOf 0 = some placedLaunch ∧ s.me.badIn 0x2000 32 = false ∧ o.base.toNat / 2 ^ 61 = 3 ∧ s.pointerFault .remote o.base (64 * o.lines) = none ∧
        o.base.toNat % 2 ^ 48 % 64 = 0 ∧ o.lines = 1 ∧ o.p = 1 ∧ o.fmt = 2 ∧ o.rm = 0 ∧ s.touchesRecords (o.base.toNat % 2 ^ 48) 64 = false) ∧
    (let s := inGlobal 0x1000 0x300F
     inHost 0x3000 = false ∧ s.lineProtected (s.homeOf 0x3000) 0x3000 64 = false ∧ s.me.choked = false ∧
       s.me.windowFull (s.homeOf 0x3000).key = false) ∧
    inHost (2 ^ 45) = true ∧ (match ((inGlobal 0x2000 0x300F).translate (some 0) 0 0x2000 .rmw).1 with | .ok _ => false | _ => true) = true ∧
    ∀ p ∈ [(inGlobal 0x1000 0x300F, 0x3000), (inGlobal 0x1000 (2 ^ 45 + 15), 2 ^ 45)], ∃ (us : Nat → State) (pas : Nat → Nat), us 0 = p.1 ∧
      ∀ k < 1, (us k).translate (some 0) (p.1.partOf 0) (0x1000 + 64 * k) .rmw = (.ok (pas k), us (k + 1)) ∧ pas k = p.2 := by
  refine ⟨by decide +kernel, by decide +kernel, by decide +kernel, by decide +kernel, ?_⟩
  intro p hp
  refine ⟨fun k => if k = 0 then p.1 else (p.1.translate (some 0) (p.1.partOf 0) 0x1000 .rmw).2, fun _ => p.2, rfl, ?_⟩
  intro k hk
  obtain rfl : k = 0 := by omega
  refine ⟨Prod.ext ?_ rfl, rfl⟩
  simp only [List.mem_cons, List.not_mem_nil, or_false] at hp
  rcases hp with rfl | rfl <;> decide +kernel

/-- The last answer of an opening. -/
theorem witness_TicketSequencesAnswer :
    (let q := { seq1 with state := .opening }
     let x := { put1 with kind := 15, body := .seqOpen 0 0 }
     let p := { pk (.reply 0 []) with reply := true }
     let l := { placedLaunch with seqs := [(0, q)] }
     let s := onNet p { onLaunch (fun _ => l) with cores := [(0, { c0 with txs := [x], ctx := [(0, { x0 with wait := .sent 1 })] })] }
     s.packet 0 = some p ∧ s.txOf p = some x ∧ p.marked = false ∧ p.cn = s.curCore ∧ (s.me.cx x.ctx).wait = .sent (2 * x.first + 1) ∧
       (s.me.txs.all fun y => y.seq == p.seq) = true ∧ s.launchOf 0 = some l ∧ s.launch? l.part l.lid = some l ∧ l.openingIn 0 = some q ∧
       x.fetch = false ∧ x.ticketed = false ∧ q.shut ≠ [0] ∧ q.clash = false) := by decide +kernel

/-- tsopen: a descriptor that is misaligned, one with an error, one with a bad base, one with no format, one whose parts are asked; the
ends of an opening; handles that name nothing, an aborted sequence, one at its end, one that is short; an update that is outstanding. -/
theorem witness_TicketSequences :
    (((0x2010 : Word).toNat % 32 ≠ 0 ∧ (0x1FE0 : Word).toNat < 0x2000 ∧ 0x300000 < (0x300000 : Word).toNat + 32) ∧
     (onCore fun c => { c with bad := [0x400] }).me.badIn 0x2000 32 = true ∧
     (let s := onCore fun c => { c with mem := Memory.setNum desc1 0x2010 8 0 }
      let o := s.seqDesc 0x2000
      s.pointerFault .remote o.base (64 * o.lines) = none ∧ o.fmt ≠ 1 ∧ o.fmt ≠ 2 ∧ o.fmt ≠ 4) ∧
     ((0x2000 : Word).toNat % 32 = 0 ∧ 0x2000 ≤ (0x2000 : Word).toNat ∧ base.me.badIn 0x2000 32 = false ∧
       base.pointerFault .remote (base.seqDesc 0x2000).base (64 * (base.seqDesc 0x2000).lines) = some 0x25 ∧ base.launchOf base.curCore = some placedLaunch) ∧
     (let s := onCore fun c => { c with mem := desc1 }
      let o := s.seqDesc 0x2000
      s.me.badIn 0x2000 32 = false ∧ s.pointerFault .remote o.base (64 * o.lines) = none ∧ o.base.toNat / 2 ^ 61 = 2 ∧ o.base.toNat % 64 = 0 ∧
        0 < o.lines ∧ o.lines ≤ 2 ^ 24 ∧ 0 < o.p ∧ o.p ≤ 0x7FFFFFFF ∧ o.fmt = 2 ∧ o.rm ≤ 4 ∧ s.lineProtected (.core 0) 0x3000 64 = false ∧
        SMap.has placedLaunch.seqs 255 = false ∧ s.me.choked = false ∧ s.me.windowFull (.core 0) = false) ∧
     ({ withSeq seq1 x0 with cores := [(0, { c0 with mem := desc1 })] } : State).lineProtected (.core 0) 0x3000 64 = true ∧
     (∀ n < 256, SMap.has ((List.range 256).map fun k => (k, seq1)) n = true) ∧ choked.me.choked = true ∧
     (([Home.core 0].map Home.key).find? fun k => fullWindow.me.windowFull k) = some (.core 0) ∧
     (let q := { seq1 with state := .opening, openAt := [0] }
      (opening1 q).cx.wait = .got 0 [0] ∧ (match (opening1 q).launchOf 0 with | some l => l.openingIn 0 == some q | none => false) = true ∧
        q.clash = false ∧ q.shut = [] ∧ { q with shut := [0] }.shut ≠ [] ∧ { q with clash := true }.clash = true) ∧
     (inG [(1, 0x200)]).seqOf 0 0x200 = none ∧
     ((withSeq { seq1 with state := .aborted } x0).seqOf 0 0x100).isSome = true ∧
     (let s := withSeq { seq1 with lines := [⟨0, .core 0, 0x3000, 1⟩] } { x0 with wait := .got 0 [] }
      (s.seqOf 0 (s.readG 1)).map (fun e => (e.2.1, e.2.2)) = some (0, { seq1 with lines := [⟨0, .core 0, 0x3000, 1⟩] }) ∧ s.cx.wait = .got 0 [] ∧
        s.updatesPending 0 0 (s.readG 1) = false) ∧
     (let s := withSeq seq1 { x0 with wait := .got 0 [] }
      (s.seqOf 0 (s.readG 1)).map (fun e => (e.2.1, e.2.2)) = some (0, seq1) ∧ seq1.state ≠ .aborted ∧ seq1.lenient = false ∧
        seq1.lines.find? (fun ln => decide (ln.ctr < seq1.p)) = some ⟨0, .core 0, 0x3000, 0⟩ ∧ { seq1 with lenient := true }.lenient = true) ∧
     ((withSeq seq1 x0).modMe fun c => { c with txs := [{ put1 with ticketed := true, addr := 0x3000 }] }).updatesPending 0 0 0x100 = true) ∧
    ∀ k data, (withSeq seq1 x0).cx.wait ≠ .got k data :=
  ⟨by decide +kernel, fun _ _ h => by cases h⟩

/-- A launch of two cores side by side. -/
def pairUp (f : Core → Core) : State := { onLaunch (fun l => { l with w := 2 }) with cores := [(0, f c0), (1, { c0 with ctx := [] })] }

/-- halo eastward in a launch of two cores: allowed, out of room, with a router that refuses, a window that is full, a source
with an error, and turned away by each check; zwatch: channel 48 at U, no free entry, an entry over bytes that are zero and over
others; disarming. -/
theorem witness_HaloAndZeroWatch :
    ((let B := 0x2 + 0x800 * 2 ^ 32
      (List.range 4).filter (fun k => B / 2 ^ k % 2 = 1) = [1] ∧ B / 2 ^ 32 % 2 ^ 12 = 2048 ∧ 2048 % 8 = 0) ∧
     (0x300000 < 0x2FF808 + 2048 ∧ 0x2FF7FC + 2048 ≤ 0x300000 ∧ 0x2FF7FC % 8 ≠ 0) ∧
     (base.neighbour base.curCore 1 = some 1 ∧ base.sameLaunch base.curCore 1 = false) ∧
     ((0x1FF8 : Word).toNat < 0x2000 ∧ 0x2000 ≤ (0x2004 : Word).toNat ∧ (0x2004 : Word).toNat + 2048 ≤ 0x300000 ∧ (0x2004 : Word).toNat % 8 ≠ 0) ∧
     (let s := pairUp id
      s.neighbour s.curCore 1 = some 1 ∧ s.sameLaunch s.curCore 1 = true ∧ s.me.badIn 0x2FF800 2048 = false ∧ 0x2FF800 + 2048 ≤ 0x300000 ∧
        s.me.halos + 1 ≤ 16 ∧ s.me.choked = false ∧ s.me.windowFull (.core (.ofNat 11 1)) = false) ∧
     (pairUp fun c => { c with txs := List.replicate 32 { put1 with key := .core 1 } }).me.windowFull (.core (.ofNat 11 1)) = true ∧
     (pairUp fun c => { c with choked := true }).me.choked = true ∧ (pairUp fun c => { c with bad := [0x5FFFF] }).me.badIn 0x2FF800 2048 = true ∧
     (let s := pairUp fun c => { c with halos := 16 }; 16 < s.me.halos + 1) ∧ ((List.range 4).filter (fun k => 0 / 2 ^ k % 2 = 1) = []) ∧
     (0x30 < 2 ^ 63 ∧ 48 ≤ 0x30 % 64 ∧ base.isS = false) ∧
     (0x100 % 64 < 48 ∧ 0x100 / 256 % 2 = 1 ∧ 0x300000 < 0x2FFFF9 + 8 ∧ (0x2FFFF4 + 8 ≤ 0x300000 ∧ 0x2FFFF4 % 8 ≠ 0) ∧ 0x1FF8 < 0x2000) ∧
     (0x2FFFF8 + 8 ≤ 0x300000 ∧ 0x2FFFF8 % 8 = 0 ∧ SMap.has base.me.zwatch 1 = false ∧ Memory.num base.me.mem 0x2FFFF8 8 = 0) ∧
     (let s := onCore fun c => { c with mem := [(0x2FFFFF, 1)] }; ¬(Memory.num s.me.mem 0x2FFFF8 8 = 0)) ∧
     2 ^ 63 ≤ (0x8000000000000001 : Word).toNat ∧ SMap.has base.me.zwatch ((0x8000000000000001 : Word).toNat % 16) = false ∧
     SMap.has (onCore fun c => { c with zwatch := [(1, ⟨0x2000, false, 0, 0⟩)] }).me.zwatch ((0x8000000000000001 : Word).toNat % 16) = true) ∧
    ∀ n, 1 ≤ n → n ≤ 8 → SMap.has ((List.range 9).map fun k => (k, (⟨0x2000, false, 0, 0⟩ : ZWatch))) n = true := by
  refine ⟨by decide +kernel, ?_⟩
  intro n h1 h2; interval_cases n <;> rfl

/-! ### Witnesses: barriers, fences, generations, traps -/

theorem witness_Barriers :
    (base.launchOf base.curCore = some placedLaunch ∧ ¬(base.curCore ∈ placedLaunch.membersOf 0)) ∧
    (let l := { placedLaunch with members := [(7, [0])] }
     0 ∈ l.membersOf 7 ∧ SMap.get false (onCore fun c => { c with arr := [(7, true)] }).me.arr 7 = true ∧ ¬(SMap.get false base.me.arr 7 = true) ∧
       owing.releasePending 0 0 4 = true ∧ ¬(base.releasePending 0 0 4 = true)) ∧
    SMap.get false base.me.ever 7 = false ∧
    (let s := onCore fun c => { c with ever := [(7, true)], arr := [(7, true)] }
     SMap.get false s.me.ever 7 = true ∧ SMap.get false s.me.arr 7 = true) ∧
    (let s := onCore fun c => { c with ever := [(7, true)], last := [(7, 0xFFFFFFFF)] }
     SMap.get false s.me.ever 7 = true ∧ ¬(SMap.get false s.me.arr 7 = true)) ∧
    (let l := { placedLaunch with members := [(7, [0])], expected := [(7, 1)], arrived := [(7, 1)], phase := [(7, 0xFFFFFFFF)] }
     LaunchIs (onLaunch fun _ => l) 0 1 l ∧ l.active = true ∧ SMap.get 0 l.expected 7 ≠ 0 ∧ SMap.get 0 l.arrived 7 = SMap.get 0 l.expected 7) ∧
    (let s := onCtx fun x => { x with wait := .park 1 }
     LaunchIs s 0 1 placedLaunch ∧ s.deadlocked placedLaunch = true) := by
  unfold LaunchIs; decide +kernel

theorem witness_Fences :
    6 ≤ (6 : BitVec 3).toNat ∧ (5 : BitVec 3).toNat < 6 ∧
    (∃ x ∈ owing.me.txs, x.ctx = owing.curCtx ∧ x.copy = none ∧ x.kind ≠ 5 ∧ owing.inScope 0 0 x.home = true) ∧
    (¬∃ x ∈ base.me.txs, x.ctx = base.curCtx) ∧
    (let s := onCore fun c => { c with txs := [{ put1 with fetch := true }] }; ∃ x ∈ s.me.txs, x.ctx = s.curCtx ∧ x.fetch = true) ∧
    (onCtx fun x => { x with wait := .ordered }).cx.wait = .ordered ∧ (base.cx.wait ≠ .ordered ∧ base.launchOf base.curCore = some placedLaunch) ∧
    (let l := { placedLaunch with fences := [(0, 0)] }
     let s := { onLaunch (fun _ => l) with cores := [(0, { c0 with ctx := [(0, { x0 with wait := .order })] })] }
     s.launchOf (0 : CoreNo).toNat = some l ∧ (0, 0) ∈ l.fences ∧ ((s.core 0).cx 0).wait = .order) := by decide +kernel

/-- Core 0 as the one member of group 0. -/
def group0 : Group := { part := 0, lid := 1, dws := [0, 0, 0, 0], members := [0] }
def inGroup (f : Core → Core) : State := { onCore (fun c => f { c with gen := 0x8000000000000000 }) with groups := [(0, group0)] }

/-- Rank 1 of partition 0 is on package 0, whose capabilities are mask. -/
def capable (mask : Nat) : State :=
  { base with parts := [(0, [0, 0, 0, 0, 0, 0, 0, 2])], gmem := Memory.setNum (Memory.setNum [] 16 8 0x8000000000000000) 24 8 mask }

theorem witness_GroupInstructions :
    ((let fresh := fun s : State => s.cx.wait ≠ .quiet ∧ s.cx.wait ≠ .merges ∧ s.cx.wait ≠ .shawm
      fresh base ∧ { base with curCtx := 1 }.curCtx ≠ 0 ∧ (base.curCtx = 0 ∧ base.me.groupNo = none) ∧
      (let s := inGroup id
       fresh s ∧ s.me.groupNo = some 0 ∧ s.group 0 = some group0 ∧ s.curCtx = 0 ∧ s.badRegion = none ∧ s.me.txs = [] ∧ s.me.copies = [] ∧
         s.me.halos = 0 ∧ s.me.stats = [] ∧ s.me.flushes = 0)) ∧
     ((inGroup fun c => { c with ctx := [(0, x0), (10, x0)] }).me.cx 10).live = true ∧
     ((inGroup fun c => { c with mem := Memory.setNum [] 0x10E0 8 0x8000000000000000 }).badRegion.map (·.index)) = some 7 ∧
     (inGroup fun c => { c with txs := [put1] }).me.txs ≠ [] ∧
     (let s := inGroup fun c => { c with control := { c.control with selOff := true }, ctx := [(0, { x0 with wait := .quiet })] }
      s.cx.wait = .quiet ∧ s.me.control.selOff = true) ∧
     (let s := inGroup fun c => { c with stats := [entryOf 0 0], choked := true }; s.me.stats ≠ [] ∧ s.me.choked = true ∧ s.me.txs = []) ∧
     (let s := inGroup fun c => { c with stats := [entryOf 0 0] }; s.me.txs = [] ∧ s.me.stats.length + s.me.flushes ≠ 0) ∧
     6 < (7 : BitVec 5).toNat ∧ (0 < (6 : BitVec 5).toNat ∧ (6 : BitVec 5).toNat ≤ 6) ∧
     min 16 (group0.members.length / 2) < 1 ∧
     (let g := { group0 with members := [0, 1] }
      let a : Word := 0x10001
      0 < a.toNat % 32 ∧ a.toNat % 32 ≤ min 16 (g.members.length / 2) ∧
        ((a.extractLsb' 16 32).toNat ≠ (0, 2).1 ∧ (a.extractLsb' 16 32).toNat < (0, 2).2) ∧ ((1 : Word).extractLsb' 16 32).toNat = (0, 1).1 ∧ (1, 1).2 ≤ 1) ∧
     (capable 0).capMissing (.ofNat 64 (2 ^ 62 + 1 * 2 ^ 16)) 13 = true ∧ (capable 0x2000).capMissing (.ofNat 64 (2 ^ 62 + 1 * 2 ^ 16)) 13 = false ∧
     group0.export_ = none ∧ ({ group0 with export_ := some ⟨1, 0, 1, 0⟩ } : Group).export_ ≠ none) ∧
    (∀ key, 1 ≤ (inGroup fun c => { c with stats := [entryOf 0 0] }).me.window_ key) ∧
    ∀ k, 1 ≤ k → k ≤ 10 → ((inGroup id).me.cx k).live = false := by
  refine ⟨by decide +kernel, fun _ => by show 1 ≤ 32; decide, ?_⟩
  intro k h1 h2; interval_cases k <;> rfl

/-- A batch for group 0, which package 7 has sent to core 0 in one request. -/
def batch0 : Batch := { group := 0, srank := 1, sgroup := 0, sgen := 0, members := [] }
def exported : Packet := { pk (.immigrants 0 0 1 batch0.words) with remote := some (1, 7) }

/-- A boundary of a group of one core; one that reads no record and one whose record page does not translate; a resumption,
without an event message, with one that is placed, held and undeliverable, and with no room for it; a batch for no group, one
turned away and one that is held. -/
theorem witness_GenerationEvents :
    (let q := { group0 with fits := [(0, 0)] }
     let s : State := { inGroup id with groups := [(0, q)] }
     s.group 0 = some q ∧ s.launch? q.part q.lid = some placedLaunch ∧ placedLaunch.active = true ∧ q.full = true ∧ q.transferred = false ∧
       q.suspended = false ∧ q.reading = none ∧ q.begun = false ∧ q.members.Nodup ∧ q.counted ≤ q.held.length ∧ q.held.length ≤ q.members.length / 2 ∧
       (match (s.readRecords placedLaunch []).1 with | .ok m => m.isEmpty | .error _ => false) = true ∧
       (match (s.readRecords placedLaunch [0]).1 with | .ok _ => false | .error va => va == placedLaunch.recordVa 0) = true) ∧
    (let q := { group0 with fits := [(0, 0)], transferred := true }
     let s : State := { inGroup id with groups := [(0, q)] }
     s.group 0 = some q ∧ s.shawmFlushing q.part q.lid = false ∧ q.members.Nodup ∧ q.even = false) ∧
    (let q := { group0 with dws := [0x38000, 0, 0, 0] }
     let m : Msg := { chan := 3, tag := 1, bytes := leBytes 8 0, src := 0 }
     let s := inGroup fun c => { c with mem := entry3 }
     q.even = true ∧ q.evchan = 3 ∧ s.inbufRoom 0 m = true ∧ (s.core 0).part = .running ∧ (s.core 0).control.dstop = false ∧ (s.core 0).inbuf = [] ∧
       (s.core 0).placement 3 8 = .at_ 0x3008 ∧ (base.core 0).placement 3 8 = .undeliverable ∧ ({ base with ip := [] } : State).inbufRoom 0 m = false ∧
       (onCore fun c => { c with inbuf := [m] }).me.inbuf.any (fun y => y.chan == 3) = true) ∧
    (let s := onNet exported (inGroup id)
     s.net = [(0, exported)] ∧ exported.reply = false ∧ exported.home = .core exported.dcn ∧ exported.remote = some (1, 7) ∧ exported.issuer.isSome = true ∧
       s.batchOf exported = some (batch0, [(0, exported)]) ∧ s.batchWaits exported.part batch0 = false ∧ exported.marked = false ∧ base.group 0 = none ∧ s.group 0 = some group0 ∧ group0.part = exported.part ∧
       group0.part ≠ { exported with part := 1 }.part ∧ group0.migin = false ∧ wbit (s.ipOf 0x04C) 13 = true ∧
       wbit (({ s with ip := [] } : State).ipOf 0x04C) 13 = false) ∧
    (let q := { group0 with dws := [0x4000, 0, 0, 0], members := [0, 1] }
     q.migin = true ∧ q.held.length + 1 ≤ q.members.length / 2) := by decide +kernel

/-- An exception at U into an idle and into a busy CT, and one in CT; records that wait for an idle CT. -/
theorem witness_TrapEntryRules :
    base.isS = false ∧ base.me.trap.busy = false ∧ base.curCtx ≤ 10 ∧ (onCore fun c => { c with trap := { busy := true } }).me.trap.busy = true ∧
    (inCT id).isS = true ∧
    (let s := onCore fun c => { c with trap := { precise := [{ cause := 1 }], queue := [{ cause := 2 }] } }
     (s.core (0 : CoreNo).toNat).trap.busy = false ∧ (s.core 0).control.halted = false ∧ (s.core 0).trap.precise = [{ cause := 1 }]) ∧
    (let s := onCore fun c => { c with trap := { queue := [{ cause := 2 }], late := [{ cause := 0x81 }] } }
     (s.core 0).trap.precise = [] ∧ (s.core 0).trap.queue = [{ cause := 2 }] ∧ (s.core 0).trap.late = [{ cause := 0x81 }]) := by decide +kernel

/-- tret: a record that keeps its context and one that lets it go on, with TPC moved and not, after a watch, a stop request, a
divergence, with another record ready and none. -/
theorem witness_TrapReturn :
    (inCT id).isS = true ∧
    (let s := inCT fun c => { c with trap := { busy := true, tcause := 0x4000000000000000 } }; wbit s.me.trap.tcause 62 = true) ∧
    (let s := inCT fun c => { c with ctx := [(0, x0), (11, { x0 with g := [(1, 1)] })] }; (s.readG 1).getLsbD 0 = true) ∧
    (let s := inCT id; ¬(wbit s.me.trap.tcause 62 = true ∨ (s.readG 0).getLsbD 0 = true) ∧ wfld s.me.trap.tcause 54 4 < 11 ∧
      ¬(s.me.trap.tpc.toNat ≠ wfld (SMap.get (0 : Word) s.me.trap.frec 0) 0 22) ∧ s.me.trap.precise = [] ∧ s.me.trap.queue = [] ∧
      wfld (SMap.get (0 : Word) s.me.trap.frec 0) 56 8 ≠ 0x15) ∧
    (let s := inCT fun c => { c with trap := { busy := true, tpc := 4 } }; s.me.trap.tpc.toNat ≠ wfld (SMap.get (0 : Word) s.me.trap.frec 0) 0 22) ∧
    (let r := fun w : Word => (inCT fun c => { c with trap := { busy := true, frec := [(0, w)] } }).me.trap.frec
     wfld (SMap.get (0 : Word) (r 0xA100000000000000) 0) 56 8 = 0xA1 ∧ wfld (SMap.get (0 : Word) (r 0x1500000000000000) 0) 56 8 = 0x15 ∧
       wfld (SMap.get (0 : Word) (r 0xA400000000000000) 0) 56 8 = 0xA4) ∧
    (inCT fun c => { c with trap := { busy := true, precise := [{ cause := 1 }] } }).me.trap.precise = [{ cause := 1 }] ∧
    (let s := inCT fun c => { c with trap := { busy := true, queue := [{ cause := 2 }] } }
     s.me.trap.precise = [] ∧ s.me.trap.queue = [{ cause := 2 }]) := by decide +kernel

/-- A copy that is suspended. -/
def stuckCopy : CopyOp := { id := 0, ctx := 0, report := {}, src := 0, dst := 0, len := 0, shape := 0, pblk := 0, side := 0, ticket := 0, rm := 0,
                            slk := 0, stream := 0, rndctr := 0, table := [], phase := .suspended }

/-- Selectors outside and inside each file, special registers that may and may not be written, doublewords with an error;
suspended operations of each kind. -/
theorem witness_TrapContextAccess :
    (let bad := fun k file n : Nat => decide (11 < k ∨ 5 < file ∨ ((file = 2 ∨ file = 3) ∧ 7 < n) ∨ (file = 4 ∧ 3 < n))
     [bad 12 0 0, bad 0 6 0, bad 0 2 8, bad 0 3 8, bad 0 4 4, bad 11 0 31, bad 11 1 31, bad 0 2 7, bad 0 3 7, bad 0 4 3, bad 0 5 31] =
       [true, true, true, true, true, false, false, false, false, false, false]) ∧
    readOnlySpecial 0x040 = true ∧ readOnlySpecial 0x802 = false ∧ readOnlySpecial 0x008 = false ∧ readOnlySpecial 0x803 = false ∧
    (inCT id).curCtx = 11 ∧ (let w : Word := 0x62000
     pfxLegal (w.extractLsb' 18 4) (w.extractLsb' 17 1) (w.extractLsb' 13 4) (w.extractLsb' 12 1) (w.extractLsb' 9 3) (w.extractLsb' 8 1) = true) ∧
    (let s := inCT fun c => { c with ctx := [(0, { x0 with bad := [keyV 31 * 32 + 31] }), (11, x0)] }; keyV 31 * 32 + 31 ∈ (s.me.cx 0).bad) ∧
    (keyG 0 * 32 ∉ ((inCT id).me.cx 0).bad) ∧
    (¬∃ o ∈ (inCT id).me.copies, o.id = 0 ∧ o.phase = .suspended) ∧
    (∃ o ∈ (inCT fun c => { c with copies := [stuckCopy] }).me.copies, o.id = 0 ∧ o.phase = .suspended) ∧
    (inCT id).suspendedGroup 0 0 = none ∧
    (let q := { group0 with suspended := true }
     ({ inCT id with groups := [(0, q)] } : State).suspendedGroup 0 0 = some (0, q)) ∧
    (∀ o ∈ (inCT id).me.susp, ¬(o.opkind = 2 ∧ o.opid = 0)) ∧
    (⟨2, 0, 0⟩ : Suspended) ∈ (inCT fun c => { c with susp := [⟨2, 0, 0⟩] }).me.susp := by decide +kernel
/-! ### Witnesses: packets and messages -/

/-- A message that is placed, one that is held, one that has no place, one for a core whose part has ended; a held message; a
selection; cores at both ends of the mesh. -/
theorem witness_MessageEvents :
    (let p := pk (.message msg3)
     let s := onNet p (onCore fun c => { c with mem := entry3 })
     s.packet 0 = some p ∧ p.remote = none ∧ msg3.chan < 64 ∧ s.inbufRoom 0 msg3 = true ∧ s.door p 0 = .accept ∧ (s.core 0).part ≠ .none ∧
       (s.core 0).part ≠ .ended ∧ (s.core 0).control.dstop = false ∧ (s.core 0).inbuf = [] ∧ (s.core 0).placement 3 8 = .at_ 0x3008) ∧
    (onCore fun c => { c with mem := Memory.setNum entry3 0x870 8 0x10, placed := [(0x3000, msg3)] }).me.placement 3 8 = .held ∧
    base.me.placement 3 8 = .undeliverable ∧
    (let c := (onCore fun c => { c with mem := entry3, bad := [0x10F], inbuf := [msg3] }).me
     c.placement 3 8 = .badEntry ∧ c.inbuf.find? (fun m => m.chan == (3 : BitVec 6).toNat) = some msg3 ∧ c.control.dstop = false ∧
       (c.trap.queue.filter fun q => !keptCause q.cause).length < 12) ∧
    (let s := onNet (pk (.message msg3)) (onCore fun c => { c with part := .ended }); s.door (pk (.message msg3)) 0 ≠ .hold ∧ (s.core 0).part = .ended) ∧
    (let c := (onCore fun c => { c with mem := entry3, inbuf := [msg3] }).core 0
     c.inbuf.find? (fun m => m.chan == (3 : BitVec 6).toNat) = some msg3 ∧ c.control.dstop = false ∧ c.placement 3 msg3.bytes.length = .at_ 0x3008) ∧
    (let s := withMsg id
     s.me.selectionDue = true ∧ s.me.choose = some 3 ∧ s.me.freeCtx = some 1 ∧ s.me.oldest 3 = some (0x3000, msg3) ∧ s.me.badIn (0x800 + 32 * 3) 32 = false ∧
       wbit (s.debugOf (s.partOf 0)).trctl 63 = false ∧ (s.replayLog 0).1 = 0) ∧
    base.onMesh 0 = true ∧ base.onMesh 2047 = true := by decide +kernel

/-- Requests at core 0 and at a global address, as a core and a channel take them, refuse them, lack their capability or meet an
error. -/
theorem witness_HomeOperations :
    (let p := pk (.put [1])
     let s := onNet p base
     s.packet 0 = some p ∧ p.reply = false ∧ p.remote = none ∧ p.marked = false ∧ s.behindOwn 0 p = false ∧ s.door p 0 = .accept ∧
       s.coreRefuses 0 0x2000 1 = false ∧ (onCore fun c => { c with bad := [0x400] }).me.badPartly 0x2000 1 = true ∧
       s.coreRefuses 0 0x1FFF 1 = true ∧ s.coreRefuses 0 0x2FFFFF 2 = true ∧ (s.core 0).badPartly 0x2000 1 = false ∧ s.door p 1 = .refuse) ∧
    (let p := { pk (.put [1]) with home := .hbm 0 0, addr := 0x1FFF }
     let s := onNet p (mapped base)
     s.behindOwn 0 p = false ∧ (match (s.translateRange (some p.cn) p.part p.addr 1 .write).1 with
       | .ok ps => ps == [(0x3FFF, 1)] && !s.globalProtected ps && !(s.sequencerField 0x3FFF) | .error _ => false) = true ∧ s.gbad = [] ∧
       (pieceBytes [(0x3FFF, 1)]).Nodup ∧ (0x3FFF / 8 ∈ ({ s with gbad := [0x7FF] } : State).gbad ∧ 0x3FF8 ∉ pieceBytes [(0x3FFF, 1)]) ∧
       (match (s.translateRange (some p.cn) p.part 0x2000 1 .write).1 with | .ok _ => false | .error _ => true) = true) ∧
    (let g : Home := .hbm 0 0
     let l := { placedLaunch with seqs := [(0, { seq1 with lines := [⟨0, (mapped base).homeOf 0x3FC0, 0x3FC0, 0⟩] })] }
     let s := mapped (onLaunch fun _ => l)
     s.globalProtected [(0x3FFF, 1)] = true ∧ s.lineProtected (s.homeOf 0x3FF8) 0x3FF8 8 = true ∧ (∀ cn < 2048, g ≠ .core cn) ∧
       (match (s.translate (some 0) 0 0x2000 .rmw).1 with | .ok _ => false | _ => true) = true ∧ ({ s with gbad := [0x7FF] } : State).gbadIn 0x3FF8 8 = true) ∧
    (let p := pk (.halo 1 [1])
     let s := onNet p base
     s.packet 0 = some p ∧ (∀ e ∈ s.net, e.1 < 0 → e.2.halo? = true → e.2.cn = p.cn → e.2.home ≠ p.home) ∧ s.door p 0 = .accept) ∧
    (let p := pk (.atomic .add 8 1 0 true)
     (onNet p base).packet 0 = some p ∧ (onNet p base).coreRefuses 0 p.addr 8 = false ∧ ¬((base.ipOf 0x04C).toNat / 2 ^ 0 % 2 = 0) ∧
       (({ base with ip := [] } : State).ipOf 0x04C).toNat / 2 ^ 0 % 2 = 0 ∧ (onCore fun c => { c with bad := [0x400] }).me.badIn p.addr 8 = true ∧
       base.me.badIn p.addr 8 = false) ∧
    (let s := mapped base
     (s.translate (some 0) 0 0x1FF8 .rmw).1 = .ok 0x3FF8 ∧ inHost 0x3FF8 = false ∧ s.lineProtected (s.homeOf 0x3FF8) 0x3FF8 8 = false ∧
       s.gbadIn 0x3FF8 8 = false ∧ ∀ k < 8, s.sequencerField (0x3FF8 + k) = false) ∧
    (let p := pk (.fpUpdate 2 0 0x3F800000); (onNet p base).packet 0 = some p ∧ ¬((base.ipOf 0x04C).toNat / 2 ^ 4 % 2 = 0)) := by decide +kernel

/-- An answer to a transaction: of a PUT, of an update, of a record operation, of a fetching atomic; RETRY; an acknowledgement;
notices of exhaustion and congestion. -/
theorem witness_AnswersAtIssuer :
    (let answered := fun (st : Nat) (x : Tx) => onNet { pk (.reply st []) with reply := true } (onCore fun c => { c with txs := [x] })
     let p := fun st : Nat => { pk (.reply st []) with reply := true }
     (answered 0 put1).packet 0 = some (p 0) ∧ (answered 0 put1).txOf (p 0) = some put1 ∧ put1.fetch = false ∧ put1.ticketed = false ∧
       ((answered 5 put1).core 0).trap.queue.length < 12 ∧ (answered 2 { put1 with ticketed := true }).txOf (p 2) = some { put1 with ticketed := true } ∧
       (answered 0 { put1 with fetch := true }).txOf (p 0) = some { put1 with fetch := true } ∧
       (answered 1 { put1 with kind := 15 }).txOf (p 1) = some { put1 with kind := 15 } ∧ put1.ctx ≠ 11 ∧
       ((answered 0 { put1 with kind := 15 }).core 0).txs.all (fun y => y.seq == (p 0).seq) = true ∧
       (∃ y ∈ [{ put1 with kind := 15 }, { put1 with kind := 15, seq := 1 }], y.kind = 15 ∧ y.first = 0 ∧ y.seq ≠ (p 0).seq) ∧
       ({ put1 with slk := 2 ^ 30 } : Tx).slk / 2 ^ 30 % 2 = 1 ∧ put1.copy = none ∧ put1.body = .put [] ∧
       ({ put1 with kind := 15, failed := true } : Tx).failed = true ∧
       ((answered 6 put1).launchOf 0).isSome = true ∧ ((answered 6 put1).targetOf 0 put1.dest put1.report.addr).1 = .core 0) ∧
    (let r : Reply := { tx := some 0, owner := 0, orphan := false, answer := none }
     ∀ q ∈ (onCore fun c => { c with q3 := [r] }).me.q3, q.tx = some 0 → q.orphan = false) ∧
    ((onCtx fun x => { x with wait := .sent 1 }).me.cx 0).wait = .sent (2 * put1.seq + 1) ∧ put1.first = put1.seq ∧
    (let p := { pk (.haloAck 0) with reply := true }
     (onNet p owing).packet 0 = some p ∧ (onNet p owing).txOf p = some put1 ∧ p.marked = false) ∧
    (let p := pk .exhausted
     (onNet p owing).packet 0 = some p ∧ p.slk / 2 ^ 30 % 2 = 0 ∧ p.first ∉ (owing.core 0).noticed ∧ { p with slk := 2 ^ 30 }.slk / 2 ^ 30 % 2 = 1 ∧
       p.kind ≠ 15 ∧ p.first ∈ (onCore fun c => { c with noticed := [0] }).me.noticed) ∧
    (let p := pk (.congestion (.core 1))
     (onNet p base).net.find? (fun e => e.2.home == .core 0 && e.2.body == .congestion (.core 1)) = some (0, p)) ∧
    base.onMesh 2047 = true := by decide +kernel

/-- An open sequence over 100 tickets of the line at 0x3000, its launch, and an update of the line's last element. -/
def seq100 : Seq := { seq1 with p := 100 }
def launch100 : Launch := { placedLaunch with seqs := [(0, seq100)] }
def update0 : Packet := { pk (.ticket 2 0 [(15, 0x3F800000)]) with addr := 0x303C }
def atSeq : State := onNet update0 (withSeq seq100 x0)

/-- The same sequence over a line of global memory, and an update at it. -/
def seqG : Seq := { seq100 with base := 0x6000000000001000, lines := [⟨0, base.homeOf 0x3000, 0x3000, 0⟩] }
def updateG : Packet := { pk (.ticket 2 0 [(15, 0x3F800000)]) with home := .hbm 0 0, addr := 0x103C }
def atSeqG (f : State → State) : State := onNet updateG (f (mapped (onLaunch fun l => { l with seqs := [(0, seqG)] })))

/-- Updates at an open sequence's line: applied; held; beyond the window; with no free entry; at and beyond P; outside the sequence; a
duplicate; at a part that is closing, stopped or stopping, and over an error; at a core that refuses and at one whose launch is stopped. -/
theorem witness_TicketsAtHome :
    (atSeq.packet 0 = some update0 ∧ atSeq.door update0 0 = .accept ∧ ¬(fld (atSeq.ipOf 0x04C).toNat (updateCap 7 2) 1 = 0) ∧
      update0.addr / 64 * 64 = 0x3000 ∧ atSeq.seqAt 0 (.core 0) 0x3000 = some (launch100, 0, seq100, ⟨0, .core 0, 0x3000, 0⟩) ∧
      atSeq.launch? launch100.part launch100.lid = some launch100 ∧ (2 = seq100.fmt ∧ 0 < seq100.p ∧ seq100.state = .opened ∧ seq100.queried = []) ∧
      seq100.due = [] ∧ seq100.line 0 = some ⟨0, .core 0, 0x3000, 0⟩ ∧ launch100.state ≠ .stopping) ∧
    (atSeq.lineBad (.core 0) 0x3000 4 [(15, 0x3F800000)] = none ∧ (¬∃ u ∈ seq100.held, u.line = 0 ∧ u.ticket = 0) ∧ ([(15, 0x3F800000)].map (·.1)).Nodup ∧
      updateG.addr / 64 * 64 = 0x1000) ∧
    (31 < 0 + (atSeq.ipOf 0x043).toNat ∧ 0 + 1 < (atSeq.ipOf 0x043).toNat ∧ 0 + (atSeq.ipOf 0x043).toNat ≤ 32 ∧ 32 < seq100.p ∧ seq100.p ≤ 100) ∧
    (let held := (List.range 31).map fun k => (⟨0, k + 1, []⟩ : HeldUpdate)
     (atSeq.ipOf 0x043).toNat ≤ (held.filter fun u => ((seq100.line u.line).map (·.home)) == some (Home.core 0)).length + 1) ∧
    atSeq.seqAt 0 (.core 0) 0x3040 = none ∧ (⟨0, .core 0, 0x3000, 1⟩ : Line).ctr = 0 + 1 ∧ base.door (pk (.put [])) 1 = .refuse ∧
    (∃ x ∈ ({ seq100 with queried := [(0, 0, 0)] } : Seq).queried, seq100.parts[x.1]? = some (.core 0)) ∧
    ({ seq100 with state := .stopped } : Seq).state = .stopped ∧ (({ launch100 with state := .stopping } : Launch).state = .stopping ∧ 2 ≠ launch100.lid) ∧
    (onNet update0 (onCore fun c => { c with bad := [0x607] })).lineBad (.core 0) 0x3000 4 [(15, 0x3F800000)] = some 56 ∧
    ({ onLaunch (fun l => { l with state := .stopped, saved := [(0, c0)] }) with cores := [] } : State).door (pk (.put [])) 0 = .hold := by
  decide +kernel

/-- Updates at a line in global memory: one that arrives at it, one whose address does not translate, one in host memory. -/
theorem witness_TicketsAtHomeGlobal :
    ((atSeqG id).packet 0 = some updateG ∧ (∀ cn < 2048, updateG.home ≠ .core cn) ∧
      (match (atSeqG id).translate (some 0) 0 0x103C .rmw with
       | (.ok pa, v) => pa == 0x303C && !inHost pa && v.seqAt 0 (v.homeOf pa) 0x3000 == some ({ placedLaunch with seqs := [(0, seqG)] }, 0, seqG, ⟨0, base.homeOf 0x3000, 0x3000, 0⟩) &&
           (v.lineBad (v.homeOf pa) 0x3000 4 [(15, 0x3F800000)]).isNone
       | _ => false) = true ∧ ∀ k < 64, (atSeqG id).sequencerField (0x3000 + k) = false) ∧
    (match ((atSeqG id).translate (some 0) 0 0x2000 .rmw).1 with | .ok _ => false | _ => true) = true ∧
    (match ((atSeqG fun s => { s with gmem := Memory.setNum s.gmem 0x13008 8 (2 ^ 45 + 15) }).translate (some 0) 0 0x103C .rmw).1 with
     | .ok pa => inHost pa | _ => false) = true := by decide +kernel

/-- The requests of tsopen, tdrain and tsclose at the one part of a sequence: where the part can open, meets another sequence's
line, finds no room; of a sequence that is there, that is done, and that is not there. -/
theorem witness_SequenceRequests :
    (let q := { seq1 with state := .opening }
     let l := { placedLaunch with seqs := [(0, q)] }
     let p := { pk (.seqOpen 0 0) with addr := 0 }
     let s := onNet p (onLaunch fun _ => l)
     s.packet 0 = some p ∧ s.launch? p.part p.lid = some l ∧ l.openingIn 0 = some q ∧ (l.part = p.part ∧ l.lid = p.lid) ∧
       (∀ ln ∈ q.lines.filter (fun ln => ln.home == p.home), s.lineProtected p.home ln.addr 64 = false) ∧ s.partFits p.home = true ∧
       ({ s with launches := [{ placedLaunch with seqs := [(0, q), (1, seq1)] }] } : State).lineProtected p.home 0x3000 64 = true) ∧
    (let p := { pk (.seqQuery 0 0) with addr := 0x100 }
     let s := onNet p (withSeq seq1 x0)
     let l := { placedLaunch with seqs := [(0, seq1)] }
     s.packet 0 = some p ∧ s.seqOf p.cn (.ofNat 64 p.addr) = some (l, 0, seq1) ∧ s.launch? l.part l.lid = some l ∧ seq1.queried = [] ∧ seq1.due = [] ∧
       s.seqOf p.cn 0x200 = none) ∧
    (pk (.seqDrain 0 0)).body = .seqDrain 0 0 ∧
    (let q := { seq1 with lines := [⟨0, .core 0, 0x3000, 1⟩] }; ∀ ln ∈ q.lines, ln.home = .core 0 → ln.ctr = q.p) := by decide +kernel

/-- Core 0 holds as many open parts as it has room for, and one more sequence opens on another line. -/
def openingSeq : Seq := { seq1 with state := .opening }
def crowd : List (Nat × Seq) := (List.range (4 + Config.extraParts 0)).map fun n => (n + 1, { seq1 with lines := [⟨0, .core 0, 0x9000, 0⟩] })
def crowded : State := onNet { pk (.seqOpen 0 0) with addr := 0 } (onLaunch fun l => { l with seqs := (0, openingSeq) :: crowd })

theorem witness_SequenceOpenFull :
    crowded.packet 0 = some { pk (.seqOpen 0 0) with addr := 0 } ∧
    crowded.launch? 0 1 = some { placedLaunch with seqs := (0, openingSeq) :: crowd } ∧
    ({ placedLaunch with seqs := (0, openingSeq) :: crowd } : Launch).openingIn 0 = some openingSeq ∧
    crowded.lineProtected (.core 0) 0x3000 64 = false ∧ crowded.partFits (.core 0) = false := by
  refine ⟨rfl, rfl, rfl, ?_, ?_⟩
  · have hs : crowded.launches = [{ placedLaunch with seqs := (0, openingSeq) :: crowd }] := rfl
    simp [State.lineProtected, State.seqLines, hs, crowd, openingSeq, seq1, Seq.holdsAt, overlaps]
  · have hs : crowded.launches = [{ placedLaunch with seqs := (0, openingSeq) :: crowd }] := rfl
    simp [State.partFits, State.openParts, hs, crowd, openingSeq, seq1, Seq.holdsAt, Seq.parts, Home.number, List.eraseDups_cons, List.filter_map, Function.comp_def]

/-- A copy of 8 bytes within cluster-shared memory of its core, one toward global memory, one from there, and a copy of one B4X block
whose codes and scale go to global memory. -/
def copy8 : CopyOp := { stuckCopy with src := 0x4000000000003000, dst := 0x4000000000004000, len := 8, phase := .running }
def copyOut : CopyOp := { copy8 with dst := 0x6000000000001000 }
def copyIn : CopyOp := { copy8 with src := 0x6000000000001000 }
def block4 : CopyOp := { copy8 with pblk := 0x2900000000, len := 128, dst := 0x6000000000001000, side := 0x4000000000005000 }

/-- rds of CP.GO with no place, with a fault, with neither; a block that is performed at once, one that packets request, for a source
line or for the write, one whose request is at its home, one that does not translate, one over an error; the answers; completions. -/
theorem witness_Copies :
    32 ≤ (onCore fun c => { c with copies := List.replicate 32 stuckCopy }).me.copies.length ∧
    (let s := onCtx fun x => { x with cpPblk := 0x2000, cpSrc := 0x4000000000003000, cpDst := 0x4000000000004000, cpLen := 8 }
     s.me.copies.length < 32 ∧ (s.copyChecks s.copyOf).find? (fun f => f.1) = none) ∧
    ((base.copyChecks base.copyOf).find? fun f => f.1).isSome = true ∧
    (let s := onCore fun c => { c with copies := [copy8] }
     let cells := fun a => (span a 8).map fun x => (0, x)
     let o := { copy8 with pages := some [] }
     s.me.copies.find? (fun o => o.id == (0 : BitVec 16).toNat) = some copy8 ∧ copy8.phase = .running ∧ copy8.recen = false ∧ copy8.acc ≠ 5 ∧
       copy8.plain = true ∧ copy8.acc = 0 ∧ copy8.pages = none ∧ (s.translatePart 0 copy8).1.toOption = some [] ∧
       s.nextRequests 0 o = [] ∧ o.missing 0 = none ∧ o.farDsts 0 = [] ∧ (cells 0x4000).Nodup ∧
       (let b := s.plan 0 o
        b.n = 8 ∧ b.src = (List.replicate 8 (0 : Byte)).map some ∧ b.dst = .cells (cells 0x4000) ∧ s.writeBad b.dst = none ∧
          s.siteRefuses b.dst false = false)) ∧
    (let s := onCore fun c => { c with copies := [copy8], bad := [0x600] }
     (s.plan 0 copy8).src.findIdx? (fun e => e.isNone) = some 0 ∧
       copy8.cell 0 (copy8.srcPtr copy8.row + .ofNat 64 (copy8.off + 0)) = some (0, 0x3000)) ∧
    (let s := onCore fun c => { c with copies := [copyOut] }
     (match (s.translatePart 0 copyOut).1 with | .ok _ => false | .error e => e == (0x1000, Xlated.notPresent, true)) = true ∧
       ((mapped s).translatePart 0 copyOut).1.toOption = some [(3, 3)]) := by decide +kernel

/-- A part that has begun, whose packets set out, and which have reached their homes; bad or refused side entries. -/
theorem witness_CopyParts :
    (let s := mapped (onCore fun c => { c with copies := [copyOut] })
     let o := { copyOut with pages := some [(3, 3)] }
     o.missing 0 = none ∧ o.farDsts 0 = [0x3000] ∧ (s.nextRequests 0 o).map (·.2) = [(0x3000, .copyBlock 0)] ∧ s.me.choked = false ∧
       s.me.windowFull ((s.farHome 0x3000).1.key) = false) ∧
    (let s := mapped (onCore fun c => { c with copies := [copyIn] })
     let o := { copyIn with pages := some [(2, 3)] }
     o.missing 0 = some 0x3000 ∧ (s.nextRequests 0 o).map (·.2) = [(0x3000, .copyRead 0 0x3000)]) ∧
    (let o := { block4 with pages := some [(3, 3)], side := 0x4200000000005000 }
     o.farDsts 0 = [0x3000, 2 ^ 50 + 1 * 2 ^ 22 + 0x5000] ∧ (base.nextRequests 0 o).length = 2 ∧
       ∀ e ∈ base.nextRequests 0 o, base.me.windowFull e.1.key = false) ∧
    (let o := { copyOut with phase := .waiting 0, pages := some [(3, 3)] }
     let p := { pk (.copyBlock 0) with xfer := some 0 }
     let s := onNet p (onCore fun c => { c with copies := [o] })
     s.blockRequests 0 o = [(0, p)] ∧ p.marked = false ∧ p.remote = none) ∧
    (let o := { copyIn with phase := .waiting 0, pages := some [(2, 3)] }
     let p := { pk (.copyRead 0 0x1000) with xfer := some 0 }
     let s := onNet p (onCore fun c => { c with copies := [o] })
     s.blockRequests 0 o = [(0, p)] ∧ (s.farLine 0x1000).length = 64) ∧
    (let o := { block4 with phase := .waiting 0, pages := some [(3, 3)] }
     let p := { pk (.copyBlock 0) with xfer := some 0 }
     let s := onNet p (onCore fun c => { c with copies := [o], bad := [0xA00] })
     let b := s.plan 0 o
     s.blockRequests 0 o = [(0, p)] ∧ o.recen = false ∧ o.acc = 0 ∧ (∀ e ∈ b.src ++ b.srcSide, e.isSome = true) ∧ s.writeBad b.dst = none ∧
       s.writeBad b.dstSide = some 0) ∧
    (let o := { block4 with phase := .waiting 0, pages := some [(3, 3)] }
     let s := onCore fun c => { c with copies := [o], part := .ended }
     let b := s.plan 0 o
     s.writeBad b.dstSide = none ∧ s.siteRefuses b.dstSide false = true) := by decide +kernel

/-- The answers of a copy's requests, and completions. -/
theorem witness_CopyAnswers :
    (let x := { put1 with kind := 4, copy := some 0, body := .copyRead 0 0x1000 }
     let p := { pk (.reply 0 []) with reply := true, kind := 4 }
     let s := onNet p (onCore fun c => { c with copies := [{ copyIn with phase := .waiting 0 }], txs := [x] })
     s.packet 0 = some p ∧ s.txOf p = some x ∧ x.ctx ≠ 13 ∧ x.fetch = false ∧ x.ticketed = false) ∧
    ({ copy8 with phase := .answered 0 [] }.phase = .answered 0 []) ∧ ({ copy8 with phase := .answered 3 [1] }.phase = .answered 3 [1]) ∧
    (let y := { copy8 with pblk := 0x100, phase := .stopped 0 }; y.phase = .stopped 0 ∧ y.note = 1) ∧
    ({ copy8 with phase := .stopped 3 } : CopyOp).note = 0 ∧ ({ copy8 with pblk := 0x200, phase := .stopped 0 } : CopyOp).note = 2 ∧ base.me.q0.length < 32 := by
  decide +kernel

theorem witness_RecordEvents :
    (let p := { pk (.flush 0 { amax := 1 }) with home := .hbm 0 0, addr := 0x1FC0 }
     let s := onNet p (mapped base)
     s.packet 0 = some p ∧ (s.core 0).suspended 0 = false ∧ p.marked = false ∧ p.ctx ≠ 12 ∧ (s.translate (some 0) 0 0x1FC0 .read).1 = .ok 0x3FC0) ∧
    (pk (.recRead 0)).body = .recRead 0 ∧ base.me.statEntry 0 = none ∧
    (let x := { put1 with ctx := 13, kind := 15, body := .recRead 0 }
     let p := { pk (.reply 0 (List.replicate 9 0)) with reply := true, ctx := 13 }
     let o := { stuckCopy with pblk := 0x80000000000 }
     let s := onNet p (onCore fun c => { c with txs := [x], copies := [o] })
     s.packet 0 = some p ∧ s.txOf p = some x ∧ p.marked = false ∧ o.recen = true ∧ o.recid = 0 ∧ (List.replicate 9 (0 : Word)).getD 8 0 = .ofNat 64 s.me.syncs ∧
       s.me.stats.length < 8 ∧ (1 : Word) ≠ .ofNat 64 s.me.syncs ∧ s.fillWaits 0 x = false) ∧
    (let en := entryOf 0 0
     let s := onCore fun c => { c with stats := [en] }
     s.flushHeld 0 en = none ∧ s.me.choked = false) ∧ (base.launch? ((entryOf (2 ^ 20) 0).recid / 2 ^ 52) 1 = some placedLaunch) ∧
    (onNet { pk (.flush 0 {}) with ctx := 15 } (onCore fun c => { c with txs := [put1] })).me.txs.find? (fun y => y.seq == 0) = some put1 ∧
    base.me.stats.length < 8 ∧ maxOf (recTgt 0) = none ∧ (∀ k < 64, (mapped base).sequencerField (0x3FC0 + k) = false) ∧ (pk (.recClear 0 0x80 7)).body = .recClear 0 0x80 7 ∧
    ((pk (.recFreeze 0 0 1 255)).body = .recFreeze 0 0 1 255 ∧ 1 < 2) ∧ (pk (.recFreeze 0 2 0 0)).body = .recFreeze 0 2 0 0 ∧
    ((base.translate (some 0) 0 0x1FC0 .read).1 = .notPresent) ∧
    (onCtx fun x => { x with wait := .sent 0 }).cx.wait = .sent (2 * 0) ∧
    (onCore fun c => { c with stats := List.replicate 8 (entryOf 0 0) }).me.stats[7]? = some (entryOf 0 0) ∧
    ({ base with shawmStats := [entryOf 0 0] } : State).shawmStats[0]? = some (entryOf 0 0) := by decide +kernel
/-! ### Witnesses: launches, commands, the fabric, management, steps -/

/-- Partition 0 over the whole mesh, with one ready record (or command) at virtual address 0x1000, which is 0x3000. -/
def descAll : List Word := [0xFFFFFFFFFFFFFFFF, 0xFFFFFFFFFFFFFFFF, 0x8000000000000001, 0x10000, 0x8000, 0, 0, 0]
def queued (dws : List (Nat × Nat)) (ls : List Launch) : State :=
  let m := Memory.setNum (Memory.setNum tables 0x8240 8 0x6000000000001000) 0x8248 8 0x8003000000000000
  let m := Memory.setNum (Memory.setNum m 0x8008 8 0x6000000000001000) 0x30F8 8 0x8000000000000000
  { base with gmem := dws.foldl (fun m d => Memory.setNum m (0x3000 + 8 * d.1) 8 d.2) m, parts := [(0, descAll)], launches := ls,
              mgmt := { State.reset.mgmt with started := 1000 } }
/-- A record for a 1 by 1 launch at core 0 with entry 0x2000, an extension block of zeros at 0x1100 and a completion record at 0x1FE0;
and one that asks for ORDERED with the image that is there. -/
def record1 : List (Nat × Nat) :=
  [(0, 0x0110000000000000), (1, 0x01010000), (2, 0x100000000), (3, 0x2000), (5, 0x2000), (9, 0x6000000000001100), (13, 0x6000000000001FE0)]
def record2 : List (Nat × Nat) := (0, 0x01D0000000000000) :: record1.drop 1
/-- The core of a launch as one that has been prepared, or whose C0 has finished. -/
def preparedCore : State := onCore fun c => { c with part := .prepared, ctx := [] }
def finished : State := onCtx fun x => { x with finishing := true }

/-- The doublewords of such a record. -/
def words (dws : List (Nat × Nat)) : List Word := (List.range 32).map fun k => .ofNat 64 (SMap.get 0 (dws ++ [(31, 0x8000000000000000)]) k)

/-- A ready record at the head of queue 0; one whose type is wrong, with a completion record that can and that cannot be written;
one that is accepted at core 0. -/
theorem witness_LaunchRecordReady :
    (let s := queued [] []
     s.partEn 0 = true ∧ s.nextCommand 0 = none ∧ s.unitCount ≤ s.mgmt.started ∧ s.chooseHead 0 = some (0, 3, words [])) := by decide +kernel
theorem witness_LaunchRecordRefused :
    (match ((queued [] []).checkRecord 0 (words [])).1 with | .error e => e == (3, 0, 7) | .ok _ => false) = true ∧
    ((queued [] []).writeBlock 0 (dwOf (words []) 13) (completionBytes 0 3 0 0 0 0 7 0 false)).isNone = true ∧
    (let r := [(13, 0x6000000000001FE0)]
     (match ((queued r []).checkRecord 0 (words r)).1 with | .error e => e == (3, 0, 7) | .ok _ => false) = true ∧
     ((queued r []).writeBlock 0 (dwOf (words r) 13) (completionBytes 0 3 0 0 0 0 7 0 false)).isSome = true) := by decide +kernel
theorem witness_LaunchRecordAccepted :
    (match ((queued record1 []).checkRecord 0 (words record1)).1 with | .error _ => false | .ok _ => true) = true ∧
    (queued record1 []).place 0 (words record1) = some (0, 0) ∧ wbit (dwOf (words record1) 0) 55 = false ∧
    (let r := words record2
     let s : State := { queued record2 [] with cores := [(0, { c0 with image := some (0, recIlo r, recIlen r, true, false) })] }
     (match (s.checkRecord 0 r).1 with
      | .error _ => false
      | .ok b => !((s.core 0).holdsImage r).getD (promiseOf b.image.length b.image)) = true ∧
     s.place 0 r = some (0, 0) ∧ wbit (dwOf r 0) 55 = true) := by decide +kernel

theorem witness_LaunchLife :
    (preparedCore.launchOf 0 = some placedLaunch ∧ (preparedCore.core 0).part = .prepared ∧ placedLaunch.active = true) ∧
    (finished.launchOf 0 = some placedLaunch ∧ finished.partDone 0 = true ∧ finished.me.choked = false ∧ finished.me.txs = [] ∧ finished.me.stats = []) ∧
    (let s : State := { base with reports := [⟨0, 1, some 0, 0⟩, ⟨0, 1, none, 0⟩] }
     s.reports[0]? = some ⟨0, 1, some 0, 0⟩ ∧ s.reports[1]? = some ⟨0, 1, none, 0⟩ ∧ s.launch? 0 1 = some placedLaunch ∧ (s.core 0).flushes = 0 ∧
       ∀ c < 2048, c / 256 * 16 + c % 64 / 4 = 0 → 0 = c % 64 / 16 + if c / 64 < s.meshRows / 2 then 0 else 4) ∧
    (let l := { placedLaunch with reported := [0], cpl := 0x1FE0 }
     let s := queued [] [l]
     s.launch? 0 1 = some l ∧ s.mayComplete l = true ∧ l.perf = none ∧ l.stopCmd = none ∧
       (match (s.translateRange none l.part (wfld l.cpl 0 48) 32 .write).1 with | .ok ps => ps == [(0x3FE0, 32)] | .error _ => false) = true) ∧
    (let l := { placedLaunch with done := true, state := .completing }
     let s := onLaunch fun _ => l
     s.launch? 0 1 = some l ∧ l.holds = true ∧ ∀ c ∈ l.cores, (s.core c).quietTrap = true) := by decide +kernel

/-- Partition 0 with one command in its ring. -/
def commanded (op : Nat) (l : Launch) : State :=
  let s := queued [(0, op * 2 ^ 56 + 1), (1, 255), (3, 0x8000000000000000)] [l]
  { s with gmem := Memory.setNum s.gmem 0x8010 8 0x8000000000000000 }

/-- Each command, for no launch and for one in each state that the statement names; a resumption. -/
theorem witness_Commands :
    (let s := commanded 1 placedLaunch
     s.partEn 0 = true ∧ (∀ op < 5, ((commanded op placedLaunch).nextCommand 0).map (fun c => (c.1, wfld (c.2.getD 0 0) 56 8, wfld (c.2.getD 0 0) 0 32)) =
       some (0x6000000000001000, op, 1)) ∧ (∀ l ∈ s.launches, l.part = 0 → (s.stopPhase l).isNone = true) ∧
       s.launch? 0 1 = some placedLaunch ∧ placedLaunch.state = .running ∧ s.launch? 0 2 = none) ∧
    ([LaunchState.accepting, .stopping, .stopped, .reserved, .completing].all fun x =>
      ((commanded 3 { placedLaunch with state := x }).launch? 0 1).map (·.state) == some x) = true ∧
    (match ((commanded 1 placedLaunch).translateRange none 0 (wfld (0x6000000000001000 + 16 : Word) 0 48) 1 .write).1 with
     | .ok ps => ps == [(0x3010, 1)] && decide ((0x3010 : Nat) < (commanded 1 placedLaunch).qtab 0 + 0x018) | .error _ => false) = true ∧
    (let l := { placedLaunch with state := .reserved, holds := false, saved := [(0, c0)] }
     let s := onLaunch fun _ => l
     s.launch? 0 1 = some l ∧ (∀ c ∈ l.cores, ∀ z ∈ s.launches, z.holds = true → z.member c = false) ∧ SMap.rising l.saved = true) := by decide +kernel

/-- The header of a request from package 7, rank 1, core 0, sequence 0, to core 0 of partition 0. -/
def sutre (type kind major minor status : Nat) : SutreHeader :=
  { dw0 := .ofNat 64 (2 ^ 60 + type * 2 ^ 56 + kind * 2 ^ 36 + 7), dw1 := 0, dw2 := .ofNat 64 (2 ^ 32 + 8),
    dw3 := .ofNat 64 (major * 2 ^ 58 + minor * 2 ^ 51 + 0x2000 + status) }
/-- Partition 0 with rank 1 on package 7. -/
def ranked : State :=
  { base with parts := [(0, [0, 0, 0x8000000000000000, 0, 0, 0, 0, 2])], gmem := Memory.setNum [] 16 8 0x8000000000000007 }
def away : Packet := { pk (.put []) with home := .remote 1, remote := some (1, 7) }

/-- Two contenders of class 0 at output 0, whose turn is class 2, for which it has no credit. -/
def contended : Output := { waiting := [⟨0, 0, 0, 0⟩, ⟨4, 1, 0, 0⟩], cls := 2, starved := [2] }
theorem witness_Arbitration :
    (let s : State := { base with net := [(0, { pk (.put []) with slack := 1 }), (1, pk (.put []))], outputs := [(0, contended)] }
     SMap.get {} s.outputs 0 = contended ∧ (contended.waiting.all fun x => (s.packet x.pkt).isSome) = true) ∧
    (contended.waiting.map (·.pkt)).Nodup ∧ ((contended.cls + 1) % 3 ∉ contended.starved) ∧ (∃ x ∈ contended.waiting, x.cls = (contended.cls + 1) % 3) ∧
    (∀ k < 1, (contended.cls + k) % 3 ∈ contended.starved) := by decide +kernel

/-- A request on its way to package 7, with a port that leads there and with none; losses. -/
theorem witness_FabricEvents :
    (let s := onNet away base
     s.packet 0 = some away ∧ away.leaves = true ∧ away.ctx ≠ 12 ∧ (s.portOf 0 7 0 0).isSome = true) ∧
    ({ base with sutreLive := 0 } : State).portOf 0 7 0 0 = none ∧
    (wbit base.sutreLive 35 = true ∧ wbit base.enetLive 15 = true ∧ base.net = [] ∧ (∃ k < 64, k ≠ 35 ∧ wbit base.sutreLive k = true)) ∧
    ({ away with port := some 35 } : Packet).port = some 35 ∧
    (placedLaunch ∈ base.launches ∧ placedLaunch.state = .running ∧ base.launches.Nodup ∧ (base.core 0).trap.queue.length < 12) ∧
    (SMap.has ranked.parts 0 = true ∧ (ranked.rankEntry 0 1).1 = true ∧ (ranked.rankEntry 0 1).2.2.1 = 7 ∧ ranked.launches = [placedLaunch] ∧
      (ranked.rankEntry 0 0).1 = false) ∧
    (base.onMesh 0 = true ∧ base.onMesh 64 = true ∧ base.neighbour 0 2 = some 64) := by decide +kernel

/-- A PUT that arrives from package 7, a duplicate, and one for a partition that is not there. -/
theorem witness_RemoteRequests :
    (let h := sutre 0 1 0x2C 2 0
     h.ver = 1 ∧ h.type = 0 ∧ h.major = 0x2C ∧ h.minor = 2 ∧ ranked.partEn h.dpart = true ∧ (ranked.rankEntry h.dpart h.srank).1 = true ∧
       (ranked.rankEntry h.dpart h.srank).2.2.1 = h.spkg ∧ base.partEn h.dpart = false ∧ filterKey h.dpart h.spkg h.srank = filterKey 0 7 1) ∧
    ranked.net = [] ∧ ranked.early = [] ∧ ranked.filter = [] ∧
    (let h := sutre 0 1 0x2C 2 0
     let p := { pk (.put []) with remote := some (h.srank, h.spkg), own := h.dpkg, part := h.dpart, cn := h.scn, seq := h.seq }
     p.issuer = some (issuerOf h) ∧ p.reply = false ∧ p.leaves = false) ∧
    ([(filterKey 0 7 1, 0, 0, 0, ([] : List Word))].find? fun e => e.1 == filterKey 0 7 1 && e.2.1 == 0 && e.2.2.1 == 0).isSome = true := by
  decide +kernel

/-- A message that arrives from package 7: the next of its flow, and one before its turn. -/
theorem witness_RemoteMessages :
    (let h := sutre 0 0 0x2C 0 0
     let e := { h with dw2 := .ofNat 64 (2 ^ 32 + 2 ^ 16 + 8) }
     h.ver = 1 ∧ h.type = 0 ∧ h.major = 0x2C ∧ h.minor = 0 ∧ h.flowSeq = 0 ∧ e.flowSeq = 1 ∧ (e.flowSeq + 65536 - 0) % 65536 < 2 ^ 15) ∧
    ranked.flows = [] ∧ ranked.net = [] ∧ ranked.early = [] ∧ ranked.filter = [] := by decide +kernel

/-- A reply and notices of package 7, and packets of another version and type. -/
theorem witness_RemoteReplies :
    (let h := { sutre 1 1 0 0 0 with dw3 := 6 }
     h.ver = 1 ∧ h.type = 1 ∧ h.status ≤ 6 ∧ away.outgoing = true ∧ away.cn = h.dcn ∧ away.seq = h.seq ∧ away.part = h.dpart ∧
       away.remote.map (·.2) = some h.spkg) ∧
    (onNet away base).net = [(0, away)] ∧ (sutre 2 1 0 0 0).type = 2 ∧ ({ sutre 2 1 0 0 0 with dw3 := 0 } : SutreHeader).status = 0 ∧
    ({ sutre 2 1 0 0 0 with dw3 := 1 } : SutreHeader).status = 1 ∧ (base.core (sutre 2 1 0 0 0).dcn).job.map (·.1) = some (sutre 2 1 0 0 0).dpart ∧
    (State.reset.core 0).job.map (·.1) ≠ some (sutre 2 1 0 0 0).dpart ∧
    ({ sutre 0 1 0x2C 2 0 with dw0 := 0 } : SutreHeader).ver ≠ 1 ∧ 2 < (sutre 3 0 0 0 0).type := by decide +kernel

/-- An invalidation ring of partition 0 at 0x20020, with its index at 0x20018 and one committed entry. -/
def invalidating (op : Nat) : State :=
  { base with parts := [(0, [0, 0, 0x8000000000000001, 0, 0, 0, 0x20020, 0])],
              gmem := Memory.setNum (Memory.setNum (Memory.setNum [] 0x20020 8 (op * 2 ^ 56)) 0x20028 8 0x1000) 0x20038 8 0x8000000000000000 }

theorem witness_TranslationEvents :
    (let s := mapped base
     (s.core 0).job = some (0, 1) ∧ cacheHit (s.core 0).xcache .read (s.asid 0) 0x1FFF = none ∧ s.dieWalk 0 0x1FFF = .leaf 0x300F 12 ∧
       leafOutcome .rmw 0x300F 12 0x1FFF = .ok 0x3FFF ∧ 0 < (s.ipOf 0x047).toNat ∧ s.dieWalk 0 0x2000 = .stop .notPresent) ∧
    (invalidating 1).nextInvalidation 0 = some (0x20020, 1, 0x1000) ∧ (invalidating 2).nextInvalidation 0 = some (0x20020, 2, 0x1000) ∧
    (invalidating 255).nextInvalidation 0 = some (0x20020, 255, 0x1000) ∧ (invalidating 1).invRing 0 - 8 + 4 ≤ 0x20020 + 16 ∧
    (∀ k < 4, (invalidating 1).sequencerField ((invalidating 1).invRing 0 - 8 + k) = false) ∧ (invalidating 1).sequencerField 0x20030 = false := by decide +kernel

theorem witness_CoreManagement :
    base.onMesh 2047 = true ∧ ((onCore fun c => { c with control := { halted := true } }).core 0).control.halted = true ∧
    (base.me.matrix.powered = true ∧ base.me.matrix.owner = []) ∧ (engine { powered := false } x0).me.matrix.powered = false ∧
    (let s := onCore fun c => { c with control := { dstop := true, dreq := true } }
     s.me.control.dstop = true ∧ s.me.control.dlanded = false ∧ (∀ k, 1 ≤ k → k ≤ 10 → s.unblocked 0 k = false) ∧ s.me.control.dreq = true) ∧
    ({ dstop := true, diverged := true } : Control).dreq = false ∧ (base.launch? 0 1 = some placedLaunch ∧ placedLaunch.holds = true) ∧
    (let l := { placedLaunch with state := .stopped, holds := false, saved := [(0, { c0 with control := { dstop := true } })] }
     (onLaunch fun _ => l).launch? 0 1 = some l ∧ l.holds = false) := by
  refine ⟨by decide +kernel, by decide +kernel, by decide +kernel, rfl, ⟨rfl, rfl, ?_, rfl⟩, rfl, by decide +kernel, by decide +kernel⟩
  intro k h1 h2; interval_cases k <;> rfl

theorem witness_PackageManagement :
    (let s : State := { State.reset with mgmt := { running := true } }
     s.mgmt.running = true ∧ s.mgmt.withheld = false ∧ s.mgmt.started < s.unitCount) ∧
    (let m : Management := { recovery := true, asked := true, cmd := 1 }; m.recovery = true ∧ m.asked = true ∧ m.cmd = 1) ∧
    (let m : Management := { running := true, asked := true, cmd := 0x10 }; m.running = true ∧ m.asked = true ∧ m.cmd = 0x10) ∧
    (let m : Management := { running := true, asked := true, cmd := 1 }; m.running = true ∧ m.asked = true ∧ m.cmd ≠ 0x10) ∧
    (let m : Management := { recovery := true, asked := true, cmd := 0x10 }; m.recovery = true ∧ m.asked = true ∧ m.cmd ≠ 1) ∧
    ((2 : BitVec 2).toNat < 3 ∧ SMap.get 0 State.reset.mgmt.hsem 31 / 256 % 2 = 0 ∧ SMap.get 0 [(31, 257)] 31 / 256 % 2 = 1 ∧
      SMap.get 0 [(31, 257)] 31 % 4 = (1 : BitVec 2).toNat ∧ SMap.rising [(31, 257)] = true) ∧
    State.reset.mayDescribe 15 descAll = true ∧
    ({ base with launches := [], parts := [(0, desc0)] } : State).mayDescribe 0 descAll = true ∧
    ({ base with parts := [(0, [0, 0, 2, 0, 0, 0, 0, 0])] } : State).asid 0 ≠ wfld (descAll.getD 2 0) 0 16 ∧
    (let s : State := { base with launches := [], parts := [(0, [0, 0, 1, 0x20000, 0, 0, 0, 0])] }
     s.mayDescribe 0 descAll = true ∧ s.asid 0 = wfld (descAll.getD 2 0) 0 16 ∧ wfld (s.partDw 0 3) 12 34 ≠ wfld (descAll.getD 3 0) 12 34) ∧
    (0xF8 : BitVec 24).toNat = 8 * (31 : BitVec 5).toNat := by decide +kernel

/-- Local memory with an instruction at 0x2000. -/
def placedCode (i : Instr) : Memory := match encode i with
  | some (n, w) => Memory.write [] 0x2000 (layoutWord n w)
  | none => []
/-- Core 0 is about to store 5 at 0x3000 in a slot whose store is left for later; and to load that doubleword, with its own
store not performed. -/
def storing : State :=
  { onCore fun c => { c with mem := placedCode (.std 0 1 2 0), ctx := [(0, { x0 with g := [(1, 5), (2, 0x3000)] })] } with
    moves := [.slotLate 0] }
def loading : State :=
  { onCore fun c => { c with mem := placedCode (.ldd 0 3 2 0),
                             ctx := [(0, { x0 with g := [(2, 0x3000)], late := [(8 * 0x3000, 64, 5)] })] } with moves := [.slot 0] }

/-- An add that issues, a record that is due, a core with no context to issue, a context that has waited, a word that does not
decode, a core off the mesh, an event. -/
theorem witness_StepRunsDecoded :
    (let s := State.reset.withFetchWord 32 0x80464280
     let u := { s with moves := [] }.issuing 0 0
     s.moves = [.slot 0] ∧ s.onMesh 0 = true ∧ (s.core 0).trapDue = false ∧ s.pick 0 = some 0 ∧ u.cx.wait = .none ∧ u.breakpoint = none ∧ u.fetchFault = none ∧
       decodeBytes (Memory.read u.me.mem u.cx.pc.toNat 4) = some (.ok (.add 0 3 4 5) 4, []) ∧ u.fetchedMajor ≠ 0x3E ∧ u.issueFault (.add 0 3 4 5) = none) ∧
    ({ State.reset with moves := [.slot 0], ip := [] } : State).onMesh 0 = false ∧
    ((onCore fun c => { c with trap := { queue := [{ cause := 0x14 }] } }).core 0).trapDue = true ∧
    ((State.reset.core 0).trapDue = false ∧ State.reset.pick 0 = none) ∧
    (let u := ({ onCtx fun x => { x with wait := .got 0 [], cur := some (.tdrain 0 1 0) } with moves := [] } : State).issuing 0 0
     u.cx.wait ≠ .none ∧ u.cx.cur = some (.tdrain 0 1 0)) ∧
    (let s := State.reset.withFetchWord 16 0
     s.pick 0 = some 0 ∧ (match (({ s with moves := [] } : State).issuing 0 0).issued with | .error r => r == { cause := 0 } | .ok _ => false) = true) ∧
    ((Instr.hostWake 0).wf = true ∧ encode (.hostWake 0) = none) ∧
    (let s := storing; let u := ({ s with moves := [] } : State).issuing 0 0
     s.onMesh 0 = true ∧ (s.core 0).trapDue = false ∧ s.pick 0 = some 0 ∧ (match u.issued with | .ok i => i == .std 0 1 2 0 | _ => false) = true ∧
       u.cx.held = false ∧ u.cx.early = [] ∧ u.cx.late = [] ∧ (u.immAddr 2 0 8).toNat = 0x3000 ∧ u.me.badIn 0x3000 8 = false ∧
       u.storeProtected 0 u.isS 0x3000 8 = false) ∧
    (let s := loading; let u := ({ s with moves := [] } : State).issuing 0 0
     s.onMesh 0 = true ∧ (s.core 0).trapDue = false ∧ s.pick 0 = some 0 ∧ (match u.issued with | .ok i => i == .ldd 0 3 2 0 | _ => false) = true ∧
       u.cx.held = false ∧ u.cx.early = [] ∧ u.cx.late = [(8 * 0x3000, 64, 5)] ∧ (u.immAddr 2 0 8).toNat = 0x3000 ∧ u.me.badIn 0x3000 8 = false) ∧
    base.mayRead 0 0 0x3000 8 = true ∧ (Instr.exit 0).looseness = .strict ∧
    ((loading.core 0).cx 0).late[0]? = some (8 * 0x3000, 64, 5) ∧ (loading.core 0).bad = [] := by decide +kernel

/-- No request of the context's own is in flight; a load that may be left for later, and one that has been. -/
theorem witness_StepRunsDecodedLate :
    (∀ s ∈ [storing, loading], let u := ({ s with moves := [] } : State).issuing 0 0
      s.net = [] ∧ u.ownPackets 0 0 (u.accesses (.std 0 1 2 0)) = [] ∧ u.ownPackets 0 0 (u.accesses (.ldd 0 3 2 0)) = [] ∧ (0 : Nat) ≠ 11) ∧
    (let s := { loading with moves := [.slotLate 0], cores := [(0, (loading.core 0).modCx 0 fun x => { x with late := [] })] }
     let u := ({ s with moves := [] } : State).issuing 0 0
     s.pick 0 = some 0 ∧ (match u.issued with | .ok i => i == .ldd 0 3 2 0 | _ => false) = true ∧ u.cx.late = [] ∧ u.cx.deferred = []) ∧
    (let x : Deferred := ⟨.ldd 0 3 2 0, ⟨0, [], 0, false, 0⟩, [(2, 0x3000)], [], [], [], [], [(0x3000, 8)], [3]⟩
     let s := onCtx fun c => { c with deferred := [x] }
     ((s.core 0).cx 0).deferred[0]? = some x ∧ (s.core 0).badIn 0x3000 8 = false ∧ ((s.core 0).cx 0).held = false ∧
       ((SMap.get 0 x.g 2) + imm12 0 * 8).toNat = 0x3000) := by
  decide +kernel

/-- R172: a store that is left for later is not in memory; its own context reads it; performed, it is there. R167: a load that
was read ahead of an earlier store of another agent returns the older value. -/
theorem test_late_store :
    (match step storing with | .next t => some (Memory.num (t.core 0).mem 0x3000 8, ((t.core 0).cx 0).late) | _ => none) =
      some (0, [(8 * 0x3000, 64, 5)]) ∧
    (match step loading with | .next t => some (((t.core 0).cx 0).rg 3, Memory.num (t.core 0).mem 0x3000 8) | _ => none) = some (5, 0) ∧
    (match ({ loading with moves := [] } : State).outsideStep (.perform 0 0 0) with
      | .next t => some (Memory.num (t.core 0).mem 0x3000 8, ((t.core 0).cx 0).late) | _ => none) = some (5, []) := by decide +kernel

/-- A word of major 0x07 with a reserved bit set. -/
theorem witness_ScalarArithmeticAndShifts : (0x81C00040 : Nat) < 2 ^ 32 ∧ fld 0x81C00040 31 1 = 1 ∧ fld 0x81C00040 22 6 = 7 ∧
    fld 0x81C00040 6 4 ≠ 0 ∧ decodeTableWord 32 0x81C00040 = none := by decide +kernel

/-- Core 0 is about to store the three bits of 5 from bit 4 of 0x3000, and to load that byte with those bits left for later. -/
def bitStoring : State :=
  { onCore fun c => { c with mem := placedCode (.bstI 0 1 0 2), ctx := [(0, { x0 with g := [(1, 5)], b := [(0, 0x18004)] })] } with
    moves := [.slotLate 0] }
def bitLoading : State :=
  { onCore fun c => { c with mem := Memory.write (placedCode (.ldb 0 3 2 0)) 0x3000 [0x8F],
                             ctx := [(0, { x0 with g := [(2, 0x3000)], late := [(0x18004, 3, 5)] })] } with moves := [.slot 0] }

/-- R172, R54: bits that are left for later are not in memory, but their own context reads them with the byte's other bits; performed,
they are there, and the other bits stay. -/
theorem test_late_bits :
    (match step bitStoring with | .next t => some (Memory.num (t.core 0).mem 0x3000 1, ((t.core 0).cx 0).late) | _ => none) =
      some (0, [(0x18004, 3, 5)]) ∧
    (match step bitLoading with | .next t => some (((t.core 0).cx 0).rg 3, Memory.num (t.core 0).mem 0x3000 1) | _ => none) =
      some (0xFFFFFFFFFFFFFFDF, 0x8F) ∧
    (match ({ bitLoading with moves := [] } : State).outsideStep (.perform 0 0 0) with
      | .next t => some (Memory.num (t.core 0).mem 0x3000 1, ((t.core 0).cx 0).late) | _ => none) = some (0xDF, []) := by
  decide +kernel

/-- A bit-granular store that may be left for later, and one that has been. -/
theorem witness_StepRunsDecodedBits :
    (let u := ({ bitStoring with moves := [] } : State).issuing 0 0
     bitStoring.onMesh 0 = true ∧ (bitStoring.core 0).trapDue = false ∧ bitStoring.pick 0 = some 0 ∧
       (match u.issued with | .ok i => i == .bstI 0 1 0 2 | _ => false) = true ∧ u.cx.held = false ∧ u.cx.late = [] ∧
       u.ownPackets 0 0 (u.accesses (.bstI 0 1 0 2)) = [] ∧ bitSpan (u.readB 0).toNat 3 = (0x3000, 1) ∧ u.me.badIn 0x3000 1 = false ∧
       u.storeProtected 0 u.isS 0x3000 1 = false) ∧
    ((bitLoading.core 0).cx 0).late[0]? = some (0x18004, 3, 5) ∧ (bitLoading.core 0).bad = [] ∧
    lateMeets (0x18004, 3, 5) (0x18000, 2, 1) = true ∧ lateMeets (0x18004, 3, 5) (0x18008, 2, 1) = false := by decide +kernel

def ahead : State :=
  { onCore fun c => { c with mem := Memory.write (placedCode (.ldd 0 3 2 0)) 0x3000 (leBytes 8 7),
                             ctx := [(0, { x0 with g := [(2, 0x3000)], early := [(0x3000, leBytes 8 5)] })] } with moves := [.slot 0] }

theorem test_early_load :
    (match step ahead with | .next t => some (((t.core 0).cx 0).rg 3, ((t.core 0).cx 0).early) | _ => none) = some (5, []) := by
  decide +kernel

theorem witness_DecodeEncode : (Instr.add 7 31 31 31).wf = true ∧ encode (.add 7 31 31 31) = some (32, 0xF07FFF80) ∧
    (Instr.cExit).wf = true ∧ encode .cExit = some (16, 0x4400) := by decide +kernel

theorem witness_MemoryCanonical :
    GlobalOk (mapped base) ∧ LocalOk (withMsg id) ∧ (match step (State.reset.withFetchWord 32 0x80464280) with | .next _ => true | _ => false) = true := by
  refine ⟨by unfold GlobalOk; decide +kernel, by unfold LocalOk; decide +kernel, by decide +kernel⟩
end Sys2Proof.Tests

end
end

section
/-! SUPPORT. The canonical form of memory as an invariant of both kinds at once, and how it passes through updates, loops and choices. -/

namespace Sys2Proof.Machine

/-- The two kinds of memory of R8 whose canonical form a step keeps: global memory, and the local SRAM of the cores with what stopped
launches have saved of it. Each is kept without a word about the other, so every lemma below is stated once for either. -/
inductive Space where
  | device
  | sram

/-- Memory of a kind has its canonical form. -/
def MemOk (b : Space) (s : State) : Prop :=
  match b with
  | .device => GlobalOk s
  | .sram => LocalOk s

/-- What MemOk asks of one core. -/
def CoreOk (b : Space) (c : Core) : Prop := b = .sram → Memory.wf c.mem = true

/-- What MemOk asks of one launch. -/
def LaunchOk (b : Space) (l : Launch) : Prop := ∀ e ∈ l.saved, CoreOk b e.2

/-- What MemOk asks of global memory. -/
def DeviceOk (b : Space) (m : Memory) : Prop := b = .device → Memory.wf m = true

/-- If an instruction or event answers a next state, its memory has the canonical form. -/
def OutOk (b : Space) (o : Out) : Prop :=
  match o with
  | .next t => MemOk b t
  | .fault _ => True
  | .refused _ => True

variable {b : Space} {s t : State}

theorem memOk_iff : MemOk b s ↔
    (∀ e ∈ s.cores, CoreOk b e.2) ∧ (∀ l ∈ s.launches, LaunchOk b l) ∧ DeviceOk b s.gmem := by
  cases b <;> simp [MemOk, CoreOk, LaunchOk, DeviceOk, GlobalOk, LocalOk]

/-! ### The parts of the state that hold memory -/

theorem MemOk.cores (h : MemOk b s) : ∀ e ∈ s.cores, CoreOk b e.2 := (memOk_iff.mp h).1
theorem MemOk.launches (h : MemOk b s) : ∀ l ∈ s.launches, LaunchOk b l := (memOk_iff.mp h).2.1
theorem MemOk.gmem (h : MemOk b s) : DeviceOk b s.gmem := (memOk_iff.mp h).2.2

/-- A state that takes its memory from another one, whatever its other fields hold. -/
theorem MemOk.fields {parts lptr cmds reports rings gbad net nextPkt outputs filter flows early slices groups shawmStats sutreLive enetLive lost ip
    mgmt debugBlocks curCore curCtx moves turn fresh} (h : MemOk b s) :
    MemOk b ⟨s.cores, s.launches, parts, lptr, cmds, reports, rings, s.gmem, gbad, net, nextPkt, outputs, filter, flows, early, slices, groups,
      shawmStats, sutreLive, enetLive, lost, ip, mgmt, debugBlocks, curCore, curCtx, moves, turn, fresh⟩ :=
  memOk_iff.mpr (memOk_iff.mp h)

theorem MemOk.withCores {m : SMap Core} (h : MemOk b s) (hc : ∀ e ∈ m, CoreOk b e.2) : MemOk b { s with cores := m } :=
  memOk_iff.mpr ⟨hc, h.launches, h.gmem⟩

theorem MemOk.withLaunches {ls : List Launch} (h : MemOk b s) (hl : ∀ l ∈ ls, LaunchOk b l) : MemOk b { s with launches := ls } :=
  memOk_iff.mpr ⟨h.cores, hl, h.gmem⟩

theorem MemOk.withGmem {m : Memory} (h : MemOk b s) (hg : DeviceOk b m) : MemOk b { s with gmem := m } :=
  memOk_iff.mpr ⟨h.cores, h.launches, hg⟩

theorem SMap.mem_put {α : Type} {m : SMap α} {k : Nat} {x : α} {e : Nat × α} (h : e ∈ SMap.put m k x) : e = (k, x) ∨ e ∈ m := by
  induction m with
  | nil => simpa [SMap.put] using h
  | cons y m ih =>
    unfold SMap.put at h
    split at h
    · rcases List.mem_cons.mp h with rfl | h
      · exact .inr List.mem_cons_self
      · exact (ih h).imp_right (List.mem_cons_of_mem _)
    · split at h
      · exact (List.mem_cons.mp h).imp_right (List.mem_cons_of_mem _)
      · exact List.mem_cons.mp h

theorem SMap.get_eq_or_mem {α : Type} (d : α) (m : SMap α) (k : Nat) : SMap.get d m k = d ∨ (k, SMap.get d m k) ∈ m := by
  induction m with
  | nil => exact .inl rfl
  | cons e m ih =>
    obtain ⟨j, y⟩ := e
    unfold SMap.get
    split
    · next h => subst h; exact .inr List.mem_cons_self
    · exact ih.imp_right (List.mem_cons_of_mem _)

theorem CoreOk.empty : CoreOk b {} := fun _ => rfl

theorem MemOk.core (h : MemOk b s) (cn : Nat) : CoreOk b (s.core cn) := by
  rcases SMap.get_eq_or_mem {} s.cores cn with he | he
  · unfold State.core; rw [he]; exact CoreOk.empty
  · exact h.cores _ he

theorem MemOk.setCore {cn : Nat} {c : Core} (h : MemOk b s) (hc : CoreOk b c) : MemOk b (s.setCore cn c) :=
  h.withCores fun _ he => (SMap.mem_put he).elim (fun e => e ▸ hc) (h.cores _)

theorem CoreOk.ofMem {c d : Core} (h : CoreOk b c) (hm : d.mem = c.mem) : CoreOk b d := fun hb => hm ▸ h hb

/-- A core that takes its local memory from another one, whatever its other fields hold. -/
theorem CoreOk.fields {c : Core} {bad ctx rorg rsize fmt seed fit gen slk slkx congc hx q0 q2 q3 nextId txSeq flowSeq ptr issuePtr placed
    inbuf arrivals zwatch stats syncs flushes windows arr last ever matrix trap control copies halos txs noticed closed ending choked susp
    xcache job part image} (h : CoreOk b c) :
    CoreOk b ⟨c.mem, bad, ctx, rorg, rsize, fmt, seed, fit, gen, slk, slkx, congc, hx, q0, q2, q3, nextId, txSeq, flowSeq, ptr, issuePtr,
    placed, inbuf, arrivals, zwatch, stats, syncs, flushes, windows, arr, last, ever, matrix, trap, control, copies, halos, txs, noticed,
    closed, ending, choked, susp, xcache, job, part, image⟩ := h

/-- A launch that takes its saved cores from another one, whatever its other fields hold. -/
theorem LaunchOk.fields {l : Launch} {part lid state x0 y0 w h₀ ranks rank entry schk ordered seed hosttag cpl queue rtab rcount ilo ilen
    imgid regions perf rpctl rpbase members phase expected arrived seqs closedLines serial faults clusters dies reported fences holds
    stopCmd saveArg spills ending done} (hl : LaunchOk b l) :
    LaunchOk b ⟨part, lid, state, x0, y0, w, h₀, ranks, rank, entry, schk, ordered, seed, hosttag, cpl, queue, rtab, rcount, ilo, ilen,
    imgid, regions, perf, rpctl, rpbase, members, phase, expected, arrived, seqs, closedLines, serial, faults, clusters, dies, reported,
    fences, l.saved, holds, stopCmd, saveArg, spills, ending, done⟩ := hl

theorem MemOk.modCore {cn : Nat} {f : Core → Core} (h : MemOk b s)
    (hf : ∀ c, CoreOk b c → CoreOk b (f c)) : MemOk b (s.modCore cn f) :=
  h.setCore (hf _ (h.core cn))

theorem MemOk.modMe {f : Core → Core} (h : MemOk b s)
    (hf : ∀ c, CoreOk b c → CoreOk b (f c)) : MemOk b (s.modMe f) := h.modCore hf

theorem MemOk.modCx {f : Ctx → Ctx} (h : MemOk b s) : MemOk b (s.modCx f) := h.modMe fun _ hc => hc.fields

theorem MemOk.modLaunch {p l : Nat} {f : Launch → Launch} (h : MemOk b s)
    (hf : ∀ l, LaunchOk b l → LaunchOk b (f l)) : MemOk b (s.modLaunch p l f) := by
  refine h.withLaunches fun l hl => ?_
  obtain ⟨q, hq, rfl⟩ := List.mem_map.mp hl
  split
  · exact hf _ (h.launches _ hq)
  · exact h.launches _ hq

/-- Every core of a list of cores changed. -/
theorem MemOk.mapCores {f : Nat × Core → Core} (h : MemOk b s)
    (hf : ∀ e, CoreOk b e.2 → CoreOk b (f e)) : MemOk b { s with cores := s.cores.map fun e => (e.1, f e) } := by
  refine h.withCores fun e he => ?_
  obtain ⟨q, hq, rfl⟩ := List.mem_map.mp he
  exact hf _ (h.cores _ hq)

/-- A loop over the state. -/
theorem MemOk.foldl {α : Type} {f : State → α → State} {xs : List α} (h : MemOk b s)
    (hf : ∀ s x, MemOk b s → MemOk b (f s x)) : MemOk b (xs.foldl f s) := by
  induction xs generalizing s with
  | nil => exact h
  | cons x xs ih => exact ih (hf _ _ h)

/-- A loop over the state beside another result. -/
theorem MemOk.foldl_fst {α β : Type} {f : State × β → α → State × β} {xs : List α} {r : State × β} (h : MemOk b r.1)
    (hf : ∀ r x, MemOk b r.1 → MemOk b (f r x).1) : MemOk b (xs.foldl f r).1 := by
  induction xs generalizing r with
  | nil => exact h
  | cons x xs ih => exact ih (hf _ _ h)

theorem MemOk.foldl_snd {α β : Type} {f : β × State → α → β × State} {xs : List α} {r : β × State} (h : MemOk b r.2)
    (hf : ∀ r x, MemOk b r.2 → MemOk b (f r x).2) : MemOk b (xs.foldl f r).2 := by
  induction xs generalizing r with
  | nil => exact h
  | cons x xs ih => exact ih (hf _ _ h)

/-! ### Choices -/

theorem MemOk.ite {p : Prop} [Decidable p] (h : MemOk b s) (k : MemOk b t) : MemOk b (if p then s else t) := by
  split
  · exact h
  · exact k

theorem CoreOk.ite {p : Prop} [Decidable p] {c d : Core} (h : CoreOk b c) (k : CoreOk b d) : CoreOk b (if p then c else d) := by
  split
  · exact h
  · exact k

/-! ### Answers -/

theorem OutOk.ite {p : Prop} [Decidable p] {o o' : Out} (h : OutOk b o) (k : OutOk b o') : OutOk b (if p then o else o') := by
  split
  · exact h
  · exact k

theorem OutOk.refused {r : Refusal} : OutOk b (.refused r) := trivial

end Sys2Proof.Machine
end

section
/-! SUPPORT. What the operations on a core and on the state keep: registers, records, translations, packets, traces. -/

namespace Sys2Proof.Machine

variable {b : Space} {s t : State}

/-! ### Operations on one core -/

theorem Memory.wf_foldl {α : Type} {f : Memory → α → Memory} {xs : List α} {m : Memory} (h : Memory.wf m = true)
    (hf : ∀ m x, Memory.wf m = true → Memory.wf (f m x) = true) : Memory.wf (xs.foldl f m) = true := by
  induction xs generalizing m with
  | nil => exact h
  | cons x xs ih => exact ih (hf _ _ h)

section
variable {c : Core}

theorem CoreOk.modCx {k : Nat} {f : Ctx → Ctx} (h : CoreOk b c) : CoreOk b (c.modCx k f) := h.fields
theorem CoreOk.put {a : Nat} {bs : List Byte} (h : CoreOk b c) : CoreOk b (c.put a bs) := fun hb => Core.wf_put (h hb) _ _
theorem CoreOk.putAll {ws : List (Nat × Byte)} (h : CoreOk b c) : CoreOk b (c.putAll ws) := fun hb => Core.wf_putAll (h hb) _

theorem CoreOk.setChmask {w : Word} (h : CoreOk b c) : CoreOk b (c.setChmask w) := by
  intro hb
  dsimp only [Core.setChmask]
  exact Memory.wf_foldl (h hb) fun _ _ hm => Memory.wf_setNum hm _ _ _

theorem CoreOk.setStatus {ch wp : Nat} (h : CoreOk b c) : CoreOk b (c.setStatus ch wp) := fun hb => Memory.wf_setNum (h hb) _ _ _
theorem CoreOk.released {ch : Nat} (h : CoreOk b c) : CoreOk b (c.released ch) := h.setStatus
theorem CoreOk.takeMsg {k ch a : Nat} {m : Msg} {r : Bool} (h : CoreOk b c) : CoreOk b (c.takeMsg k ch a m r) := by
  unfold Core.takeMsg
  exact CoreOk.setStatus (CoreOk.modCx h)

theorem CoreOk.releaseSlot {k : Nat} (h : CoreOk b c) : CoreOk b (c.releaseSlot k) := by
  unfold Core.releaseSlot; split
  · exact h.modCx.released
  · exact h
theorem CoreOk.releaseReception {k : Nat} (h : CoreOk b c) : CoreOk b (c.releaseReception k) := by
  unfold Core.releaseReception; split
  · exact h.modCx.released
  · exact h

theorem CoreOk.performOne {e : Nat × Nat × Nat} (h : CoreOk b c) : CoreOk b (c.performOne e) := fun hb => Core.wf_performOne (h hb) e
theorem CoreOk.performAll {k : Nat} (h : CoreOk b c) : CoreOk b (c.performAll k) := fun hb => Core.wf_performAll (h hb) k
theorem CoreOk.performSome {k : Nat} {f : Nat × Nat × Nat → Bool} (h : CoreOk b c) : CoreOk b (c.performSome k f) :=
  fun hb => Core.wf_performSome (h hb) k f
theorem CoreOk.performEvery (h : CoreOk b c) : CoreOk b c.performEvery :=
  List.foldlRecOn (motive := CoreOk b) c.ctx (fun c e => c.performAll e.1) h fun _ hc _ _ => hc.performAll

/-! Operations that leave local memory as it is. -/

theorem Core.mem_latch {bit : Nat} : (c.latch bit).mem = c.mem :=
  List.foldlRecOn (motive := fun d : Core => d.mem = c.mem) _ _ rfl fun _ hd _ _ => hd
theorem Core.mem_setHx {i : Nat} {w : Word} : (c.setHx i w).mem = c.mem := by
  unfold Core.setHx; dsimp only; split
  · rfl
  · exact Core.mem_latch
theorem Core.mem_settle : c.settle.mem = c.mem := by
  unfold Core.settle; dsimp only; split
  · exact Core.mem_latch
  · rfl
theorem Core.mem_completeTx {q : Nat} : (c.completeTx q).mem = c.mem := by
  unfold Core.completeTx; split
  · exact Core.mem_settle
  · rfl
theorem Core.mem_queueRecord {r : FaultRec} : (c.queueRecord r).mem = c.mem := by
  obtain ⟨t, ht⟩ := Core.queueRecord_trap_only c r; rw [ht]
theorem Core.mem_nextRecord {r : FaultRec} {d : Core} (h : c.nextRecord = some (r, d)) : d.mem = c.mem := by
  unfold Core.nextRecord at h
  split at h
  · cases h; rfl
  · split at h
    · cases h; rfl
    · split at h <;> (cases h; rfl)
  · cases h
theorem Core.mem_rewait {k id : Nat} {w : Wait} : (c.rewait k id w).mem = c.mem := by unfold Core.rewait; split <;> rfl
theorem Core.mem_copyData {t : Tx} {ws : List Word} : (c.copyData t ws).mem = c.mem := by unfold Core.copyData; split <;> rfl
theorem Core.mem_acknowledge {n : Nat} : (c.acknowledge n).mem = c.mem := by
  unfold Core.acknowledge; split
  · split <;> rfl
  · split <;> rfl

theorem CoreOk.latch {bit : Nat} (h : CoreOk b c) : CoreOk b (c.latch bit) := h.ofMem Core.mem_latch
theorem CoreOk.setHx {i : Nat} {w : Word} (h : CoreOk b c) : CoreOk b (c.setHx i w) := h.ofMem Core.mem_setHx
theorem CoreOk.settle (h : CoreOk b c) : CoreOk b c.settle := h.ofMem Core.mem_settle
theorem CoreOk.completeTx {q : Nat} (h : CoreOk b c) : CoreOk b (c.completeTx q) := h.ofMem Core.mem_completeTx
theorem CoreOk.queueRecord {r : FaultRec} (h : CoreOk b c) : CoreOk b (c.queueRecord r) := h.ofMem Core.mem_queueRecord
theorem CoreOk.rewait {k id : Nat} {w : Wait} (h : CoreOk b c) : CoreOk b (c.rewait k id w) := h.ofMem Core.mem_rewait
theorem CoreOk.copyData {t : Tx} {ws : List Word} (h : CoreOk b c) : CoreOk b (c.copyData t ws) := h.ofMem Core.mem_copyData

end

/-! ### Global memory -/

theorem Memory.wf_setBytes {m : Memory} (h : Memory.wf m = true) (ws : List (Nat × Byte)) :
    Memory.wf (ws.foldl (fun m w => Memory.setByte m w.1 w.2) m) = true :=
  Memory.wf_foldl h fun _ _ hm => Memory.wf_setByte hm _ _

theorem Memory.wf_filter {m : Memory} (h : Memory.wf m = true) (f : Nat × Byte → Bool) : Memory.wf (m.filter f) = true := by
  simp only [Memory.wf, Bool.and_eq_true] at h ⊢
  refine ⟨SMap.rising_filter h.1 f, List.all_eq_true.mpr fun e he => List.all_eq_true.mp h.2 e (List.mem_filter.mp he).1⟩

theorem Memory.wf_writePieces {m : Memory} (h : Memory.wf m = true) (ps : List (Nat × Nat)) (bs : List Byte) :
    Memory.wf (writePieces m ps bs) = true := by
  induction ps generalizing m bs with
  | nil => exact h
  | cons p ps ih => exact ih (Memory.wf_write h _ _) _

theorem MemOk.putGlobal {ws : List (Nat × Byte)} (h : MemOk b s) : MemOk b (s.putGlobal ws) :=
  h.withGmem fun hb => Memory.wf_setBytes (h.gmem hb) _
theorem MemOk.putBytes {pa : Nat} {bs : List Byte} (h : MemOk b s) : MemOk b (s.putBytes pa bs) := h.putGlobal
theorem MemOk.setQfield {p off n x : Nat} (h : MemOk b s) : MemOk b (s.setQfield p off n x) :=
  h.withGmem fun hb => Memory.wf_setNum (h.gmem hb) _ _ _

/-! ### Registers, retiring, waiting -/

theorem MemOk.writeG {d : BitVec 5} {w : Word} {l : Nat} (h : MemOk b s) : MemOk b (s.writeG d w l) := h.modCx
theorem MemOk.writeV {d : BitVec 5} {w : VReg} {l : Nat} (h : MemOk b s) : MemOk b (s.writeV d w l) := h.modCx
theorem MemOk.writeP {d : BitVec 3} {w : Word} {l : Nat} (h : MemOk b s) : MemOk b (s.writeP d w l) := h.modCx
theorem MemOk.mergeP {d : BitVec 3} {w : Word} {l : Nat} (h : MemOk b s) : MemOk b (s.mergeP d w l) := h.modCx
theorem MemOk.writeE {d : BitVec 3} {w : Word} {l : Nat} (h : MemOk b s) : MemOk b (s.writeE d w l) := h.modCx
theorem MemOk.writeB {d : BitVec 2} {w : Word} {l : Nat} (h : MemOk b s) : MemOk b (s.writeB d w l) := h.modCx
theorem MemOk.retire {len stl : Nat} (h : MemOk b s) : MemOk b (s.retire len stl) := h.modCx
theorem MemOk.jump {a : Word} {stl : Nat} (h : MemOk b s) : MemOk b (s.jump a stl) := h.modCx
theorem MemOk.flag {f : Nat} (h : MemOk b s) : MemOk b (s.flag f) := h.modCx
theorem MemOk.countMem (h : MemOk b s) : MemOk b s.countMem := h.modCx
theorem MemOk.advance {m : Nat} (h : MemOk b s) : MemOk b (s.advance m) := by
  unfold State.advance; split
  · exact h.modCx
  · exact h
theorem MemOk.store {a n x : Nat} (h : MemOk b s) : MemOk b (s.store a n x) := h.modMe fun _ hc => hc.put
theorem MemOk.latchInstr {i : Instr} (h : MemOk b s) : MemOk b (s.latchInstr i) := h.modCx

theorem MemOk.done {st : BitVec 3} (h : MemOk b s) : OutOk b (s.done st) := h.retire
theorem MemOk.block {w : Wait} (h : MemOk b s) : OutOk b (s.block w) := h.modCx
theorem MemOk.result {st : BitVec 3} {d : BitVec 5} {w : Word} {l : Nat} (h : MemOk b s) : OutOk b (s.result st d w l) := h.writeG.done
theorem MemOk.resultC {d : BitVec 5} {w : Word} {l : Nat} (h : MemOk b s) : OutOk b (s.resultC d w l) := h.writeG.retire
theorem MemOk.resultP {st d : BitVec 3} {w : Word} (h : MemOk b s) : OutOk b (s.resultP st d w) := h.writeP.done

/-! ### Traps and records (R343 to R346) -/

theorem MemOk.doubleTrap {cn : Nat} {r : FaultRec} (h : MemOk b s) : MemOk b (s.doubleTrap cn r) := by
  unfold State.doubleTrap
  exact MemOk.fields (h.modCore fun _ hc => hc.fields)
theorem MemOk.machineCheck {cn : Nat} (h : MemOk b s) : MemOk b (s.machineCheck cn) := by
  unfold State.machineCheck
  exact MemOk.fields (h.modCore fun _ hc => hc.fields)
theorem MemOk.countUnc {cn : Nat} (h : MemOk b s) : MemOk b (s.countUnc cn) := h.modCore fun _ hc => hc.fields

theorem MemOk.raise {r : FaultRec} (h : MemOk b s) : MemOk b (s.raise r) := by
  have counted : MemOk b (if countsUnc (s.located r).cause then s.countUnc s.curCore else s) := h.countUnc.ite h
  unfold State.raise
  exact h.machineCheck.ite (counted.doubleTrap.ite (counted.modCx.modMe fun _ hc => CoreOk.ite hc.fields hc.fields))

theorem MemOk.trap {n : Nat} (h : MemOk b s) : OutOk b (s.trap n) := h.raise

theorem MemOk.check {cs : List (Bool × FaultRec)} {o : Out} (h : MemOk b s) (ho : OutOk b o) : OutOk b (s.check cs o) := by
  unfold State.check; split
  · exact h.raise
  · exact ho

theorem MemOk.report {cn : Nat} {r : FaultRec} (h : MemOk b s) : MemOk b (s.report cn r) := by
  unfold State.report; dsimp only
  refine MemOk.modCore ?_ fun _ hc => hc.queueRecord
  split
  · split
    · exact h.modLaunch fun _ hl => hl.fields
    · exact h
  · exact h

theorem MemOk.async {cn : Nat} {r : FaultRec} (h : MemOk b s) : MemOk b (s.async cn r) := by
  unfold State.async; split
  · exact h.countUnc.report
  · exact h.report

theorem MemOk.raiseAt {cn k : Nat} {r : FaultRec} (h : MemOk b s) : MemOk b (s.raiseAt cn k r) := by
  unfold State.raiseAt; dsimp only; split
  · exact h.doubleTrap
  · exact h.modCore fun _ hc => hc.fields

/-! ### Translations -/

theorem MemOk.of_snd {α : Type} {r : α × State} {x : α} (h : MemOk b r.2) (e : r = (x, t)) : MemOk b t := by rw [e] at h; exact h
theorem MemOk.of_fst {α : Type} {r : State × α} {x : α} (h : MemOk b r.1) (e : r = (t, x)) : MemOk b t := by rw [e] at h; exact h

theorem MemOk.fillSlice {asid va : Nat} {e : XEntry} (h : MemOk b s) : MemOk b (s.fillSlice asid va e) := h.fields
theorem MemOk.fillCore {cn : Nat} {e : XEntry} (h : MemOk b s) : MemOk b (s.fillCore cn e) := h.modCore fun _ hc => hc.fields
theorem MemOk.keepWalk {p va : Nat} {leaf : XEntry} (h : MemOk b s) : MemOk b (s.keepWalk p va leaf) :=
  (h.foldl fun _ _ h => h.fillSlice).fillSlice

theorem MemOk.translate {cn : Option Nat} {p va : Nat} {acc : Access} (h : MemOk b s) : MemOk b (s.translate cn p va acc).2 := by
  have keep : ∀ {u : State} {e : XEntry}, MemOk b u → MemOk b (match cn with
      | some c => u.fillCore c e
      | none => u) := by
    intro u e hu
    cases cn with
    | none => exact hu
    | some c => exact hu.fillCore
  unfold State.translate; dsimp only
  split
  · exact h
  · split
    · exact keep h
    · split
      · exact h
      · split
        · exact keep h.keepWalk
        · exact h

theorem MemOk.translateRange {cn : Option Nat} {p va n : Nat} {acc : Access} (h : MemOk b s) :
    MemOk b (s.translateRange cn p va n acc).2 := by
  refine MemOk.foldl_snd h fun r a hr => ?_
  obtain ⟨r, u⟩ := r
  cases r with
  | error e => exact hr
  | ok ps => dsimp only; split <;> (next e => exact hr.translate.of_snd e)

theorem MemOk.translatePart {cn : Nat} {o : CopyOp} (h : MemOk b s) : MemOk b (s.translatePart cn o).2 := by
  refine MemOk.foldl_snd h fun r x hr => ?_
  obtain ⟨r, u⟩ := r
  cases r with
  | error e => exact hr
  | ok m =>
    dsimp only; split
    · exact hr
    · split <;> (next e => exact hr.translate.of_snd e)

/-! ### Packets -/

theorem MemOk.send {p : Packet} (h : MemOk b s) : MemOk b (s.send p) := h.fields

theorem MemOk.replyRemote {f : Issuer} {a k l st : Nat} {ws : List Word} (h : MemOk b s) : MemOk b (s.replyRemote f a k l st ws) :=
  (h.fields).send

theorem MemOk.takePacket {i : Nat} {p : Packet} (h : MemOk b s) : MemOk b (s.takePacket i p) := by
  have hd : MemOk b { s with net := SMap.del s.net i } := h.fields
  unfold State.takePacket; dsimp only
  split
  · split <;> exact hd.send
  · exact hd

theorem MemOk.reply {i : Nat} {p : Packet} {st : Nat} {ws : List Word} (h : MemOk b s) : MemOk b (s.reply i p st ws) := by
  unfold State.reply; dsimp only
  split
  · exact h.takePacket.replyRemote
  · exact h.takePacket.send

theorem MemOk.recordDone {i : Nat} {p : Packet} {st : Nat} {ws : List Word} (h : MemOk b s) : MemOk b (s.recordDone i p st ws) :=
  h.takePacket.send

theorem MemOk.partReply {i : Nat} {p : Packet} {st : Nat} {ws : List Word} (h : MemOk b s) : MemOk b (s.partReply i p st ws) :=
  h.takePacket.send

theorem MemOk.engineMsg {cn : Nat} {m : Msg} (h : MemOk b s) : MemOk b (s.engineMsg cn m) := h.send

theorem MemOk.notice {cn tag cls slk id : Nat} {r : FaultRec} (h : MemOk b s) : MemOk b (s.notice cn tag cls slk id r) := h.engineMsg

theorem MemOk.deliver {cn st cls slk seq : Nat} {r : FaultRec} (h : MemOk b s) : MemOk b (s.deliver cn st cls slk seq r) :=
  h.ite (h.notice.ite h.async)

theorem MemOk.sendOut {p : Packet} {dcn : Nat} {via : Option (Nat × Nat)} {again : Bool} (h : MemOk b s) :
    MemOk b (s.sendOut p dcn via again) := by
  unfold State.sendOut
  split
  · split
    · exact h.send
    · dsimp only; split
      · exact (h.modCore fun _ hc => hc.fields).send
      · exact h.send
  · exact h.send

theorem CoreOk.opens {c : Core} {t : Tx} (h : CoreOk b c) : CoreOk b (c.opens t) := h.fields

theorem MemOk.issue {m : Aim} {body : Body} {fetch ticketed : Bool} (h : MemOk b s) : MemOk b (s.issue m body fetch ticketed) := by
  unfold State.issue
  exact MemOk.sendOut (MemOk.modMe h fun _ hc => hc.fields)

/-! ### Traces, logs and replay (R423 to R426) -/

theorem MemOk.writeTrace {p : Nat} {ws : List Word} (h : MemOk b s) : MemOk b (s.writeTrace p ws) := by
  unfold State.writeTrace
  exact h.ite (h.fields.ite (MemOk.putBytes h.fields))

theorem MemOk.traceChange {p cn : Nat} (h : MemOk b s) : MemOk b (s.traceChange p cn) := by
  unfold State.traceChange
  exact h.ite (MemOk.writeTrace (h.modCore fun _ hc => hc.fields))

theorem MemOk.traceAll (h : MemOk b s) : MemOk b s.traceAll :=
  MemOk.ite (h.foldl fun _ _ h => h.traceChange) h

theorem MemOk.traceActivation {cn : Nat} {a : Activation} {d : Bool} (h : MemOk b s) : MemOk b (s.traceActivation cn a d) := h.writeTrace

theorem MemOk.traceStart {cn : Nat} {a : Activation} (h : MemOk b s) : MemOk b (s.traceStart cn a) := by
  unfold State.traceStart
  exact h.ite (MemOk.traceActivation (h.modCore fun _ hc => hc.fields))

theorem MemOk.logActivation {cn : Nat} {a : Activation} (h : MemOk b s) : MemOk b (s.logActivation cn a) := by
  unfold State.logActivation; dsimp only
  exact MemOk.modCore (MemOk.ite h.traceStart.putBytes h.traceStart) fun _ hc => hc.fields

theorem MemOk.diverge {cn : Nat} {a : Activation} (h : MemOk b s) : MemOk b (s.diverge cn a) := MemOk.modCore h.traceActivation fun _ hc => hc.fields

end Sys2Proof.Machine
end

section
/-! SUPPORT. Messages in a core, and the contexts that start, end and wait. -/

namespace Sys2Proof.Machine

variable {b : Space} {s t : State}

theorem MemOk.taken {cn : Nat} {m : Msg} (h : MemOk b s) : MemOk b (s.taken cn m) := by
  unfold State.taken
  extract_lets s1 s2
  have h1 : MemOk b s1 := by
    unfold s1; split
    · exact h.modCore fun _ hc => hc.completeTx
    · exact h
  have h2 : MemOk b s2 := by
    unfold s2; split
    · exact h1.modCore fun _ hc => hc.fields
    · exact h1
  split
  · exact h2.replyRemote
  · exact h2

theorem MemOk.writeInbox {cn a : Nat} {m : Msg} (h : MemOk b s) : MemOk b (s.writeInbox cn m a) := by
  unfold State.writeInbox
  exact MemOk.taken (h.modCore fun _ hc => CoreOk.setStatus (CoreOk.put hc))

theorem MemOk.placeFirst {cn ch : Nat} (h : MemOk b s) : MemOk b (s.placeFirst cn ch) := by
  unfold State.placeFirst
  extract_lets c
  split
  · exact h
  · extract_lets s'
    have h' : MemOk b s' := h.modCore fun _ hc => hc.fields
    split
    · exact h'.writeInbox
    · exact h'.async.taken
    · exact h
    · exact h.async

theorem MemOk.placeHeld {cn ch n : Nat} (h : MemOk b s) : MemOk b (s.placeHeld cn ch n) := by
  induction n generalizing s with
  | zero => exact h
  | succ n ih =>
    unfold State.placeHeld
    extract_lets c
    split
    · exact h
    · split
      · exact ih h.placeFirst
      · exact ih h.placeFirst
      · exact h.placeFirst
      · exact h

theorem MemOk.placeAll {cn : Nat} {chs : List Nat} (h : MemOk b s) : MemOk b (s.placeAll cn chs) := h.foldl fun _ _ h => h.placeHeld

theorem MemOk.arrive {cn : Nat} {m : Msg} (h : MemOk b s) : MemOk b (s.arrive cn m) := by
  unfold State.arrive
  exact h.async.taken.ite (MemOk.ite (h.modCore fun _ hc => hc.fields) (MemOk.placeFirst (h.modCore fun _ hc => hc.fields)))

theorem MemOk.select {cn : Nat} (h : MemOk b s) : MemOk b (s.select cn) := by
  unfold State.select
  extract_lets s1 c
  have h1 : MemOk b s1 := h.modCore fun _ hc => hc.fields
  split
  · split
    · exact h1.async
    · split
      · exact h1
      · extract_lets act p
        exact h1.diverge.ite (MemOk.logActivation (h1.modCore fun _ hc => CoreOk.takeMsg (CoreOk.modCx hc)))
  · exact h1

/-! ### Contexts that start, end and wait (R26, R36 to R40, R236 to R243) -/

theorem MemOk.reportOrphans {cn k : Nat} (h : MemOk b s) : MemOk b (s.reportOrphans cn k) := by
  refine h.foldl fun s r h => ?_
  split
  · exact h.deliver.ite h
  · exact h

theorem MemOk.giveUp {cn k : Nat} (h : MemOk b s) : MemOk b (s.giveUp cn k) := by
  unfold State.giveUp
  exact h.reportOrphans.modCore fun _ hc => hc.releaseSlot.releaseReception.fields

theorem MemOk.exit (h : MemOk b s) : OutOk b s.exit := by
  unfold State.exit
  refine OutOk.ite trivial (OutOk.ite ?_ ?_)
  · exact h.giveUp.modCx.placeAll
  · exact MemOk.placeAll (h.giveUp.modCx.modMe fun _ hc => CoreOk.settle hc)

theorem MemOk.start {st d a b'} (h : MemOk b s) : OutOk b (execStart st d a b' s) := by
  unfold execStart
  refine h.check ?_
  split
  · exact h.result
  · exact OutOk.ite h.diverge.block (MemOk.result (MemOk.logActivation (h.modMe fun _ hc => hc.fields)))

theorem MemOk.park {st d a} (h : MemOk b s) : OutOk b (execPark st d a s) := by
  unfold execPark
  exact OutOk.ite h.result (OutOk.ite h.block h.modCx.result)

theorem MemOk.readReply {st d} (h : MemOk b s) : OutOk b (s.readReply st d) := by
  unfold State.readReply
  split
  · exact h.block
  · split
    · exact h.block
    · exact OutOk.ite (MemOk.result (h.modMe fun _ hc => hc.fields)) (MemOk.raise (h.modMe fun _ hc => hc.fields))

theorem MemOk.qrd {st d q} (h : MemOk b s) : OutOk b (execQrd st d q s) := by
  unfold execQrd
  split
  · split
    · exact h.block
    · exact MemOk.result (h.modMe fun _ hc => hc.fields)
  · split
    · exact h.block
    · exact h.modCx.result
  · split
    · exact h.block
    · exact MemOk.result (h.modMe fun _ hc => hc.fields)
  · exact h.readReply

theorem MemOk.qwr {st q a} (h : MemOk b s) : OutOk b (execQwr st q a s) := by
  unfold execQwr
  extract_lets w
  split
  · exact OutOk.ite h.block (MemOk.done (h.modMe fun _ hc => hc.fields))
  · exact OutOk.ite h.trap h.modCx.done
  · exact OutOk.ite h.block (MemOk.done (h.modMe fun _ hc => hc.fields))
  · exact OutOk.ite h.block (MemOk.done (h.modMe fun _ hc => hc.fields))

theorem MemOk.receive {st d a b' lowest} (h : MemOk b s) : OutOk b (s.receive st d a b' lowest) := by
  unfold State.receive
  refine h.check ?_
  extract_lets held s1 chs
  have h1 : MemOk b s1 := MemOk.placeAll (h.modMe fun _ hc => hc.releaseReception)
  refine OutOk.ite h1.writeG.writeG.done ?_
  split
  · exact h1.block
  · split
    · exact h1.block
    · refine OutOk.ite h1.diverge.block ?_
      exact MemOk.done (MemOk.writeG (MemOk.writeG (MemOk.logActivation (h1.modMe fun _ hc => hc.takeMsg.modCx))))

end Sys2Proof.Machine
end

section
/-! SUPPORT. Scalar, vector, record and matrix instructions. -/

namespace Sys2Proof.Machine

variable {b : Space} {s t : State}

/-! ### Scalar instructions, loads and stores -/

theorem MemOk.branch {taken target len stl} (h : MemOk b s) : OutOk b (s.branch taken target len stl) := by
  unfold State.branch
  exact OutOk.ite (h.check h.jump) h.retire

theorem MemOk.link (h : MemOk b s) : MemOk b s.link := h.writeG

theorem MemOk.jumpReg {t linked stl} (h : MemOk b s) : OutOk b (s.jumpReg t linked stl) := h.check (MemOk.jump (h.link.ite h))

theorem MemOk.call {st o} (h : MemOk b s) : OutOk b (execCall st o s) := h.check h.link.jump

theorem MemOk.pfx {st f p g q r t} (h : MemOk b s) : OutOk b (execPfx st f p g q r t s) := h.check h.retire.modCx

theorem MemOk.setpri {st a c} (h : MemOk b s) : OutOk b (execSetpri st a c s) :=
  h.check (MemOk.done (h.modMe fun _ hc hb => Memory.wf_setNum (hc hb) _ _ _))

theorem MemOk.chmset {st d a} (h : MemOk b s) : OutOk b (execChmset st d a s) := MemOk.result (h.modMe fun _ hc => hc.setChmask)
theorem MemOk.chmclr {st d a} (h : MemOk b s) : OutOk b (execChmclr st d a s) := MemOk.result (h.modMe fun _ hc => hc.setChmask)

theorem MemOk.setSpecial {cn k n w sup xw} (h : MemOk b s) : MemOk b (s.setSpecial cn k n w sup xw) := by
  unfold State.setSpecial
  extract_lets onCore onCtx onTrap
  have core : ∀ f : Core → Core, (∀ c, CoreOk b c → CoreOk b (f c)) → MemOk b (onCore f) := fun _ hf => h.modCore hf
  have ctx : ∀ f, MemOk b (onCtx f) := fun _ => h.modCore fun _ hc => hc.fields
  have trap : ∀ f, MemOk b (onTrap f) := fun _ => h.modCore fun _ hc => hc.fields
  clear_value onCore onCtx onTrap
  split
  case h_1 | h_3 | h_16 | h_17 | h_18 | h_19 | h_20 | h_23 => exact ctx _
  case h_9 => exact core _ fun _ hc => hc.setChmask
  case h_10 | h_11 | h_12 | h_13 => exact core _ fun _ hc => hc.setHx
  case h_21 | h_22 | h_24 | h_25 | h_26 | h_27 => exact trap _
  case h_2 | h_4 | h_5 | h_6 | h_7 | h_8 | h_14 | h_15 => exact core _ fun _ hc => hc.fields
  case h_28 => exact MemOk.ite (trap _) h

theorem MemOk.loadG {len stl d a n sg} (h : MemOk b s) : OutOk b (s.loadG len stl d a n sg) := h.check h.writeG.countMem.retire
theorem MemOk.storeG {len stl w a n} (h : MemOk b s) : OutOk b (s.storeG len stl w a n) := h.check h.store.countMem.retire
theorem MemOk.bitLoad {st d a n} (h : MemOk b s) : OutOk b (s.bitLoad st d a n) := h.check h.countMem.result
theorem MemOk.bitStore {st w a n} (h : MemOk b s) : OutOk b (s.bitStore st w a n) := h.check h.store.countMem.done
theorem MemOk.genericLoad {st d a c n} (h : MemOk b s) : OutOk b (s.genericLoad st d a c n) := h.check h.countMem.result
theorem MemOk.genericStore {st d a c n} (h : MemOk b s) : OutOk b (s.genericStore st d a c n) :=
  h.check (MemOk.done (MemOk.countMem (h.modMe fun _ hc => hc.putAll)))

theorem MemOk.spcst {st d a c} (h : MemOk b s) : OutOk b (execSpcst st d a c s) := by
  unfold execSpcst; split
  · exact h.result
  · exact h.raise
theorem MemOk.spmk {st d a c} (h : MemOk b s) : OutOk b (execSpmk st d a c s) := by
  unfold execSpmk; split
  · exact h.result
  · exact h.raise

/-! ### Vector instructions -/

theorem MemOk.writeVM {d p z w l x} (h : MemOk b s) : MemOk b (s.writeVM d p z w l x) := h.modCx
theorem MemOk.lanewise {st d p z w l op} (h : MemOk b s) : OutOk b (s.lanewise st d p z w l op) := h.writeVM.flag.done
theorem MemOk.comparison {st d p z w test} (h : MemOk b s) : OutOk b (s.comparison st d p z w test) :=
  MemOk.done (MemOk.flag (MemOk.ite h.mergeP h.writeP))
theorem MemOk.reduce {st d a p w node e fill} (h : MemOk b s) : OutOk b (s.reduce st d a p w node e fill) := h.writeG.flag.done
theorem MemOk.convertLanes {st d a p z ws wd op} (h : MemOk b s) : OutOk b (s.convertLanes st d a p z ws wd op) := h.modCx.flag.done

theorem MemOk.withType {t rounds k} (h : MemOk b s) (hk : ∀ f, OutOk b (k f)) : OutOk b (s.withType t rounds k) := by
  unfold State.withType; split
  · exact h.trap
  · exact h.check (hk _)

theorem OutOk.advanced {o : Out} {m : Nat} (h : OutOk b o) : OutOk b (State.advanced o m) := by
  unfold State.advanced; split
  · exact MemOk.advance h
  · exact h

theorem MemOk.floatRounded {st d p z l op} (h : MemOk b s) : OutOk b (s.floatRounded st d p z l op) :=
  h.withType fun _ => h.lanewise.advanced
theorem MemOk.floatPlain {st d p z l op} (h : MemOk b s) : OutOk b (s.floatPlain st d p z l op) := h.withType fun _ => h.lanewise
theorem MemOk.floatCompare {st d a c p z q f} (h : MemOk b s) : OutOk b (s.floatCompare st d a c p z q f) := h.withType fun _ => h.comparison
theorem MemOk.intLanes {t st d a c p z l op} (h : MemOk b s) : OutOk b (s.intLanes t st d a c p z l op) := h.withType fun _ => h.lanewise
theorem MemOk.intCompare {st d a c p z sg f} (h : MemOk b s) : OutOk b (s.intCompare st d a c p z sg f) := h.withType fun _ => h.comparison
theorem MemOk.permute {st d p z l x} (h : MemOk b s) : OutOk b (s.permute st d p z l x) := h.withType fun _ => h.lanewise
theorem MemOk.convertOp {st d a p z x y} (h : MemOk b s) : OutOk b (s.convertOp st d a p z x y) := by
  unfold State.convertOp; dsimp only; split
  · exact h.check h.convertLanes.advanced
  · exact h.trap

theorem MemOk.loadV {st d p z g l addr} (h : MemOk b s) : OutOk b (s.loadV st d p z g l addr) := by
  unfold State.loadV; split
  · exact h.trap
  · exact h.check h.writeVM.countMem.done
theorem MemOk.storeLanes {d es w addr} (h : MemOk b s) : MemOk b (s.storeLanes d es w addr) := h.foldl fun _ _ h => h.store
theorem MemOk.storeV {st d p g addr} (h : MemOk b s) : OutOk b (s.storeV st d p g addr) := by
  unfold State.storeV; split
  · exact h.trap
  · exact h.check h.storeLanes.countMem.done

theorem MemOk.dmask {st d a c p z} (h : MemOk b s) : OutOk b (execDmask st d a c p z s) := MemOk.done (MemOk.ite h.mergeP h.writeP)

/-! ### Statistics records (R96 to R108, R293 to R296) -/

theorem MemOk.sendRecordTx {p k copy} (h : MemOk b s) : MemOk b (s.sendRecordTx p k copy) := MemOk.send (h.modCore fun _ hc => hc.opens)

theorem MemOk.sendRecord {n body} (h : MemOk b s) : OutOk b (s.sendRecord n body) := by
  unfold State.sendRecord; dsimp only; split
  · exact h.block
  · exact h.modCx.sendRecordTx.block

theorem MemOk.withRecord {n k} (h : MemOk b s) (hk : ∀ r, OutOk b (k r)) : OutOk b (s.withRecord n k) := by
  unfold State.withRecord; split
  · exact hk _
  · exact h.check h.sendRecord

theorem MemOk.withOptRecord {e k} (h : MemOk b s) (hk : ∀ r, OutOk b (k r)) : OutOk b (s.withOptRecord e k) :=
  OutOk.ite (h.withRecord fun _ => hk _) (hk _)

theorem MemOk.flushEntry {cn k e} (h : MemOk b s) : MemOk b (s.flushEntry cn k e) := by
  unfold State.flushEntry
  exact MemOk.modCore h.sendRecordTx fun _ hc => hc.fields

theorem MemOk.flushAll {cn k} (h : MemOk b s) : MemOk b (s.flushAll cn k) := h.foldl fun _ _ h => h.ite h.flushEntry

theorem MemOk.fillEntry {cn k n r} (h : MemOk b s) : MemOk b (s.fillEntry cn k n r) := by
  unfold State.fillEntry
  refine h.ite ?_
  extract_lets s1
  have h1 : MemOk b s1 := by
    unfold s1; split
    · exact MemOk.fields h.flushEntry
    · exact h
  exact h1.modCore fun _ hc => hc.fields

theorem MemOk.unlessNoEntry {n k} (h : MemOk b s) (hk : OutOk b k) : OutOk b (s.unlessNoEntry n k) := by
  unfold State.unlessNoEntry; split
  · exact h.block
  · exact hk

theorem MemOk.withEntry {n k} (h : MemOk b s) (hk : ∀ u e, MemOk b u → OutOk b (k u e)) : OutOk b (s.withEntry n k) := by
  unfold State.withEntry; split
  · exact hk _ _ h
  · exact OutOk.ite h.sendRecord (h.withRecord fun _ => h.unlessNoEntry (hk _ _ h.fillEntry))

theorem MemOk.suspendRecord {i p va w} (h : MemOk b s) : MemOk b (s.suspendRecord i p va w) := by
  unfold State.suspendRecord
  exact MemOk.async (h.modCore fun _ hc => hc.fields)

theorem MemOk.flushShawm {o e} (h : MemOk b s) : MemOk b (s.flushShawm o e) := by
  unfold State.flushShawm
  extract_lets p l n s1
  have h1 : MemOk b s1 := h.fields
  split
  · exact MemOk.send (h1.modCore fun _ hc => hc.fields)
  · exact h1

/-! ### Tensor and matrix instructions -/

theorem MemOk.tensorResult {st d x f m} (h : MemOk b s) : OutOk b (s.tensorResult st d x f m) := h.writeV.flag.advance.done

theorem MemOk.qnt {st d a e} (h : MemOk b s) : OutOk b (execQnt st d a e s) := by
  unfold execQnt; dsimp only; split
  · exact h.trap
  · exact h.withOptRecord fun _ => h.check h.tensorResult
theorem MemOk.qntb {st d a e} (h : MemOk b s) : OutOk b (execQntb st d a e s) := by
  unfold execQntb; dsimp only; split
  · exact h.trap
  · exact h.withOptRecord fun _ => h.check h.tensorResult
theorem MemOk.dqnt {st d a e} (h : MemOk b s) : OutOk b (execDqnt st d a e s) := by
  unfold execDqnt
  exact OutOk.ite h.trap (h.withOptRecord fun _ => h.check h.tensorResult)
theorem MemOk.strd {st d e} (h : MemOk b s) : OutOk b (execStrd st d e s) := h.withRecord fun _ => h.writeV.done

theorem MemOk.controlRecord {st n body} (h : MemOk b s) : OutOk b (s.controlRecord st n body) := by
  unfold State.controlRecord; split
  · exact OutOk.ite h.done h.trap
  · exact h.sendRecord
  · split
    · split
      · exact h.block
      · exact h.flushEntry.block
    · exact OutOk.ite h.block h.sendRecord
theorem MemOk.stclr {st e} (h : MemOk b s) : OutOk b (execStclr st e s) := h.check h.controlRecord
theorem MemOk.stfrz {st e} (h : MemOk b s) : OutOk b (execStfrz st e s) := h.check h.controlRecord

theorem MemOk.stsync {st c} (h : MemOk b s) : OutOk b (execStsync st c s) := by
  unfold execStsync
  refine OutOk.ite h.trap (OutOk.ite h.done (OutOk.ite h.block ?_))
  extract_lets s1
  have h1 : MemOk b s1 := MemOk.flushAll (h.modMe fun _ hc => hc.fields)
  split
  · exact h1.block
  · exact OutOk.ite h1.done h1.block

theorem MemOk.storeTracked {st d e g addr} (h : MemOk b s) : OutOk b (s.storeTracked st d e g addr) := by
  unfold State.storeTracked; dsimp only; split
  · refine h.check (h.withEntry fun u en hu => hu.check ?_)
    exact MemOk.done (MemOk.countMem (MemOk.modMe hu.storeLanes fun _ hc => hc.fields))
  · exact h.trap

theorem MemOk.engine {k} (h : MemOk b s) (hk : ∀ x, OutOk b (k x)) : OutOk b (s.engine k) := OutOk.ite (hk _) h.block
theorem MemOk.modMatrix {f} (h : MemOk b s) : MemOk b (s.modMatrix f) := h.modMe fun _ hc => hc.fields

theorem MemOk.oclm {st d a} (h : MemOk b s) : OutOk b (execOclm st d a s) := h.engine fun _ => OutOk.ite h.modMatrix.result h.result
theorem MemOk.orel {st a} (h : MemOk b s) : OutOk b (execOrel st a s) := h.engine fun _ => h.check h.modMatrix.done
theorem MemOk.arel {st a} (h : MemOk b s) : OutOk b (execArel st a s) := h.engine fun _ => h.check h.modMatrix.done
theorem MemOk.old {st o a c e} (h : MemOk b s) : OutOk b (execOld st o a c e s) :=
  h.engine fun _ => h.check (h.withOptRecord fun _ => h.check h.modMatrix.countMem.done)
theorem MemOk.mma {st d o q e} (h : MemOk b s) : OutOk b (execMma st d o q e s) := h.engine fun _ => h.check h.modMatrix.modCx.done
theorem MemOk.mmaZ {st d o q e} (h : MemOk b s) : OutOk b (execMmaZ st d o q e s) := by
  refine h.engine fun x => ?_
  dsimp only; split
  · exact h.check h.trap
  · exact h.check h.modMatrix.modCx.result
theorem MemOk.ard {st d a c} (h : MemOk b s) : OutOk b (execArd st d a c s) := h.engine fun _ => h.check h.writeV.done

theorem MemOk.engineFault {chan n exc} (h : MemOk b s) : MemOk b (s.engineFault chan n exc) := h.engineMsg

theorem MemOk.unlessNoEntryIf {p : Prop} [Decidable p] {n o} (h : MemOk b s) (ho : OutOk b o) :
    OutOk b ((if p then s.unlessNoEntry n else id) o) := by
  split
  · exact h.unlessNoEntry ho
  · exact ho

theorem MemOk.asto {st d a c e} (h : MemOk b s) : OutOk b (execAsto st d a c e s) := by
  refine h.engine fun x => h.check (OutOk.ite h.sendRecord (h.withOptRecord fun r => ?_))
  split
  refine h.check (h.unlessNoEntryIf ?_)
  extract_lets s1 s2
  have h1 : MemOk b s1 := h.foldl fun _ _ h => h.store
  have h2 : MemOk b s2 := by
    unfold s2; split
    · exact h1
    · extract_lets s3 en
      have h3 : MemOk b s3 := h1.fillEntry
      split
      extract_lets s4
      have h4 : MemOk b s4 := h3.modMe fun _ hc => hc.fields
      exact h4.engineFault.ite h4
  exact h2.advance.countMem.done

end Sys2Proof.Machine
end

section
/-! SUPPORT. Transactions at their issuer and at their home. -/

namespace Sys2Proof.Machine

variable {b : Space} {s t : State}

/-! ### Transactions at their issuer (R110 to R143) -/

theorem MemOk.unlessFull {m k} (h : MemOk b s) (hk : OutOk b k) : OutOk b (s.unlessFull m k) := OutOk.ite h.block (OutOk.ite h.block hk)
theorem MemOk.unlessNoSlot {f k} (h : MemOk b s) (hk : OutOk b k) : OutOk b (s.unlessNoSlot f k) := OutOk.ite h.block hk
theorem MemOk.afterRelease {c k} (h : MemOk b s) (hk : OutOk b k) : OutOk b (s.afterRelease c k) := OutOk.ite h.block hk

theorem MemOk.sendMsg {st d a c q} (h : MemOk b s) : OutOk b (execSend st d a c q s) :=
  h.check (h.afterRelease (h.unlessFull (h.check h.issue.done)))

theorem MemOk.writeRing {cn r rec_ bs} (h : MemOk b s) : MemOk b (s.writeRing cn r rec_ bs) := by
  unfold State.writeRing
  extract_lets p
  split
  split
  · next e => exact MemOk.fields (h.translate.of_snd e).putBytes
  · next e => exact (h.translate.of_snd e).async

theorem MemOk.issueHost {m r tag bs} (h : MemOk b s) : MemOk b (s.issueHost m r tag bs) :=
  MemOk.send (h.modMe fun _ hc => hc.modCx.opens)

theorem MemOk.sendhost {st d a c q} (h : MemOk b s) : OutOk b (execSendhost st d a c q s) :=
  h.check (h.afterRelease (OutOk.ite h.block (OutOk.ite h.block (OutOk.ite h.block (h.check h.issueHost.done)))))

theorem MemOk.put {st d a c q} (h : MemOk b s) : OutOk b (execPut st d a c q s) := h.check (h.unlessFull h.issue.done)

theorem MemOk.atomic {op w fetch st d a c q} (h : MemOk b s) : OutOk b (s.atomic op w fetch st d a c q) :=
  h.check (h.unlessFull (h.unlessNoSlot h.issue.done))

theorem MemOk.rfadd {st d a c q} (h : MemOk b s) : OutOk b (execRfadd st d a c q s) := by
  unfold execRfadd; split
  · exact h.trap
  · exact h.check (h.unlessFull h.issue.done)

theorem MemOk.sendUpdate {m body} (h : MemOk b s) : OutOk b (s.sendUpdate m body) := h.issue.block

theorem MemOk.update {st m ok body} (h : MemOk b s) : OutOk b (s.update st m ok body) := by
  unfold State.update; split
  · exact h.done
  · exact h.raise
  · exact h.check (h.unlessFull h.sendUpdate)

theorem MemOk.rfaddT {st d a c q} (h : MemOk b s) : OutOk b (execRfaddT st d a c q s) := by
  unfold execRfaddT; split
  · exact h.trap
  · exact h.update
theorem MemOk.vfaddT {st d a c q} (h : MemOk b s) : OutOk b (execVfaddT st d a c q s) := by
  unfold execVfaddT; split
  · exact h.trap
  · exact h.update

theorem MemOk.skipLine {m first body} (h : MemOk b s) : OutOk b (s.skipLine m first body) := OutOk.ite h.block h.sendUpdate

theorem MemOk.tskip {st d a c q} (h : MemOk b s) : OutOk b (execTskip st d a c q s) := by
  unfold execTskip
  extract_lets start n aim
  split
  · exact h.trap
  · extract_lets body
    split
    · exact OutOk.ite h.done h.skipLine
    · exact h.skipLine
    · exact h.raise
    · exact h.check (h.unlessFull h.sendUpdate)

theorem MemOk.forkHalo {cls at_ bs dir} (h : MemOk b s) : MemOk b (s.forkHalo cls at_ bs dir) := by
  unfold State.forkHalo; split
  · exact h
  · exact MemOk.modMe h.issue fun _ hc => hc.fields

theorem MemOk.halo {st d a c q} (h : MemOk b s) : OutOk b (execHalo st d a c q s) := by
  unfold execHalo
  refine h.check (OutOk.ite h.block (OutOk.ite h.block ?_))
  split
  · exact h.block
  · exact h.check (MemOk.done (h.foldl fun _ _ h => h.forkHalo))

theorem MemOk.fireWatch {cn n z} (h : MemOk b s) : MemOk b (s.fireWatch cn n z) := MemOk.engineMsg (h.modCore fun _ hc => hc.fields)
theorem MemOk.watchAfter {old cn} (h : MemOk b s) : MemOk b (s.watchAfter old cn) := h.foldl fun _ _ h => h.fireWatch.ite h

theorem MemOk.zwatch {st d a c} (h : MemOk b s) : OutOk b (execZwatch st d a c s) := by
  unfold execZwatch
  refine OutOk.ite (OutOk.ite (MemOk.result (h.modMe fun _ hc => hc.fields)) h.result) (h.check ?_)
  split
  · exact h.result
  · extract_lets z s1 s2
    have h1 : MemOk b s1 := h.modMe fun _ hc => hc.fields
    exact MemOk.result (h1.fireWatch.ite h1)

/-! ### Requests at their homes (R113 to R121, R314 to R321) -/

theorem MemOk.putAtCore {cn a bs} (h : MemOk b s) : MemOk b (s.putAtCore cn a bs).2 := by
  unfold State.putAtCore; split
  · exact h
  · split
    · exact h.countUnc.modCore fun _ hc => hc.putAll
    · exact h.modCore fun _ hc => hc.put

theorem MemOk.putAtGlobal {cn p va bs} (h : MemOk b s) : MemOk b (s.putAtGlobal cn p va bs).2 := by
  unfold State.putAtGlobal; split
  · next e => exact h.translateRange.of_snd e
  · next e =>
    have ht := h.translateRange.of_snd e
    split
    · exact ht
    · exact ht.putGlobal

theorem MemOk.putAtTarget {i} (h : MemOk b s) : OutOk b (execPutAtTarget i s) := by
  unfold execPutAtTarget; split
  · exact OutOk.refused
  · refine OutOk.ite OutOk.refused ?_
    split
    · split
      · exact OutOk.refused
      · exact h.reply
      · split
        next e => exact (h.putAtCore.of_snd e).reply
    · exact OutOk.refused
    · split
      next e => exact (h.putAtGlobal.of_snd e).reply
    · exact OutOk.refused

theorem MemOk.atHome {p w cap f} (h : MemOk b s) : MemOk b (s.atHome p w cap f).2.2 := by
  unfold State.atHome; dsimp only; split
  · split
    · exact h
    · split
      · exact h
      · split
        · exact h.countUnc
        · exact MemOk.watchAfter (h.modCore fun _ hc => hc.put)
  · split
    · exact h
    · split
      · next e =>
        have ht := h.translate.of_snd e
        split
        · exact ht
        · split
          · exact ht
          · exact ht.putGlobal
      · next e => exact h.translate.of_snd e

theorem MemOk.performRmw {i p w cap f fetch} (h : MemOk b s) : OutOk b (s.performRmw i p w cap f fetch) := by
  unfold State.performRmw
  extract_lets go
  have hgo : OutOk b go := MemOk.reply h.atHome
  clear_value go
  refine OutOk.ite OutOk.refused ?_
  split
  · split
    · exact OutOk.refused
    · exact h.reply
    · exact hgo
  · exact OutOk.refused
  · exact hgo

theorem MemOk.atomicAtHome {i} (h : MemOk b s) : OutOk b (execAtomicAtHome i s) := by
  unfold execAtomicAtHome; split
  · exact OutOk.refused
  · split
    · exact h.performRmw
    · exact OutOk.refused

theorem MemOk.fpUpdateAtHome {i} (h : MemOk b s) : OutOk b (execFpUpdateAtHome i s) := by
  unfold execFpUpdateAtHome; split
  · exact OutOk.refused
  · split
    · exact h.performRmw
    · exact OutOk.refused

theorem MemOk.haloArrival {i} (h : MemOk b s) : OutOk b (execHaloArrival i s) := by
  unfold execHaloArrival; split
  · exact OutOk.refused
  · split
    · refine OutOk.ite OutOk.refused ?_
      extract_lets ok s1 ack
      have h1 : MemOk b s1 := MemOk.ite (h.modCore fun _ hc => hc.put.setHx) h
      exact h1.takePacket.send
    · exact OutOk.refused

/-! ### Answers at the issuer (R117 to R138) -/

theorem MemOk.exhausted {p} (h : MemOk b s) : MemOk b (s.exhausted p) := by
  unfold State.exhausted
  extract_lets s1
  have h1 : MemOk b s1 := h.modCore fun _ hc => hc.fields
  exact h1.ite (MemOk.notice (MemOk.modCore (MemOk.fields h1) fun _ hc => hc.fields))

theorem MemOk.takeReply {i p} (h : MemOk b s) : MemOk b (s.takeReply i p) := by
  unfold State.takeReply
  exact MemOk.ite (MemOk.exhausted h.fields) h.fields

theorem MemOk.haloAcknowledgement {i} (h : MemOk b s) : OutOk b (execHaloAcknowledgement i s) := by
  unfold execHaloAcknowledgement; split
  · exact OutOk.refused
  · split
    · extract_lets s1
      have h1 : MemOk b s1 := h.takeReply.modCore fun _ hc => hc.completeTx.fields
      exact h1.ite h1.async
    · exact OutOk.refused

theorem MemOk.answerUpdate {cn st t ws} (h : MemOk b s) : MemOk b (s.answerUpdate cn st t ws) := by
  unfold State.answerUpdate
  extract_lets s1
  have h1 : MemOk b s1 := h.modCore fun _ hc => hc.fields
  exact h1.ite ((h1.modCore fun _ hc => hc.rewait).ite h1.raiseAt)

theorem MemOk.setSeq {l n q} (h : MemOk b s) : MemOk b (s.setSeq l n q) := h.modLaunch fun _ hl => hl.fields
theorem MemOk.freeSeq {l n} (h : MemOk b s) : MemOk b (s.freeSeq l n) := h.modLaunch fun _ hl => hl.fields
theorem MemOk.dropSeq {l n} (h : MemOk b s) : MemOk b (s.dropSeq l n) := h.modLaunch fun _ hl => hl.fields

theorem MemOk.endOpening {l n} (h : MemOk b s) : MemOk b (s.endOpening l n).2 := by
  unfold State.endOpening; split
  · exact h
  · split
    · exact h.dropSeq
    · split
      · exact h.dropSeq
      · exact h.setSeq.modLaunch fun _ hl => hl.fields

theorem MemOk.answerParts {cn st t ws} (h : MemOk b s) : MemOk b (s.answerParts cn st t ws) := by
  unfold State.answerParts
  extract_lets id
  split
  · exact h.ite (h.modCore fun _ hc => hc.fields)
  · split
    · split
      · next e => exact (h.endOpening.of_snd e).modCore fun _ hc => hc.rewait
      · next e => exact MemOk.ite (h.endOpening.of_snd e).raiseAt (h.endOpening.of_snd e)
    · exact h.ite ((h.modCore fun _ hc => hc.rewait).ite h.raiseAt)

theorem MemOk.fillRead {cn t ws} (h : MemOk b s) : MemOk b (s.fillRead cn t ws) := by
  unfold State.fillRead; dsimp only; split
  · exact h.fillEntry.ite h
  · exact h

theorem MemOk.finishTx {cn st t ws} (h : MemOk b s) : MemOk b (s.finishTx cn st t ws) := by
  unfold State.finishTx
  exact h.answerUpdate.ite (h.fillRead.ite (h.answerParts.ite ((h.modCore fun _ hc => hc.copyData).ite h.deliver)))

theorem MemOk.transactionCompletion {i} (h : MemOk b s) : OutOk b (execTransactionCompletion i s) := by
  unfold execTransactionCompletion; split
  · exact OutOk.refused
  · split
    · exact OutOk.ite OutOk.refused (MemOk.finishTx (h.takeReply.modCore fun _ hc => hc.completeTx))
    · exact OutOk.ite OutOk.refused (h.takePacket.writeRing.modCore fun _ hc => hc.completeTx)
    · exact OutOk.refused

theorem MemOk.replyArrival {i} (h : MemOk b s) : OutOk b (execReplyArrival i s) := by
  unfold execReplyArrival; split
  · exact OutOk.refused
  · split
    · refine OutOk.ite OutOk.refused ?_
      extract_lets orphan s1
      have h1 : MemOk b s1 := h.takeReply.modCore fun _ hc => hc.completeTx.fields
      exact h1.deliver.ite h1
    · exact OutOk.refused

theorem MemOk.resend {cn p t} (h : MemOk b s) : MemOk b (s.resend cn p t) := by
  unfold State.resend
  exact MemOk.sendOut (h.modCore fun _ hc => hc.ofMem Core.mem_rewait)

theorem MemOk.retryResend {i} (h : MemOk b s) : OutOk b (execRetryResend i s) := by
  unfold execRetryResend; split
  · exact OutOk.refused
  · split
    · exact OutOk.ite h.takeReply.resend OutOk.refused
    · exact OutOk.refused

theorem MemOk.exhaustionNotice {i} (h : MemOk b s) : OutOk b (execExhaustionNotice i s) := by
  unfold execExhaustionNotice; split
  · exact OutOk.refused
  · split
    · exact MemOk.exhausted h.fields
    · exact OutOk.refused

theorem MemOk.congestionNotice {cn key} (h : MemOk b s) : OutOk b (execCongestionNotice cn key s) := by
  unfold execCongestionNotice
  refine OutOk.ite ?_ OutOk.refused
  extract_lets s1
  have h1 : MemOk b s1 := by
    unfold s1; split
    · exact h.fields
    · exact h
  exact h1.modCore fun _ hc => hc.fields

theorem MemOk.messageArrival {i} (h : MemOk b s) : OutOk b (execMessageArrival i s) := by
  unfold execMessageArrival; split
  · exact OutOk.refused
  · split
    · refine OutOk.ite OutOk.refused ?_
      split
      · refine OutOk.ite h.reply (OutOk.ite OutOk.refused (OutOk.ite h.reply ?_))
        exact MemOk.arrive (h.takePacket.modCore fun _ hc => hc.latch)
      · exact OutOk.ite OutOk.refused h.takePacket.arrive
    · exact OutOk.refused

theorem MemOk.heldMessagePlacement {cn ch} (h : MemOk b s) : OutOk b (execHeldMessagePlacement cn ch s) := by
  unfold execHeldMessagePlacement; dsimp only; split
  · exact OutOk.refused
  · split
    · exact h.placeFirst
    · exact h.placeFirst
    · exact h.placeFirst
    · exact OutOk.refused

theorem MemOk.flushMerge {i} (h : MemOk b s) : OutOk b (execFlushMerge i s) := by
  unfold execFlushMerge; split
  · split
    · refine OutOk.ite OutOk.refused ?_
      split
      · next e =>
        have ht := h.translate.of_snd e
        exact MemOk.ite ht.putBytes.takePacket (ht.putBytes.takePacket.modCore fun _ hc => hc.completeTx.fields)
      · next e => exact (h.translate.of_snd e).suspendRecord
    · exact OutOk.refused
  · exact OutOk.refused

theorem MemOk.recordHomeOperation {i} (h : MemOk b s) : OutOk b (execRecordHomeOperation i s) := by
  unfold execRecordHomeOperation; split
  · refine OutOk.ite OutOk.refused ?_
    split
    · next e =>
      have ht := h.translate.of_snd e
      split
      · extract_lets s1
        have h1 : MemOk b s1 := by
          unfold s1; split
          · exact ht.putBytes
          · exact ht
        exact h1.recordDone
      · exact OutOk.refused
    · next e => exact (h.translate.of_snd e).suspendRecord
  · exact OutOk.refused

theorem MemOk.accumulatorFlush {o n} (h : MemOk b s) : OutOk b (execAccumulatorFlush o n s) := by
  unfold execAccumulatorFlush; split
  · split
    · exact OutOk.ite OutOk.refused h.flushEntry
    · exact OutOk.refused
  · split
    · exact h.flushShawm
    · exact OutOk.refused

end Sys2Proof.Machine
end

section
/-! SUPPORT. Ticket sequences, barriers and fences, the trap context, copies. -/

namespace Sys2Proof.Machine

variable {b : Space} {s t : State}

/-! ### Ticket sequences (R143 to R156) -/

theorem MemOk.globalLines {p va n} (h : MemOk b s) : MemOk b (s.globalLines p va n).2 := by
  unfold State.globalLines
  extract_lets r
  have hr : MemOk b r.2 := by
    refine MemOk.foldl_snd h fun r i hr => ?_
    obtain ⟨r, u⟩ := r
    dsimp only; split
    · exact hr
    · split <;> (next e => exact hr.translate.of_snd e)
  clear_value r
  split <;> exact hr

theorem MemOk.descLines {d} (h : MemOk b s) : MemOk b (s.descLines d).2 := by
  unfold State.descLines; split
  · exact h
  · exact h.globalLines

theorem MemOk.askPart {cls first w home body} (h : MemOk b s) : MemOk b (s.askPart cls first w home body) :=
  MemOk.send (h.modMe fun _ hc => hc.modCx.opens)

theorem MemOk.sendQueries {cls w q f} (h : MemOk b s) : OutOk b (s.sendQueries cls w q f) :=
  MemOk.block (h.foldl fun _ _ h => h.askPart)

theorem MemOk.tsopen {st d a c} (h : MemOk b s) : OutOk b (execTsopen st d a c s) := by
  unfold execTsopen
  extract_lets ad
  split
  · exact h.result
  · refine h.check ?_
    split
    · next e => exact (h.descLines.of_snd e).raise
    · next e =>
      have hd := h.descLines.of_snd e
      refine hd.check ?_
      split
      · exact hd.result
      · refine OutOk.ite hd.result ?_
        split
        · exact hd.block
        · exact MemOk.sendQueries (MemOk.setSeq hd.fields)

theorem MemOk.setHomeNum {l a n x} (h : MemOk b s) : MemOk b (s.setHomeNum l a n x) := by
  unfold State.setHomeNum; split
  · exact h.modCore fun _ hc => hc.put
  · exact h.putGlobal

theorem MemOk.applyLanes {q ln ls} (h : MemOk b s) : MemOk b (s.applyLanes q ln ls) := h.foldl fun _ _ h => h.setHomeNum

theorem MemOk.applyUpdate {q ln ls} (h : MemOk b s) : MemOk b (s.applyUpdate q ln ls) := by
  unfold State.applyUpdate; split
  · exact h.applyLanes.watchAfter
  · exact h.applyLanes

theorem MemOk.performDue {q f} (h : MemOk b s) : MemOk b (s.performDue q f).1 := by
  refine h.foldl fun u e hu => ?_
  split
  · exact hu.applyUpdate
  · exact hu

theorem MemOk.performUnless {q f} {late : Bool} (h : MemOk b s) : MemOk b (if late then (s, q) else s.performDue q f).1 := by
  split
  · exact h
  · exact h.performDue

theorem MemOk.updateAt {l la f n ls o late} (h : MemOk b s) : MemOk b (s.updateAt l la f n ls o late).2.2 := by
  unfold State.updateAt; split
  · exact h
  · extract_lets own
    split
    · exact h
    · split
      · exact h
      · split
        · exact h
        · split
          · exact h
          · split
            · dsimp only; split
              · exact h.countUnc
              · exact h
            · split
              split
              next e =>
                have hs := h.performUnless.of_fst e
                exact MemOk.setSeq (MemOk.ite hs.fields hs)

theorem MemOk.performDues {p l f} (h : MemOk b s) : MemOk b (s.performDues p l f) := by
  unfold State.performDues; split
  · exact h
  · refine h.foldl fun u e hu => ?_
    dsimp only; split
    · exact hu
    · exact hu.performDue.setSeq

theorem MemOk.updateArrival {i late} (h : MemOk b s) : OutOk b (s.updateArrival i late) := by
  unfold State.updateArrival; split
  · exact OutOk.refused
  · split
    · extract_lets lacks from_ answer
      have answered : ∀ r, MemOk b r.2.2 → OutOk b (answer r) := fun _ hr => hr.reply
      clear_value answer
      split
      · exact OutOk.refused
      · split
        · exact answered _ h
        · exact answered _ h
        · exact OutOk.ite (answered _ h) (answered _ h.updateAt)
      · refine OutOk.ite (answered _ h) ?_
        split
        · next e => exact OutOk.ite (answered _ (h.translate.of_snd e)) (answered _ (h.translate.of_snd e).updateAt)
        · next e => exact answered _ (h.translate.of_snd e)
    · exact OutOk.refused

theorem MemOk.applyNext {p l n line} (h : MemOk b s) : OutOk b (s.applyNext p l n line) := by
  unfold State.applyNext; split
  · exact OutOk.refused
  · split
    · exact h.applyUpdate.setSeq
    · exact OutOk.refused

theorem MemOk.endDrains {l w n} (h : MemOk b s) : MemOk b (s.endDrains l w n) := by
  unfold State.endDrains
  extract_lets s1
  have h1 : MemOk b s1 := h.fields
  exact MemOk.ite (h1.foldl fun _ _ h => h.modCore fun _ hc => hc.fields) h1

theorem MemOk.tdrain {st a c} (h : MemOk b s) : OutOk b (execTdrain st a c s) := by
  unfold execTdrain; dsimp only; split
  · exact h.done
  · split
    · exact h.trap
    · refine OutOk.ite h.done ?_
      split
      · exact h.block
      · exact h.sendQueries

theorem MemOk.applyAllHeld {q} (h : MemOk b s) : MemOk b (s.applyAllHeld q) := by
  refine h.foldl fun u e hu => ?_
  split
  · exact hu.applyUpdate
  · exact hu

theorem MemOk.close {st d w l n q} (h : MemOk b s) : OutOk b (s.close st d w l n q) := by
  unfold State.close; split
  · exact h.freeSeq.endDrains.result
  · exact OutOk.ite h.applyAllHeld.freeSeq.endDrains.result h.setSeq.raise

theorem MemOk.tsclose {st d a c} (h : MemOk b s) : OutOk b (execTsclose st d a c s) := by
  unfold execTsclose; dsimp only; split
  · exact h.trap
  · refine OutOk.ite h.freeSeq.endDrains.result ?_
    split
    · exact h.close
    · refine OutOk.ite h.block ?_
      split
      · exact h.block
      · exact h.sendQueries

theorem MemOk.openPart {l n j q w} (h : MemOk b s) : MemOk b (s.openPart l n j q w) := by
  unfold State.openPart
  exact h.setSeq.ite (h.setSeq.ite h.setSeq)

theorem MemOk.sequencePartQuery {i} (h : MemOk b s) : OutOk b (execSequencePartQuery i s) := by
  unfold execSequencePartQuery; split
  · exact OutOk.refused
  · split
    · split
      · exact h.openPart.partReply
      · exact h.partReply
    · split
      · exact h.partReply
      · exact OutOk.ite OutOk.refused h.performDue.setSeq.partReply
    · split
      · exact h.partReply
      · exact h.performDue.setSeq.partReply
    · exact OutOk.refused

/-! ### Barriers and fences (R168 to R171, R323 to R326) -/

theorem MemOk.arriveAt {st n drop} (h : MemOk b s) : OutOk b (s.arriveAt st n drop) := by
  unfold State.arriveAt; dsimp only; split
  · exact h.trap
  · exact h.check (h.afterRelease (MemOk.done (MemOk.modLaunch (h.modMe fun _ hc => hc.fields) fun _ hl => hl.fields)))

theorem MemOk.wait {st d n} (h : MemOk b s) : OutOk b (execWait st d n s) := OutOk.ite h.result (OutOk.ite h.block h.result)

theorem MemOk.barrierPhaseCompletion {p l n} (h : MemOk b s) : OutOk b (execBarrierPhaseCompletion p l n s) := by
  unfold execBarrierPhaseCompletion; split
  · exact OutOk.refused
  · exact OutOk.ite OutOk.refused (MemOk.modLaunch (h.foldl fun _ _ h => h.modCore fun _ hc => hc.fields) fun _ hl => hl.fields)

theorem MemOk.fence {st c} (h : MemOk b s) : OutOk b (execFence st c s) := h.check (h.afterRelease (OutOk.ite h.block h.done))
theorem MemOk.fenceAcq {st c} (h : MemOk b s) : OutOk b (execFenceAcq st c s) := h.check (OutOk.ite h.block h.done)
theorem MemOk.fenceRel {st c} (h : MemOk b s) : OutOk b (execFenceRel st c s) := h.check (h.afterRelease h.done)
theorem MemOk.fenceSc {st c} (h : MemOk b s) : OutOk b (execFenceSc st c s) := by
  refine h.check (OutOk.ite h.done (h.afterRelease ?_))
  split
  · exact h.done
  · exact MemOk.block (h.modLaunch fun _ hl => hl.fields)

theorem MemOk.fenceScOrderFixed {cn k} (h : MemOk b s) : OutOk b (execFenceScOrderFixed cn k s) := by
  unfold execFenceScOrderFixed; split
  · exact OutOk.refused
  · exact OutOk.ite (MemOk.modCore (h.modLaunch fun _ hl => hl.fields) fun _ hc => hc.fields) OutOk.refused

theorem MemOk.deadlock {p l} (h : MemOk b s) : OutOk b (execDeadlock p l s) := by
  unfold execDeadlock; split
  · exact OutOk.refused
  · exact OutOk.ite (h.foldl fun _ _ h => h.async) OutOk.refused

/-! ### The trap context and the state of a core (R340 to R361) -/

theorem CoreOk.takeRecord {c : Core} {r : FaultRec} (h : CoreOk b c) : CoreOk b (c.takeRecord r) := h.fields

theorem MemOk.trapEntry {cn} (h : MemOk b s) : OutOk b (execTrapEntry cn s) := by
  unfold execTrapEntry
  refine OutOk.ite OutOk.refused ?_
  split
  · next e => exact h.setCore (((h.core _).ofMem (Core.mem_nextRecord e)).takeRecord)
  · exact OutOk.refused

theorem MemOk.tret {st a} (h : MemOk b s) : OutOk b (execTret st a s) := by
  unfold execTret
  extract_lets hold c0 tc r0 cause c1 c2 tr c3
  have h0 : CoreOk b c0 := h.retire.core _
  have h1 : CoreOk b c1 := CoreOk.ite h0 h0.modCx
  have h3 : CoreOk b c3 := (h1.ofMem Core.mem_acknowledge).fields
  clear_value c3
  refine h.setCore ?_
  split
  · next e => exact (h3.ofMem (Core.mem_nextRecord e)).takeRecord
  · exact h3.modCx

theorem MemOk.xrd {st d a c} (h : MemOk b s) : OutOk b (execXrd st d a c s) := by
  unfold execXrd
  exact h.check (OutOk.ite h.result (OutOk.ite (MemOk.result (h.modMe fun _ hc => hc.fields)) h.result))

theorem MemOk.xwr {st d a c} (h : MemOk b s) : OutOk b (execXwr st d a c s) := by
  unfold execXwr
  exact h.check (MemOk.ite h.retire.setSpecial (h.retire.modMe fun _ hc => hc.fields))

theorem MemOk.eresume {st a} (h : MemOk b s) : OutOk b (execEresume st a s) := by
  unfold execEresume; dsimp only; split
  · exact h.check (MemOk.done (h.modMe fun _ hc => hc.fields))
  · split
    · exact MemOk.done h.fields
    · exact h.trap
  · exact h.check (MemOk.done (h.modMe fun _ hc => hc.fields))

theorem MemOk.eabort {st a} (h : MemOk b s) : OutOk b (execEabort st a s) := h.check (MemOk.done (h.modMe fun _ hc => hc.fields))

theorem MemOk.dropSlices {asid va} (h : MemOk b s) : MemOk b (s.dropSlices asid va) := h.fields

theorem MemOk.xinv {st a c} (h : MemOk b s) : OutOk b (execXinv st a c s) := by
  unfold execXinv
  exact MemOk.done (MemOk.dropSlices (h.modMe fun _ hc => hc.fields))

theorem MemOk.setHalt {cn v} (h : MemOk b s) : MemOk b (s.setHalt cn v) := h.modCore fun _ hc => hc.fields

theorem MemOk.machineCheckEvent {cn} (h : MemOk b s) : OutOk b (execMachineCheck cn s) := OutOk.ite h.machineCheck OutOk.refused
theorem MemOk.coreHalt {cn} (h : MemOk b s) : OutOk b (execCoreHalt cn s) := OutOk.ite h.setHalt OutOk.refused
theorem MemOk.haltRelease {cn} (h : MemOk b s) : OutOk b (execHaltRelease cn s) := OutOk.ite h.setHalt OutOk.refused
theorem MemOk.matrixEnginePowerDown {cn} (h : MemOk b s) : OutOk b (execMatrixEnginePowerDown cn s) :=
  OutOk.ite (h.modCore fun _ hc => hc.fields) OutOk.refused
theorem MemOk.matrixEngineReady {cn} (h : MemOk b s) : OutOk b (execMatrixEngineReady cn s) :=
  OutOk.ite OutOk.refused (h.modCore fun _ hc => hc.fields)

/-! ### Copies (R60 to R68) -/

theorem MemOk.copyGo {st d} (h : MemOk b s) : OutOk b (execCopyGo st d s) := by
  unfold execCopyGo
  refine OutOk.ite h.modCx (h.check ?_)
  extract_lets o s1 s2
  have h1 : MemOk b s1 := h.modMe fun _ hc => hc.fields
  exact MemOk.result (MemOk.ite h1.advance h1)

theorem MemOk.putSite {x bs} (h : MemOk b s) : MemOk b (s.putSite x bs) := by
  unfold State.putSite; split
  · exact h.foldl fun _ _ h => h.modCore fun _ hc => hc.putAll
  · exact h.putGlobal

theorem MemOk.setCopy {cn o} (h : MemOk b s) : MemOk b (s.setCopy cn o) := h.modCore fun _ hc => hc.fields
theorem MemOk.suspendCopy {cn o va x w} (h : MemOk b s) : MemOk b (s.suspendCopy cn o va x w) := h.setCopy.async
theorem MemOk.refuseCopy {cn o r} (h : MemOk b s) : MemOk b (s.refuseCopy cn o r) := h.setCopy.async
theorem MemOk.breakCopy {cn o p w} (h : MemOk b s) : MemOk b (s.breakCopy cn o p w) := by
  unfold State.breakCopy; dsimp only; split
  · exact h.setCopy.countUnc.report
  · exact h.setCopy.async

theorem MemOk.beginPart {cn o} (h : MemOk b s) : MemOk b (s.beginPart cn o) := by
  unfold State.beginPart; split
  · next e => exact (h.translatePart.of_snd e).suspendCopy
  · next e => exact (h.translatePart.of_snd e).setCopy

theorem MemOk.sendCopyPacket {cn o t a} (h : MemOk b s) : MemOk b (s.sendCopyPacket cn o t a) :=
  MemOk.send (h.modCore fun _ hc => hc.fields)

theorem MemOk.sendCopyUpdate {cn o ls} (h : MemOk b s) : MemOk b (s.sendCopyUpdate cn o ls) := h.sendCopyPacket

theorem MemOk.accumulate {o x w cs} (h : MemOk b s) : MemOk b (s.accumulate o x w cs) := by
  unfold State.accumulate
  extract_lets s1
  have h1 : MemOk b s1 := h.foldl fun _ _ h => h.putSite
  split
  · exact h1.watchAfter
  · exact h1

theorem MemOk.pastBlock {cn o n bs} (h : MemOk b s) : MemOk b (s.pastBlock cn o n bs) := h.setCopy

theorem MemOk.performBlock {cn o p} (h : MemOk b s) : MemOk b (s.performBlock cn o p) := by
  unfold State.performBlock
  extract_lets bs x side w
  split
  extract_lets s1 new vs
  refine h.sendCopyUpdate.ite ?_
  have h1 : MemOk b s1 := h.putSite.ite h.accumulate
  clear_value s1
  split
  next e =>
    refine (MemOk.of_fst ?_ e).putSite.pastBlock
    split
    · split
      split
      · exact h1
      · exact h1.modCore fun _ hc => hc.fields
    · exact h1

theorem MemOk.copyBlock {cn o} (h : MemOk b s) : MemOk b (s.copyBlock cn o) := by
  unfold State.copyBlock
  extract_lets blk lost broken p dst
  have hb : ∀ {p off i w}, MemOk b (broken p off i w) := h.breakCopy
  clear_value broken
  split
  · exact hb
  · exact hb
  · exact hb
  · exact hb
  · exact h.refuseCopy.ite h.performBlock

theorem MemOk.copyAnswered {cn o st ws} (h : MemOk b s) : MemOk b (s.copyAnswered cn o st ws) := by
  unfold State.copyAnswered; dsimp only; split
  · exact h.pastBlock
  · exact h.suspendCopy
  · exact h.breakCopy
  · exact h.refuseCopy

theorem MemOk.unlessUnfilled {cn o k} (h : MemOk b s) (hk : OutOk b k) : OutOk b (s.unlessUnfilled cn o k) :=
  OutOk.ite hk (OutOk.ite OutOk.refused h.sendRecordTx)

theorem MemOk.sendRequests {cn o rs} (h : MemOk b s) : MemOk b (s.sendRequests cn o rs) := h.foldl fun _ _ h => h.sendCopyPacket

theorem MemOk.startBlock {cn o} (h : MemOk b s) : OutOk b (s.startBlock cn o) := by
  unfold State.startBlock
  refine OutOk.ite h.beginPart ?_
  split
  · exact h.unlessUnfilled h.copyBlock
  · exact OutOk.ite h.sendRequests (h.unlessUnfilled h.sendRequests)

theorem MemOk.copyBlockWrite {cn id} (h : MemOk b s) : OutOk b (execCopyBlockWrite cn id s) := by
  unfold execCopyBlockWrite; dsimp only; split
  · exact OutOk.refused
  · split
    · exact h.copyAnswered
    · split
      · exact h.reply
      · exact h.unlessUnfilled (h.copyBlock.foldl fun _ _ h => h.reply)
    · exact OutOk.ite OutOk.refused h.startBlock
    · exact OutOk.refused

theorem MemOk.copyCompletion {cn id} (h : MemOk b s) : OutOk b (execCopyCompletion cn id s) := by
  unfold execCopyCompletion
  extract_lets cn c room
  split
  · exact OutOk.refused
  · extract_lets push leave
    have pushed : ∀ {u}, MemOk b u → MemOk b (push u) := fun hu => hu.modCore fun _ hc => hc.fields
    have left : ∀ {u q}, MemOk b u → MemOk b (leave u q) := fun hu => hu.modCore fun _ hc => hc.fields
    clear_value push leave
    split
    · extract_lets s1 s2
      refine OutOk.ite OutOk.refused ?_
      have h1 : MemOk b s1 := h.engineMsg.ite h
      exact left (MemOk.ite (pushed h1) h1)
    · exact OutOk.ite (left (pushed h)) OutOk.refused
    · exact OutOk.refused

end Sys2Proof.Machine
end

section
/-! SUPPORT. Generations and the Shawm. -/

namespace Sys2Proof.Machine

variable {b : Space} {s t : State} {B : Boundary}

/-! ### Generations (R181 to R194, R327 to R329) -/

theorem MemOk.setGroup {n q} (h : MemOk b s) : MemOk b (s.setGroup n q) := h.fields

theorem MemOk.genendArrive (h : MemOk b s) : OutOk b s.genendArrive := by
  unfold State.genendArrive; dsimp only; split
  · exact h.trap
  · exact h.setGroup.block

theorem MemOk.genendQuiet (h : MemOk b s) : OutOk b s.genendQuiet := by
  unfold State.genendQuiet
  refine OutOk.ite h.block ?_
  dsimp only; split
  · exact h.flushAll.block
  · exact OutOk.ite h.flushAll.block h.flushAll.genendArrive

theorem MemOk.genend {st} (h : MemOk b s) : OutOk b (execGenend st s) := by
  unfold execGenend; split
  · exact h.genendQuiet
  · exact h.genendQuiet
  · exact h.genendQuiet
  · exact h.genendArrive
  · exact h.block
  · exact h.check (MemOk.genendQuiet (h.modMe fun _ hc => hc.fields))

theorem MemOk.genq {st d q} (h : MemOk b s) : OutOk b (execGenq st d q s) := h.check h.result

theorem MemOk.migrate {st d a} (h : MemOk b s) : OutOk b (execMigrate st d a s) := by
  refine h.check ?_
  split
  · exact h.trap
  · exact OutOk.ite h.result h.setGroup.result

theorem MemOk.flushFor {l n e} (h : MemOk b s) : MemOk b (s.flushFor l n e) := h.flushShawm

theorem MemOk.shawmContribute {l o n i vs} (h : MemOk b s) : MemOk b (s.shawmContribute l o n i vs).1 := by
  unfold State.shawmContribute; split
  · exact h
  · extract_lets id s1 old
    have h1 : MemOk b s1 := by
      unfold s1; split
      · exact h
      · split
        · exact MemOk.fields h.flushFor
        · exact h
    exact h1.fields

theorem MemOk.replace {x y} (h : MemOk b s) : MemOk b (B.replace s x y).1 := by
  refine MemOk.foldl_fst h fun r _ hr => ?_
  obtain ⟨u, o⟩ := r
  have hu : MemOk b u := hr
  exact MemOk.shawmContribute (hu.modCore fun _ hc => hc.put)

theorem MemOk.install {x y i} (h : MemOk b s) : MemOk b (B.install s x y i).1 := by
  refine MemOk.foldl_fst h fun r _ hr => ?_
  obtain ⟨u, o⟩ := r
  have hu : MemOk b u := hr
  dsimp only; split
  · exact hu.modCore fun _ hc => hc.put
  · exact hu

theorem MemOk.transfers (h : MemOk b s) : MemOk b (B.transfers s).1 :=
  MemOk.foldl_fst (MemOk.foldl_fst h fun _ _ hr => MemOk.replace hr) fun _ x hr => MemOk.install (y := x.1.1) hr

theorem MemOk.readRecords {l ids} (h : MemOk b s) : MemOk b (s.readRecords l ids).2 := by
  refine MemOk.foldl_snd h fun r n hr => ?_
  obtain ⟨r, u⟩ := r
  cases r with
  | error e => exact hr
  | ok m => dsimp only; split <;> (next e => exact hr.translate.of_snd e)

theorem MemOk.suspendRead {n q va} (h : MemOk b s) : MemOk b (s.suspendRead n q va) := by
  unfold State.suspendRead
  exact MemOk.async (MemOk.modCore h.fields fun _ hc => hc.fields)

theorem MemOk.writeLineage {n q p log} (h : MemOk b s) : MemOk b (s.writeLineage n q p log).1 := by
  induction log generalizing s with
  | nil => exact h
  | cons dws rest ih =>
    unfold State.writeLineage; dsimp only; split
    · next e => exact ih (h.translate.of_snd e).putBytes
    · next e => exact (h.translate.of_snd e).async

theorem MemOk.sendExport {q x} (h : MemOk b s) : MemOk b (B.sendExport s q x).1 := by
  unfold Boundary.sendExport; dsimp only; split
  · exact h
  · exact h.foldl fun _ _ h => MemOk.send (h.modCore fun _ hc => hc.fields)

theorem MemOk.exportDone {n f st} (h : MemOk b s) : MemOk b (s.exportDone n f st) := by
  unfold State.exportDone; split
  · exact h
  · split
    · exact h
    · exact h.setGroup

theorem MemOk.finish {q} (h : MemOk b s) : MemOk b (B.finish s q) := by
  unfold Boundary.finish; split
  next s1 q1 e =>
  have h1 := h.writeLineage.of_fst e
  refine h1.setGroup.ite ?_
  split
  next s2 q2 e2 =>
  have sent : ∀ {o : Option Export}, MemOk b (match o with
      | some x => B.sendExport s1 q1 x
      | none => (s1, q1)).1 := by
    intro o; cases o with
    | none => exact h1
    | some x => exact h1.sendExport
  exact ((sent.of_fst e2).foldl fun _ _ h => h.flushFor).setGroup

theorem MemOk.generationBoundary {g} (h : MemOk b s) : OutOk b (execGenerationBoundary g s) := by
  unfold execGenerationBoundary; dsimp only; split
  · exact OutOk.refused
  · split
    · exact OutOk.refused
    · refine OutOk.ite OutOk.refused (OutOk.ite h.finish ?_)
      split
      · next e => exact (h.readRecords.of_snd e).suspendRead
      · next e => exact (h.readRecords.of_snd e).transfers.finish

theorem MemOk.resumeMember {q cn} (h : MemOk b s) : MemOk b (s.resumeMember q cn) := by
  unfold State.resumeMember
  extract_lets c r gen lost ev stl s1
  have h1 : MemOk b s1 := h.modCore fun _ hc => CoreOk.modCx hc.fields
  clear_value s1
  exact MemOk.ite (h1.arrive.ite h1.engineMsg) h1

theorem MemOk.generationResumption {g} (h : MemOk b s) : OutOk b (execGenerationResumption g s) := by
  unfold execGenerationResumption; split
  · exact OutOk.refused
  · exact OutOk.ite OutOk.refused (MemOk.setGroup (h.foldl fun _ _ h => h.resumeMember))

theorem MemOk.immigrantBatch {x} (h : MemOk b s) : OutOk b (execImmigrantBatch x s) := by
  unfold execImmigrantBatch; split
  · exact OutOk.refused
  · refine OutOk.ite OutOk.refused ?_
    extract_lets known st s1
    have h1 : MemOk b s1 := by
      unfold s1; split
      · exact h.setGroup
      · exact h
    exact h1.foldl fun _ _ h => h.reply

end Sys2Proof.Machine
end

section
/-! SUPPORT. The launch sequencer and the runtime's commands. -/

namespace Sys2Proof.Machine

variable {b : Space} {s t : State}

/-! ### The launch sequencer (R362 to R376) -/

theorem MemOk.readBlock {p w n} (h : MemOk b s) : MemOk b (s.readBlock p w n).2 := by
  unfold State.readBlock
  split
  · exact h
  · split
    · exact h
    · split
      · next e => exact h.translateRange.of_snd e
      · next e => split <;> exact h.translateRange.of_snd e

theorem MemOk.writeBlock {p w bs} (h : MemOk b s) (e : s.writeBlock p w bs = some t) : MemOk b t := by
  unfold State.writeBlock at e
  split at e
  · cases e
  · split at e
    · cases e
    · next et =>
      have hu := h.translateRange.of_snd et
      cases e
      exact hu.withGmem fun hb => Memory.wf_writePieces (hu.gmem hb) _ _

theorem MemOk.getD {o : Option State} (h : MemOk b s) (ho : ∀ u, o = some u → MemOk b u) : MemOk b (o.getD s) := by
  cases o with
  | none => exact h
  | some u => exact ho u rfl

theorem MemOk.takeHead {p q r} (h : MemOk b s) : MemOk b (s.takeHead p q r) := MemOk.setQfield h.fields

theorem MemOk.readBlocks {p r} (h : MemOk b s) : MemOk b (s.readBlocks p r).2 := by
  unfold State.readBlocks; split
  · next e => exact h.readBlock.of_snd e
  next e1 =>
  have h1 := h.readBlock.of_snd e1
  split
  · next e => exact h1.readBlock.of_snd e
  next e2 =>
  have h2 := h1.readBlock.of_snd e2
  split
  · next e => exact h2.readBlock.of_snd e
  next e3 =>
  have h3 := h2.readBlock.of_snd e3
  split
  · next e => exact h3.readBlock.of_snd e
  next e4 =>
  have h4 := h3.readBlock.of_snd e4
  split <;> (next e => exact h4.readBlock.of_snd e)

theorem MemOk.checkRecord {p r} (h : MemOk b s) : MemOk b (s.checkRecord p r).2 := by
  unfold State.checkRecord; split
  · exact h
  · split
    · exact h
    · split
      · exact h
      · split
        · exact h
        · split
          · next e => exact h.readBlocks.of_snd e
          · next e =>
            have h1 := h.readBlocks.of_snd e
            split
            · exact h1
            · split
              · exact h1
              · split <;> exact h1

theorem MemOk.refuseHead {p q pri r st k o} (h : MemOk b s) : MemOk b (s.refuseHead p q pri r st k o) := by
  unfold State.refuseHead; dsimp only
  refine MemOk.takeHead ?_
  split
  · next e => exact h.writeBlock e
  · exact h.setQfield

/-! #### Acceptance and the start of a core (R369 to R373) -/

theorem Memory.wf_launchMem {m : Memory} {l : Launch} {cn : Nat} {mesh : Word} {x : Blocks} {held : Bool} (h : Memory.wf m = true) :
    Memory.wf (launchMem m l cn mesh x held) = true := by
  unfold launchMem
  refine Memory.wf_write (Memory.wf_foldl (Memory.wf_write (Memory.wf_write (Memory.wf_filter h _) _ _) _ _) fun m e hm => ?_) _ _
  dsimp only; split
  · exact hm
  · exact Memory.wf_setByte hm _ _

theorem CoreOk.prepareCore {c : Core} {l cn mesh r x fresh gen tvec} (h : CoreOk b c) :
    CoreOk b (prepareCore c l cn mesh r x fresh gen tvec) :=
  List.foldlRecOn (motive := CoreOk b) _ _ (fun hb => Memory.wf_launchMem (h hb)) fun _ hc _ _ => hc.setStatus

theorem MemOk.writeRecords {l imgs} (h : MemOk b s) : MemOk b (s.writeRecords l imgs) := by
  refine h.foldl fun u n hu => ?_
  split
  · next e =>
    have ht := hu.translate.of_snd e
    exact ht.withGmem fun hb => Memory.wf_write (ht.gmem hb) _ _
  · next e => exact hu.translate.of_snd e

theorem MemOk.addLaunch {l : Launch} (h : MemOk b s) (hl : LaunchOk b l) : MemOk b { s with launches := s.launches ++ [l] } :=
  h.withLaunches fun q hq => (List.mem_append.mp hq).elim (h.launches q) fun e => List.mem_singleton.mp e ▸ hl

theorem LaunchOk.ofNone {l : Launch} (h : l.saved = []) : LaunchOk b l := fun e he => by rw [h] at he; cases he

theorem MemOk.acceptHead {p q pri r x x0 y0} (h : MemOk b s) : MemOk b (s.acceptHead p q pri r x x0 y0) := by
  unfold State.acceptHead
  extract_lets l s1 fresh l1 gs genOf mesh tvec s2 s3 s4
  have hl : LaunchOk b l1 := LaunchOk.ofNone rfl
  have h3 : MemOk b s3 := MemOk.foldl (MemOk.fields h.setQfield) fun _ _ h => h.modCore fun _ hc => hc.prepareCore
  clear_value l1 s3
  exact MemOk.ite (MemOk.refuseHead (h3.foldl fun _ _ h => h.modCore fun _ hc => hc.fields))
    (MemOk.writeRecords (MemOk.fields (h3.addLaunch hl))).takeHead

theorem MemOk.launchRecord {p} (h : MemOk b s) : OutOk b (execLaunchRecord p s) := by
  unfold execLaunchRecord
  refine OutOk.ite OutOk.refused ?_
  split
  · exact OutOk.refused
  · split
    · next e => exact (h.checkRecord.of_snd e).refuseHead
    · next e =>
      split
      · exact (h.checkRecord.of_snd e).acceptHead
      · exact OutOk.refused

theorem MemOk.wakeArrival {cn} (h : MemOk b s) : OutOk b (execWakeArrival cn s) := by
  unfold execWakeArrival; dsimp only; split
  · exact OutOk.refused
  · exact OutOk.ite OutOk.refused (MemOk.modLaunch (h.modCore fun _ hc => CoreOk.modCx hc.fields) fun _ hl => by
      split
      · exact hl.fields
      · exact hl)

theorem MemOk.selection {cn} (h : MemOk b s) : OutOk b (execSelection cn s) := OutOk.ite h.select OutOk.refused

theorem MemOk.hostWake {cn} (h : MemOk b s) : OutOk b (execHostWake cn s) :=
  OutOk.ite (h.modCore fun _ hc => hc.latch) OutOk.refused

/-! #### Completion (R27, R374, R375) -/

theorem MemOk.closeLog {l cn n} (h : MemOk b s) : MemOk b (s.closeLog l cn n) := by
  unfold State.closeLog; split
  exact h.putBytes.ite h

theorem MemOk.endPart {cn} (h : MemOk b s) : MemOk b (s.endPart cn) := by
  unfold State.endPart
  extract_lets held s1 s2 s3
  have h3 : MemOk b s3 := MemOk.flushAll (MemOk.foldl (h.modCore fun _ hc => hc.fields) fun _ _ h => h.async.taken)
  split
  · exact h3.closeLog
  · exact h3

theorem MemOk.corePartEnd {cn} (h : MemOk b s) : OutOk b (execCorePartEnd cn s) := by
  unfold execCorePartEnd; dsimp only; split
  · exact OutOk.refused
  · exact OutOk.ite h.endPart.fields OutOk.refused

theorem MemOk.completionReport {i} (h : MemOk b s) : OutOk b (execCompletionReport i s) := by
  unfold execCompletionReport; split
  · exact OutOk.refused
  · split
    · exact OutOk.refused
    · extract_lets s1
      have h1 : MemOk b s1 := h.fields
      clear_value s1
      split
      · exact OutOk.ite OutOk.refused (OutOk.ite (MemOk.fields (h1.modLaunch fun _ hl => hl.fields)) (h1.modLaunch fun _ hl => hl.fields))
      · exact h1.modLaunch fun _ hl => hl.fields

theorem MemOk.writePerf {l} (h : MemOk b s) : MemOk b (s.writePerf l) := by
  unfold State.writePerf; dsimp only; split
  · exact h
  · exact MemOk.putBytes h.fields

theorem MemOk.commandResult {p w r} (h : MemOk b s) : MemOk b (s.commandResult p w r) := by
  unfold State.commandResult; dsimp only
  refine MemOk.setQfield ?_
  split
  · next e => exact h.writeBlock e
  · exact h

theorem MemOk.complete {l} (h : MemOk b s) : MemOk b (s.complete l) := by
  unfold State.complete
  extract_lets s0 s1
  have h1 : MemOk b s1 := h.performDues.writePerf.fields
  split
  extract_lets bs s2 s3
  clear_value s1
  have h2 : MemOk b s2 := by
    unfold s2; split
    · next e => exact h1.writeBlock e
    · exact h1
  clear_value s2
  have h3 : MemOk b s3 := by
    unfold s3; split
    · exact h2.commandResult
    · exact h2
  exact h3.modLaunch fun _ hl => hl.fields

theorem MemOk.launchCompletion {p l} (h : MemOk b s) : OutOk b (execLaunchCompletion p l s) := by
  unfold execLaunchCompletion; split
  · exact OutOk.refused
  · exact OutOk.ite h.complete OutOk.refused

theorem MemOk.dropLaunches {f : Launch → Bool} (h : MemOk b s) : MemOk b { s with launches := s.launches.filter f } :=
  h.withLaunches fun l hl => h.launches l (List.mem_filter.mp hl).1

theorem MemOk.rectangleRelease {p l} (h : MemOk b s) : OutOk b (execRectangleRelease p l s) := by
  unfold execRectangleRelease; split
  · exact OutOk.refused
  · exact OutOk.ite OutOk.refused (MemOk.dropLaunches (MemOk.ite (h.foldl fun _ _ h => h.modCore fun _ hc => hc.fields) h))

/-! ### STOP, RESUME and END (R377 to R382) -/

theorem MemOk.takeCommand {p : Nat} {f : Nat → Bool} {at_ : Word} {lid : Nat} {arg : Word} (h : MemOk b s)
    (e : s.takeCommand p f = some (at_, lid, arg, t)) : MemOk b t := by
  unfold State.takeCommand at e
  split at e
  · split at e
    · cases e; exact h.fields
    · cases e
  · cases e

theorem MemOk.launch? {p lid : Nat} {l : Launch} (h : MemOk b s) (e : s.launch? p lid = some l) : LaunchOk b l :=
  h.launches l (List.mem_of_find?_eq_some e)

theorem CoreOk.savedCore {l : Launch} {c : Core} (h : CoreOk b c) : CoreOk b (l.savedCore c) := fun hb => Memory.wf_filter (h hb) _

theorem MemOk.putPages {p w bs} (h : MemOk b s) : MemOk b (s.putPages p w bs) :=
  h.foldl fun _ _ hu => hu.getD fun _ e => hu.writeBlock e

theorem MemOk.putSpill {r : State × List (Word × Nat)} {p bs} (h : MemOk b r.1) : MemOk b (State.putSpill r p bs).1 := by
  unfold State.putSpill; split
  · exact h.putPages
  · exact MemOk.putBytes h.fields

theorem MemOk.writeSaved {l} (h : MemOk b s) : MemOk b (s.writeSaved l) :=
  MemOk.foldl_fst (h.foldl fun _ _ h => h.foldl fun _ _ h => h.putPages) fun _ _ h => h.putSpill

theorem MemOk.leaves {p cn} (h : MemOk b s) : MemOk b (s.leaves p cn) :=
  MemOk.ite (MemOk.traceChange (h.modCore fun _ hc => hc.fields)) (h.modCore fun _ hc => hc.fields)

theorem MemOk.savedCores {l : Launch} {cs : List Nat} (h : MemOk b s) :
    ∀ e ∈ cs.foldl (fun m cn => SMap.put m cn (l.savedCore (s.core cn))) ([] : SMap Core), CoreOk b e.2 :=
  List.foldlRecOn (motive := fun m : SMap Core => ∀ e ∈ m, CoreOk b e.2) cs _ (fun _ he => by cases he)
    fun _ hm cn _ _ he => (SMap.mem_put he).elim (fun e => e ▸ (h.core cn).savedCore) (hm _)

theorem MemOk.saveLaunch {l} (h : MemOk b s) : MemOk b (s.saveLaunch l) := by
  unfold State.saveLaunch
  extract_lets s1 l1 s2 saved s3 s4
  have h1 : MemOk b s1 := MemOk.performDues (h.foldl fun _ _ h => h.modCore fun _ hc => hc.performEvery)
  have h2 : MemOk b s2 := h1.writeSaved
  have hsaved : ∀ e ∈ saved, CoreOk b e.2 := h2.savedCores
  have h3 : MemOk b s3 := h2.foldl fun _ _ h => h.leaves
  clear_value saved s3
  have h4 : MemOk b s4 := by
    unfold s4; split
    · exact h3.commandResult
    · exact h3
  exact h4.modLaunch fun _ _ => hsaved

theorem LaunchOk.aborted {l : Launch} {r} (h : LaunchOk b l) : LaunchOk b (l.aborted r) := h.fields

theorem MemOk.endSaved {l r} (h : MemOk b s) : MemOk b (s.endSaved l r) := by
  unfold State.endSaved
  extract_lets s1 s2
  have h1 : MemOk b s1 := h.fields
  have h2 : MemOk b s2 := h1.foldl fun _ _ h => h.ite h.closeLog
  exact h2.modLaunch fun _ hl => hl.aborted

theorem MemOk.stopPhase {l} (h : MemOk b s) (e : s.stopPhase l = some t) : MemOk b t := by
  unfold State.stopPhase at e
  split at e
  · cases e
  · split at e
    · split at e
      · cases e; exact h.foldl fun _ _ h => h.flushAll
      · cases e
    · split at e
      · cases e
      · cases e
        split
        · exact h.saveLaunch.endSaved
        · exact h.saveLaunch

theorem MemOk.beginStop {l x y} (h : MemOk b s) : MemOk b (s.beginStop l x y) := MemOk.foldl (h.modLaunch fun _ hl => hl.fields) fun _ _ h => h.async

theorem MemOk.stopCmd {p} (h : MemOk b s) : OutOk b (execStopCmd p s) := by
  unfold execStopCmd; dsimp only; split
  · next e =>
    obtain ⟨l, -, hl⟩ := List.exists_of_findSome?_eq_some e
    exact h.stopPhase hl
  · split
    · exact OutOk.refused
    · next e =>
      have h1 := h.takeCommand e
      split
      · exact OutOk.ite h1.beginStop h1.commandResult
      · exact h1.commandResult

theorem MemOk.resumeCmd {p} (h : MemOk b s) : OutOk b (execResumeCmd p s) := by
  unfold execResumeCmd; dsimp only; split
  · exact OutOk.refused
  · next e =>
    have h1 := h.takeCommand e
    split
    · exact OutOk.ite (MemOk.commandResult (h1.modLaunch fun _ hl => hl.fields)) h1.commandResult
    · exact h1.commandResult

theorem MemOk.launchResumption {p lid} (h : MemOk b s) : OutOk b (execLaunchResumption p lid s) := by
  unfold execLaunchResumption; split
  · exact OutOk.refused
  · next l e =>
    have hl : LaunchOk b l := h.launch? e
    refine OutOk.ite OutOk.refused (MemOk.modLaunch ?_ fun _ _ => LaunchOk.ofNone rfl)
    exact List.foldlRecOn (motive := MemOk b) _ _ h fun u hu x hx => hu.modCore fun _ _ => (hl x hx).fields

theorem MemOk.dropCopies {cn} (h : MemOk b s) : MemOk b (s.dropCopies cn) := MemOk.modCore h.fields fun _ hc => hc.fields

theorem MemOk.endCore {cn} (h : MemOk b s) : MemOk b (s.endCore cn) :=
  h.ite (MemOk.endPart (MemOk.modCore (h.dropCopies.modCore fun _ hc => hc.performEvery) fun _ hc => hc.fields))

theorem MemOk.endCmd {p} (h : MemOk b s) : OutOk b (execEndCmd p s) := by
  unfold execEndCmd; dsimp only; split
  · exact OutOk.refused
  next e =>
  have h1 := h.takeCommand e
  split
  · exact h1.commandResult
  · split
    · exact MemOk.commandResult (MemOk.modLaunch (MemOk.performDues (h1.foldl fun _ _ h => h.endCore)) fun _ hl => hl.aborted)
    · exact MemOk.commandResult (h1.modLaunch fun _ hl => hl.fields)
    · exact h1.endSaved.commandResult
    · exact h1.endSaved.commandResult
    · exact h1.commandResult
    · exact h1.commandResult

theorem MemOk.commandMalformed {p} (h : MemOk b s) : OutOk b (execCommandMalformed p s) := by
  unfold execCommandMalformed; split
  · exact OutOk.refused
  · next e => exact (h.takeCommand e).commandResult

end Sys2Proof.Machine
end

section
/-! SUPPORT. The fabric, walks and invalidation, the management controller. -/

namespace Sys2Proof.Machine

variable {b : Space} {s t : State}

/-! ### Switches and other packages (R130 to R142, R398 to R408) -/

theorem MemOk.loseRound {x} (h : MemOk b s) : MemOk b (s.loseRound x) := by
  unfold State.loseRound; split
  · exact h.fields
  · exact h

theorem MemOk.arbitrationRound {o js} (h : MemOk b s) : OutOk b (execArbitrationRound o js s) := by
  unfold execArbitrationRound; dsimp only; split
  · exact OutOk.refused
  · split
    · exact OutOk.refused
    · exact MemOk.fields (h.foldl fun _ _ h => h.loseRound)

theorem MemOk.setCredit {o c v} (h : MemOk b s) : MemOk b (s.setCredit o c v) := h.fields

theorem MemOk.congestionPacket {p} (h : MemOk b s) : MemOk b (s.congestionNotice p) := by
  unfold State.congestionNotice; split <;> exact h.send

theorem MemOk.resendExport {i p} (h : MemOk b s) : MemOk b (s.resendExport i p) := MemOk.fields (h.modCore fun _ hc => hc.fields)

theorem MemOk.endRequest {i p sl st d m} (h : MemOk b s) : MemOk b (s.endRequest i p sl st d m) := by
  have ended : MemOk b (if st = 6 then s.resendExport i p else { s with net := SMap.del s.net i }.exportDone p.addr p.first st) :=
    h.resendExport.ite (MemOk.exportDone h.fields)
  exact MemOk.ite (ended.exhausted.ite ended) h.fields

theorem MemOk.reroute {i p} (h : MemOk b s) : MemOk b (s.reroute i p) := by
  unfold State.reroute; split
  · exact h.fields
  · exact h.fields.ite h.endRequest

theorem MemOk.retransmission {i} (h : MemOk b s) : OutOk b (execRetransmission i s) := by
  unfold execRetransmission; split
  · exact OutOk.ite h.reroute OutOk.refused
  · exact OutOk.refused

theorem MemOk.losePackage {n} (h : MemOk b s) : MemOk b (s.losePackage n) := by
  unfold State.losePackage
  exact MemOk.foldl (MemOk.foldl h.fields fun _ _ h => h.endRequest) fun _ _ h => h.foldl fun _ _ h => h.async

theorem MemOk.portRetryExhausted {e p} (h : MemOk b s) : OutOk b (execPortRetryExhausted e p s) := by
  unfold execPortRetryExhausted
  refine OutOk.ite OutOk.refused ?_
  extract_lets s1 held s2 s3
  have h1 : MemOk b s1 := h.fields.ite h.fields
  have h3 : MemOk b s3 := MemOk.foldl (h1.foldl fun _ _ h => h.reroute) fun _ _ h => h.async
  exact MemOk.ite (h3.foldl fun _ _ h => h.losePackage) h3

theorem MemOk.meshLinkError {x y} (h : MemOk b s) : OutOk b (execMeshLinkError x y s) := OutOk.ite h.async.async OutOk.refused

theorem MemOk.arrivalNotice {x} (h : MemOk b s) : MemOk b (s.arrivalNotice x) := MemOk.ite (MemOk.send h.fields) h.fields

theorem MemOk.releaseEarly {f n} (h : MemOk b s) : MemOk b (s.releaseEarly f n) := by
  induction n generalizing s with
  | zero => exact h
  | succ n ih =>
    unfold State.releaseEarly; dsimp only; split
    · exact h
    · exact ih (MemOk.send h.fields)

theorem MemOk.arriveInFlow {p x y} (h : MemOk b s) : MemOk b (s.arriveInFlow p x y) := MemOk.ite (MemOk.releaseEarly h.fields) h
theorem MemOk.setFlow {x y z n} (h : MemOk b s) : MemOk b (s.setFlow x y z n) := MemOk.releaseEarly h.fields

theorem MemOk.acceptRequest {x d} (h : MemOk b s) : MemOk b (s.acceptRequest x d) := by
  unfold State.acceptRequest; split
  · exact h
  · extract_lets p s1
    have h1 : MemOk b s1 := h.fields
    split
    · exact h1.arriveInFlow
    · exact h1.send

theorem MemOk.arriveRequest {x d} (h : MemOk b s) : MemOk b (s.arriveRequest x d) := by
  unfold State.arriveRequest; dsimp only; split
  · exact h.arrivalNotice.send
  · exact h.arrivalNotice.ite (h.acceptRequest.ite h.arrivalNotice.replyRemote)

theorem MemOk.confirmed {p q r c n} (h : MemOk b s) : MemOk b (s.confirmed p q r c n) := h.fields

theorem MemOk.arriveReply {x d} (h : MemOk b s) : MemOk b (s.arriveReply x d) := by
  unfold State.arriveReply; split
  · exact h.ite (MemOk.endRequest h.fields)
  · exact h

theorem MemOk.arriveNotice {x} (h : MemOk b s) : MemOk b (s.arriveNotice x) := by
  unfold State.arriveNotice; dsimp only; split
  · exact h
  · split
    · split <;> exact h.send
    · split
      · exact h.send
      · exact h

theorem MemOk.markedNotice {x} (h : MemOk b s) : MemOk b (s.markedNotice x) := by
  unfold State.markedNotice; dsimp only; split
  · exact h.send
  · exact h

theorem MemOk.arrivePacket {x d} (h : MemOk b s) : MemOk b (s.arrivePacket x d) := by
  unfold State.arrivePacket
  refine h.ite ?_
  split
  · exact h.arriveRequest
  · exact h.arriveReply
  · exact h.arriveNotice
  · exact h

theorem MemOk.arriveFrame {c x d} (h : MemOk b s) : MemOk b (s.arriveFrame c x d) := (h.markedNotice.ite h).arrivePacket

/-! ### Walks and invalidation (R388 to R392) -/

theorem MemOk.pageWalk {cn va} (h : MemOk b s) : OutOk b (execPageWalk cn va s) := by
  unfold execPageWalk; dsimp only; split
  · exact OutOk.refused
  · refine OutOk.ite OutOk.refused ?_
    split
    · exact h.keepWalk.fillCore
    · exact h

theorem MemOk.invalidate {p va} (h : MemOk b s) : MemOk b (s.invalidate p va) :=
  MemOk.mapCores (h.dropSlices (asid := s.asid p) (va := va)) fun _ hc => CoreOk.ite hc.fields hc

theorem MemOk.invalidated {p a r} (h : MemOk b s) : MemOk b (s.invalidated p a r) := h.putBytes.putBytes

theorem MemOk.invalidatePage {p} (h : MemOk b s) : OutOk b (execInvalidatePage p s) := by
  unfold execInvalidatePage; split
  · exact h.invalidate.invalidated
  · exact OutOk.refused

theorem MemOk.invalidateAsid {p} (h : MemOk b s) : OutOk b (execInvalidateAsid p s) := by
  unfold execInvalidateAsid; split
  · exact h.invalidate.invalidated
  · exact OutOk.refused

theorem MemOk.invalidateMalformed {p} (h : MemOk b s) : OutOk b (execInvalidateMalformed p s) := by
  unfold execInvalidateMalformed; split
  · exact OutOk.ite OutOk.refused h.invalidated
  · exact OutOk.refused

/-! ### The management controller (R384, R395, R412 to R427) -/

theorem MemOk.boot {i c} (h : MemOk b s) : MemOk b (s.boot i c) := h.fields

theorem MemOk.reset : MemOk b State.reset :=
  memOk_iff.mpr ⟨fun _ he => (nomatch he), fun _ hl => (nomatch hl), fun _ => rfl⟩

theorem MemOk.packageReset : OutOk b (execPackageReset s) := by
  unfold execPackageReset; split
  extract_lets r₀ r m
  have hr : MemOk b r := MemOk.reset.fields
  exact MemOk.ite hr.boot hr.fields

theorem MemOk.unitStart (h : MemOk b s) : OutOk b (execUnitStart s) := OutOk.ite h.fields OutOk.refused
theorem MemOk.recoveryLoad (h : MemOk b s) : OutOk b (execRecoveryLoad s) := OutOk.ite (MemOk.ite (MemOk.boot h.fields) h.fields) OutOk.refused
theorem MemOk.attestation (h : MemOk b s) : OutOk b (execAttestation s) := OutOk.ite h.fields OutOk.refused
theorem MemOk.mailboxUnknownCommand (h : MemOk b s) : OutOk b (execMailboxUnknownCommand s) := OutOk.ite h.fields OutOk.refused

theorem LaunchOk.mapSaved {l : Launch} {f : Core → Core} (h : LaunchOk b l) (hf : ∀ c, CoreOk b c → CoreOk b (f c)) :
    LaunchOk b { l with saved := l.saved.map fun (cn, c) => (cn, f c) } := by
  intro e he
  obtain ⟨q, hq, rfl⟩ := List.mem_map.mp he
  exact hf _ (h q hq)

theorem MemOk.modMembers {p l} {f : Core → Core} (h : MemOk b s) (hf : ∀ c, CoreOk b c → CoreOk b (f c)) : MemOk b (s.modMembers p l f) := by
  unfold State.modMembers; split
  · exact MemOk.ite (h.foldl fun _ _ h => h.modCore hf) (h.modLaunch fun _ hl => hl.mapSaved hf)
  · exact h

theorem MemOk.requestStop {cn} (h : MemOk b s) : MemOk b (s.requestStop cn) := by
  unfold State.requestStop
  extract_lets k s1
  have h1 : MemOk b s1 := h.modCore fun _ hc => hc.fields
  exact h1.async.ite h1

theorem MemOk.dstopTo {p l} (h : MemOk b s) : MemOk b (s.dstopTo p l) := by
  unfold State.dstopTo
  extract_lets d s1
  have h1 : MemOk b s1 := h.fields
  split
  · exact MemOk.ite (h1.foldl fun _ _ h => h.requestStop) (h1.modMembers fun _ hc => hc.fields)
  · exact h1

theorem MemOk.debugStop {cn} (h : MemOk b s) : OutOk b (execDebugStop cn s) := by
  unfold execDebugStop
  refine OutOk.ite ?_ OutOk.refused
  extract_lets s1 s2
  have h1 : MemOk b s1 := h.modCore fun _ hc => hc.fields
  have h2 : MemOk b s2 := h1.async.ite h1
  exact h2.async.ite h2

theorem MemOk.drelTo {p l} (h : MemOk b s) : MemOk b (s.drelTo p l) :=
  MemOk.modMembers h.fields fun _ hc => CoreOk.ite hc.fields hc.fields

theorem MemOk.setUp {p} (h : MemOk b s) : MemOk b (s.setUp p) :=
  MemOk.fields (h.setQfield.setQfield.setQfield.foldl fun _ _ h => h.setQfield)

theorem MemOk.partitionDescriptorWrite {p ds} (h : MemOk b s) : OutOk b (execPartitionDescriptorWrite p ds s) := by
  unfold execPartitionDescriptorWrite
  refine OutOk.ite OutOk.refused ?_
  extract_lets old moved drop s1 s2
  have dropped : ∀ {u}, MemOk b u → MemOk b (drop u) := fun hu => hu.invalidate.ite hu
  clear_value drop
  have h2 : MemOk b s2 := dropped (dropped h).fields
  exact h2.setUp.ite h2

end Sys2Proof.Machine
end

section
/-! SUPPORT. The dispatch. -/

namespace Sys2Proof.Machine

variable {b : Space} {s : State}

/-! ### Every instruction and event -/

/-- The dispatch keeps memory in its form: each instruction and event cites the lemma of its meaning, and those that share one stand together. -/
theorem MemOk.exec {i : Instr} (h : MemOk b s) : OutOk b (exec i s) := by
  cases i <;> dsimp only [Machine.exec]
  case add | sub | and | or | xor | andn | sll | srl | sra | rol | ror | slt | sltu | seq | min | max | minu | maxu | mul | mulh | mulhu
    | div | divu | rem | remu | clz | ctz | popc | bext | bins | bswap | sext | addi | andi | ori | xori | slti | slli | srli | srai | rori
    | lih | adpc | erd | bprd | pget | pcnt | pfirst | rand => exact h.result
  case ldc | ldcx | addc => exact h.check h.countMem.result
  case eldc => exact h.check h.countMem.writeE.done
  case vldc => exact h.check h.countMem.writeV.done
  case beqz | bnez | bltz | bgez | bgtz | blez | bpany | bpnone | br | cBeqz | cBnez | cJ => exact h.branch
  case call => exact h.call
  case jr | callr | ret | cJr => exact h.jumpReg
  case exit | cExit => exact h.exit
  case start => exact h.start
  case park => exact h.park
  case yield => exact h.modCx.done
  case setpri => exact h.setpri
  case chmset => exact h.chmset
  case chmclr => exact h.chmclr
  case qrd => exact h.qrd
  case qwr => exact h.qwr
  case recvany | recvanyT => exact h.check h.receive
  case ewr => exact h.writeE.done
  case rds | sptst => exact h.check h.result
  case wrs => exact h.check h.setSpecial.done
  case copyGo => exact h.copyGo
  case pfx => exact h.pfx
  case nop | iflush => exact h.done
  case ldb | ldbu | ldh | ldhu | ldw | ldwu | ldd | ldxb | ldxbu | ldxh | ldxhu | ldxw | ldxwu | ldxd | cLd => exact h.loadG
  case stb | sth | stw | std | stxb | stxh | stxw | stxd | cSd => exact h.storeG
  case bld | bldI => exact h.bitLoad
  case bst | bstI => exact h.bitStore
  case bpset | bpadd => exact h.writeB.done
  case gldb | gldh | gldw | gldd => exact h.genericLoad
  case gstb | gsth | gstw | gstd => exact h.genericStore
  case spcst => exact h.spcst
  case spmk => exact h.spmk
  case vld | vlds | vldg => exact h.loadV
  case vst | vsts | vstsc => exact h.storeV
  case vadd | vsub | vmul | vfma | vfms | vfnma | vdiv | vsqrt | vrint => exact h.floatRounded
  case vmin | vmax | vexp2 | vlog2 | vrcpe | vrsqe | vabs | vneg | vcpsgn => exact h.floatPlain
  case vcmpeq | vcmpne | vcmplt | vcmple | vcmpun => exact h.floatCompare
  case vsel | vins => exact h.withType fun _ => h.lanewise
  case viadd | visub | vimul | vimin | vimax | viminu | vimaxu | viabs | vand | vor | vxor | vandn | vshl | vshr | vsar | viaddsat | vimulh
    | vimulhu => exact h.intLanes
  case vicmpeq | vicmpne | vicmplt | vicmpltu | vicmple | vicmpleu => exact h.intCompare
  case vperm | vbcast | vzip | vunzip | vmov | vslideup | vslidedn | vrand => exact h.permute
  case vext => exact h.withType fun _ => h.result
  case vredadd => exact h.withType fun _ => h.reduce.advanced
  case vredmax | vredmin | viredadd | viredmax | viredmin | vredand | vredor => exact h.withType fun _ => h.reduce
  case vcvt | vcvtfi | vcvtif => exact h.convertOp
  case vnarrow | vwiden => exact h.withType fun _ => h.convertLanes
  case dmask => exact h.dmask
  case pand | por | pxor | pandn | pnot | pmov => exact h.resultP
  case qnt => exact h.qnt
  case qntb => exact h.qntb
  case dqnt => exact h.dqnt
  case strd => exact h.strd
  case stclr => exact h.stclr
  case stfrz => exact h.stfrz
  case stsync => exact h.stsync
  case vstS | vstsS | vstscS => exact h.storeTracked
  case oclm => exact h.oclm
  case orel => exact h.orel
  case old => exact h.old
  case mma => exact h.mma
  case mmaZ => exact h.mmaZ
  case ard => exact h.ard
  case asto => exact h.asto
  case arel => exact h.arel
  case send => exact h.sendMsg
  case sendhost => exact h.sendhost
  case put => exact h.put
  case rfadd => exact h.rfadd
  case rfaddT => exact h.rfaddT
  case vfaddT => exact h.vfaddT
  case tsopen => exact h.tsopen
  case tsclose => exact h.tsclose
  case tskip => exact h.tskip
  case tdrain => exact h.tdrain
  case halo => exact h.halo
  case zwatch => exact h.zwatch
  case aaddW | aaddfW | asminW | asminfW | asmaxW | asmaxfW | auminW | auminfW | aumaxW | aumaxfW | aandW | aandfW | aorW | aorfW | axorW
    | axorfW | aswapW | acasW | aaddD | aaddfD | asminD | asminfD | asmaxD | asmaxfD | auminD | auminfD | aumaxD | aumaxfD | aandD | aandfD
    | aorD | aorfD | axorD | axorfD | aswapD | acasD => exact h.atomic
  case arrive | arvdrop => exact h.arriveAt
  case wait => exact h.wait
  case fence => exact h.fence
  case fenceAcq => exact h.fenceAcq
  case fenceRel => exact h.fenceRel
  case fenceSc => exact h.fenceSc
  case genend => exact h.genend
  case genq => exact h.genq
  case migrate => exact h.migrate
  case tret => exact h.tret
  case xrd => exact h.xrd
  case xwr => exact h.xwr
  case eresume => exact h.eresume
  case eabort => exact h.eabort
  case xinv => exact h.xinv
  case cMv | cAdd | cSub | cAnd | cOr | cXor | cAddi | cLi | cSlli | cSrli | cSrai => exact h.resultC
  case cHint => exact h.retire
  case launchRecord => exact h.launchRecord
  case wakeArrival => exact h.wakeArrival
  case selection => exact h.selection
  case messageArrival => exact h.messageArrival
  case heldMessagePlacement => exact h.heldMessagePlacement
  case corePartEnd => exact h.corePartEnd
  case completionReport => exact h.completionReport
  case launchCompletion => exact h.launchCompletion
  case rectangleRelease => exact h.rectangleRelease
  case stopCmd => exact h.stopCmd
  case resumeCmd => exact h.resumeCmd
  case launchResumption => exact h.launchResumption
  case endCmd => exact h.endCmd
  case commandMalformed => exact h.commandMalformed
  case transactionCompletion => exact h.transactionCompletion
  case replyArrival => exact h.replyArrival
  case retryResend => exact h.retryResend
  case putAtTarget => exact h.putAtTarget
  case atomicAtHome => exact h.atomicAtHome
  case fpUpdateAtHome => exact h.fpUpdateAtHome
  case ticketedUpdateArrival => exact h.updateArrival
  case copyBlockWrite => exact h.copyBlockWrite
  case copyCompletion => exact h.copyCompletion
  case haloArrival => exact h.haloArrival
  case haloAcknowledgement => exact h.haloAcknowledgement
  case arbitrationRound => exact h.arbitrationRound
  case exhaustionNotice => exact h.exhaustionNotice
  case congestionNotice => exact h.congestionNotice
  case retransmission => exact h.retransmission
  case sutrePacketArrival => exact h.arrivePacket
  case accumulatorFlush => exact h.accumulatorFlush
  case flushMerge => exact h.flushMerge
  case barrierPhaseCompletion => exact h.barrierPhaseCompletion
  case deadlock => exact h.deadlock
  case generationBoundary => exact h.generationBoundary
  case generationResumption => exact h.generationResumption
  case immigrantBatch => exact h.immigrantBatch
  case trapEntry => exact h.trapEntry
  case hostWake => exact h.hostWake
  case pageWalk => exact h.pageWalk
  case invalidatePage => exact h.invalidatePage
  case invalidateAsid => exact h.invalidateAsid
  case invalidateMalformed => exact h.invalidateMalformed
  case portRetryExhausted => exact h.portRetryExhausted
  case packageLost => exact h.losePackage
  case meshLinkError => exact h.meshLinkError
  case machineCheck => exact h.machineCheckEvent
  case coreHalt => exact h.coreHalt
  case haltRelease => exact h.haltRelease
  case matrixEnginePowerDown => exact h.matrixEnginePowerDown
  case matrixEngineReady => exact h.matrixEngineReady
  case packageReset => exact MemOk.packageReset
  case unitStart => exact h.unitStart
  case recoveryLoad => exact h.recoveryLoad
  case attestation => exact h.attestation
  case mailboxUnknownCommand => exact h.mailboxUnknownCommand
  case hsemRead | hsemWrite | hostLinkReset => exact h.fields
  case dstopWrite => exact h.dstopTo
  case debugStop => exact h.debugStop
  case drelWrite => exact h.drelTo
  case recordHomeOperation => exact h.recordHomeOperation
  case sequencePartQuery => exact h.sequencePartQuery
  case fenceScOrderFixed => exact h.fenceScOrderFixed
  case partitionDescriptorWrite => exact h.partitionDescriptorWrite

end Sys2Proof.Machine
end

section
/-! SUPPORT. Accesses out of program order, the outside, the step; and the two statements. -/

namespace Sys2Proof.Machine

variable {b : Space} {s t : State}

/-! ### Out of program order (R166 to R174) -/

theorem MemOk.inOrder {cn k} (h : MemOk b s) : MemOk b (s.inOrder cn k) := h.modCore fun _ hc => hc.performAll.modCx

theorem Memory.wf_owned {c : Core} {k : Nat} (h : Memory.wf c.mem = true) : Memory.wf (c.owned k) = true :=
  Memory.wf_foldl h fun _ _ hm => Memory.wf_setNum hm _ _ _

theorem Memory.wf_seen {c : Core} {k : Nat} (h : Memory.wf c.mem = true) : Memory.wf (c.seen k) = true :=
  Memory.wf_foldl (Memory.wf_owned h) fun _ _ hm => Memory.wf_write hm _ _

/-- A core whose local memory is that of another one. -/
theorem CoreOk.withMem {c d : Core} (h : CoreOk b c) : CoreOk b { d with mem := c.mem } := h.fields

theorem CoreOk.withSeen {c : Core} {k : Nat} (h : CoreOk b c) : CoreOk b { c with mem := c.seen k } := fun hb => Memory.wf_seen (h hb)
theorem CoreOk.withOwned {c : Core} {k : Nat} (h : CoreOk b c) : CoreOk b { c with mem := c.owned k } := fun hb => Memory.wf_owned (h hb)

theorem MemOk.performPacket {i} (h : MemOk b s) : MemOk b (s.performPacket i) := by
  unfold State.performPacket; split
  · next t e =>
    obtain ⟨o, ho, ht⟩ := List.exists_of_findSome?_eq_some e
    have hk : OutOk b o := by
      simp only [List.mem_cons, List.not_mem_nil, or_false] at ho
      rcases ho with rfl | rfl | rfl
      · exact h.putAtTarget
      · exact h.atomicAtHome
      · exact h.fpUpdateAtHome
    split at ht
    · cases ht; exact hk
    · cases ht
  · exact h

theorem MemOk.ownFirst {cn k i} (h : MemOk b s) : MemOk b (s.ownFirst cn k i) := h.foldl fun _ _ h => h.performPacket

theorem MemOk.ownIssued {cn k n} (h : MemOk b s) : MemOk b (s.ownIssued cn k n) := h.modCore fun _ hc => hc.performSome.modCx

theorem MemOk.align {cn k i ts} (h : MemOk b s) : MemOk b (s.align cn k i ts) := h.modCore fun _ hc => hc.modCx

theorem MemOk.settleUnless {cn k pc f} (h : MemOk b t) (hf : ∀ x, MemOk b (f x)) : MemOk b (t.settleUnless cn k pc f) :=
  MemOk.ite h.inOrder (hf _)

theorem OutOk.of_next {o : Out} (h : OutOk b o) (e : o = .next t) : MemOk b t := by rw [e] at h; exact h

theorem MemOk.runRegisters {cn k i} (h : MemOk b s) : OutOk b (s.runRegisters cn k i) := by
  unfold State.runRegisters
  extract_lets x w from_ v
  have hv : MemOk b v := h.modCore fun _ hc => hc.modCx
  have answered : OutOk b (Machine.exec i (v.latchInstr i)) := hv.latchInstr.exec
  split
  · next e =>
    have hu := answered.of_next e
    exact hu.settleUnless fun _ => hu.ite (hu.modCore fun _ hc => hc.modCx)
  · exact answered

theorem MemOk.fenced {cn k r w} (h : MemOk b s) : MemOk b (s.fenced cn k r w) :=
  h.modCore fun _ hc => CoreOk.modCx (CoreOk.ite hc.performAll hc)

theorem MemOk.acquiring {cn k i} (h : MemOk b s) : MemOk b (s.acquiring cn k i) := h.modCore fun _ hc => hc.modCx

theorem MemOk.runSync {cn k i} (h : MemOk b s) : OutOk b (s.runSync cn k i) := by
  have answered : OutOk b (Machine.exec i (s.latchInstr i)) := h.latchInstr.exec
  unfold State.runSync; split
  · next e => exact (answered.of_next e).settleUnless fun _ => answered.of_next e
  · exact answered

theorem MemOk.runAccess {cn k late i} (h : MemOk b s) : OutOk b (s.runAccess cn k late i) := by
  unfold State.runAccess
  extract_lets ts s1 c x v
  have h1 : MemOk b s1 := h.align
  have hc : CoreOk b c := h1.core cn
  have hv : MemOk b v := MemOk.latchInstr (h1.modCore fun _ hc => hc.withSeen)
  have answered : OutOk b (Machine.exec i v) := hv.exec
  split
  · next e =>
    extract_lets u
    have hu : MemOk b u := (answered.of_next e).modCore fun _ _ => hc.withMem
    refine hu.settleUnless fun x => hu.ite (hu.modCore fun d hd => ?_)
    exact CoreOk.ite (CoreOk.modCx (CoreOk.ite hd.performAll.modCx hd)) (CoreOk.performSome (CoreOk.modCx (CoreOk.ite hd.performAll.modCx hd)))
  · exact answered

theorem MemOk.runTransaction {cn k i} (h : MemOk b s) : OutOk b (s.runTransaction cn k i) := by
  unfold State.runTransaction
  extract_lets ts s1 c x
  have h1 : MemOk b s1 := h.modCore fun _ hc => hc.modCx
  have hc : CoreOk b c := h1.core cn
  have answered : OutOk b (Machine.exec i ((s1.modCore cn fun c => { c with mem := c.owned k }).latchInstr i)) :=
    (MemOk.latchInstr (h1.modCore fun _ hc => hc.withOwned)).exec
  split
  · next e =>
    extract_lets u
    have hu : MemOk b u := (answered.of_next e).modCore fun _ _ => hc.withMem
    exact hu.settleUnless fun _ => hu.ownIssued
  · exact answered

theorem MemOk.cleared {cn k i} (h : MemOk b s) : MemOk b (s.cleared cn k i) := MemOk.ite (MemOk.modCore h.ownFirst fun _ hc => hc.fields) h.ownFirst

theorem MemOk.run {cn k late i} (h : MemOk b s) : OutOk b (s.run cn k late i) := by
  unfold State.run
  extract_lets s1
  have h1 : MemOk b s1 := h.cleared
  clear_value s1
  refine OutOk.ite h1.latchInstr.exec ?_
  split
  · exact h1.inOrder.latchInstr.exec
  · exact h1.fenced.runSync
  · exact h1.acquiring.runSync
  · exact h1.runRegisters
  · exact h1.runAccess
  · exact (h1.fenced.ite h1).runTransaction

theorem MemOk.performNth {cn k j} (h : MemOk b s) : OutOk b (s.performNth cn k j) := by
  unfold State.performNth; dsimp only; split
  · exact OutOk.refused
  · exact OutOk.ite OutOk.refused (h.modCore fun _ hc => hc.performOne.modCx)

theorem MemOk.readEarly {cn k a n} (h : MemOk b s) : OutOk b (s.readEarly cn k a n) :=
  OutOk.ite (h.modCore fun _ hc => hc.modCx) OutOk.refused

theorem MemOk.readLate {cn k j} (h : MemOk b s) : OutOk b (s.readLate cn k j) := by
  unfold State.readLate; split
  · exact OutOk.refused
  · dsimp only; split
    · exact h.modCore fun _ hc => hc.modCx
    · exact OutOk.refused

/-! ### What the outside does (log entry 64) -/

theorem MemOk.returning {ws} (h : MemOk b s) : MemOk b (s.returning ws) := h.fields

theorem MemOk.readRegister {cn k f n} (h : MemOk b s) : MemOk b (s.readRegister cn k f n) := by
  unfold State.readRegister
  extract_lets s1
  have h1 : MemOk b s1 := h.modCore fun _ hc => hc.fields
  clear_value s1
  split
  exact h1.returning.ite (MemOk.ite (MemOk.returning h1.fields) h1.returning)

theorem MemOk.writeRegister {cn k f n w} (h : MemOk b s) : MemOk b (s.writeRegister cn k f n w) :=
  h.setSpecial.ite (h.modCore fun _ hc => hc.modCx)

theorem MemOk.readLocal {cn a n} (h : MemOk b s) : MemOk b (s.readLocal cn a n) := MemOk.returning h.fields
theorem MemOk.writeLocal {cn a bs} (h : MemOk b s) : MemOk b (s.writeLocal cn a bs) := h.modCore fun _ hc => hc.putAll
theorem MemOk.traceFrom {p} (h : MemOk b s) : MemOk b (s.traceFrom p) := h.mapCores fun _ hc => CoreOk.ite hc.fields hc

theorem MemOk.writeDebug {p off bs} (h : MemOk b s) : MemOk b (s.writeDebug p off bs) := by
  unfold State.writeDebug
  extract_lets w old bytes ws new s1 s2 hits s3
  have h1 : MemOk b s1 := h.fields
  have h2 : MemOk b s2 := h1.traceFrom.ite h1
  have h3 : MemOk b s3 := h2.dstopTo.ite h2
  exact h.ite (h3.drelTo.ite h3)

theorem MemOk.readWindow {p off n} (h : MemOk b s) : MemOk b (s.readWindow p off n) := MemOk.returning h.fields

theorem MemOk.writeWindow {p off bs} (h : MemOk b s) : MemOk b (s.writeWindow p off bs) :=
  MemOk.foldl h.fields fun _ _ h => h.writeDebug

theorem OutOk.allowed {x : Bool} (h : MemOk b t) : OutOk b (allowed x t) := OutOk.ite h OutOk.refused

theorem MemOk.outside {o} (h : MemOk b s) : OutOk b (s.outside o) := by
  cases o with
  | corrected cn => exact OutOk.allowed (h.modCore fun _ hc => hc.fields)
  | router cn refuses => exact OutOk.allowed (h.modCore fun _ hc => hc.fields)
  | credit output cls has => exact h.setCredit
  | congest pkt =>
    unfold State.outside; dsimp only; split
    · exact OutOk.allowed h.congestionPacket
    · exact OutOk.refused
  | frame ce header payload => exact h.arriveFrame
  | readReg cn k sel => exact OutOk.allowed h.readRegister
  | writeReg cn k sel w => exact OutOk.allowed h.writeRegister
  | readSram cn a n => exact OutOk.allowed h.readLocal
  | writeSram cn a bytes => exact OutOk.allowed h.writeLocal
  | readWindow port off n => exact OutOk.allowed h.readWindow
  | writeWindow port off bytes => exact OutOk.allowed h.writeWindow
  | writeMemory pa bytes => exact OutOk.allowed h.putBytes
  | perform cn k j => exact h.performNth
  | readLate cn k j => exact h.readLate
  | readEarly cn k a n => exact h.readEarly
  | updateLate pkt => exact h.updateArrival
  | apply part lid slot line => exact h.applyNext
  | flow pkg scn dcn next => exact h.setFlow
  | confirm part pkg rank cn seq => exact h.confirmed

/-! ### The step -/

theorem MemOk.tick {cn k} (h : MemOk b s) : MemOk b (s.tick cn k) := h.modCore fun _ hc => hc.fields
theorem MemOk.issuing {cn k} (h : MemOk b s) : MemOk b (s.issuing cn k) := MemOk.fields h.tick

theorem MemOk.endsNext (h : MemOk b s) : MemOk b s.endsNext := by
  unfold State.endsNext; split
  · exact h.ite h.fields
  · exact h

theorem MemOk.endSlot {cn} (h : MemOk b s) : MemOk b (s.endSlot cn) := MemOk.endsNext (MemOk.ite h.traceAll.fields h.traceAll)

theorem OutOk.endSlot {o cn} (h : OutOk b o) : OutOk b (endSlotOf o cn) := by
  cases o with
  | next t => exact MemOk.endSlot h
  | fault e => trivial
  | refused r => trivial

theorem OutOk.traced {o} (h : OutOk b o) : OutOk b (tracedOf o) := by
  cases o with
  | next t => exact MemOk.endsNext (MemOk.traceAll h)
  | fault e => trivial
  | refused r => trivial

theorem MemOk.issueStep {cn k late} (h : MemOk b s) : OutOk b (s.issueStep cn k late) := by
  unfold State.issueStep; dsimp only; split
  · exact h.issuing.inOrder.raise.endSlot
  · exact h.issuing.run.endSlot

theorem MemOk.slotStep {cn late} (h : MemOk b s) : OutOk b (s.slotStep cn late) := by
  unfold State.slotStep; split
  · trivial
  · split
    · exact MemOk.exec h.fields
    · split
      · exact h.issueStep
      · exact h.tick.endSlot

theorem MemOk.eventStep {i} (h : MemOk b s) : OutOk b (s.eventStep i) := OutOk.ite h.exec.traced OutOk.refused
theorem MemOk.outsideStep {o} (h : MemOk b s) : OutOk b (s.outsideStep o) := h.outside.traced

theorem MemOk.firstEnabled {is o} (h : MemOk b s) (e : s.firstEnabled is = some o) : OutOk b o := by
  obtain ⟨i, -, hi⟩ := List.exists_of_findSome?_eq_some e
  split at hi
  · next et => cases hi; exact h.eventStep.of_next et
  · cases hi

theorem MemOk.defaultStep (h : MemOk b s) : OutOk b s.defaultStep := by
  unfold State.defaultStep
  extract_lets n s1
  have h1 : MemOk b s1 := h.fields
  clear_value s1
  split
  · next e =>
    split at e
    · exact h1.firstEnabled e
    · cases e
  · split
    · exact h1.slotStep
    · exact h1

/-- Every move keeps both kinds of memory in their form, each whatever the other holds. -/
theorem MemOk.step (h : MemOk b s) : OutOk b (step s) := by
  unfold Machine.step; split
  · exact MemOk.slotStep h.fields
  · exact MemOk.slotStep h.fields
  · exact MemOk.eventStep h.fields
  · exact MemOk.outsideStep h.fields
  · exact h.defaultStep

/-- Settles O58: global memory is MemOk's kind `device`. -/
theorem globalMemoryCanonical : Obligations.GlobalMemoryCanonical := fun _ _ h e => (MemOk.step (b := .device) h).of_next e

/-- Settles O59: local memories and what is saved of them are MemOk's kind `sram`. -/
theorem localMemoryCanonical : Obligations.LocalMemoryCanonical := fun _ _ h e => (MemOk.step (b := .sram) h).of_next e

end Sys2Proof.Machine
end

section
/-! SUPPORT. Bit fields as bits and as parts of a word, numbers in memory, and the answers of checks and of retirement. -/

namespace Sys2Proof

/-! ### Fields and bits (R7) -/

theorem wbit_eq_getLsbD (w : Word) (k : Nat) : wbit w k = w.getLsbD k := by
  rw [BitVec.getLsbD, Nat.testBit_eq_decide_div_mod_eq, wbit]; rfl

theorem wfld_eq_extractLsb' (w : Word) (lo n : Nat) : wfld w lo n = (w.extractLsb' lo n).toNat := by
  rw [BitVec.extractLsb'_toNat, Nat.shiftRight_eq_div_pow]; rfl

theorem fld_lt (x lo n : Nat) : fld x lo n < 2 ^ n := Nat.mod_lt _ (by positivity)

/-- A field replaced stands between the bits above it and the bits below it. -/
theorem putFld_eq (w lo n x : Nat) : putFld w lo n x = 2 ^ (lo + n) * (w / 2 ^ (lo + n)) + (2 ^ lo * (x % 2 ^ n) + w % 2 ^ lo) := by
  have hlow : 2 ^ lo * (w / 2 ^ lo) + w % 2 ^ lo = w := Nat.div_add_mod w _
  have hhigh : 2 ^ n * (w / 2 ^ lo / 2 ^ n) + w / 2 ^ lo % 2 ^ n = w / 2 ^ lo := Nat.div_add_mod _ _
  have hsplit : 2 ^ lo * (w / 2 ^ lo) = 2 ^ (lo + n) * (w / 2 ^ (lo + n)) + 2 ^ lo * (w / 2 ^ lo % 2 ^ n) := by
    rw [pow_add, ← Nat.div_div_eq_div_mul, mul_assoc, ← mul_add, hhigh]
  unfold putFld fld
  rw [Nat.mul_comm _ (2 ^ lo), Nat.mul_comm _ (2 ^ lo)]
  omega

theorem testBit_putFld (w lo n x k : Nat) :
    (putFld w lo n x).testBit k = if lo ≤ k ∧ k < lo + n then x.testBit (k - lo) else w.testBit k := by
  have hlow : w % 2 ^ lo < 2 ^ lo := Nat.mod_lt _ (by positivity)
  have hmid : 2 ^ lo * (x % 2 ^ n) + w % 2 ^ lo < 2 ^ (lo + n) := by
    have : 2 ^ lo * (x % 2 ^ n + 1) ≤ 2 ^ lo * 2 ^ n := Nat.mul_le_mul_left _ (Nat.mod_lt _ (by positivity))
    rw [pow_add]; rw [Nat.mul_succ] at this; omega
  rw [putFld_eq, Nat.testBit_two_pow_mul_add _ hmid, Nat.testBit_two_pow_mul_add _ hlow, Nat.testBit_mod_two_pow, Nat.testBit_mod_two_pow,
    Nat.testBit_div_two_pow]
  by_cases h1 : k < lo + n
  · by_cases h2 : k < lo
    · simp [h1, h2, Nat.not_le.mpr h2]
    · have h3 : k - lo < n := by omega
      simp [h1, h2, h3, Nat.not_lt.mp h2]
  · simp [h1, Nat.sub_add_cancel (Nat.not_lt.mp h1)]

theorem getLsbD_setFld (w : Word) (lo n x k : Nat) (hk : k < 64) :
    (setFld w lo n x).getLsbD k = if lo ≤ k ∧ k < lo + n then x.testBit (k - lo) else w.getLsbD k := by
  simp only [setFld, BitVec.getLsbD_ofNat, hk, decide_true, Bool.true_and, testBit_putFld]; rfl

namespace Machine

/-- WS and PP are the bits that a retiring instruction clears (R217, R354). -/
theorem wbit_clearPend (w : Word) (k : Nat) (hk : k < 64) : wbit (clearPend w) k = (wbit w k && k != 14 && k != 15) := by
  rw [wbit_eq_getLsbD, wbit_eq_getLsbD, clearPend, getLsbD_setFld _ _ _ _ _ hk, getLsbD_setFld _ _ _ _ _ hk]
  by_cases h15 : k = 15
  · subst h15; simp
  · by_cases h14 : k = 14
    · subst h14; simp
    · rw [if_neg (by omega), if_neg (by omega), bne_iff_ne.mpr h14, bne_iff_ne.mpr h15, Bool.and_true, Bool.and_true]

end Machine

/-! ### Numbers as bytes (R8) -/

@[simp] theorem length_leBytes (n x : Nat) : (leBytes n x).length = n := by
  induction n generalizing x with
  | zero => rfl
  | succ n ih => simp [leBytes, ih]

theorem leNat_leBytes (n x : Nat) : leNat (leBytes n x) = x % 256 ^ n := by
  induction n generalizing x with
  | zero => simp [leBytes, leNat, Nat.mod_one]
  | succ n ih => rw [leBytes, leNat, ih, BitVec.toNat_ofNat, pow_succ' 256, Nat.mod_mul]

namespace Machine

theorem Memory.num_succ (m : Memory) (a n : Nat) : Memory.num m a (n + 1) = (Memory.byte m a).toNat + 256 * Memory.num m (a + 1) n := rfl

theorem Memory.num_one (m : Memory) (a : Nat) : Memory.num m a 1 = (Memory.byte m a).toNat := by
  rw [Memory.num_succ]; rfl

/-- What is read depends on the bytes that are read. -/
theorem Memory.read_congr {m m' : Memory} {a n : Nat} (h : ∀ x, a ≤ x → x < a + n → Memory.byte m' x = Memory.byte m x) :
    Memory.read m' a n = Memory.read m a n := by
  induction n generalizing a with
  | zero => rfl
  | succ n ih => rw [Memory.read, Memory.read, h a (by omega) (by omega), ih fun x h1 h2 => h x (by omega) (by omega)]

theorem Memory.num_congr {m m' : Memory} {a n : Nat} (h : ∀ x, a ≤ x → x < a + n → Memory.byte m' x = Memory.byte m x) :
    Memory.num m' a n = Memory.num m a n := by rw [Memory.num, Memory.num, Memory.read_congr h]

theorem Memory.byte_setNum_outside (m : Memory) (a n x j : Nat) (h : j < a ∨ a + n ≤ j) :
    Memory.byte (Memory.setNum m a n x) j = Memory.byte m j := Memory.byte_write_outside _ _ _ _ (by simpa using h)

theorem Memory.num_setNum_same (m : Memory) (a n x : Nat) : Memory.num (Memory.setNum m a n x) a n = x % 256 ^ n := by
  have h := Memory.read_write_same m a (leBytes n x)
  rw [length_leBytes] at h
  rw [Memory.num, Memory.setNum, h, leNat_leBytes]

/-! ### Checks, retirement, waiting -/

variable {i : Instr} {s u : State} {st : BitVec 3} {d : BitVec 5} {w : Word} {l : Nat}

@[simp] theorem State.check_nil (s : State) (o : Out) : s.check [] o = o := rfl

@[simp] theorem State.check_cons (s : State) (b : Bool) (r : FaultRec) (cs : List (Bool × FaultRec)) (o : Out) :
    s.check ((b, r) :: cs) o = if b then .next (s.raise r) else s.check cs o := by
  cases b <;> simp [State.check]

/-- Retiring changes the issuing context alone, and none of its registers. -/
theorem changesRegs_retire (u : State) (len stl : Nat) : ChangesRegs u (u.retire len stl) len [] :=
  changesRegs_modCx u _ len [] rfl rfl rfl rfl rfl rfl (fun _ _ => rfl) (fun _ _ => rfl) (fun _ _ => rfl) (fun _ _ => rfl) fun _ _ => rfl

theorem givesAfter_of_done (h : exec i s = u.done st) : GivesAfter i s u 4 := ⟨_, h, changesRegs_retire u 4 st.toNat⟩

theorem givesGAfter_of_result (h : exec i s = u.result st d w l) : GivesGAfter i s u 4 d w := by
  obtain ⟨t, ht, hw, hc⟩ := result_spec u st d w l
  exact ⟨t, h.trans ht, hw, hc⟩

end Machine

end Sys2Proof
end

section
/-! SUPPORT. CHMASK and the latched events of a core. -/

namespace Sys2Proof.Machine

/-! ### CHMASK (R32) -/

/-- A sum of distinct powers of two has the bits that were added. -/
theorem testBit_sum_two_pow (f : Nat → Bool) (n : Nat) :
    let x := (List.range n).foldl (fun a k => if f k then a + 2 ^ k else a) 0
    x < 2 ^ n ∧ ∀ k, x.testBit k = (decide (k < n) && f k) := by
  induction n with
  | zero => simp
  | succ n ih =>
    obtain ⟨hlt, hbit⟩ := ih
    rw [List.range_succ, List.foldl_append, List.foldl_cons, List.foldl_nil]
    generalize (List.range n).foldl (fun a k => if f k then a + 2 ^ k else a) 0 = x at hlt hbit
    have hx : (if f n then x + 2 ^ n else x) = 2 ^ n * (f n).toNat + x := by cases f n <;> simp [Nat.add_comm]
    have hf : (f n).toNat < 2 := Bool.toNat_lt _
    rw [hx]
    refine ⟨?_, fun k => ?_⟩
    · rw [pow_succ]; have := Nat.mul_le_mul_left (2 ^ n) (Nat.le_of_lt_succ hf); omega
    · rw [Nat.testBit_two_pow_mul_add _ hlt]
      by_cases hk : k < n
      · simp [hk, hbit, Nat.lt_succ_of_lt hk]
      · obtain rfl | hk' : k = n ∨ n + 1 ≤ k := by omega
        · cases h : f k <;> simp
        · have hf' : (f n).toNat.testBit (k - n) = false :=
            Nat.testBit_lt_two_pow (hf.trans_le (Nat.le_self_pow (by omega) 2))
          simp [hk, hf', Nat.not_lt.mpr hk']

theorem Core.getLsbD_chmask (c : Core) {k : Nat} (hk : k < 64) : c.chmask.getLsbD k = c.masked k := by
  rw [Core.chmask, BitVec.getLsbD_ofNat, (testBit_sum_two_pow c.masked 64).2]
  simp [hk]

/-- The byte of channel ch's entry that holds its MASK bit (R29). -/
def maskByte (ch : Nat) : Nat := 0x800 + 32 * ch + 16

/-- A MASK bit is bit 2 of its byte. -/
theorem Core.masked_eq (c : Core) (ch : Nat) : c.masked ch = (Memory.byte c.mem (maskByte ch)).getLsbD 2 := by
  rw [Core.masked, Core.entryDw, show 0x800 + 32 * ch + 8 * 2 = maskByte ch from rfl, Memory.num_succ, BitVec.getLsbD,
    Nat.testBit_eq_decide_div_mod_eq, fld]
  generalize (Memory.byte c.mem (maskByte ch)).toNat = b
  rw [Bool.eq_iff_iff]; simp only [beq_iff_eq, decide_eq_true_eq]; omega

/-- A byte of a handler table entry with the MASK bit as given. -/
def withMask (b : Byte) (m : Bool) : Byte := .ofNat 8 (b.toNat - fld b.toNat 2 1 * 4 + if m then 4 else 0)

theorem getLsbD_withMask (b : Byte) (m : Bool) : (withMask b m).getLsbD 2 = m := by
  rw [withMask, BitVec.getLsbD_ofNat, Nat.testBit_eq_decide_div_mod_eq, fld]
  cases m <;> simp <;> omega

/-- One MASK bit written. -/
theorem Memory.setMask_eq (m : Memory) (a : Nat) (v : Bool) :
    Memory.setNum m a 1 (Memory.num m a 1 - fld (Memory.num m a 1) 2 1 * 4 + if v then 4 else 0) =
      Memory.setByte m a (withMask (Memory.byte m a) v) := by rw [Memory.num_one]; rfl

/-- The MASK bits of the entries below n written: the bytes that hold them change, and no others. -/
theorem Memory.byte_setMasks (m : Memory) (w : Word) (n x : Nat) :
    Memory.byte ((List.range n).foldl (fun m ch => Memory.setByte m (maskByte ch) (withMask (Memory.byte m (maskByte ch)) (wbit w ch))) m) x =
      if x < maskByte n ∧ maskByte 0 ≤ x ∧ (x - maskByte 0) % 32 = 0 then withMask (Memory.byte m x) (wbit w ((x - maskByte 0) / 32))
      else Memory.byte m x := by
  induction n generalizing x with
  | zero => rw [if_neg (by omega)]; rfl
  | succ n ih =>
    rw [List.range_succ, List.foldl_append, List.foldl_cons, List.foldl_nil, Memory.byte_setByte]
    unfold maskByte at *
    by_cases hx : x = 0x800 + 32 * n + 16
    · rw [if_pos hx, if_pos (by omega), ih, if_neg (by omega), hx, show (0x800 + 32 * n + 16 - (0x800 + 32 * 0 + 16)) / 32 = n by omega]
    · rw [if_neg hx, ih]
      by_cases h : x < 0x800 + 32 * n + 16 ∧ 0x800 + 32 * 0 + 16 ≤ x ∧ (x - (0x800 + 32 * 0 + 16)) % 32 = 0
      · rw [if_pos h, if_pos (by omega)]
      · rw [if_neg h, if_neg (by omega)]

theorem Core.byte_setChmask (c : Core) (w : Word) (x : Nat) :
    Memory.byte (c.setChmask w).mem x =
      if x < maskByte 64 ∧ maskByte 0 ≤ x ∧ (x - maskByte 0) % 32 = 0 then withMask (Memory.byte c.mem x) (wbit w ((x - maskByte 0) / 32))
      else Memory.byte c.mem x := by
  rw [← Memory.byte_setMasks]
  simp only [Core.setChmask, Memory.setMask_eq, maskByte]

/-- CHMASK reads as it was written. -/
theorem Core.getLsbD_chmask_setChmask (c : Core) (w : Word) {k : Nat} (hk : k < 64) : (c.setChmask w).chmask.getLsbD k = w.getLsbD k := by
  rw [Core.getLsbD_chmask _ hk, Core.masked_eq, Core.byte_setChmask, if_pos (by unfold maskByte; omega), getLsbD_withMask,
    wbit_eq_getLsbD, show (maskByte k - maskByte 0) / 32 = k by unfold maskByte; omega]

/-- A write of CHMASK changes the bytes of the MASK bits alone. -/
theorem Core.byte_setChmask_other (c : Core) (w : Word) {x : Nat} (hx : ∀ k < 64, x ≠ 0x810 + 32 * k) :
    Memory.byte (c.setChmask w).mem x = Memory.byte c.mem x := by
  rw [Core.byte_setChmask, if_neg]
  unfold maskByte
  rintro ⟨h1, h2, h3⟩
  exact hx ((x - 0x810) / 32) (by omega) (by omega)

/-! ### Latched events (R40) -/

/-- The contexts of a core below n with events latched. -/
def Core.latchBelow (c : Core) (e : BitVec 8) (n : Nat) : Core :=
  (List.range n).foldl (fun c k => c.modCx k fun x => { x with latched := x.latched ||| e }) c

theorem Core.latchBelow_spec (c : Core) (e : BitVec 8) (n : Nat) :
    c.latchBelow e n = { c with ctx := (c.latchBelow e n).ctx } ∧
    ∀ j, (c.latchBelow e n).cx j = if j < n then { c.cx j with latched := (c.cx j).latched ||| e } else c.cx j := by
  induction n with
  | zero => exact ⟨rfl, fun j => rfl⟩
  | succ n ih =>
    obtain ⟨hrest, hcx⟩ := ih
    have hstep : c.latchBelow e (n + 1) = (c.latchBelow e n).modCx n fun x => { x with latched := x.latched ||| e } := by
      rw [Core.latchBelow, List.range_succ, List.foldl_append]; rfl
    rw [hstep]
    refine ⟨by rw [hrest]; rfl, fun j => ?_⟩
    by_cases hj : j = n
    · subst hj; rw [Core.cx_modCx_same, hcx, if_neg (Nat.lt_irrefl _), if_pos (Nat.lt_succ_self _)]
    · rw [Core.cx_modCx_other _ _ hj, hcx]
      by_cases h : j < n
      · rw [if_pos h, if_pos (by omega)]
      · rw [if_neg h, if_neg (by omega)]

/-- A latched event changes the contexts alone. -/
theorem Core.latch_eq (c : Core) (b : Nat) : c.latch b = { c with ctx := (c.latch b).ctx } := (c.latchBelow_spec _ 12).1

theorem Core.cx_latch (c : Core) (b j : Nat) :
    (c.latch b).cx j = if j < 12 then { c.cx j with latched := (c.cx j).latched ||| .ofNat 8 (2 ^ b) } else c.cx j :=
  (c.latchBelow_spec _ 12).2 j

/-- A write of a neighbour counter changes it, and latches HALO in every context where its value changes (R40). -/
theorem Core.setHx_spec (c : Core) (i : Nat) (w : Word) :
    c.setHx i w = { c with hx := SMap.put c.hx i w, ctx := (c.setHx i w).ctx } ∧
    (∀ j, 12 ≤ j → (c.setHx i w).cx j = c.cx j) ∧
    ∀ j < 12, (c.setHx i w).cx j = { c.cx j with latched := (c.cx j).latched ||| if SMap.get 0 c.hx i = w then 0 else 0x20 } := by
  unfold Core.setHx
  dsimp only
  split
  · exact ⟨rfl, fun _ _ => rfl, fun j _ => by rw [show (c.cx j).latched ||| (0 : BitVec 8) = _ from BitVec.or_zero]; rfl⟩
  · refine ⟨Core.latch_eq _ 5, fun j hj => ?_, fun j hj => ?_⟩
    · rw [Core.cx_latch, if_neg (by omega)]; rfl
    · rw [Core.cx_latch, if_pos hj]; rfl

end Sys2Proof.Machine
end

section
/-! SUPPORT. park, yield, setpri, chmset and chmclr. -/

namespace Sys2Proof.Machine

/-! ### park and yield (R237, R238) -/

/-- The events that park's operand names. -/
theorem wfld_low_byte (w : Word) : wfld w 0 8 = w.toNat % 256 := by simp [wfld, fld]

/-- The other contexts that yield waits for: none in CT. -/
def State.yieldsTo (s : State) : List Nat :=
  if s.isS then [] else (List.range 11).filter fun j => j != s.curCtx && s.unblocked s.curCore j

theorem State.mem_yieldsTo (s : State) (j : Nat) :
    j ∈ s.yieldsTo ↔ s.isS = false ∧ j < 11 ∧ j ≠ s.curCtx ∧ s.unblocked s.curCore j = true := by
  unfold State.yieldsTo
  cases s.isS <;> simp

theorem yield_gives (st : BitVec 3) (s : State) :
    GivesAfter (.yield st) s (s.modCx fun x => { x with yielded := s.yieldsTo }) 4 := givesAfter_of_done (st := st) rfl

theorem park_rules (st : BitVec 3) (d a : BitVec 5) (s : State) :
    let mask := (s.readG a).toNat % 256
    let ev := s.me.events s.curCtx &&& mask
    (mask = 0 → GivesG (.park st d a) s 4 d 0) ∧
    (mask ≠ 0 → ev = 0 → Waits (.park st d a) s (.park mask)) ∧
    (ev ≠ 0 → GivesGAfter (.park st d a) s (s.modCx fun x => { x with latched := x.latched &&& ~~~(BitVec.ofNat 8 ev) }) 4 d
      (.ofNat 64 ev)) := by
  intro mask ev
  have hpark : exec (.park st d a) s = if mask = 0 then s.result st d 0 0 else if ev = 0 then s.block (.park mask)
      else (s.modCx fun x => { x with latched := x.latched &&& ~~~(BitVec.ofNat 8 ev) }).result st d (.ofNat 64 ev) 0 := by
    have h : exec (.park st d a) s = execPark st d a s := rfl
    rw [h]; unfold execPark; dsimp only; rw [wfld_low_byte]
  refine ⟨fun hm => ?_, fun hm he => ?_, fun he => ?_⟩
  · rw [if_pos hm] at hpark; exact givesGAfter_of_result hpark
  · rw [if_neg hm, if_pos he] at hpark; exact hpark
  · have hm : mask ≠ 0 := fun h => he (by show _ &&& mask = 0; rw [h, Nat.and_zero])
    rw [if_neg hm, if_neg he] at hpark; exact givesGAfter_of_result hpark

/-! ### setpri, chmset, chmclr (R239, R240) -/

/-- A change of the issuing core is what it makes of that core. -/
theorem State.modMe_congr {s : State} {f g : Core → Core} (h : f s.me = g s.me) : s.modMe f = s.modMe g :=
  congrArg (s.setCore s.curCore) h

/-- A change of the issuing core's memory leaves the rest of the state as it is. -/
theorem State.modMe_mem (s : State) (f : Core → Core) (h : f s.me = { s.me with mem := (f s.me).mem }) :
    s.modMe f = s.modMe fun c => { c with mem := (s.modMe f).me.mem } :=
  State.modMe_congr (by rw [State.me_modMe]; exact h)

theorem setpri_rules (st : BitVec 3) (a b : BitVec 5) (s : State) :
    let ch := (s.readG a).toNat
    let at_ := 0x810 + 32 * ch
    if 63 < ch ∨ (48 ≤ ch ∧ s.isS = false) then Traps (.setpri st a b) s { cause := 0x42 }
    else s.me.badIn at_ 8 = false → ∃ u, GivesAfter (.setpri st a b) s u 4 ∧ u = (s.modMe fun c => { c with mem := u.me.mem }) ∧
      (Memory.byte u.me.mem at_).toNat = (Memory.byte s.me.mem at_).toNat / 4 * 4 + (s.readG b).toNat % 4 ∧
      ∀ x, x ≠ at_ → Memory.byte u.me.mem x = Memory.byte s.me.mem x := by
  intro ch at_
  have hexec : exec (.setpri st a b) s = execSetpri st a b s := rfl
  unfold execSetpri at hexec
  simp only [State.check_cons, State.check_nil, chk] at hexec
  split
  · next h =>
    rw [Traps, hexec]
    obtain h | ⟨h, hs⟩ := h
    · rw [if_pos (by simpa using h)]
    · simp only [hs]; split
      · rfl
      · rw [if_pos (by simpa using h)]
  · next h =>
    obtain ⟨h63, h48⟩ := not_or.mp h
    intro hbad
    rw [if_neg (by simpa using h63), if_neg (by rwa [Bool.and_eq_true, decide_eq_true_eq, Bool.not_eq_true']),
      if_neg (by rw [hbad]; exact Bool.false_ne_true)] at hexec
    refine ⟨_, givesAfter_of_done hexec, State.modMe_mem _ _ rfl, ?_, fun x hx => ?_⟩
    · rw [State.me_modMe, ← Memory.num_one, Memory.num_setNum_same, Memory.num_one]
      have hb := (Memory.byte s.me.mem at_).isLt
      simp only [wfld, fld, pow_zero, Nat.div_one]
      show ((Memory.byte s.me.mem at_).toNat - (Memory.byte s.me.mem at_).toNat % 4 + (s.readG b).toNat % 2 ^ 2) % 256 ^ 1 = _
      omega
    · rw [State.me_modMe]; exact Memory.byte_setNum_outside _ _ _ _ _ (by show x < at_ ∨ at_ + 1 ≤ x; omega)

/-- The bits of CHMASK that an instruction may change (R32). -/
theorem State.getLsbD_maskBits (s : State) (w : Word) {k : Nat} (hk : k < 64) :
    (s.maskBits w).getLsbD k = (w.getLsbD k && (s.isS || decide (k < 48))) := by
  unfold State.maskBits
  cases s.isS
  · have hlow : (0x0000FFFFFFFFFFFF : Word).getLsbD k = decide (k < 48) := by
      have hones : (0x0000FFFFFFFFFFFF : Word) = .ofNat 64 (2 ^ 48 - 1) := rfl
      rw [hones, BitVec.getLsbD_ofNat, Nat.testBit_two_pow_sub_one]; simp [hk]
    rw [if_neg Bool.false_ne_true, BitVec.getLsbD_and, hlow, Bool.false_or]
  · simp

/-- A write of CHMASK as the effect of an instruction: its bits, and what else stays. -/
theorem State.modMe_setChmask_spec (s : State) (w : Word) :
    let u := s.modMe fun c => c.setChmask w
    u = (s.modMe fun c => { c with mem := u.me.mem }) ∧ (∀ k < 64, u.me.chmask.getLsbD k = w.getLsbD k) ∧
    ∀ x, (∀ k < 64, x ≠ 0x810 + 32 * k) → Memory.byte u.me.mem x = Memory.byte s.me.mem x := by
  intro u
  have hme : u.me = s.me.setChmask w := State.me_modMe _ _
  refine ⟨State.modMe_mem _ _ rfl, ?_⟩
  rw [hme]
  exact ⟨fun k hk => Core.getLsbD_chmask_setChmask _ _ hk, fun x hx => Core.byte_setChmask_other _ _ hx⟩

theorem chmset_rules (st : BitVec 3) (d a : BitVec 5) (s : State) :
    let m := fun k => (s.readG a).getLsbD k && (s.isS || decide (k < 48))
    ∃ u, GivesGAfter (.chmset st d a) s u 4 d s.me.chmask ∧ u = (s.modMe fun c => { c with mem := u.me.mem }) ∧
      (∀ k < 64, u.me.chmask.getLsbD k = (s.me.chmask.getLsbD k || m k)) ∧
      ∀ x, (∀ k < 64, x ≠ 0x810 + 32 * k) → Memory.byte u.me.mem x = Memory.byte s.me.mem x := by
  obtain ⟨hu, hbits, hbytes⟩ := s.modMe_setChmask_spec (s.me.chmask ||| s.maskBits (s.readG a))
  refine ⟨_, givesGAfter_of_result (st := st) (l := 1) rfl, hu, fun k hk => ?_, hbytes⟩
  rw [hbits k hk, BitVec.getLsbD_or, s.getLsbD_maskBits _ hk]

theorem chmclr_rules (st : BitVec 3) (d a : BitVec 5) (s : State) :
    let m := fun k => (s.readG a).getLsbD k && (s.isS || decide (k < 48))
    ∃ u, GivesGAfter (.chmclr st d a) s u 4 d s.me.chmask ∧ u = (s.modMe fun c => { c with mem := u.me.mem }) ∧
      (∀ k < 64, u.me.chmask.getLsbD k = (s.me.chmask.getLsbD k && !m k)) ∧
      ∀ x, (∀ k < 64, x ≠ 0x810 + 32 * k) → Memory.byte u.me.mem x = Memory.byte s.me.mem x := by
  obtain ⟨hu, hbits, hbytes⟩ := s.modMe_setChmask_spec (s.me.chmask &&& ~~~ s.maskBits (s.readG a))
  refine ⟨_, givesGAfter_of_result (st := st) (l := 1) rfl, hu, fun k hk => ?_, hbytes⟩
  rw [hbits k hk, BitVec.getLsbD_and, BitVec.getLsbD_not, s.getLsbD_maskBits _ hk]
  simp [hk]

/-- Settles O7: each instruction by its own rule. -/
theorem parkYieldAndChannels : Obligations.ParkYieldAndChannels := by
  unfold Obligations.ParkYieldAndChannels
  refine ⟨fun st d a s => ?_, fun st d a b s => ⟨setpri_rules st a b s, chmset_rules st d a s, chmclr_rules st d a s⟩⟩
  obtain ⟨hnone, hwait, hraised⟩ := park_rules st d a s
  exact ⟨hnone, hwait, hraised, s.yieldsTo, s.mem_yieldsTo, yield_gives st s⟩

end Sys2Proof.Machine
end

section
/-! SUPPORT. Special registers: rds and wrs by number, and the fields of what is written. -/

namespace Sys2Proof.Machine

/-! ### Numbers (R246, R348) -/

/-- A special register with this number exists. -/
def specialListed (n : Nat) : Prop :=
  n < 5 ∨ (8 ≤ n ∧ n < 0x00D) ∨ (0x010 ≤ n ∧ n < 0x01B) ∨ (0x020 ≤ n ∧ n < 0x026) ∨ n = 0x030 ∨ (0x040 ≤ n ∧ n < 0x060) ∨
    (0x800 ≤ n ∧ n < 0x806) ∨ n = 0x808 ∨ (0x810 ≤ n ∧ n < 0x819) ∨ (0x820 ≤ n ∧ n < 0x828)

/-- A number without a register reads zero. -/
theorem State.special_unlisted (s : State) (cn k : Nat) {n : Nat} (h : ¬specialListed n) : s.special cn k n = 0 := by
  unfold specialListed at h
  have hip : (decide (0x040 ≤ n) && decide (n < 0x060)) = false := by simp; omega
  have hfrec : (decide (0x810 ≤ n) && decide (n < 0x818)) = false := by simp; omega
  have hwatch : (decide (0x820 ≤ n) && decide (n < 0x828)) = false := by simp; omega
  unfold State.special
  dsimp only
  rw [hip, if_neg Bool.false_ne_true]
  split
  case h_36 => rw [hfrec, hwatch]; rfl
  all_goals exact absurd (by decide) h

/-- A number without a register discards what is written. -/
theorem State.setSpecial_unlisted (s : State) (cn k : Nat) {n : Nat} (w : Word) (sup xw : Bool) (h : ¬specialListed n) :
    s.setSpecial cn k n w sup xw = s := by
  unfold specialListed at h
  have hwatch : (decide (0x820 ≤ n) && decide (n < 0x828)) = false := by simp; omega
  unfold State.setSpecial
  dsimp only
  split
  case h_28 => rw [hwatch]; rfl
  all_goals exact absurd (by decide) h

theorem readOnlySpecial_unlisted {n : Nat} (h : ¬specialListed n) : readOnlySpecial n = false := by
  unfold specialListed at h
  unfold readOnlySpecial
  simp; omega

/-! ### rds and wrs (R246) -/

variable {s : State} {st : BitVec 3} {d a : BitVec 5} {n : BitVec 12} {w : Word}

/-- The level of the issuing context lets it access the register (R211). -/
def State.mayAccess (s : State) (n : BitVec 12) : Prop := s.isS = true ∨ n.toNat < 0x800

theorem State.privSpecial_eq_false (h : s.mayAccess n) : s.privSpecial n = false := by
  unfold State.privSpecial
  obtain h | h := h
  · simp [h]
  · simp [Nat.not_le.mpr h]

theorem State.privSpecial_eq_true (hs : s.isS = false) (h : 0x800 ≤ n.toNat) : s.privSpecial n = true := by
  simp [State.privSpecial, hs, h]

theorem rds_forbidden (hs : s.isS = false) (h : 0x800 ≤ n.toNat) : Traps (.rds st d n) s { cause := 0x07 } := by
  have hexec : exec (.rds st d n) s = execRds st d n s := rfl
  rw [Traps, hexec, execRds, chk, State.check_cons, State.privSpecial_eq_true hs h, if_pos rfl]

theorem rds_reads (h : s.mayAccess n) (hw : s.special s.curCore s.curCtx n.toNat = w) : GivesG (.rds st d n) s 4 d w := by
  have hexec : exec (.rds st d n) s = execRds st d n s := rfl
  rw [execRds, chk, State.check_cons, State.privSpecial_eq_false h, if_neg Bool.false_ne_true, State.check_nil, hw] at hexec
  exact givesGAfter_of_result hexec

theorem wrs_forbidden (hs : s.isS = false) (h : 0x800 ≤ n.toNat) : Traps (.wrs st a n) s { cause := 0x07 } := by
  have hexec : exec (.wrs st a n) s = execWrs st a n s := rfl
  rw [Traps, hexec, execWrs, chk, State.check_cons, State.privSpecial_eq_true hs h, if_pos rfl]

theorem wrs_readOnly (h : s.mayAccess n) (hr : readOnlySpecial n.toNat = true) : Traps (.wrs st a n) s { cause := 0x08 } := by
  have hexec : exec (.wrs st a n) s = execWrs st a n s := rfl
  rw [Traps, hexec, execWrs, chk, chk, State.check_cons, State.check_cons, State.privSpecial_eq_false h, hr, if_neg Bool.false_ne_true,
    if_pos rfl]

theorem exec_wrs (h : s.mayAccess n) (hr : readOnlySpecial n.toNat = false) :
    exec (.wrs st a n) s = (s.setSpecial s.curCore s.curCtx n.toNat (s.readG a) s.isS false).done st := by
  have hexec : exec (.wrs st a n) s = execWrs st a n s := rfl
  rw [hexec, execWrs, chk, chk, State.check_cons, State.check_cons, State.privSpecial_eq_false h, hr, if_neg Bool.false_ne_true,
    if_neg Bool.false_ne_true, State.check_nil]

/-- What a write of a register makes of the state, retired. -/
theorem wrs_writes {u : State} (h : s.mayAccess n) (hr : readOnlySpecial n.toNat = false)
    (hu : s.setSpecial s.curCore s.curCtx n.toNat (s.readG a) s.isS false = u) : GivesAfter (.wrs st a n) s u 4 :=
  givesAfter_of_done (st := st) (hu ▸ exec_wrs h hr)

theorem wrs_discards (h : s.mayAccess n) (hn : ¬specialListed n.toNat) : GivesNothing (.wrs st a n) s 4 :=
  wrs_writes h (readOnlySpecial_unlisted hn) (s.setSpecial_unlisted _ _ _ _ _ hn)

/-! ### What the fields of a register take -/

theorem extractLsb'_eq_iff {m : Nat} (x : BitVec m) (lo n : Nat) (y : BitVec n) : x.extractLsb' lo n = y ↔ fld x.toNat lo n = y.toNat := by
  rw [← BitVec.toNat_inj, BitVec.extractLsb'_toNat, Nat.shiftRight_eq_div_pow, fld]

theorem toNat_extractLsb'_eq_fld {m : Nat} (x : BitVec m) (lo n : Nat) : (x.extractLsb' lo n).toNat = fld x.toNat lo n := by
  rw [BitVec.extractLsb'_toNat, Nat.shiftRight_eq_div_pow, fld]

/-- The value that a WARL field takes: what is written where it is legal, and what stands there otherwise (R11). -/
def warl (old new : Nat) (legal : Bool) : Nat := if legal then new else old

theorem warl_lt {old new n : Nat} {legal : Bool} (ho : old < n) (hn : new < n) : warl old new legal < n := by
  unfold warl; split
  · exact hn
  · exact ho

theorem fmtWrite_eq (old : BitVec 24) (w : Word) :
    let v := fun lo n ok => warl (fld old.toNat lo n) (wfld w lo n) (ok (wfld w lo n))
    let mat := fun f => decide (3 ≤ f) && decide (f ≤ 9)
    fmtWrite old w = .ofNat 24 (v 0 3 (fun m => m != 7) * 2 ^ 0 + v 4 4 (fun f => decide (1 ≤ f) && decide (f ≤ 4)) * 2 ^ 4
      + v 8 2 (fun _ => true) * 2 ^ 8 + v 16 4 mat * 2 ^ 16 + v 20 4 mat * 2 ^ 20) := rfl

/-- The fields of an FMT value put together from its fields. -/
theorem fld_fmt {rm vf iw mfa mfb : Nat} (h0 : rm < 2 ^ 3) (h4 : vf < 2 ^ 4) (h8 : iw < 2 ^ 2) (h16 : mfa < 2 ^ 4) (h20 : mfb < 2 ^ 4) :
    let x := (BitVec.ofNat 24 (rm * 2 ^ 0 + vf * 2 ^ 4 + iw * 2 ^ 8 + mfa * 2 ^ 16 + mfb * 2 ^ 20)).toNat
    fld x 0 3 = rm ∧ fld x 4 4 = vf ∧ fld x 8 2 = iw ∧ fld x 3 1 = 0 ∧ fld x 10 6 = 0 ∧ fld x 16 4 = mfa ∧ fld x 20 4 = mfb := by
  simp only [BitVec.toNat_ofNat, fld]; omega

/-- FMT: an illegal value of a field leaves the field (R213). -/
theorem fmtSet_fmtWrite (old : BitVec 24) (w : Word) : FmtSet old (fmtWrite old w) w := by
  have bound : ∀ lo n ok, warl (fld old.toNat lo n) (wfld w lo n) ok < 2 ^ n := fun lo n ok => warl_lt (fld_lt _ _ _) (fld_lt _ _ _)
  have fields := fld_fmt (bound 0 3 (wfld w 0 3 != 7)) (bound 4 4 (decide (1 ≤ wfld w 4 4) && decide (wfld w 4 4 ≤ 4))) (bound 8 2 true)
    (bound 16 4 (decide (3 ≤ wfld w 16 4) && decide (wfld w 16 4 ≤ 9))) (bound 20 4 (decide (3 ≤ wfld w 20 4) && decide (wfld w 20 4 ≤ 9)))
  obtain ⟨hrm, hvf, hiw, h3, h10, hmfa, hmfb⟩ := fields
  have matrix : ∀ k, (if 3 ≤ (w.extractLsb' k 4).toNat ∧ (w.extractLsb' k 4).toNat ≤ 9 then w.extractLsb' k 4 else old.extractLsb' k 4).toNat =
      warl (fld old.toNat k 4) (wfld w k 4) (decide (3 ≤ wfld w k 4) && decide (wfld w k 4 ≤ 9)) := by
    intro k
    rw [warl, wfld_eq_extractLsb', apply_ite BitVec.toNat, toNat_extractLsb'_eq_fld old]; simp
  unfold FmtSet
  rw [fmtWrite_eq]
  refine ⟨?_, ?_, ?_, ?_, ?_, fun k hk => ?_⟩ <;> rw [extractLsb'_eq_iff]
  · have h7 : (w.extractLsb' 0 3 = 7) = (wfld w 0 3 = 7) := by rw [extractLsb'_eq_iff]; rfl
    rw [hrm, warl, apply_ite BitVec.toNat, toNat_extractLsb'_eq_fld, toNat_extractLsb'_eq_fld]
    simp only [h7, bne_iff_ne, ne_eq, ite_not]; rfl
  · have h0 : (w.extractLsb' 4 4 = 0) = (wfld w 4 4 = 0) := by rw [extractLsb'_eq_iff]; rfl
    have h4 : (w.extractLsb' 4 4).toNat = wfld w 4 4 := toNat_extractLsb'_eq_fld _ _ _
    rw [hvf, warl, apply_ite BitVec.toNat, toNat_extractLsb'_eq_fld old, h4]
    simp only [h0]
    by_cases h : 1 ≤ wfld w 4 4 ∧ wfld w 4 4 ≤ 4
    · rw [if_pos (by simpa using h), if_neg (by omega)]
    · rw [if_neg (by simpa using h), if_pos (by omega)]
  · rw [hiw, warl, if_pos rfl, wfld_eq_extractLsb']
  · exact h3
  · exact h10
  · rw [matrix]
    simp only [List.mem_cons, List.not_mem_nil, or_false] at hk
    obtain rfl | rfl := hk
    · exact hmfa
    · exact hmfb

/-- The fields of a word of which bits 30 to 0 are those of another one but for the notify channel n. -/
theorem extractLsb'_slk (w : Word) (n : BitVec 6) :
    let x := setFld (.ofNat 64 (wfld w 0 31)) 24 6 n.toNat
    x.extractLsb' 0 24 = w.extractLsb' 0 24 ∧ x.extractLsb' 30 1 = w.extractLsb' 30 1 ∧ x.extractLsb' 31 33 = 0 ∧ x.extractLsb' 24 6 = n := by
  have hn := n.isLt
  simp only [extractLsb'_eq_iff, toNat_extractLsb'_eq_fld, setFld, putFld, wfld, fld, BitVec.toNat_ofNat, BitVec.ofNat_eq_ofNat]
  omega

/-- An SLK register (R129). -/
theorem slkWrite_spec (old w : Word) (sup : Bool) :
    let x := slkWrite old w sup
    x.extractLsb' 0 24 = w.extractLsb' 0 24 ∧ x.extractLsb' 30 1 = w.extractLsb' 30 1 ∧ x.extractLsb' 31 33 = 0 ∧
    x.extractLsb' 24 6 = if sup = true ∨ (w.extractLsb' 24 6).toNat < 48 then w.extractLsb' 24 6 else old.extractLsb' 24 6 := by
  have hx : slkWrite old w sup = setFld (.ofNat 64 (wfld w 0 31)) 24 6
      (if sup = true ∨ (w.extractLsb' 24 6).toNat < 48 then w.extractLsb' 24 6 else old.extractLsb' 24 6).toNat := by
    rw [slkWrite, apply_ite BitVec.toNat, wfld_eq_extractLsb' w 24, wfld_eq_extractLsb' old]
    simp only [Bool.or_eq_true, decide_eq_true_eq]
  rw [hx]
  exact extractLsb'_slk w _

/-- The fields of a watch control word put together from its fields. -/
theorem extractLsb'_wpc (w : Word) (kind : BitVec 2) (len : BitVec 6) :
    let x : Word := .ofNat 64 (wfld w 63 1 * 2 ^ 63 + kind.toNat * 2 ^ 61 + wfld w 59 2 * 2 ^ 59 + wfld w 32 11 * 2 ^ 32 + len.toNat)
    (∀ j ∈ [63, 60, 59], x.toNat / 2 ^ j % 2 = w.toNat / 2 ^ j % 2) ∧ x.extractLsb' 32 11 = w.extractLsb' 32 11 ∧
    x.extractLsb' 61 2 = kind ∧ x.extractLsb' 0 6 = len ∧ x.extractLsb' 43 16 = 0 ∧ x.extractLsb' 6 26 = 0 := by
  have hw := w.isLt
  have hk := kind.isLt
  have hl := len.isLt
  simp only [List.mem_cons, List.not_mem_nil, or_false, forall_eq_or_imp, forall_eq, extractLsb'_eq_iff, toNat_extractLsb'_eq_fld, wfld, fld,
    BitVec.toNat_ofNat, BitVec.ofNat_eq_ofNat]
  omega

/-- A watch control register (R349). -/
theorem wpcWrite_spec (old w : Word) :
    let x := wpcWrite old w
    (∀ j ∈ [63, 60, 59], x.getLsbD j = w.getLsbD j) ∧ x.extractLsb' 32 11 = w.extractLsb' 32 11 ∧
    x.extractLsb' 61 2 = (if w.extractLsb' 61 2 = 3 then old.extractLsb' 61 2 else w.extractLsb' 61 2) ∧
    x.extractLsb' 0 6 = (if 48 < (w.extractLsb' 0 6).toNat then old.extractLsb' 0 6 else w.extractLsb' 0 6) ∧
    x.extractLsb' 43 16 = 0 ∧ x.extractLsb' 6 26 = 0 := by
  have h3 : (w.extractLsb' 61 2 = 3) = (wfld w 61 2 = 3) := by rw [extractLsb'_eq_iff]; rfl
  have hx : wpcWrite old w = .ofNat 64 (wfld w 63 1 * 2 ^ 63
      + (if w.extractLsb' 61 2 = 3 then old.extractLsb' 61 2 else w.extractLsb' 61 2).toNat * 2 ^ 61 + wfld w 59 2 * 2 ^ 59
      + wfld w 32 11 * 2 ^ 32 + (if 48 < (w.extractLsb' 0 6).toNat then old.extractLsb' 0 6 else w.extractLsb' 0 6).toNat) := by
    rw [apply_ite BitVec.toNat, apply_ite BitVec.toNat]
    simp only [h3, ← wfld_eq_extractLsb']; rfl
  obtain ⟨hbits, hrest⟩ := extractLsb'_wpc w (if w.extractLsb' 61 2 = 3 then old.extractLsb' 61 2 else w.extractLsb' 61 2)
    (if 48 < (w.extractLsb' 0 6).toNat then old.extractLsb' 0 6 else w.extractLsb' 0 6)
  rw [hx]
  refine ⟨fun j hj => ?_, hrest⟩
  rw [← wbit_eq_getLsbD, ← wbit_eq_getLsbD, wbit, wbit, hbits j hj]

/-- STAT: SCHK and the flags (R212). -/
theorem wbit_clearPend_statWrite (old w : Word) {k : Nat} (hk : k < 64) :
    wbit (clearPend (statWrite old w false)) k = if k < 6 ∨ k = 13 then wbit w k else (wbit old k && k != 14 && k != 15) := by
  have hmask : ∀ k < 64, (0x203F : Word).getLsbD k = decide (k < 6 ∨ k = 13) := by decide
  rw [wbit_clearPend _ _ hk, wbit_eq_getLsbD, wbit_eq_getLsbD, wbit_eq_getLsbD, statWrite, if_neg Bool.false_ne_true, BitVec.getLsbD_or,
    BitVec.getLsbD_and, BitVec.getLsbD_and, BitVec.getLsbD_not, hmask k hk]
  by_cases h : k < 6 ∨ k = 13
  · have h14 : (k != 14) = true := bne_iff_ne.mpr (by omega)
    have h15 : (k != 15) = true := bne_iff_ne.mpr (by omega)
    simp [h, h14, h15]
  · simp [h, hk]

end Sys2Proof.Machine
end

section
/-! SUPPORT. The statement about special registers, register by register. -/

namespace Sys2Proof.Machine

variable {s : State} {st : BitVec 3} {d a : BitVec 5}

/-! ### rds -/

theorem ofNat_append (a b : BitVec 32) : a ++ b = BitVec.ofNat 64 (a.toNat * 2 ^ 32 + b.toNat) := by
  apply BitVec.eq_of_toNat_eq
  rw [BitVec.toNat_append, BitVec.toNat_ofNat, Nat.shiftLeft_eq, Nat.mul_comm, ← Nat.two_pow_add_eq_or_of_lt b.isLt]
  have := a.isLt
  have := b.isLt
  omega

/-- PFX stands in bits 21 to 8 of PFXV (R349). -/
theorem ofNat_pfx (p : BitVec 14) : p.setWidth 64 <<< 8 = BitVec.ofNat 64 (p.toNat * 256) := by
  apply BitVec.eq_of_toNat_eq
  rw [BitVec.toNat_shiftLeft, BitVec.toNat_setWidth, BitVec.toNat_ofNat, Nat.shiftLeft_eq]
  have := p.isLt
  omega

theorem special_ip (s : State) (cn k : Nat) {n : Nat} (h : 0x040 ≤ n) (h' : n < 0x060) : s.special cn k n = s.ipOf n := by
  have hip : (decide (0x040 ≤ n) && decide (n < 0x060)) = true := by simp [h, h']
  unfold State.special; dsimp only; rw [hip]; rfl

theorem special_frec (s : State) (cn k : Nat) {j : Nat} (h : j < 8) :
    s.special cn k (0x810 + j) = SMap.get 0 (s.core cn).trap.frec j := by
  interval_cases j <;> rfl

/-- What rds reads below 0x800, at either level. -/
theorem rds_registers (st : BitVec 3) (d : BitVec 5) (s : State) :
    let c := s.me
    let x := s.cx
    let reads := fun (n : BitVec 12) (w : Word) => GivesG (.rds st d n) s 4 d w
    reads 0x000 (.ofNat 64 s.curCore) ∧ reads 0x001 (.ofNat 64 (s.curCore / 64 * 256 + s.curCore % 64)) ∧
    reads 0x002 (c.rorg.setWidth 64) ∧ reads 0x003 (c.rsize.setWidth 64) ∧ reads 0x004 (x.ctxWord s.curCtx) ∧
    reads 0x008 (x.stat &&& 0xE03F) ∧ reads 0x009 (c.fmt.setWidth 64) ∧ reads 0x00A c.seed ∧ reads 0x00B x.rndctr ∧
    reads 0x00C (c.fit.setWidth 64) ∧ (∀ k < 4, reads (.ofNat 12 (0x010 + k)) (SMap.get 0 c.slk k)) ∧
    reads 0x014 c.chmask ∧ (∀ k < 4, reads (.ofNat 12 (0x015 + k)) (SMap.get 0 c.hx k)) ∧
    reads 0x019 (c.slkx.setWidth 64) ∧ reads 0x01A (c.congc.setWidth 64) ∧
    reads 0x020 x.cpSrc ∧ reads 0x021 x.cpDst ∧ reads 0x022 (x.cpLen.setWidth 64) ∧ reads 0x023 x.cpShape ∧
    reads 0x024 (x.cpPblk.setWidth 64) ∧ reads 0x030 c.gen := by
  intro c x reads
  have at_ : ∀ (n : BitVec 12) (w : Word), n.toNat < 0x800 → s.special s.curCore s.curCtx n.toNat = w → reads n w :=
    fun n w h hw => rds_reads (.inr h) hw
  refine ⟨at_ _ _ (by decide) rfl, at_ _ _ (by decide) rfl, at_ _ _ (by decide) rfl, at_ _ _ (by decide) rfl, at_ _ _ (by decide) rfl,
    at_ _ _ (by decide) rfl, at_ _ _ (by decide) rfl, at_ _ _ (by decide) rfl, at_ _ _ (by decide) rfl, at_ _ _ (by decide) rfl, fun k hk => ?_,
    at_ _ _ (by decide) rfl, fun k hk => ?_, at_ _ _ (by decide) rfl, at_ _ _ (by decide) rfl, at_ _ _ (by decide) rfl, at_ _ _ (by decide) rfl,
    at_ _ _ (by decide) rfl, at_ _ _ (by decide) rfl, at_ _ _ (by decide) rfl, at_ _ _ (by decide) rfl⟩
  · interval_cases k <;> exact at_ _ _ (by decide) rfl
  · interval_cases k <;> exact at_ _ _ (by decide) rfl

/-- What rds reads from 0x800 on, at level S. -/
theorem rds_trap_registers (st : BitVec 3) (d : BitVec 5) (n : BitVec 12) (hs : s.isS = true) :
    let x := s.cx
    let t := s.me.trap
    let reads := fun (n : BitVec 12) (w : Word) => GivesG (.rds st d n) s 4 d w
    reads 0x800 t.tcause ∧ reads 0x801 (t.tpc.setWidth 64) ∧ reads 0x802 (t.tvec.setWidth 64) ∧
    reads 0x803 (x.pfx.setWidth 64 <<< 8) ∧ reads 0x804 t.tsave0 ∧ reads 0x805 t.tsave1 ∧
    (0x810 ≤ n.toNat → n.toNat < 0x818 → reads n (SMap.get 0 t.frec (n.toNat - 0x810))) ∧
    reads 0x808 (.ofNat 64 (t.lost.toNat * 65536 + t.queue.length)) ∧
    reads 0x818 (t.hwUnc ++ t.hwCor) ∧
    ∀ k < 4, reads (.ofNat 12 (0x820 + 2 * k)) (SMap.get 0 t.wpa k) ∧ reads (.ofNat 12 (0x821 + 2 * k)) (SMap.get 0 t.wpc k) := by
  intro x t reads
  have at_ : ∀ (n : BitVec 12) (w : Word), s.special s.curCore s.curCtx n.toNat = w → reads n w := fun n w hw => rds_reads (.inl hs) hw
  refine ⟨at_ _ _ rfl, at_ _ _ rfl, at_ _ _ rfl, at_ _ _ (ofNat_pfx _).symm, at_ _ _ rfl, at_ _ _ rfl, fun h h' => at_ _ _ ?_, at_ _ _ rfl,
    at_ _ _ (ofNat_append _ _).symm, fun k hk => ?_⟩
  · obtain ⟨j, hj⟩ := Nat.exists_eq_add_of_le h
    rw [hj, special_frec _ _ _ (by omega), Nat.add_sub_cancel_left]; rfl
  · interval_cases k <;> exact ⟨at_ _ _ rfl, at_ _ _ rfl⟩

/-! ### wrs -/

/-- A change of the issuing context is what it makes of that context. -/
theorem State.modCx_congr {s : State} {f g : Ctx → Ctx} (h : f s.cx = g s.cx) : s.modCx f = s.modCx g :=
  State.modMe_congr (congrArg (fun x => { s.me with ctx := SMap.put s.me.ctx s.curCtx x }) h)

theorem setSpecial_hx (s : State) {k : Nat} (hk : k < 4) (w : Word) (sup xw : Bool) :
    s.setSpecial s.curCore s.curCtx (0x015 + k) w sup xw = s.modMe fun c => c.setHx k ((w.extractLsb' 0 32).setWidth 64) := by
  have h32 : BitVec.ofNat 64 (wfld w 0 32) = (w.extractLsb' 0 32).setWidth 64 := by
    rw [wfld_eq_extractLsb', BitVec.ofNat_toNat]
  rw [← h32]
  interval_cases k <;> rfl

theorem wrs_hx (st : BitVec 3) (a : BitVec 5) (s : State) {k : Nat} (hk : k < 4) :
    ∃ u, GivesAfter (.wrs st a (.ofNat 12 (0x015 + k))) s u 4 ∧
      u = (s.modMe fun c => { c with hx := SMap.put c.hx k (((s.readG a).extractLsb' 0 32).setWidth 64), ctx := u.me.ctx }) ∧
      (∀ j, 12 ≤ j → u.me.cx j = s.me.cx j) ∧ ∀ j < 12, u.me.cx j = { s.me.cx j with
        latched := (s.me.cx j).latched ||| (if SMap.get 0 s.me.hx k = ((s.readG a).extractLsb' 0 32).setWidth 64 then 0 else 0x20) } := by
  obtain ⟨hrest, hct, hothers⟩ := s.me.setHx_spec k (((s.readG a).extractLsb' 0 32).setWidth 64)
  have hn : (BitVec.ofNat 12 (0x015 + k)).toNat = 0x015 + k := by rw [BitVec.toNat_ofNat]; omega
  refine ⟨s.modMe fun c => c.setHx k (((s.readG a).extractLsb' 0 32).setWidth 64), wrs_writes (.inr (by omega)) ?_ ?_, ?_, ?_, ?_⟩
  · rw [hn]; interval_cases k <;> rfl
  · rw [hn, setSpecial_hx _ hk]
  · exact State.modMe_congr (by rw [State.me_modMe]; exact hrest)
  · rwa [State.me_modMe]
  · rwa [State.me_modMe]

theorem wrs_chmask (st : BitVec 3) (a : BitVec 5) (s : State) :
    ∃ u, GivesAfter (.wrs st a 0x014) s u 4 ∧ u = (s.modMe fun c => { c with mem := u.me.mem }) ∧
      (∀ k < 64, u.me.chmask.getLsbD k = if s.isS = true ∨ k < 48 then (s.readG a).getLsbD k else s.me.chmask.getLsbD k) ∧
      ∀ x, (∀ k < 64, x ≠ 0x810 + 32 * k) → Memory.byte u.me.mem x = Memory.byte s.me.mem x := by
  obtain ⟨hu, hbits, hbytes⟩ := s.modMe_setChmask_spec (if s.isS then s.readG a else
    (s.me.chmask &&& 0xFFFF000000000000) ||| (s.readG a &&& 0x0000FFFFFFFFFFFF))
  refine ⟨_, wrs_writes (.inr (by decide)) rfl (State.modMe_congr rfl), hu, fun k hk => ?_, hbytes⟩
  have hhigh : ∀ k < 64, (0xFFFF000000000000 : Word).getLsbD k = decide (48 ≤ k) := by decide
  have hlow : ∀ k < 64, (0x0000FFFFFFFFFFFF : Word).getLsbD k = decide (k < 48) := by decide
  rw [hbits k hk]
  by_cases hs : s.isS = true
  · simp [hs]
  · rw [if_neg hs, BitVec.getLsbD_or, BitVec.getLsbD_and, BitVec.getLsbD_and, hhigh k hk, hlow k hk]
    by_cases h48 : k < 48
    · simp [h48, Nat.not_le.mpr h48]
    · simp [hs, h48, Nat.not_lt.mp h48]

theorem wrs_slk (st : BitVec 3) (a : BitVec 5) (s : State) {k : Nat} (hk : k < 4) :
    GivesAfter (.wrs st a (.ofNat 12 (0x010 + k))) s
      (s.modMe fun c => { c with slk := SMap.put c.slk k (slkWrite (SMap.get 0 s.me.slk k) (s.readG a) s.isS) }) 4 := by
  interval_cases k <;> exact wrs_writes (.inr (by decide)) rfl (State.modMe_congr rfl)

/-- A write of a register of the context alone: what is left of the context, and how it retires. -/
theorem wrs_context {n : BitVec 12} {f : Ctx → Ctx} (h : s.mayAccess n) (hr : readOnlySpecial n.toNat = false)
    (hu : s.setSpecial s.curCore s.curCtx n.toNat (s.readG a) s.isS false = s.modCx f) (hf : CtxRest s.cx (f s.cx))
    (hpc : (f s.cx).pc = s.cx.pc) (hpp : (f s.cx).pp = s.cx.pp) (hpfx : (f s.cx).pfx = s.cx.pfx)
    (hregs : (f s.cx).g = s.cx.g ∧ (f s.cx).v = s.cx.v ∧ (f s.cx).p = s.cx.p ∧ (f s.cx).e = s.cx.e ∧ (f s.cx).b = s.cx.b) :
    ∃ t, exec (.wrs st a n) s = .next t ∧ t.cx.rndctr = (f s.cx).rndctr ∧ t.cx.stat = clearPend (f s.cx).stat ∧
      OnlyContext s t ∧ CtxRest s.cx t.cx ∧ Retired s t 4 ∧ RegsSameBut s t [] := by
  have ht : (s.modCx f).retire 4 st.toNat = s.modCx fun x => (f x).goto ((f x).pc + .ofNat 64 4) st.toNat := State.modCx_modCx _ _ _
  refine ⟨_, (exec_wrs h hr).trans (by rw [hu]; rfl), ?_⟩
  obtain ⟨hg, hv, hp, he, hb⟩ := hregs
  rw [ht, Retired, State.cx_modCx]
  refine ⟨rfl, rfl, onlyContext_modCx s _, ?_, ⟨?_, ?_, rfl⟩, fun n _ => ?_, fun n _ => ?_, fun n _ => ?_, fun n _ => ?_, fun n _ => ?_⟩
  · unfold CtxRest at hf ⊢; rw [hf]; rfl
  · show (f s.cx).pc + _ = _; rw [hpc]
  · show (if (f s.cx).pp then 0 else (f s.cx).pfx) = _; rw [hpp, hpfx]
  · rw [readG_modCx, Ctx.rg_goto, Ctx.rg, hg]; rfl
  · rw [readV_modCx, Ctx.goto_v, hv]; rfl
  · rw [readP_modCx, Ctx.rp_goto, Ctx.rp, hp]; rfl
  · rw [readE_modCx, Ctx.goto_e, he]; rfl
  · rw [readB_modCx, Ctx.goto_b, hb]; rfl

theorem wrs_stat (st : BitVec 3) (a : BitVec 5) (s : State) :
    ∃ t, exec (.wrs st a 0x008) s = .next t ∧ t.cx.rndctr = s.cx.rndctr ∧ OnlyContext s t ∧ CtxRest s.cx t.cx ∧ Retired s t 4 ∧ RegsSameBut s t [] ∧
      ∀ k < 64, wbit t.cx.stat k = if k < 6 ∨ k = 13 then wbit (s.readG a) k else (wbit s.cx.stat k && k != 14 && k != 15) := by
  have hpp : wbit (statWrite s.cx.stat (s.readG a) false) 14 = wbit s.cx.stat 14 := by
    rw [wbit_eq_getLsbD, wbit_eq_getLsbD, statWrite, if_neg Bool.false_ne_true, BitVec.getLsbD_or, BitVec.getLsbD_and, BitVec.getLsbD_and,
      BitVec.getLsbD_not, show (0x203F : Word).getLsbD 14 = false from rfl]
    simp
  obtain ⟨t, ht, hrnd, hstat, hctx, hrest, hret, hregs⟩ := wrs_context (st := st) (n := 0x008) (f := fun x => { x with stat := statWrite x.stat (s.readG a) false })
    (.inr (by decide)) rfl rfl rfl rfl hpp rfl ⟨rfl, rfl, rfl, rfl, rfl⟩
  exact ⟨t, ht, hrnd, hctx, hrest, hret, hregs, fun k hk => by rw [hstat, wbit_clearPend_statWrite _ _ hk]⟩

theorem wrs_rndctr (st : BitVec 3) (a : BitVec 5) (s : State) :
    ∃ t, exec (.wrs st a 0x00B) s = .next t ∧ t.cx.rndctr = s.readG a ∧ OnlyContext s t ∧ CtxRest s.cx t.cx ∧ Retired s t 4 ∧
      t.cx.stat = clearPend s.cx.stat ∧ RegsSameBut s t [] := by
  obtain ⟨t, ht, hrnd, hstat, hctx, hrest, hret, hregs⟩ := wrs_context (st := st) (n := 0x00B) (f := fun x => { x with rndctr := s.readG a })
    (.inr (by decide)) rfl rfl rfl rfl rfl rfl ⟨rfl, rfl, rfl, rfl, rfl⟩
  exact ⟨t, ht, hrnd, hctx, hrest, hret, hstat, hregs⟩

/-- PFXV: a pairing that R216 makes illegal leaves PFX as it is (R349). -/
theorem pfxWrite_eq (old : BitVec 14) (w : Word) :
    let P := w.extractLsb' 8 14
    let illegal := (P.getLsbD 9 = true ∧ P.extractLsb' 10 4 = 0) ∨ (P.getLsbD 4 = true ∧ P.extractLsb' 5 4 = 0) ∨
      (P.getLsbD 0 = true ∧ P.extractLsb' 1 3 = 7)
    (illegal → pfxWrite old w = old) ∧ (¬illegal → pfxWrite old w = P) := by
  intro P illegal
  have hP : BitVec.ofNat 14 (wfld w 8 14) = P := by rw [wfld_eq_extractLsb', BitVec.ofNat_toNat, BitVec.setWidth_eq]
  have hbit : ∀ k, (P.extractLsb' k 1 = 1) = (P.getLsbD k = true) := by
    intro k
    rw [extractLsb'_eq_iff, BitVec.getLsbD, Nat.testBit_eq_decide_div_mod_eq, decide_eq_true_eq]; rfl
  have hlegal : pfxLegal (P.extractLsb' 10 4) (P.extractLsb' 9 1) (P.extractLsb' 5 4) (P.extractLsb' 4 1) (P.extractLsb' 1 3) (P.extractLsb' 0 1) =
      true ↔ ¬illegal := by
    simp only [pfxLegal, illegal, ← hbit, Bool.and_eq_true, Bool.not_eq_true', Bool.and_eq_false_iff, beq_eq_false_iff_ne]
    tauto
  have hw : pfxWrite old w = if pfxLegal (P.extractLsb' 10 4) (P.extractLsb' 9 1) (P.extractLsb' 5 4) (P.extractLsb' 4 1) (P.extractLsb' 1 3)
      (P.extractLsb' 0 1) then P else old := by rw [← hP]; rfl
  exact ⟨fun h => by rw [hw, if_neg (fun k => hlegal.mp k h)], fun h => by rw [hw, if_pos (hlegal.mpr h)]⟩

/-- wrs of a register from 0x800 on, at level S. -/
theorem wrs_trap_registers (st : BitVec 3) (a : BitVec 5) (hs : s.isS = true) :
    let w := s.readG a
    let trap := fun (n : BitVec 12) (f : Trap → Trap) => GivesAfter (.wrs st a n) s (s.modMe fun c => { c with trap := f c.trap }) 4
    trap 0x801 (fun t => { t with tpc := if w.getLsbD 0 then t.tpc else w.setWidth 22 }) ∧
    trap 0x802 (fun t => { t with tvec := if w.getLsbD 0 then t.tvec else w.setWidth 22 }) ∧
    trap 0x804 (fun t => { t with tsave0 := w }) ∧ trap 0x805 (fun t => { t with tsave1 := w }) ∧
    trap 0x808 (fun t => { t with lost := w.extractLsb' 16 16 }) ∧
    trap 0x818 (fun t => { t with hwUnc := w.extractLsb' 32 32, hwCor := w.setWidth 32 }) := by
  intro w trap
  have hext : ∀ lo n, BitVec.ofNat n (wfld w lo n) = w.extractLsb' lo n := fun lo n => by
    rw [wfld_eq_extractLsb', BitVec.ofNat_toNat, BitVec.setWidth_eq]
  have heven : ∀ old, evenWrite old w = if w.getLsbD 0 then old else w.setWidth 22 := fun old => by rw [evenWrite, wbit_eq_getLsbD]
  simp only [← heven, ← hext]
  exact ⟨wrs_writes (.inl hs) rfl rfl, wrs_writes (.inl hs) rfl rfl, wrs_writes (.inl hs) rfl rfl, wrs_writes (.inl hs) rfl rfl,
    wrs_writes (.inl hs) rfl rfl, wrs_writes (.inl hs) rfl rfl⟩

/-- wrs of the address and of the control word of a watchpoint, at level S. -/
theorem wrs_watch (st : BitVec 3) (a : BitVec 5) (hs : s.isS = true) {k : Nat} (hk : k < 4) :
    GivesAfter (.wrs st a (.ofNat 12 (0x820 + 2 * k))) s
      (s.modMe fun c => { c with trap := { c.trap with wpa := SMap.put c.trap.wpa k (s.readG a) } }) 4 ∧
    GivesAfter (.wrs st a (.ofNat 12 (0x821 + 2 * k))) s
      (s.modMe fun c => { c with trap := { c.trap with wpc := SMap.put c.trap.wpc k (wpcWrite (SMap.get 0 s.me.trap.wpc k) (s.readG a)) } }) 4 := by
  have hwpc : s.setSpecial s.curCore s.curCtx (0x821 + 2 * k) (s.readG a) s.isS false =
      s.modMe fun c => { c with trap := { c.trap with wpc := SMap.put c.trap.wpc k (wpcWrite (SMap.get 0 c.trap.wpc k) (s.readG a)) } } := by
    interval_cases k <;> rfl
  have hcongr := hwpc.trans (State.modMe_congr (g := fun c =>
    { c with trap := { c.trap with wpc := SMap.put c.trap.wpc k (wpcWrite (SMap.get 0 s.me.trap.wpc k) (s.readG a)) } }) rfl)
  interval_cases k <;> exact ⟨wrs_writes (.inl hs) rfl rfl, wrs_writes (.inl hs) rfl hcongr⟩

/-- wrs of PFXV, at level S. -/
theorem wrs_pfxv (st : BitVec 3) (a : BitVec 5) (hs : s.isS = true) :
    let P := (s.readG a).extractLsb' 8 14
    let illegal := (P.getLsbD 9 = true ∧ P.extractLsb' 10 4 = 0) ∨ (P.getLsbD 4 = true ∧ P.extractLsb' 5 4 = 0) ∨
      (P.getLsbD 0 = true ∧ P.extractLsb' 1 3 = 7)
    (illegal → GivesNothing (.wrs st a 0x803) s 4) ∧
    (¬illegal → GivesAfter (.wrs st a 0x803) s (s.modCx fun x => { x with pfx := P }) 4) := by
  intro P illegal
  obtain ⟨hkeeps, hwrites⟩ := pfxWrite_eq s.cx.pfx (s.readG a)
  have hexec : exec (.wrs st a 0x803) s = (s.modCx fun x => { x with pfx := pfxWrite x.pfx (s.readG a) }).done st := exec_wrs (.inl hs) rfl
  refine ⟨fun h => givesAfter_of_done (st := st) ?_, fun h => givesAfter_of_done (st := st) ?_⟩
  · rw [hexec, State.done, State.retire, State.modCx_modCx]
    exact congrArg Host.Outcome.next (State.modCx_congr (by rw [hkeeps h]))
  · rw [hexec]
    exact congrArg (fun u : State => u.done st) (State.modCx_congr (by rw [hwrites h]))

/-! ### The statement -/

/-- A number outside the lists of the statement has no register. -/
theorem specialListed_iff_of_lt {n : Nat} (h : n < 0x800) : specialListed n ↔
    n < 5 ∨ (8 ≤ n ∧ n < 0x00D) ∨ (0x010 ≤ n ∧ n < 0x01B) ∨ (0x020 ≤ n ∧ n < 0x026) ∨ n = 0x030 ∨ (0x040 ≤ n ∧ n < 0x060) := by
  unfold specialListed; omega

theorem specialListed_iff_of_le {n : Nat} (h : 0x800 ≤ n) : specialListed n ↔
    n < 0x806 ∨ n = 0x808 ∨ (0x810 ≤ n ∧ n < 0x819) ∨ (0x820 ≤ n ∧ n < 0x828) := by
  unfold specialListed; omega

theorem readOnlySpecial_below {n : BitVec 12} (h : n.toNat < 5 ∨ n = 0x00A ∨ n = 0x025 ∨ n = 0x030 ∨ (0x040 ≤ n.toNat ∧ n.toNat < 0x060)) :
    n.toNat < 0x800 ∧ readOnlySpecial n.toNat = true := by
  obtain h | rfl | rfl | rfl | h := h
  · exact ⟨by omega, by simp [readOnlySpecial, h]⟩
  · exact ⟨by decide, rfl⟩
  · exact ⟨by decide, rfl⟩
  · exact ⟨by decide, rfl⟩
  · exact ⟨by omega, by simp [readOnlySpecial, h]⟩

theorem readOnlySpecial_above {n : BitVec 12} (h : n = 0x800 ∨ (0x810 ≤ n.toNat ∧ n.toNat < 0x818)) : readOnlySpecial n.toNat = true := by
  obtain rfl | h := h
  · rfl
  · simp [readOnlySpecial, h]

/-- Settles O10: register by register. -/
theorem specialRegisters : Obligations.SpecialRegisters := by
  unfold Obligations.SpecialRegisters
  refine ⟨fun st d n s => ?_, fun st a n s => ?_⟩
  · obtain ⟨r0, r1, r2, r3, r4, r5, r6, r7, r8, r9, r10, r11, r12, r13, r14, r15, r16, r17, r18, r19, r20⟩ := rds_registers st d s
    exact ⟨fun h hn => rds_reads (.inr h) (s.special_unlisted _ _ (mt (specialListed_iff_of_lt h).mp hn)),
      fun hs h hn => rds_reads (.inl hs) (s.special_unlisted _ _ (mt (specialListed_iff_of_le h).mp hn)), rds_forbidden,
      r0, r1, r2, r3, r4, r5, r6, r7, r8, r9, r10, r11, r12, r13, r14, r15, r16, r17, r18, r19, r20,
      fun h h' => rds_reads (.inr (by omega)) (special_ip s _ _ h h'), rds_trap_registers st d n⟩
  · intro w N core ctx trap
    refine ⟨wrs_forbidden, fun h hn => wrs_discards (.inr h) (mt (specialListed_iff_of_lt h).mp hn),
      fun hs h hn => wrs_discards (.inl hs) (mt (specialListed_iff_of_le h).mp hn),
      fun n h => wrs_readOnly (.inr (readOnlySpecial_below h).1) (readOnlySpecial_below h).2, wrs_stat st a s,
      ⟨fmtWrite s.me.fmt w, wrs_writes (.inr (by decide)) rfl (State.modMe_congr rfl), fmtSet_fmtWrite _ _⟩, wrs_rndctr st a s,
      wrs_writes (.inr (by decide)) rfl rfl, fun k hk => ⟨_, wrs_slk st a s hk, slkWrite_spec _ _ _⟩, wrs_chmask st a s,
      fun k hk => wrs_hx st a s hk, wrs_writes (.inr (by decide)) rfl rfl, wrs_writes (.inr (by decide)) rfl rfl,
      wrs_writes (.inr (by decide)) rfl rfl, wrs_writes (.inr (by decide)) rfl rfl, wrs_writes (.inr (by decide)) rfl rfl,
      wrs_writes (.inr (by decide)) rfl rfl, wrs_writes (.inr (by decide)) rfl rfl, fun hs => ?_⟩
    obtain ⟨htpc, htvec, hsave0, hsave1, hlost, hecc⟩ := wrs_trap_registers st a hs
    exact ⟨fun n h => wrs_readOnly (.inl hs) (readOnlySpecial_above h), htpc, htvec, hsave0, hsave1, hlost, hecc, wrs_pfxv st a hs,
      fun k hk => ⟨(wrs_watch st a hs hk).1, _, (wrs_watch st a hs hk).2, wpcWrite_spec _ _⟩⟩

end Sys2Proof.Machine
end

section
/-! SUPPORT. Messages at a core: what a placement writes, what the completion of a transaction and an asynchronous record leave as they
are, and what held messages that find a place leave as it is. -/

namespace Sys2Proof.Machine

/-! ### Status doublewords (R29) -/

/-- The messages of a channel that are placed and pending. -/
def Core.placedOn (c : Core) (ch : Nat) : List (Nat × Msg) := c.placed.filter fun e => e.2.chan == ch

/-- A status doubleword put together from its fields. -/
theorem fld_status {pend rp wp : Nat} (run live : Bool) (hp : pend < 65536) :
    let x := ((if run then 0 else 2 ^ 63) + (if live then 2 ^ 62 else 0) + pend * 2 ^ 44 + rp % 2 ^ 22 * 2 ^ 22 + wp % 2 ^ 22) % 256 ^ 8
    fld x 44 16 = pend ∧ fld x 0 22 = wp % 2 ^ 22 ∧ fld x 62 1 = live.toNat := by
  cases run <;> cases live <;> simp only [fld, Bool.false_eq_true, if_true, if_false, Bool.toNat_true, Bool.toNat_false] <;> omega

theorem Core.setStatus_eq (c : Core) (ch wp : Nat) : c.setStatus ch wp = { c with mem := (c.setStatus ch wp).mem } := rfl

/-- The status doubleword as it is written: PEND, WP and LIVE. -/
theorem Core.setStatus_fields (c : Core) (ch wp : Nat) :
    (c.setStatus ch wp).pend ch = (c.placedOn ch).length % 65536 ∧ (c.setStatus ch wp).writePtr ch = wp % 2 ^ 22 ∧
    (c.setStatus ch wp).liveBit ch = c.ctx.any fun e => (e.2.slot.toList ++ e.2.rslot.toList).any fun sl => sl.chan == ch := by
  have hdw : (c.setStatus ch wp).entryDw ch 3 = _ := Memory.num_setNum_same c.mem (0x800 + 32 * ch + 24) 8 _
  obtain ⟨hpend, hwp, hlive⟩ := fld_status (rp := ((c.occupied ch).head?.map (·.1)).getD wp) (wp := wp)
    (decide ((c.placed.filter fun m => m.2.chan == ch).length % 65536 = 0))
    (c.ctx.any fun (_, x) => (x.slot.toList ++ x.rslot.toList).any fun sl => sl.chan == ch)
    (Nat.mod_lt (c.placed.filter fun m => m.2.chan == ch).length (by decide : 0 < 65536))
  simp only [decide_eq_true_eq] at hpend hwp hlive
  refine ⟨?_, ?_, ?_⟩
  · rw [Core.pend, hdw]; exact hpend
  · rw [Core.writePtr, hdw]; exact hwp
  · rw [Core.liveBit, hdw, hlive]; generalize (c.ctx.any _) = b; cases b <;> rfl

theorem Core.byte_setStatus (c : Core) (ch wp : Nat) {x : Nat} (h : x < 0x800 + 32 * ch + 24 ∨ 0x800 + 32 * ch + 32 ≤ x) :
    Memory.byte (c.setStatus ch wp).mem x = Memory.byte c.mem x :=
  Memory.byte_setNum_outside _ _ _ _ _ (by omega)

theorem SameButStatus.refl (m : Memory) : SameButStatus m m := fun _ _ => rfl
theorem SameButStatus.trans {m m' m'' : Memory} (h : SameButStatus m m') (k : SameButStatus m' m'') : SameButStatus m m'' :=
  fun b hb => (k b hb).trans (h b hb)

theorem Core.sameButStatus_setStatus (c : Core) {ch : Nat} (wp : Nat) (h : ch < 64) : SameButStatus c.mem (c.setStatus ch wp).mem :=
  fun b hb => c.byte_setStatus ch wp (by omega)

/-! ### A message written into its inbox (R33) -/

/-- A place that the inbox of a channel gives lies in the general area (R35). -/
theorem Core.placement_general {c : Core} {ch n a : Nat} (h : c.placement ch n = .at_ a) : 0x2000 ≤ a := by
  unfold Core.placement at h
  dsimp only at h
  split at h
  · cases h
  split at h
  · cases h
  next hform =>
  have hbase : 0x2000 ≤ c.inboxBase ch := by
    have : outOfGeneral (c.inboxBase ch) (c.inboxSize ch) = false := by
      simp only [Bool.or_eq_true, not_or, Bool.not_eq_true] at hform; exact hform.2
    simp only [outOfGeneral, Bool.or_eq_false_iff, decide_eq_false_iff_not, Nat.not_lt] at this
    exact this.1
  split at h
  · split at h
    · cases h; exact hbase
    · cases h
  split at h
  · next hfits =>
    cases h
    simp only [Bool.and_eq_true, decide_eq_true_eq] at hfits
    exact hbase.trans hfits.1.1
  split at h
  · cases h; exact hbase
  · cases h

/-- Bytes put into the general area. -/
theorem Core.mem_put_general (c : Core) {a : Nat} (bs : List Byte) (h : 0x2000 ≤ a) : (c.put a bs).mem = Memory.write c.mem a bs := by
  have hdisjoint : overlaps a bs.length 0x1100 0xF00 = false := by
    simp only [overlaps, Bool.and_eq_false_iff, decide_eq_false_iff_not]; omega
  unfold Core.put
  dsimp only
  rw [hdisjoint]; rfl

/-- The core with message m placed at a. -/
def Core.placeMsg (c : Core) (m : Msg) (a : Nat) : Core :=
  ({ c with placed := c.placed ++ [(a, m)] }.put a m.bytes).setStatus m.chan (a + slotSize m.bytes.length)

theorem Core.placeMsg_eq (c : Core) (m : Msg) (a : Nat) : c.placeMsg m a =
    { c with placed := c.placed ++ [(a, m)], mem := (c.placeMsg m a).mem, image := (c.placeMsg m a).image, bad := (c.placeMsg m a).bad } := rfl

/-- The payload stands at its place, and nothing else has changed but status doublewords. -/
theorem Core.placeMsg_mem (c : Core) {m : Msg} {a : Nat} (ha : 0x2000 ≤ a) (hch : m.chan < 64) :
    Holds (c.placeMsg m a).mem a m.bytes ∧
    ∀ b, b < 0x800 ∨ 0x1000 ≤ b ∨ b % 32 < 24 → b < a ∨ a + m.bytes.length ≤ b → Memory.byte (c.placeMsg m a).mem b = Memory.byte c.mem b := by
  have hput : ({ c with placed := c.placed ++ [(a, m)] }.put a m.bytes).mem = Memory.write c.mem a m.bytes := Core.mem_put_general _ _ ha
  have hstatus := Core.sameButStatus_setStatus ({ c with placed := c.placed ++ [(a, m)] }.put a m.bytes) (a + slotSize m.bytes.length) hch
  rw [hput] at hstatus
  refine ⟨?_, fun b hb hab => ?_⟩
  · exact (Memory.read_congr fun x h1 _ => hstatus x (by omega)).trans (Memory.read_write_same c.mem a m.bytes)
  · exact (hstatus b hb).trans (Memory.byte_write_outside _ _ _ _ hab)

/-- PEND and WP of the channel. -/
theorem Core.placeMsg_status (c : Core) (m : Msg) (a : Nat) :
    (c.placeMsg m a).pend m.chan = ((c.placeMsg m a).placed.filter fun e => e.2.chan == m.chan).length % 65536 ∧
    (c.placeMsg m a).writePtr m.chan = (a + slotSize m.bytes.length) % 2 ^ 22 := by
  obtain ⟨hpend, hwp, -⟩ := Core.setStatus_fields ({ c with placed := c.placed ++ [(a, m)] }.put a m.bytes) m.chan (a + slotSize m.bytes.length)
  exact ⟨hpend, hwp⟩

/-! ### What completions and records leave as it is -/

/-- A launch without its count of faults. -/
def Launch.unfaulted (l : Launch) : Launch := { l with faults := 0 }

/-- t is s but for what the completion of transactions and copies, replies, notices and asynchronous records change: transactions,
windows, copies, latched events, record queues, counts of faults, and packets. -/
structure Settles (s t : State) : Prop where
  rest : t = { s with cores := t.cores, launches := t.launches, filter := t.filter, net := t.net, nextPkt := t.nextPkt }
  launches : t.launches.map Launch.unfaulted = s.launches.map Launch.unfaulted
  core : ∀ cn, t.core cn = { s.core cn with
    ctx := (t.core cn).ctx, trap := (t.core cn).trap, txs := (t.core cn).txs, closed := (t.core cn).closed,
    windows := (t.core cn).windows, ending := (t.core cn).ending, copies := (t.core cn).copies }
  cx : ∀ cn k, (t.core cn).cx k = { (s.core cn).cx k with latched := ((t.core cn).cx k).latched }

theorem Settles.refl (s : State) : Settles s s := ⟨rfl, rfl, fun _ => rfl, fun _ _ => rfl⟩

theorem Settles.trans {s t u : State} (h : Settles s t) (k : Settles t u) : Settles s u := by
  refine ⟨?_, k.launches.trans h.launches, fun cn => ?_, fun cn j => ?_⟩
  · rw [k.rest, h.rest]
  · rw [k.core cn, h.core cn]
  · rw [k.cx cn j, h.cx cn j]

/-- What a change of one core leaves as it is, where it is such a change. -/
theorem Settles.modCore (s : State) (cn : Nat) {f : Core → Core}
    (hcore : f (s.core cn) = { s.core cn with
      ctx := (f (s.core cn)).ctx, trap := (f (s.core cn)).trap, txs := (f (s.core cn)).txs, closed := (f (s.core cn)).closed,
      windows := (f (s.core cn)).windows, ending := (f (s.core cn)).ending, copies := (f (s.core cn)).copies })
    (hcx : ∀ k, (f (s.core cn)).cx k = { (s.core cn).cx k with latched := ((f (s.core cn)).cx k).latched }) : Settles s (s.modCore cn f) := by
  refine ⟨rfl, rfl, fun j => ?_, fun j k => ?_⟩
  · by_cases h : j = cn
    · subst h; rw [State.core_modCore_same]; exact hcore
    · rw [State.core_modCore_other _ _ h]
  · by_cases h : j = cn
    · subst h; rw [State.core_modCore_same]; exact hcx k
    · rw [State.core_modCore_other _ _ h]

theorem Settles.send (s : State) (p : Packet) : Settles s (s.send p) := ⟨rfl, rfl, fun _ => rfl, fun _ _ => rfl⟩

theorem Settles.replyRemote (s : State) (f : Issuer) (target slack kind st : Nat) (data : List Word) :
    Settles s (s.replyRemote f target slack kind st data) := ⟨rfl, rfl, fun _ => rfl, fun _ _ => rfl⟩

/-- Ended activations latch their end, and nothing else (R173). -/
theorem Core.settle_spec (c : Core) :
    c.settle = { c with ctx := c.settle.ctx, ending := c.settle.ending } ∧ ∀ k, c.settle.cx k = { c.cx k with latched := (c.settle.cx k).latched } := by
  unfold Core.settle
  dsimp only
  split
  · refine ⟨Core.latch_eq _ 3, fun k => ?_⟩
    rw [Core.cx_latch]; split <;> rfl
  · exact ⟨rfl, fun k => rfl⟩

/-- The completion of a transaction (R136, R170). -/
theorem Core.completeTx_spec (c : Core) (seq : Nat) :
    c.completeTx seq = { c with
      ctx := (c.completeTx seq).ctx, txs := (c.completeTx seq).txs, closed := (c.completeTx seq).closed, windows := (c.completeTx seq).windows,
      ending := (c.completeTx seq).ending } ∧
    ∀ k, (c.completeTx seq).cx k = { c.cx k with latched := ((c.completeTx seq).cx k).latched } := by
  unfold Core.completeTx
  split
  · next t _ =>
    obtain ⟨hrest, hcx⟩ := Core.settle_spec ({ c with txs := c.txs.filter fun u => u.seq != seq, closed := if t.lingers then c.closed ++ [t] else c.closed }.setWindow
      t.key (min 32 (c.window_ t.key + 1)))
    exact ⟨by rw [hrest]; rfl, hcx⟩
  · exact ⟨rfl, fun _ => rfl⟩

theorem Settles.completeTx (s : State) (cn seq : Nat) : Settles s (s.modCore cn fun c => c.completeTx seq) := by
  obtain ⟨hrest, hcx⟩ := (s.core cn).completeTx_spec seq
  refine Settles.modCore s cn ?_ hcx
  rw [hrest]

/-- A message that its core has taken (R66, R115, R170). -/
theorem Settles.taken (s : State) (cn : Nat) (m : Msg) : Settles s (s.taken cn m) := by
  have acknowledged : ∀ u : State, Settles u (match m.ack with
      | some (f, slack) => u.replyRemote f cn slack 0 0 []
      | none => u) := by
    intro u; split
    · exact Settles.replyRemote _ _ _ _ _ _ _
    · exact Settles.refl u
  have delivered : ∀ u : State, Settles u (match m.copy with
      | some id => u.modCore cn fun c => { c with copies := c.copies.filterMap fun o => if o.id == id then o.messageTaken else some o }
      | none => u) := by
    intro u; split
    · exact Settles.modCore u cn rfl fun _ => rfl
    · exact Settles.refl u
  have completed : ∀ u : State, Settles u (match m.tx with
      | some (c, q) => u.modCore c fun c => c.completeTx q
      | none => u) := by
    intro u; split
    · exact Settles.completeTx _ _ _
    · exact Settles.refl u
  exact ((completed s).trans (delivered _)).trans (acknowledged _)

theorem Settles.countUnc (s : State) (cn : Nat) : Settles s (s.countUnc cn) := Settles.modCore s cn rfl fun _ => rfl

theorem Settles.queueRecord (s : State) (cn : Nat) (r : FaultRec) : Settles s (s.modCore cn fun c => c.queueRecord r) := by
  obtain ⟨t, ht⟩ := (s.core cn).queueRecord_trap_only r
  refine Settles.modCore s cn ?_ fun k => ?_
  · rw [ht]
  · rw [ht]; rfl

theorem Settles.countFault (s : State) (p l : Nat) (f : Nat → Nat) : Settles s (s.modLaunch p l fun q => { q with faults := f q.faults }) := by
  refine ⟨rfl, ?_, fun _ => rfl, fun _ _ => rfl⟩
  unfold State.modLaunch
  rw [List.map_map]
  refine List.map_congr_left fun l _ => ?_
  simp only [Function.comp]; split <;> rfl

/-- An asynchronous record (R345, R375). -/
theorem Settles.report (s : State) (cn : Nat) (r : FaultRec) : Settles s (s.report cn r) := by
  unfold State.report
  dsimp only
  split
  · split
    · exact (Settles.countFault s _ _ fun n => min (n + 1) (2 ^ 32 - 1)).trans (Settles.queueRecord _ _ _)
    · exact Settles.queueRecord _ _ _
  · exact Settles.queueRecord _ _ _

theorem Settles.async (s : State) (cn : Nat) (r : FaultRec) : Settles s (s.async cn r) := by
  unfold State.async
  split
  · exact (Settles.countUnc s cn).trans (Settles.report _ _ _)
  · exact Settles.report _ _ _

/-! Fields that stay. -/

theorem Settles.mem {s t : State} (h : Settles s t) (cn : Nat) : (t.core cn).mem = (s.core cn).mem := by rw [h.core]
theorem Settles.placed {s t : State} (h : Settles s t) (cn : Nat) : (t.core cn).placed = (s.core cn).placed := by rw [h.core]
theorem Settles.inbuf {s t : State} (h : Settles s t) (cn : Nat) : (t.core cn).inbuf = (s.core cn).inbuf := by rw [h.core]
theorem Settles.arrivals {s t : State} (h : Settles s t) (cn : Nat) : (t.core cn).arrivals = (s.core cn).arrivals := by rw [h.core]
theorem Settles.job {s t : State} (h : Settles s t) (cn : Nat) : (t.core cn).job = (s.core cn).job := by rw [h.core]
theorem Settles.gmem {s t : State} (h : Settles s t) : t.gmem = s.gmem := by rw [h.rest]
theorem Settles.pend {s t : State} (h : Settles s t) (cn ch : Nat) : (t.core cn).pend ch = (s.core cn).pend ch := by
  unfold Core.pend Core.entryDw; rw [h.mem]
theorem Settles.writePtr {s t : State} (h : Settles s t) (cn ch : Nat) : (t.core cn).writePtr ch = (s.core cn).writePtr ch := by
  unfold Core.writePtr Core.entryDw; rw [h.mem]
theorem Settles.memSame {s t : State} (h : Settles s t) : MemSame s t := ⟨fun cn a => by rw [h.mem], fun a => by rw [h.gmem]⟩

/-- A report is what the core's queue receives, in a state whose cores are the same. -/
theorem State.report_eq (s : State) (cn : Nat) (r : FaultRec) : ∃ u : State, u.cores = s.cores ∧
    s.report cn r = u.modCore cn fun c => c.queueRecord { r with async := true, cn := cn, lid := s.lidOf cn } := by
  unfold State.report
  dsimp only
  split
  · split
    · exact ⟨_, State.modLaunch_cores _ _ _ _, rfl⟩
    · exact ⟨s, rfl, rfl⟩
  · exact ⟨s, rfl, rfl⟩

theorem Core.queueRecord_room {c : Core} {r : FaultRec} (hk : keptCause r.cause = false) (hroom : roomFor c.trap.queue = true) :
    (c.queueRecord r).trap.queue = c.trap.queue ++ [r] := by
  unfold Core.queueRecord
  dsimp only
  rw [hk, if_neg Bool.false_ne_true, if_pos hroom]

/-- A record that joins a queue with room (R345). -/
theorem queued_async (s : State) (cn : Nat) (r : FaultRec) (hk : keptCause r.cause = false)
    (hroom : ((s.core cn).trap.queue.filter fun q => !keptCause q.cause).length < 12) : Queued s (s.async cn r) cn r.cause := by
  have report : ∀ u : State, (u.core cn).trap.queue = (s.core cn).trap.queue → Queued s (u.report cn r) cn r.cause := by
    intro u hu
    obtain ⟨v, hv, hreport⟩ := u.report_eq cn r
    have hcore : (v.core cn).trap.queue = (s.core cn).trap.queue := by unfold State.core at hu ⊢; rw [hv, hu]
    have hqueue : ((u.report cn r).core cn).trap.queue = (s.core cn).trap.queue ++ [{ r with async := true, cn := cn, lid := u.lidOf cn }] := by
      have hroom' : roomFor (v.core cn).trap.queue = true := by rw [hcore]; simpa [roomFor] using hroom
      rw [hreport, State.core_modCore_same, ← hcore]
      exact Core.queueRecord_room (r := { r with async := true, cn := cn, lid := u.lidOf cn }) hk hroom'
    exact ⟨{ r with async := true, cn := cn, lid := u.lidOf cn }, by rw [hqueue]; simp, rfl, rfl, rfl, by rw [hqueue]; simp⟩
  unfold State.async
  split
  · exact report _ (by unfold State.countUnc; rw [State.core_modCore_same])
  · exact report _ rfl

end Sys2Proof.Machine
end

section
/-! SUPPORT. The placement of the first message of a channel, of all held messages of some channels, and the log of activations. -/

namespace Sys2Proof.Machine

variable {s t u : State} {cn ch : Nat} {m : Msg}

/-! ### Held messages that find a place (R33 to R36) -/

/-- t is s but for what placements of held messages change: the contexts keep everything but their latched events, the cores their
launches, and the launches everything but their counts of faults. -/
structure Steady (s t : State) : Prop where
  curCore : t.curCore = s.curCore
  curCtx : t.curCtx = s.curCtx
  debugBlocks : t.debugBlocks = s.debugBlocks
  launches : t.launches.map Launch.unfaulted = s.launches.map Launch.unfaulted
  job : ∀ cn, (t.core cn).job = (s.core cn).job
  cx : ∀ cn k, (t.core cn).cx k = { (s.core cn).cx k with latched := ((t.core cn).cx k).latched }

theorem Steady.refl (s : State) : Steady s s := ⟨rfl, rfl, rfl, rfl, fun _ => rfl, fun _ _ => rfl⟩

theorem Steady.trans (h : Steady s t) (k : Steady t u) : Steady s u := by
  refine ⟨k.curCore.trans h.curCore, k.curCtx.trans h.curCtx, k.debugBlocks.trans h.debugBlocks, k.launches.trans h.launches,
    fun cn => (k.job cn).trans (h.job cn), fun cn j => ?_⟩
  rw [k.cx cn j, h.cx cn j]

theorem Settles.steady (h : Settles s t) : Steady s t :=
  ⟨by rw [h.rest], by rw [h.rest], by rw [h.rest], h.launches, h.job, h.cx⟩

/-- A change of one core that keeps its contexts and its launch. -/
theorem Steady.modCore (s : State) (cn : Nat) {f : Core → Core} (hjob : (f (s.core cn)).job = (s.core cn).job)
    (hctx : (f (s.core cn)).ctx = (s.core cn).ctx) : Steady s (s.modCore cn f) := by
  refine ⟨rfl, rfl, rfl, rfl, fun j => ?_, fun j k => ?_⟩
  · by_cases h : j = cn
    · subst h; rw [State.core_modCore_same, hjob]
    · rw [State.core_modCore_other _ _ h]
  · by_cases h : j = cn
    · subst h; rw [State.core_modCore_same, Core.cx, hctx]; rfl
    · rw [State.core_modCore_other _ _ h]

/-- A message placed at a, and taken. -/
theorem State.writeInbox_eq (s : State) (cn : Nat) (m : Msg) (a : Nat) :
    s.writeInbox cn m a = (s.modCore cn fun c => c.placeMsg m a).taken cn m := by
  delta State.writeInbox Core.placeMsg; rfl

theorem Steady.writeInbox (s : State) (cn : Nat) (m : Msg) (a : Nat) : Steady s (s.writeInbox cn m a) := by
  rw [State.writeInbox_eq]
  exact (Steady.modCore s cn (by rw [Core.placeMsg_eq]) (by rw [Core.placeMsg_eq])).trans (Settles.taken _ _ _).steady

theorem Steady.placeFirst (s : State) (cn ch : Nat) : Steady s (s.placeFirst cn ch) := by
  unfold State.placeFirst
  dsimp only
  split
  · exact Steady.refl s
  · next m _ =>
    have herase : Steady s (s.modCore cn fun c => { c with inbuf := c.inbuf.erase m }) := Steady.modCore s cn rfl rfl
    split
    · exact herase.trans (Steady.writeInbox _ _ _ _)
    · exact herase.trans ((Settles.async _ _ _).trans (Settles.taken _ _ _)).steady
    · exact Steady.refl s
    · exact (Settles.async _ _ _).steady

theorem Steady.placeHeld (s : State) (cn ch n : Nat) : Steady s (s.placeHeld cn ch n) := by
  induction n generalizing s with
  | zero => exact Steady.refl s
  | succ n ih =>
    unfold State.placeHeld
    dsimp only
    split
    · exact Steady.refl s
    · split
      · exact (Steady.placeFirst s cn ch).trans (ih _)
      · exact (Steady.placeFirst s cn ch).trans (ih _)
      · exact Steady.placeFirst s cn ch
      · exact Steady.refl s

theorem Steady.placeAll (s : State) (cn : Nat) (chs : List Nat) : Steady s (s.placeAll cn chs) := by
  unfold State.placeAll
  induction chs generalizing s with
  | nil => exact Steady.refl s
  | cons ch chs ih => exact (Steady.placeHeld s cn ch _).trans (ih _)

/-- Where no message is held, none is placed. -/
theorem State.placeAll_empty (h : (s.core cn).inbuf = []) (chs : List Nat) : s.placeAll cn chs = s := by
  induction chs with
  | nil => rfl
  | cons ch chs ih =>
    have hone : s.placeHeld cn ch (s.core cn).inbuf.length = s := by rw [h]; rfl
    rw [State.placeAll, List.foldl_cons, hone]; exact ih

/-! ### Traces and replay logs (R423, R426) -/

theorem find?_map_unfaulted (p : Launch → Bool) (hp : ∀ l, p l.unfaulted = p l) (ls : List Launch) :
    (ls.map Launch.unfaulted).find? p = (ls.find? p).map Launch.unfaulted := by
  rw [List.find?_map]
  congr 2
  exact funext hp

theorem Steady.launchOf (h : Steady s t) (cn : Nat) : (t.launchOf cn).map Launch.unfaulted = (s.launchOf cn).map Launch.unfaulted := by
  unfold State.launchOf
  rw [h.job]
  split
  · unfold State.launch?
    rw [← find?_map_unfaulted _ fun _ => rfl, ← find?_map_unfaulted _ fun _ => rfl, h.launches]
  · rfl

theorem State.replayLog_eq (s : State) (cn : Nat) :
    s.replayLog cn = (((s.launchOf cn).map Launch.unfaulted).map fun l => l.replayLog cn).getD (0, 0, 0) := by
  unfold State.replayLog
  cases s.launchOf cn <;> rfl

theorem Steady.unlogged (h : Steady s t) (hu : Unlogged s cn) : Unlogged t cn := by
  obtain ⟨htrace, hlog⟩ := hu
  have hpart : t.partOf cn = s.partOf cn := by unfold State.partOf; rw [h.job]
  refine ⟨?_, ?_⟩
  · unfold State.debugOf at htrace ⊢; rw [hpart, h.debugBlocks]; exact htrace
  · rw [State.replayLog_eq] at hlog ⊢; rw [h.launchOf]; exact hlog

theorem State.launchOf_modCore (s : State) (cn : Nat) {f : Core → Core} (h : (f (s.core cn)).job = (s.core cn).job) :
    (s.modCore cn f).launchOf cn = s.launchOf cn := by
  unfold State.launchOf
  rw [State.core_modCore_same, h]; rfl

/-- A change of the core that keeps its launch. -/
theorem Unlogged.modCore (h : Unlogged s cn) {f : Core → Core} (hjob : (f (s.core cn)).job = (s.core cn).job) :
    Unlogged (s.modCore cn f) cn := by
  have hpart : (s.modCore cn f).partOf cn = s.partOf cn := by unfold State.partOf; rw [State.core_modCore_same, hjob]
  refine ⟨?_, ?_⟩
  · rw [hpart]; exact h.1
  · unfold State.replayLog; rw [State.launchOf_modCore s cn hjob]; exact h.2

/-- Outside replay mode no activation differs from a log. -/
theorem Unlogged.diverges (h : Unlogged s cn) (a : Activation) : s.diverges cn a = false := by
  unfold State.diverges
  dsimp only
  rw [h.2]; rfl

theorem Unlogged.writeTrace (h : Unlogged s cn) (dws : List Word) : s.writeTrace (s.partOf cn) dws = s := by
  unfold State.writeTrace
  dsimp only
  rw [h.1]; rfl

/-- The trace of an activation start that is not written (R423). -/
theorem Unlogged.traceStart (h : Unlogged s cn) (a : Activation) : s.traceStart cn a = s ∨
    s.traceStart cn a = s.modCore cn fun c => { c with control := { c.control with traced := s.coreState cn } } := by
  unfold State.traceStart
  dsimp only
  split
  · exact .inl rfl
  · exact .inr (Unlogged.writeTrace (Unlogged.modCore h rfl) _)

/-- An activation that is neither traced nor logged is counted, and nothing else. -/
theorem Unlogged.logActivation (h : Unlogged s cn) (a : Activation) :
    ∃ f : Control → Control, s.logActivation cn a = s.modCore cn fun c => { c with control := f c.control } := by
  have hmode : (s.replayLog cn).1 = 0 := by rw [h.2]
  unfold State.logActivation
  dsimp only
  rw [hmode, if_neg (by simp)]
  rcases Unlogged.traceStart h a with ht | ht <;> rw [ht]
  · exact ⟨fun x => { x with acts := (s.core cn).control.acts + 1, replay := x.replay + 1 }, rfl⟩
  · rw [State.modCore_modCore]
    exact ⟨fun x => { x with traced := s.coreState cn, acts := ((s.modCore cn fun c =>
      { c with control := { c.control with traced := s.coreState cn } }).core cn).control.acts + 1, replay := x.replay + 1 }, rfl⟩

end Sys2Proof.Machine
end

section
/-! SUPPORT. The arrival of a message at a core (R33 to R35), and the placement of the first message of a channel, by where it goes. -/

namespace Sys2Proof.Machine

variable {s v : State} {cn ch : Nat} {m : Msg}

/-! ### A message written into its inbox -/

/-- In t message m stands at ad as the last one placed at core cn, and memory is that of s otherwise but for status doublewords. -/
def PlacedAt (s t : State) (cn : Nat) (m : Msg) (ad : Nat) : Prop :=
  (t.core cn).placed = (s.core cn).placed ++ [(ad, m)] ∧ Holds (t.core cn).mem ad m.bytes ∧
  (∀ b, b < 0x800 ∨ 0x1000 ≤ b ∨ b % 32 < 24 → b < ad ∨ ad + m.bytes.length ≤ b →
    Memory.byte (t.core cn).mem b = Memory.byte (s.core cn).mem b) ∧
  (t.core cn).pend m.chan = ((t.core cn).placed.filter fun e => e.2.chan == m.chan).length % 65536 ∧
  (t.core cn).writePtr m.chan = (ad + slotSize m.bytes.length) % 2 ^ 22 ∧ t.gmem = s.gmem

theorem Settles.writeInbox (s : State) (cn : Nat) (m : Msg) (a : Nat) :
    Settles (s.modCore cn fun c => c.placeMsg m a) (s.writeInbox cn m a) := by
  rw [State.writeInbox_eq]; exact Settles.taken _ _ _

theorem inbuf_writeInbox (s : State) (cn : Nat) (m : Msg) (a : Nat) :
    ((s.writeInbox cn m a).core cn).inbuf = (s.core cn).inbuf ∧ ((s.writeInbox cn m a).core cn).arrivals = (s.core cn).arrivals := by
  have h := Settles.writeInbox s cn m a
  rw [h.inbuf, h.arrivals, State.core_modCore_same, Core.placeMsg_eq]
  exact ⟨rfl, rfl⟩

/-- A message written where the inbox of its channel has a place. -/
theorem placedAt_writeInbox {a : Nat} (hmem : (v.core cn).mem = (s.core cn).mem) (hplaced : (v.core cn).placed = (s.core cn).placed)
    (hgmem : v.gmem = s.gmem) (ha : 0x2000 ≤ a) (hch : m.chan < 64) : PlacedAt s (v.writeInbox cn m a) cn m a := by
  have h := Settles.writeInbox v cn m a
  obtain ⟨hholds, hframe⟩ := Core.placeMsg_mem (v.core cn) ha hch
  obtain ⟨hpend, hwp⟩ := Core.placeMsg_status (v.core cn) m a
  unfold PlacedAt
  rw [h.mem, h.placed, h.pend, h.writePtr, h.gmem, State.core_modCore_same, ← hmem, ← hplaced, ← hgmem]
  exact ⟨by rw [Core.placeMsg_eq], hholds, hframe, hpend, hwp, rfl⟩

/-! ### The first message of a channel, by its placement -/

section
variable (hfirst : (s.core cn).inbuf.find? (fun m => m.chan == ch) = some m)
include hfirst

theorem placeFirst_of_at {a : Nat} (h : (s.core cn).placement ch m.bytes.length = .at_ a) :
    s.placeFirst cn ch = (s.modCore cn fun c => { c with inbuf := c.inbuf.erase m }).writeInbox cn m a := by
  unfold State.placeFirst
  simp only [hfirst, h]

theorem placeFirst_of_undeliverable (h : (s.core cn).placement ch m.bytes.length = .undeliverable) :
    s.placeFirst cn ch = ((s.modCore cn fun c => { c with inbuf := c.inbuf.erase m }).async cn (msgRec 0x14 m)).taken cn m := by
  unfold State.placeFirst
  simp only [hfirst, h]

theorem placeFirst_of_held (h : (s.core cn).placement ch m.bytes.length = .held) : s.placeFirst cn ch = s := by
  unfold State.placeFirst
  simp only [hfirst, h]

theorem placeFirst_of_badEntry (h : (s.core cn).placement ch m.bytes.length = .badEntry) :
    s.placeFirst cn ch = s.async cn { cause := 0xA7, addr := m.src, info0 := ch, info1 := m.bytes.length } := by
  unfold State.placeFirst
  simp only [hfirst, h]

/-- A message whose channel has a place is placed there, and leaves the input buffer. -/
theorem placeFirst_places {a : Nat} (h : (s.core cn).placement ch m.bytes.length = .at_ a) (hch : m.chan < 64) :
    PlacedAt s (s.placeFirst cn ch) cn m a ∧ ((s.placeFirst cn ch).core cn).inbuf = (s.core cn).inbuf.erase m ∧
    ((s.placeFirst cn ch).core cn).arrivals = (s.core cn).arrivals := by
  rw [placeFirst_of_at hfirst h]
  refine ⟨placedAt_writeInbox ?_ ?_ rfl (Core.placement_general h) hch, ?_⟩
  · rw [State.core_modCore_same]
  · rw [State.core_modCore_same]
  · rw [(inbuf_writeInbox _ _ _ _).1, (inbuf_writeInbox _ _ _ _).2, State.core_modCore_same]; exact ⟨rfl, rfl⟩

/-- An uncorrectable entry is reported, and nothing else changes (R68). -/
theorem placeFirst_reports (h : (s.core cn).placement ch m.bytes.length = .badEntry) :
    Settles s (s.placeFirst cn ch) ∧
    (((s.core cn).trap.queue.filter fun q => !keptCause q.cause).length < 12 → Queued s (s.placeFirst cn ch) cn 0xA7) := by
  rw [placeFirst_of_badEntry hfirst h]
  exact ⟨Settles.async _ _ _, queued_async _ _ _ rfl⟩

end

/-! ### A message that enters the input buffer -/

/-- The message as it enters the input buffer. -/
def State.buffer (s : State) (cn : Nat) (m : Msg) : State :=
  s.modCore cn fun c => { c with inbuf := c.inbuf ++ [{ m with arrival := c.arrivals }], arrivals := c.arrivals + 1 }

/-- The core after that. -/
theorem core_buffer (s : State) (cn : Nat) (m : Msg) : (s.buffer cn m).core cn =
    { s.core cn with inbuf := (s.core cn).inbuf ++ [{ m with arrival := (s.core cn).arrivals }], arrivals := (s.core cn).arrivals + 1 } :=
  State.core_modCore_same _ _ _

theorem MemSame.trans {t u : State} (h : MemSame s t) (k : MemSame t u) : MemSame s u :=
  ⟨fun j b => (k.1 j b).trans (h.1 j b), fun b => (k.2 b).trans (h.2 b)⟩

theorem memSame_modCore (s : State) (cn : Nat) {f : Core → Core} (h : (f (s.core cn)).mem = (s.core cn).mem) : MemSame s (s.modCore cn f) := by
  refine ⟨fun j a => ?_, fun _ => rfl⟩
  by_cases hj : j = cn
  · subst hj; rw [State.core_modCore_same, h]
  · rw [State.core_modCore_other _ _ hj]

theorem memSame_buffer (s : State) (cn : Nat) (m : Msg) : MemSame s (s.buffer cn m) := memSame_modCore s cn rfl

theorem arrive_of_ended (h : (s.core cn).part = .ended) : s.arrive cn m = (s.async cn (msgRec 0x13 m)).taken cn m := by
  unfold State.arrive
  simp only [h, BEq.rfl, Bool.true_or, if_true]

section
variable (hnone : (s.core cn).part ≠ .none) (hended : (s.core cn).part ≠ .ended) (hstop : (s.core cn).control.dstop = false)
  (halone : ∀ e ∈ (s.core cn).inbuf, e.chan ≠ m.chan)
include hnone hended hstop halone

/-- A message of a channel that holds none before it is placed at once. -/
theorem arrive_of_alone : s.arrive cn m = (s.buffer cn m).placeFirst cn m.chan := by
  have hpart : ((s.core cn).part == .ended || (s.core cn).part == .none) = false := by simp [hnone, hended]
  have hwaits : ((s.core cn).inbuf.any fun q => q.chan == m.chan) = false := by simpa using halone
  unfold State.arrive
  simp only [hpart, hwaits, hstop, Bool.or_self, Bool.false_eq_true, if_false]
  rfl

omit hnone hended hstop in
theorem find?_buffer : ((s.buffer cn m).core cn).inbuf.find? (fun q => q.chan == m.chan) = some { m with arrival := (s.core cn).arrivals } := by
  have hbefore : (s.core cn).inbuf.find? (fun q => q.chan == m.chan) = none := by simpa using halone
  rw [core_buffer, List.find?_append, hbefore]
  simp

omit hnone hended hstop in
theorem erase_buffer : ((s.buffer cn m).core cn).inbuf.erase { m with arrival := (s.core cn).arrivals } = (s.core cn).inbuf := by
  have hfresh : { m with arrival := (s.core cn).arrivals } ∉ (s.core cn).inbuf := fun h => halone _ h rfl
  rw [core_buffer, List.erase_append_right _ hfresh, List.erase_cons_head, List.append_nil]

/-- The message is placed where its channel's mode gives a place (R33). -/
theorem arrive_places {a : Nat} (h : (s.core cn).placement m.chan m.bytes.length = .at_ a) (hch : m.chan < 64) :
    PlacedAt s (s.arrive cn m) cn { m with arrival := (s.core cn).arrivals } a ∧ ((s.arrive cn m).core cn).inbuf = (s.core cn).inbuf ∧
    ((s.arrive cn m).core cn).arrivals = (s.core cn).arrivals + 1 := by
  have hplace : ((s.buffer cn m).core cn).placement m.chan m.bytes.length = .at_ a := by rw [core_buffer]; exact h
  obtain ⟨hplaced, hinbuf, harrivals⟩ := placeFirst_places (find?_buffer halone) hplace hch
  rw [arrive_of_alone hnone hended hstop halone]
  refine ⟨?_, ?_, ?_⟩
  · unfold PlacedAt at hplaced ⊢
    rw [core_buffer] at hplaced
    exact hplaced
  · rw [hinbuf]; exact erase_buffer halone
  · rw [harrivals, core_buffer]

/-- A message without a place stays in the input buffer (R34). -/
theorem arrive_holds (h : (s.core cn).placement m.chan m.bytes.length = .held) :
    ((s.arrive cn m).core cn).inbuf = (s.core cn).inbuf ++ [{ m with arrival := (s.core cn).arrivals }] ∧
    ((s.arrive cn m).core cn).placed = (s.core cn).placed ∧ MemSame s (s.arrive cn m) := by
  have hplace : ((s.buffer cn m).core cn).placement m.chan m.bytes.length = .held := by rw [core_buffer]; exact h
  rw [arrive_of_alone hnone hended hstop halone, placeFirst_of_held (find?_buffer halone) hplace]
  exact ⟨by rw [core_buffer], by rw [core_buffer], memSame_buffer s cn m⟩

/-- A message whose handler table entry is bad stays, and the entry is reported (R68). -/
theorem arrive_reports (h : (s.core cn).placement m.chan m.bytes.length = .badEntry) :
    ((s.arrive cn m).core cn).inbuf = (s.core cn).inbuf ++ [{ m with arrival := (s.core cn).arrivals }] ∧
    ((s.arrive cn m).core cn).placed = (s.core cn).placed ∧ MemSame s (s.arrive cn m) ∧
    (((s.core cn).trap.queue.filter fun q => !keptCause q.cause).length < 12 → Queued s (s.arrive cn m) cn 0xA7) := by
  have hplace : ((s.buffer cn m).core cn).placement m.chan m.bytes.length = .badEntry := by rw [core_buffer]; exact h
  obtain ⟨hsettles, hqueued⟩ := placeFirst_reports (find?_buffer halone) hplace
  rw [arrive_of_alone hnone hended hstop halone]
  refine ⟨?_, ?_, MemSame.trans (memSame_buffer s cn m) hsettles.memSame, fun hroom => ?_⟩
  · rw [hsettles.inbuf, core_buffer]
  · rw [hsettles.placed, core_buffer]
  · unfold Queued at hqueued ⊢
    rw [core_buffer] at hqueued
    exact hqueued hroom

/-- An undeliverable message is discarded (R35). -/
theorem arrive_discards (h : (s.core cn).placement m.chan m.bytes.length = .undeliverable) :
    ((s.arrive cn m).core cn).inbuf = (s.core cn).inbuf ∧ ((s.arrive cn m).core cn).placed = (s.core cn).placed ∧
    MemSame s (s.arrive cn m) := by
  have hplace : ((s.buffer cn m).core cn).placement m.chan m.bytes.length = .undeliverable := by rw [core_buffer]; exact h
  rw [arrive_of_alone hnone hended hstop halone, placeFirst_of_undeliverable (find?_buffer halone) hplace]
  have hsettles : Settles ((s.buffer cn m).modCore cn fun c => { c with inbuf := c.inbuf.erase { m with arrival := (s.core cn).arrivals } })
      ((((s.buffer cn m).modCore cn fun c => { c with inbuf := c.inbuf.erase { m with arrival := (s.core cn).arrivals } }).async cn
        (msgRec 0x14 { m with arrival := (s.core cn).arrivals })).taken cn { m with arrival := (s.core cn).arrivals }) :=
    (Settles.async _ _ _).trans (Settles.taken _ _ _)
  refine ⟨?_, ?_, MemSame.trans (memSame_buffer s cn m) (MemSame.trans (memSame_modCore _ cn rfl) hsettles.memSame)⟩
  · rw [hsettles.inbuf, State.core_modCore_same]; exact erase_buffer halone
  · rw [hsettles.placed, State.core_modCore_same, core_buffer]

end

end Sys2Proof.Machine
end

section
/-! SUPPORT. The selection of a handler (R37), and the events at a core's inboxes: O43. -/

namespace Sys2Proof.Machine

variable {s : State} {cn : Nat}

/-! ### Taking a message (R37, R243) -/

/-- The core with message m of channel ch given to context k, before its status doubleword follows. -/
def Core.taking (c : Core) (k ch a : Nat) (m : Msg) (r : Bool) : Core :=
  { c with placed := c.placed.erase (a, m) }.modCx k fun x =>
    { x with slot := if r then x.slot else some ⟨ch, a, slotSize m.bytes.length⟩,
             rslot := if r then some ⟨ch, a, slotSize m.bytes.length⟩ else x.rslot, q1 := dwords m.bytes }

theorem Core.takeMsg_taking (c : Core) (k ch a : Nat) (m : Msg) (r : Bool) :
    c.takeMsg k ch a m r = (c.taking k ch a m r).setStatus ch (c.writePtr ch) := by
  delta Core.takeMsg Core.taking; rfl

theorem Core.takeMsg_eq (c : Core) (k ch a : Nat) (m : Msg) (r : Bool) :
    c.takeMsg k ch a m r = { c.taking k ch a m r with mem := (c.takeMsg k ch a m r).mem } := by
  rw [Core.takeMsg_taking, Core.setStatus_eq]

theorem Core.sameButStatus_takeMsg (c : Core) {k ch a : Nat} {m : Msg} {r : Bool} (hch : ch < 64) :
    SameButStatus c.mem (c.takeMsg k ch a m r).mem := by
  rw [Core.takeMsg_taking]
  exact Core.sameButStatus_setStatus (c.taking k ch a m r) (c.writePtr ch) hch

theorem Core.cx_takeMsg (c : Core) (k ch a : Nat) (m : Msg) (r : Bool) (j : Nat) : (c.takeMsg k ch a m r).cx j = (c.taking k ch a m r).cx j := by
  have hctx : (c.takeMsg k ch a m r).ctx = (c.taking k ch a m r).ctx := by rw [Core.takeMsg_eq]
  unfold Core.cx; rw [hctx]

theorem Core.cx_takeMsg_same (c : Core) (k ch a : Nat) (m : Msg) (r : Bool) : (c.takeMsg k ch a m r).cx k =
    { c.cx k with slot := if r then (c.cx k).slot else some ⟨ch, a, slotSize m.bytes.length⟩,
                  rslot := if r then some ⟨ch, a, slotSize m.bytes.length⟩ else (c.cx k).rslot, q1 := dwords m.bytes } := by
  rw [Core.cx_takeMsg, Core.taking, Core.cx_modCx_same]; rfl

theorem Core.cx_takeMsg_other (c : Core) {k j : Nat} (ch a : Nat) (m : Msg) (r : Bool) (h : j ≠ k) : (c.takeMsg k ch a m r).cx j = c.cx j := by
  rw [Core.cx_takeMsg, Core.taking, Core.cx_modCx_other _ _ h]; rfl

/-! ### Selections (R37) -/

/-- The activation context as a selection starts it on a message of channel ch with priority p. -/
def Core.handlerCx (c : Core) (p ch a : Nat) (m : Msg) (schk : Bool) (x : Ctx) : Ctx :=
  { freshCtx x (.ofNat 64 (c.entryPc ch)) (.ofNat 64 a) (.ofNat 64 m.bytes.length) m.src (.ofNat 64 m.tag) schk with
    kind := 1, pri := .ofNat 2 p, chan := .ofNat 6 ch }.count 2

/-- The core after the selection of message m of channel ch for context k. -/
def Core.selected (c : Core) (p k ch a : Nat) (m : Msg) (schk : Bool) : Core :=
  ({ c with ptr := SMap.put c.ptr p ((ch + 1) % 64) }.modCx k fun x => c.handlerCx p ch a m schk x).takeMsg k ch a m false

/-- The chosen channel is one of 64. -/
theorem Core.choose_lt {c : Core} {ch : Nat} (h : c.choose = some ch) : ch < 64 := by
  obtain ⟨p, -, hp⟩ := List.exists_of_findSome?_eq_some h
  obtain ⟨j, -, hj⟩ := List.mem_map.1 (List.mem_of_find?_eq_some hp)
  omega

theorem Core.cx_selected_same (c : Core) (p k ch a : Nat) (m : Msg) (schk : Bool) : (c.selected p k ch a m schk).cx k =
    { c.handlerCx p ch a m schk (c.cx k) with slot := some ⟨ch, a, slotSize m.bytes.length⟩, q1 := dwords m.bytes } := by
  rw [Core.selected, Core.cx_takeMsg_same, Core.cx_modCx_same]; rfl

theorem Core.cx_selected_other (c : Core) {k j : Nat} (p ch a : Nat) (m : Msg) (schk : Bool) (h : j ≠ k) :
    (c.selected p k ch a m schk).cx j = c.cx j := by
  rw [Core.selected, Core.cx_takeMsg_other _ _ _ _ _ h, Core.cx_modCx_other _ _ h]; rfl

theorem Core.job_selected (c : Core) (p k ch a : Nat) (m : Msg) (schk : Bool) : (c.selected p k ch a m schk).job = c.job := by
  rw [Core.selected, Core.takeMsg_eq]; rfl

theorem Core.sameButStatus_selected (c : Core) {p k ch a : Nat} {m : Msg} {schk : Bool} (hch : ch < 64) :
    SameButStatus c.mem (c.selected p k ch a m schk).mem := by
  have h := Core.sameButStatus_takeMsg ({ c with ptr := SMap.put c.ptr p ((ch + 1) % 64) }.modCx k fun x => c.handlerCx p ch a m schk x)
    (k := k) (a := a) (m := m) (r := false) hch
  delta Core.selected
  exact h

/-- A selection that is not traced, logged or compared, of a channel whose entry is good. -/
theorem select_eq {ch k a : Nat} {m : Msg} (hch : (s.core cn).choose = some ch) (hk : (s.core cn).freeCtx = some k)
    (hm : (s.core cn).oldest ch = some (a, m)) (hgood : (s.core cn).badIn (0x800 + 32 * ch) 32 = false) (hu : Unlogged s cn) :
    ∃ f : Control → Control, s.select cn = s.modCore cn fun c => { c.selected ((s.core cn).chanPri ch) k ch a m (s.schkOf cn) with control := f c.control } := by
  have hut : Unlogged (s.modCore cn fun c => { c with control := { c.control with chosen := true } }) cn := Unlogged.modCore hu rfl
  have hschk : (s.modCore cn fun c => { c with control := { c.control with chosen := true } }).schkOf cn = s.schkOf cn :=
    congrArg (fun l => (l.map (·.schk)).getD false) (State.launchOf_modCore s cn rfl)
  have hcore := State.core_modCore_same s cn fun c => { c with control := { c.control with chosen := true } }
  generalize ht : (s.modCore cn fun c => { c with control := { c.control with chosen := true } }) = t at hut hschk hcore
  obtain ⟨f, hf⟩ := Unlogged.logActivation (s := t.modCore cn fun c => c.selected ((s.core cn).chanPri ch) k ch a m (t.schkOf cn)) (cn := cn) (Unlogged.modCore hut (Core.job_selected _ _ _ _ _ _ _))
    ⟨k, 0, ch, m.tag, m.src, (t.core cn).entryPc ch, payloadHash m.tag m.bytes⟩
  refine ⟨fun x => f { x with chosen := true }, ?_⟩
  have hselect : s.select cn = (t.modCore cn fun c => c.selected ((s.core cn).chanPri ch) k ch a m (t.schkOf cn)).logActivation cn
      ⟨k, 0, ch, m.tag, m.src, (t.core cn).entryPc ch, payloadHash m.tag m.bytes⟩ := by
    have h1 : (t.core cn).choose = some ch := by rw [hcore]; exact hch
    have h2 : (t.core cn).freeCtx = some k := by rw [hcore]; exact hk
    have h3 : (t.core cn).oldest ch = some (a, m) := by rw [hcore]; exact hm
    have h4 : (t.core cn).badIn (0x800 + 32 * ch) 32 = false := by rw [hcore]; exact hgood
    have hpri : (t.core cn).chanPri ch = (s.core cn).chanPri ch := by rw [hcore]; rfl
    unfold State.select
    simp only [ht, h1, h2, h3, h4, Unlogged.diverges hut, Bool.false_eq_true, if_false]
    delta Core.selected Core.handlerCx
    rw [hpri]
  rw [hselect, hf, hschk, State.modCore_modCore, ← ht, State.modCore_modCore]
  rfl

/-! ### The registers of a fresh context (R24) -/

theorem rg_freshCtx (old : Ctx) (pc g1 g2 g3 g4 : Word) (schk : Bool) :
    let x := freshCtx old pc g1 g2 g3 g4 schk
    x.rg 1 = g1 ∧ x.rg 2 = g2 ∧ x.rg 3 = g3 ∧ x.rg 4 = g4 ∧ ∀ n, 4 < n → x.rg n = 0 := by
  refine ⟨rfl, rfl, rfl, rfl, fun n hn => ?_⟩
  unfold Ctx.rg freshCtx
  rw [if_neg (by omega)]
  simp only [SMap.get]
  rw [if_neg (by omega), if_neg (by omega), if_neg (by omega), if_neg (by omega)]

/-! ### The arrival of a message as an event -/

theorem cores_takePacket (s : State) (i : Nat) (p : Packet) : (s.takePacket i p).cores = s.cores := by
  unfold State.takePacket
  dsimp only
  split
  · split <;> rfl
  · rfl

theorem gmem_takePacket (s : State) (i : Nat) (p : Packet) : (s.takePacket i p).gmem = s.gmem := by
  unfold State.takePacket
  dsimp only
  split
  · split <;> rfl
  · rfl

theorem core_takePacket (s : State) (i : Nat) (p : Packet) (j : Nat) : (s.takePacket i p).core j = s.core j := by
  unfold State.core; rw [cores_takePacket]

theorem memSame_takePacket (s : State) (i : Nat) (p : Packet) : MemSame s (s.takePacket i p) :=
  ⟨fun j b => by rw [core_takePacket], fun b => by rw [gmem_takePacket]⟩

section
variable {i : Nat} {p : Packet} {m : Msg} (hpacket : s.packet i = some p) (hbody : p.body = .message m) (hhome : p.home = .core cn)
  (hremote : p.remote = none) (hroom : s.inbufRoom cn m = true)
  (hfirst : ∀ e ∈ s.net, e.1 < i → e.2.message? m.chan = true → e.2.cn = p.cn → e.2.ctx = p.ctx → e.2.home = p.home → e.2.remote = none → False)
include hremote hroom hfirst

/-- A message with room in the input buffer and none in flight before it does not wait (R34, R116). -/
theorem messageWaits_false : s.messageWaits i cn p m = false := by
  unfold State.messageWaits
  rw [Bool.or_eq_false_iff, Bool.or_eq_false_iff, List.any_eq_false, List.any_eq_false]
  refine ⟨⟨by rw [hroom]; rfl, fun e he hbefore => ?_⟩, fun q _ hflow => ?_⟩
  · rw [Bool.and_eq_true, Bool.and_eq_true, Bool.and_eq_true, decide_eq_true_eq, beq_iff_eq, beq_iff_eq] at hbefore
    obtain ⟨⟨⟨hlt, hsame⟩, hcn⟩, hmessage⟩ := hbefore
    split at hmessage
    · next q hq =>
      simp only [hremote, Option.isSome_none, Bool.false_eq_true, if_false, Bool.and_eq_true, Option.isNone_iff_eq_none, beq_iff_eq] at hmessage
      obtain ⟨⟨hlocal, hchan⟩, hctx⟩ := hmessage
      exact hfirst e he hlt (by rw [Packet.message?, hq]; simp [hchan]) hcn hctx hsame hlocal
    · exact Bool.false_ne_true hmessage
  · rw [hremote] at hflow
    split at hflow <;> simp at hflow

include hpacket hbody hhome in
theorem exec_messageArrival (hdoor : s.door p cn ≠ .hold) : exec (.messageArrival i) s = .next ((s.takePacket i p).arrive cn m) := by
  have hopen : (s.door p cn == .hold) = false := by simpa using hdoor
  show execMessageArrival i s = _
  unfold execMessageArrival
  simp only [hpacket, hbody, hhome, messageWaits_false hremote hroom hfirst, hremote, hopen, Bool.false_eq_true, if_false]

end

/-- A change of one core changes that core alone. -/
theorem onlyCore_modCore (s : State) (cn : Nat) (f : Core → Core) : OnlyCore s (s.modCore cn f) cn := by
  unfold OnlyCore; rw [State.core_modCore_same]; rfl

theorem Core.cx_setControl (c : Core) (x : Control) (k : Nat) : ({ c with control := x } : Core).cx k = c.cx k := rfl

theorem exec_heldMessagePlacement {cn : CoreNo} {ch : BitVec 6} {m : Msg}
    (hfirst : (s.core cn.toNat).inbuf.find? (fun m => m.chan == ch.toNat) = some m) (hstop : (s.core cn.toNat).control.dstop = false)
    (hplace : (∃ a, (s.core cn.toNat).placement ch.toNat m.bytes.length = .at_ a) ∨
      (s.core cn.toNat).placement ch.toNat m.bytes.length = .badEntry) :
    exec (.heldMessagePlacement cn ch) s = .next (s.placeFirst cn.toNat ch.toNat) := by
  show execHeldMessagePlacement cn ch s = _
  unfold execHeldMessagePlacement
  rcases hplace with ⟨a, h⟩ | h <;> simp only [hfirst, hstop, h]

/-- What a selection leaves: the context on its message, the message out of the pending ones, everything else but status doublewords. -/
theorem selection_answers {cn : CoreNo} {ch k a : Nat} {m : Msg} (hdue : (s.core cn.toNat).selectionDue = true)
    (hch : (s.core cn.toNat).choose = some ch) (hk : (s.core cn.toNat).freeCtx = some k) (hm : (s.core cn.toNat).oldest ch = some (a, m))
    (hgood : (s.core cn.toNat).badIn (0x800 + 32 * ch) 32 = false) (hu : Unlogged s cn.toNat) :
    Answers (.selection cn) s fun t =>
      (t.core cn.toNat).cx k = { (s.core cn.toNat).handlerCx ((s.core cn.toNat).chanPri ch) ch a m (s.schkOf cn.toNat) ((s.core cn.toNat).cx k) with
        slot := some ⟨ch, a, slotSize m.bytes.length⟩, q1 := dwords m.bytes } ∧
      (t.core cn.toNat).placed = (s.core cn.toNat).placed.erase (a, m) ∧
      (t.core cn.toNat).ptr = SMap.put (s.core cn.toNat).ptr ((s.core cn.toNat).chanPri ch) ((ch + 1) % 64) ∧
      (∀ j, j ≠ k → (t.core cn.toNat).cx j = (s.core cn.toNat).cx j) ∧
      SameButStatus (s.core cn.toNat).mem (t.core cn.toNat).mem ∧ OnlyCore s t cn.toNat := by
  obtain ⟨f, hselect⟩ := select_eq hch hk hm hgood hu
  have hexec : exec (.selection cn) s = .next (s.select cn.toNat) := by
    show execSelection cn s = _
    unfold execSelection; rw [if_pos hdue]
  refine ⟨_, hexec, ?_⟩
  rw [hselect]
  simp only [State.core_modCore_same]
  refine ⟨?_, ?_, ?_, fun j hj => ?_, ?_, onlyCore_modCore _ _ _⟩
  · rw [Core.cx_setControl, Core.cx_selected_same]
  · rw [Core.selected, Core.takeMsg_eq]; rfl
  · rw [Core.selected, Core.takeMsg_eq]; rfl
  · rw [Core.cx_setControl, Core.cx_selected_other _ _ _ _ _ _ hj]
  · exact Core.sameButStatus_selected _ (Core.choose_lt hch)

/-- A host wake is latched by every context (R40). -/
theorem hostWake_answers {cn : CoreNo} (h : s.onMesh cn.toNat = true) : Answers (.hostWake cn) s fun t =>
    OnlyCore s t cn.toNat ∧ (t.core cn.toNat).mem = (s.core cn.toNat).mem ∧
    ∀ k < 12, ((t.core cn.toNat).cx k).latched = ((s.core cn.toNat).cx k).latched ||| 0x40 := by
  have hexec : exec (.hostWake cn) s = .next (s.modCore cn.toNat fun c => c.latch 6) := by
    show execHostWake cn s = _
    unfold execHostWake; rw [if_pos h]
  refine ⟨_, hexec, onlyCore_modCore _ _ _, ?_, fun k hk => ?_⟩
  · rw [State.core_modCore_same, Core.latch_eq]
  · rw [State.core_modCore_same, Core.cx_latch, if_pos hk]; rfl

/-- Settles O43: an arrival places, holds, reports or discards its message by the placement of its channel, a selection starts a context
on the message that it takes, and a host wake is a latched event. -/
theorem messageEvents : Obligations.MessageEvents := by
  unfold Obligations.MessageEvents
  intro i cn ch s
  dsimp only
  refine ⟨fun p m hpacket hbody hhome hremote hchan hfirst hroom => ⟨fun hdoor hnone hended hstop halone => ?_, fun hdoor hended => ?_⟩,
    fun m a hheld hstop hplace => ?_, fun m hheld hstop hplace => ?_, fun h k m a hdue hch hk hm hgood hu => ?_, hostWake_answers⟩
  · have hexec := exec_messageArrival hpacket hbody hhome hremote hroom hfirst (by rw [hdoor]; decide)
    have hcore := core_takePacket s i p cn.toNat
    have hgmem := gmem_takePacket s i p
    have hmem := memSame_takePacket s i p
    generalize s.takePacket i p = u at hexec hcore hgmem hmem
    rw [← hcore] at hnone hended hstop halone ⊢
    rw [← hgmem]
    refine ⟨fun a hplace => ⟨_, hexec, ?_⟩, fun hplace => ⟨_, hexec, ?_⟩, fun hplace => ⟨_, hexec, ?_⟩, fun hplace => ⟨_, hexec, ?_⟩⟩
    · exact arrive_places hnone hended hstop halone hplace hchan
    · obtain ⟨hinbuf, hplaced, hsame⟩ := arrive_holds hnone hended hstop halone hplace
      exact ⟨hinbuf, hplaced, MemSame.trans hmem hsame⟩
    · obtain ⟨hinbuf, hplaced, hsame, hqueued⟩ := arrive_reports hnone hended hstop halone hplace
      refine ⟨hinbuf, hplaced, MemSame.trans hmem hsame, fun hq => ?_⟩
      have hq' := hqueued hq
      unfold Queued at hq' ⊢
      rw [← hcore]; exact hq'
    · obtain ⟨hinbuf, hplaced, hsame⟩ := arrive_discards hnone hended hstop halone hplace
      exact ⟨hinbuf, hplaced, MemSame.trans hmem hsame⟩
  · have hexec := exec_messageArrival hpacket hbody hhome hremote hroom hfirst hdoor
    have hlate : (s.takePacket i p).arrive cn.toNat m = _ := arrive_of_ended (by rw [core_takePacket]; exact hended)
    have hsettles := (Settles.async (s.takePacket i p) cn.toNat (msgRec 0x13 m)).trans (Settles.taken _ cn.toNat m)
    refine ⟨_, hexec, ?_⟩
    rw [hlate]
    exact ⟨by rw [hsettles.inbuf, core_takePacket], by rw [hsettles.placed, core_takePacket],
      MemSame.trans (memSame_takePacket s i p) hsettles.memSame⟩
  · have hchan : m.chan = ch.toNat := by simpa using List.find?_some hheld
    obtain ⟨hplaced, hinbuf, -⟩ := placeFirst_places hheld hplace (by rw [hchan]; exact ch.isLt)
    exact ⟨_, exec_heldMessagePlacement hheld hstop (.inl ⟨a, hplace⟩), hplaced, hinbuf⟩
  · obtain ⟨hsettles, hqueued⟩ := placeFirst_reports hheld hplace
    exact ⟨_, exec_heldMessagePlacement hheld hstop (.inr hplace), hsettles.inbuf _, hsettles.placed _, hsettles.memSame, hqueued⟩
  · obtain ⟨t, hexec, hx, hplaced, hptr, hothers, hmem, honly⟩ := selection_answers hdue hch hk hm hgood hu
    obtain ⟨h1, h2, h3, h4, hrest⟩ := rg_freshCtx ((s.core cn.toNat).cx k) (.ofNat 64 ((s.core cn.toNat).entryPc h)) (.ofNat 64 a)
      (.ofNat 64 m.bytes.length) m.src (.ofNat 64 m.tag) (s.schkOf cn.toNat)
    have hpri : (s.core cn.toNat).chanPri h < 2 ^ 2 := fld_lt _ _ _
    refine ⟨t, hexec, ?_⟩
    dsimp only
    rw [hx]
    refine ⟨rfl, rfl, h1, h2, h3, h4, hrest, rfl, ?_, ?_, rfl, rfl, hplaced, ?_, hothers, hmem, honly⟩
    · exact (BitVec.toNat_ofNat _ _).trans (Nat.mod_eq_of_lt hpri)
    · exact (BitVec.toNat_ofNat _ _).trans (Nat.mod_eq_of_lt (Core.choose_lt hch))
    · rw [hptr, SMap.get_put_same]

end Sys2Proof.Machine
end

section
/-! SUPPORT. Receptions (R243): the slot that is given up, the channel that is chosen, and the message that is taken: O9. -/

namespace Sys2Proof.Machine

variable {s t u : State} {d : BitVec 5}

/-! ### Two results -/

/-- A result written before an instruction's other changes is one of its changes. -/
theorem changesRegs_writeG {w : Word} {l len : Nat} {keys : List Nat} (h : ChangesRegs (s.writeG d w l) t len keys) :
    ChangesRegs s t len (keyG d.toNat :: keys) := by
  obtain ⟨⟨ht, -⟩, hrest, ⟨hpc, hpfx, hwait⟩, ⟨hstat, hrnd⟩, hg, hv, hp, he, hb⟩ := h
  have hcx : (s.writeG d w l).cx = (s.cx.wg d.toNat w).written (keyG d.toNat) l := State.cx_modCx _ _
  have hs : t = s.modCx fun _ => t.cx := by
    rw [State.writeG, State.modCx_modCx] at ht; exact ht
  have honly : OnlyContext s t := by rw [hs]; exact onlyContext_modCx s _
  rw [hcx] at hrest hpc hpfx hstat hrnd
  refine ⟨honly, ?_, ⟨?_, ?_, hwait⟩, ⟨?_, ?_⟩, fun n hn => ?_, fun n hn => ?_, fun n hn => ?_, fun n hn => ?_, fun n hn => ?_⟩
  · unfold CtxRest at hrest ⊢
    rw [hrest]
    simp
  · rw [hpc]; simp
  · rw [hpfx]; simp [Ctx.pp]; rfl
  · rw [hstat]; simp
  · rw [hrnd]; simp
  · obtain ⟨(hd : n.toNat ≠ d.toNat), hn⟩ := List.mem_cons.not.1 hn |> not_or.1
    rw [hg n hn, State.writeG, readG_modCx, Ctx.rg_written, Ctx.rg_wg, if_neg hd]; rfl
  · obtain ⟨-, hn⟩ := List.mem_cons.not.1 hn |> not_or.1
    rw [hv n hn, State.writeG, readV_modCx]; simp; rfl
  · obtain ⟨-, hn⟩ := List.mem_cons.not.1 hn |> not_or.1
    rw [hp n hn, State.writeG, readP_modCx]; simp; rfl
  · obtain ⟨-, hn⟩ := List.mem_cons.not.1 hn |> not_or.1
    rw [he n hn, State.writeG, readE_modCx]; simp; rfl
  · obtain ⟨-, hn⟩ := List.mem_cons.not.1 hn |> not_or.1
    rw [hb n hn, State.writeG, readB_modCx]; simp; rfl

/-- The second register of an even pair. -/
theorem toNat_add_one_of_even (h : d.toNat % 2 = 0) : (d + 1).toNat = d.toNat + 1 := by
  have := d.isLt
  rw [BitVec.toNat_add]
  show (d.toNat + 1) % 32 = _
  omega

/-- Both halves of a result in an even pair of registers. -/
theorem pair_spec (s : State) (st : BitVec 3) (w w' : Word) (heven : d.toNat % 2 = 0) :
    ∃ t, ((s.writeG d w 0).writeG (d + 1) w' 0).done st = .next t ∧ t.readG d = (if d = 0 then 0 else w) ∧ t.readG (d + 1) = w' ∧
      ChangesRegs s t 4 [keyG d.toNat, keyG (d + 1).toNat] := by
  obtain ⟨t, hdone, hsecond, hchanges⟩ := result_spec (s.writeG d w 0) st (d + 1) w' 0
  have hnext := toNat_add_one_of_even heven
  have hodd : d + 1 ≠ 0 := fun h => by rw [h] at hnext; simp at hnext
  refine ⟨t, hdone, ?_, by rw [hsecond, if_neg hodd], changesRegs_writeG hchanges⟩
  obtain ⟨-, -, -, -, hg, -⟩ := hchanges
  rw [hg d (by rw [List.mem_singleton, hnext]; simp [keyG]), State.writeG, readG_modCx, Ctx.rg_written, Ctx.rg_wg, if_pos rfl]
  by_cases h : d = 0
  · subst h; rfl
  · rw [if_neg h, if_neg fun h0 => h (BitVec.eq_of_toNat_eq (by simpa using h0))]

/-! ### The channel that is chosen -/

/-- The channels of a set that a reception can take from. -/
theorem Core.mem_receivable (c : Core) (set ch : Nat) :
    ch ∈ c.receivable set ↔ ch < 64 ∧ set / 2 ^ ch % 2 = 1 ∧ c.pend ch ≠ 0 ∧ c.liveBit ch = false := by
  rw [Core.receivable, ones, List.mem_filter, List.mem_filter, List.mem_range]
  simp [and_assoc]

/-- The lowest-numbered of them. -/
theorem Core.head?_receivable {c : Core} {set ch : Nat} (hch : ch ∈ c.receivable set) (hlow : ∀ j < ch, j ∉ c.receivable set) :
    (c.receivable set).head? = some ch := by
  have hfilter : c.receivable set = (List.range 64).filter fun j => (c.pend j != 0 && !c.liveBit j) && set / 2 ^ j % 2 == 1 :=
    List.filter_filter
  rw [hfilter] at hch hlow ⊢
  rw [List.head?_filter, List.find?_range_eq_some]
  obtain ⟨hrange, hable⟩ := List.mem_filter.1 hch
  refine ⟨hable, hrange, fun j hj => ?_⟩
  have hj64 : j ∈ List.range 64 := List.mem_range.2 (hj.trans (List.mem_range.1 hrange))
  have hunable := fun h => hlow j hj (List.mem_filter.2 ⟨hj64, h⟩)
  rw [Bool.not_eq_true']; exact Bool.eq_false_iff.2 hunable

/-- One step of the search for the earliest arrival. -/
def earlier (best : Option (Nat × Nat)) (m : Nat × Msg) : Option (Nat × Nat) :=
  match best with
  | some (n, ch) => if m.2.arrival < n then some (m.2.arrival, m.2.chan) else some (n, ch)
  | none => some (m.2.arrival, m.2.chan)

theorem Core.earliest_eq (c : Core) (chs : List Nat) :
    c.earliest chs = ((c.placed.filter fun m => chs.contains m.2.chan).foldl earlier none).map (·.2) := rfl

/-- Messages that arrived after n leave a best one that arrived after n. -/
theorem foldl_earlier_after {n : Nat} (ms : List (Nat × Msg)) (h : ∀ e ∈ ms, n < e.2.arrival) (best : Option (Nat × Nat))
    (hbest : ∀ b ∈ best, n < b.1) : ∀ b ∈ ms.foldl earlier best, n < b.1 := by
  induction ms generalizing best with
  | nil => exact hbest
  | cons e ms ih =>
    refine ih (fun e he => h e (List.mem_cons_of_mem _ he)) _ fun b hb => ?_
    have he := h e List.mem_cons_self
    unfold earlier at hb
    split at hb
    · next k ch =>
      split at hb <;> obtain rfl := Option.some.inj hb
      · exact he
      · exact hbest (k, ch) rfl
    · obtain rfl := Option.some.inj hb; exact he

/-- Messages of channel ch, or that arrived after n, leave a best one of channel ch that arrived by n. -/
theorem foldl_earlier_stays {n ch : Nat} (ms : List (Nat × Msg)) (h : ∀ e ∈ ms, e.2.chan = ch ∨ n < e.2.arrival) {k : Nat} (hk : k ≤ n) :
    ∃ j, ms.foldl earlier (some (k, ch)) = some (j, ch) := by
  induction ms generalizing k with
  | nil => exact ⟨k, rfl⟩
  | cons e ms ih =>
    have hrest := fun e he => h e (List.mem_cons_of_mem _ he)
    rw [List.foldl_cons, earlier]
    split
    · next hearlier =>
      have hchan : e.2.chan = ch := (h e List.mem_cons_self).resolve_right (by omega)
      rw [hchan]; exact ih hrest (by omega)
    · exact ih hrest hk

/-- The channel whose oldest message arrived before those of all others is the earliest one. -/
theorem Core.earliest_of_oldest {c : Core} {chs : List Nat} {ch a : Nat} {m : Msg} (hm : c.oldest ch = some (a, m)) (hch : ch ∈ chs)
    (hall : ∀ e ∈ c.placed, e.2.chan ∈ chs → e.2.chan = ch ∨ m.arrival < e.2.arrival) : c.earliest chs = some ch := by
  have hfound : (c.placed.filter fun e => chs.contains e.2.chan).find? (fun e => e.2.chan == ch) = some (a, m) := by
    have hsame : (fun e : Nat × Msg => decide (chs.contains e.2.chan = true ∧ (e.2.chan == ch) = true)) = fun e => e.2.chan == ch := by
      funext e
      by_cases h : e.2.chan = ch <;> simp [h, hch]
    rw [List.find?_filter, hsame]; exact hm
  have hmine : ∀ e ∈ c.placed.filter fun e => chs.contains e.2.chan, e.2.chan = ch ∨ m.arrival < e.2.arrival := by
    intro e he
    obtain ⟨hplaced, hin⟩ := List.mem_filter.1 he
    exact hall e hplaced (by simpa using hin)
  obtain ⟨hchan, before, after, hsplit, hbefore⟩ := List.find?_eq_some_iff_append.1 hfound
  rw [hsplit] at hmine
  have hlater : ∀ e ∈ before, m.arrival < e.2.arrival := fun e he =>
    (hmine e (List.mem_append_left _ he)).resolve_left (by simpa using hbefore e he)
  have hfirst : earlier (before.foldl earlier none) (a, m) = some (m.arrival, ch) := by
    have hafter := foldl_earlier_after before hlater none (by simp)
    have hchan : m.chan = ch := by simpa using hchan
    unfold earlier
    split
    · next n j hbest => rw [if_pos (hafter _ hbest), hchan]
    · rw [hchan]
  obtain ⟨n, hn⟩ := foldl_earlier_stays after (fun e he => hmine e (List.mem_append_right _ (List.mem_cons_of_mem _ he))) (le_refl m.arrival)
  rw [Core.earliest_eq, hsplit, List.foldl_append, List.foldl_cons, hfirst, hn]; rfl

/-- No channel, none earliest. -/
theorem Core.earliest_nil (c : Core) : c.earliest [] = none := by
  rw [Core.earliest_eq]; simp

end Sys2Proof.Machine
end

section
/-! SUPPORT. recvany and recvany.t (R243): O9. -/

namespace Sys2Proof.Machine

variable {s t u : State} {d : BitVec 5}

/-! ### The reception slot that is given up (R36, R243) -/

theorem Core.releaseReception_eq (c : Core) (k : Nat) :
    c.releaseReception k = { c with ctx := (c.releaseReception k).ctx, mem := (c.releaseReception k).mem } := by
  unfold Core.releaseReception
  split <;> rfl

theorem Core.cx_releaseReception (c : Core) (k j : Nat) :
    (c.releaseReception k).cx j = if j = k then { c.cx k with rslot := none } else c.cx j := by
  unfold Core.releaseReception
  split
  · next sl _ =>
    have hctx : ((c.modCx k fun x => { x with rslot := none }).released sl.chan).ctx = (c.modCx k fun x => { x with rslot := none }).ctx := rfl
    rw [Core.cx, hctx]
    split
    · next h => subst h; exact Core.cx_modCx_same c j _
    · next h => exact Core.cx_modCx_other c _ h
  · next h =>
    split
    · next hj => subst hj; rw [← h]
    · rfl

/-- The memory afterwards. -/
theorem Core.sameButStatus_releaseReception {c : Core} {k : Nat} (h : ∀ sl, (c.cx k).rslot = some sl → sl.chan < 64) :
    SameButStatus c.mem (c.releaseReception k).mem := by
  unfold Core.releaseReception
  split
  · next sl hsl => exact Core.sameButStatus_setStatus (c.modCx k fun x => { x with rslot := none }) _ (h sl hsl)
  · exact SameButStatus.refl _

/-- The state with the reception slot of the issuing context given up, and the messages held for it placed. -/
def State.slotGivenUp (s : State) : State :=
  (s.modMe fun c => c.releaseReception s.curCtx).placeAll s.curCore (s.cx.rslot.toList.map (·.chan))

theorem steady_slotGivenUp (s : State) : Steady (s.modMe fun c => c.releaseReception s.curCtx) s.slotGivenUp := Steady.placeAll _ _ _

theorem curCore_slotGivenUp (s : State) : s.slotGivenUp.curCore = s.curCore := (steady_slotGivenUp s).curCore
theorem curCtx_slotGivenUp (s : State) : s.slotGivenUp.curCtx = s.curCtx := (steady_slotGivenUp s).curCtx

theorem cx_slotGivenUp (s : State) : s.slotGivenUp.cx = { s.cx with rslot := none, latched := s.slotGivenUp.cx.latched } := by
  have h := (steady_slotGivenUp s).cx s.curCore s.curCtx
  have hreleased : ((s.modMe fun c => c.releaseReception s.curCtx).core s.curCore).cx s.curCtx = { s.cx with rslot := none } := by
    rw [show (s.modMe fun c => c.releaseReception s.curCtx).core s.curCore = s.me.releaseReception s.curCtx from State.me_modMe _ _,
      Core.cx_releaseReception, if_pos rfl]; rfl
  have hcx : s.slotGivenUp.cx = (s.slotGivenUp.core s.curCore).cx s.curCtx := by
    unfold State.cx State.me; rw [curCore_slotGivenUp, curCtx_slotGivenUp]
  rw [hcx, h, hreleased]

theorem unlogged_slotGivenUp (h : Unlogged s s.curCore) : Unlogged s.slotGivenUp s.curCore :=
  (steady_slotGivenUp s).unlogged (Unlogged.modCore h (by rw [Core.releaseReception_eq]))

/-- Where no message is held, nothing but the slot changes. -/
theorem slotGivenUp_empty (h : s.me.inbuf = []) : s.slotGivenUp = s.modMe fun c => c.releaseReception s.curCtx := by
  refine State.placeAll_empty ?_ _
  rw [show (s.modMe fun c => c.releaseReception s.curCtx).core s.curCore = s.me.releaseReception s.curCtx from State.me_modMe _ _,
    Core.releaseReception_eq]
  exact h

/-! ### The message that is taken (R243, R426) -/

/-- The core with message m of channel ch at a taken by context k, which waits no longer. -/
def Core.received (c : Core) (k ch a : Nat) (m : Msg) : Core := (c.takeMsg k ch a m true).modCx k fun x => { x with wait := .none }

theorem Core.cx_received (c : Core) (k ch a : Nat) (m : Msg) : (c.received k ch a m).cx k =
    { c.cx k with rslot := some ⟨ch, a, slotSize m.bytes.length⟩, q1 := dwords m.bytes, wait := .none } := by
  rw [Core.received, Core.cx_modCx_same, Core.cx_takeMsg_same]; rfl

theorem Core.job_received (c : Core) (k ch a : Nat) (m : Msg) : (c.received k ch a m).job = c.job := by
  rw [Core.received, Core.modCx_job, Core.takeMsg_eq]; rfl

theorem Core.control_received (c : Core) (k ch a : Nat) (m : Msg) : (c.received k ch a m).control = c.control := by
  rw [Core.received, Core.modCx_control, Core.takeMsg_eq]; rfl

theorem Core.placed_received (c : Core) (k ch a : Nat) (m : Msg) : (c.received k ch a m).placed = c.placed.erase (a, m) := by
  rw [Core.received, Core.modCx_placed, Core.takeMsg_eq]; rfl

theorem Core.sameButStatus_received (c : Core) {k ch a : Nat} {m : Msg} (hch : ch < 64) : SameButStatus c.mem (c.received k ch a m).mem :=
  Core.sameButStatus_takeMsg c hch

/-- The state in which the issuing context has taken the message, and the activation is counted. -/
def State.receives (s : State) (ch a : Nat) (m : Msg) : State :=
  (s.modMe fun c => c.received s.curCtx ch a m).logActivation s.curCore ⟨s.curCtx, 1, ch, m.tag, m.src, 0, payloadHash m.tag m.bytes⟩

/-- A reception that is neither traced nor logged changes the issuing core alone. -/
theorem Unlogged.receives (h : Unlogged s s.curCore) (ch a : Nat) (m : Msg) :
    ∃ f : Control → Control, s.receives ch a m = s.modMe fun c => { c.received s.curCtx ch a m with control := f c.control } := by
  obtain ⟨f, hf⟩ := Unlogged.logActivation (s := s.modMe fun c => c.received s.curCtx ch a m) (cn := s.curCore)
    (Unlogged.modCore h (Core.job_received _ _ _ _ _)) ⟨s.curCtx, 1, ch, m.tag, m.src, 0, payloadHash m.tag m.bytes⟩
  refine ⟨f, ?_⟩
  rw [State.receives, hf]
  refine (State.modCore_modCore s s.curCore _ _).trans ?_
  simp only [Core.control_received]
  rfl

/-! ### What recvany and recvany.t do -/

section
variable (st : BitVec 3) (d a b : BitVec 5) (lowest : Bool)

/-- The channel that a reception takes from. -/
def State.receivesFrom (s : State) (set : Nat) (lowest : Bool) : Option Nat :=
  if lowest then (s.me.receivable set).head? else s.me.earliest (s.me.receivable set)

/-- A set that names channels of level S at level U (R243). -/
theorem receive_of_forbidden (hU : s.isS = false) (hset : 2 ^ 48 ≤ (s.readG a).toNat) :
    s.receive st d a b lowest = .next (s.raise { cause := 0x42 }) := by
  have hhigh : fld (s.readG a).toNat 48 16 ≠ 0 := by
    have := (s.readG a).isLt
    unfold fld; omega
  unfold State.receive
  dsimp only
  rw [chk, State.check_cons, if_pos (by rw [hU]; simpa using hhigh)]

variable (hset : s.isS = true ∨ (s.readG a).toNat < 2 ^ 48)
include hset

/-- The check of the set passed. -/
theorem check_set (o : Out) : s.check [chk (!s.isS && fld (s.readG a).toNat 48 16 != 0) 0x42] o = o := by
  have hpass : (!s.isS && fld (s.readG a).toNat 48 16 != 0) = false := by
    rcases hset with hS | hlow
    · rw [hS]; rfl
    · have : fld (s.readG a).toNat 48 16 = 0 := by unfold fld; omega
      simp [this]
  rw [chk, State.check_cons, hpass, if_neg Bool.false_ne_true, State.check_nil]

/-- An empty set: zeros (R243). -/
theorem receive_of_empty (h : (s.readG a).toNat = 0) :
    s.receive st d a b lowest = ((s.slotGivenUp.writeG d 0 0).writeG (d + 1) 0 0).done st := by
  unfold State.receive
  dsimp only
  rw [check_set a hset, if_pos h]
  rfl

/-- No channel has a message that can be taken: the context waits (R243). -/
theorem receive_of_none (h : (s.readG a).toNat ≠ 0) (hnone : s.slotGivenUp.receivesFrom (s.readG a).toNat lowest = none) :
    s.receive st d a b lowest = s.slotGivenUp.block (.channels (s.readG a).toNat (wbit (s.readG b) 0) (wbit (s.readG b) 1)) := by
  unfold State.receive
  dsimp only
  unfold State.slotGivenUp State.cx State.receivesFrom at *
  rw [check_set a hset, if_neg h, hnone]

/-- A message that is taken (R243). -/
theorem receive_of_some {ch ad : Nat} {m : Msg} (h : (s.readG a).toNat ≠ 0)
    (hsome : s.slotGivenUp.receivesFrom (s.readG a).toNat lowest = some ch) (hm : s.slotGivenUp.me.oldest ch = some (ad, m))
    (hu : Unlogged s s.curCore) : s.receive st d a b lowest =
      (((s.slotGivenUp.receives ch ad m).writeG d (.ofNat 64 (m.tag * 2 ^ 48 + m.bytes.length * 2 ^ 32 + ch * 2 ^ 24 + ad)) 0).writeG
        (d + 1) m.src 0).done st := by
  have hdiverges := Unlogged.diverges (unlogged_slotGivenUp hu) ⟨s.curCtx, 1, ch, m.tag, m.src, 0, payloadHash m.tag m.bytes⟩
  have hcore := curCore_slotGivenUp s
  have hctx := curCtx_slotGivenUp s
  unfold State.receive State.receives
  rw [hcore, hctx]
  dsimp only
  unfold State.slotGivenUp State.cx State.receivesFrom at *
  rw [check_set a hset, if_neg h]
  simp only [hsome, hm, hdiverges, Bool.false_eq_true, if_false]
  delta Core.received
  rfl

end

/-! ### The channel a reception takes from -/

theorem receivesFrom_none {set : Nat} (h : ∀ ch, ch ∉ s.me.receivable set) (lowest : Bool) : s.receivesFrom set lowest = none := by
  rw [State.receivesFrom, List.eq_nil_iff_forall_not_mem.2 h, Core.earliest_nil]
  cases lowest <;> rfl

theorem receivesFrom_lowest {set ch : Nat} (hch : ch ∈ s.me.receivable set) (hlow : ∀ j < ch, j ∉ s.me.receivable set) :
    s.receivesFrom set true = some ch := Core.head?_receivable hch hlow

theorem receivesFrom_earliest {set ch a : Nat} {m : Msg} (hm : s.me.oldest ch = some (a, m)) (hch : ch ∈ s.me.receivable set)
    (hall : ∀ e ∈ s.me.placed, e.2.chan ∈ s.me.receivable set → e.2.chan = ch ∨ m.arrival < e.2.arrival) :
    s.receivesFrom set false = some ch := Core.earliest_of_oldest hm hch hall

/-! ### What a reception leaves -/

/-- Registers and flags of a context that differs in its latched events, its reception slot, its queue and its wait alone. -/
theorem regsSame_of_cx {l : BitVec 8} {r : Option InboxSlot} {q : List Word} {w : Wait}
    (h : t.cx = { s.cx with latched := l, rslot := r, q1 := q, wait := w }) :
    t.cx.pc = s.cx.pc ∧ t.cx.stat = s.cx.stat ∧ t.cx.rndctr = s.cx.rndctr ∧ RegsSameBut s t [] := by
  unfold RegsSameBut State.readG State.readV State.readP State.readE State.readB
  rw [h]
  exact ⟨rfl, rfl, rfl, fun _ _ => rfl, fun _ _ => rfl, fun _ _ => rfl, fun _ _ => rfl, fun _ _ => rfl⟩

theorem RegsSameBut.of_same {keys : List Nat} (h : RegsSameBut s t []) (k : RegsSameBut t u keys) : RegsSameBut s u keys := by
  obtain ⟨hg, hv, hp, he, hb⟩ := h
  obtain ⟨kg, kv, kp, ke, kb⟩ := k
  exact ⟨fun n hn => (kg n hn).trans (hg n List.not_mem_nil), fun n hn => (kv n hn).trans (hv n List.not_mem_nil),
    fun n hn => (kp n hn).trans (hp n List.not_mem_nil), fun n hn => (ke n hn).trans (he n List.not_mem_nil),
    fun n hn => (kb n hn).trans (hb n List.not_mem_nil)⟩

/-- What an instruction that writes registers leaves of the rest of its context and its core. -/
theorem ChangesRegs.rest {len : Nat} {keys : List Nat} (h : ChangesRegs s t len keys) :
    t.cx.q1 = s.cx.q1 ∧ t.cx.rslot = s.cx.rslot ∧ t.me.placed = s.me.placed ∧ t.me.mem = s.me.mem ∧
    (∀ j, j ≠ s.curCore → t.core j = s.core j) ∧ t.gmem = s.gmem := by
  obtain ⟨⟨ht, -⟩, hrest, -⟩ := h
  have hme : t.me = s.me.modCx s.curCtx fun _ => t.cx := by
    conv_lhs => rw [ht]
    exact State.me_modCx _ _
  refine ⟨by rw [hrest], by rw [hrest], by rw [hme, Core.modCx_placed], by rw [hme, Core.modCx_mem], fun j hj => ?_, by rw [ht]; rfl⟩
  rw [ht]
  exact State.core_modMe_other s _ hj

/-- The state after the message is taken. -/
theorem receives_spec {ch ad : Nat} {m : Msg} (hu : Unlogged s s.curCore) (hch : ch < 64) :
    let v := s.slotGivenUp.receives ch ad m
    v.cx = { s.cx with latched := s.slotGivenUp.cx.latched, rslot := some ⟨ch, ad, slotSize m.bytes.length⟩, q1 := dwords m.bytes,
                       wait := .none } ∧
    v.me.placed = s.slotGivenUp.me.placed.erase (ad, m) ∧ SameButStatus s.slotGivenUp.me.mem v.me.mem ∧ v.curCore = s.curCore ∧
    (∀ j, j ≠ s.curCore → v.core j = s.slotGivenUp.core j) ∧ v.gmem = s.slotGivenUp.gmem := by
  have hu' : Unlogged s.slotGivenUp s.slotGivenUp.curCore := by
    rw [curCore_slotGivenUp]; exact unlogged_slotGivenUp hu
  obtain ⟨f, hf⟩ := Unlogged.receives hu' ch ad m
  intro v
  replace hf : v = s.slotGivenUp.modMe fun c => { c.received s.slotGivenUp.curCtx ch ad m with control := f c.control } := hf
  clear_value v
  have hme : v.me = { s.slotGivenUp.me.received s.slotGivenUp.curCtx ch ad m with control := f s.slotGivenUp.me.control } := by
    rw [hf, State.me_modMe]
  have hcur : v.curCtx = s.slotGivenUp.curCtx := by rw [hf]; rfl
  have hcx : s.slotGivenUp.me.cx s.slotGivenUp.curCtx = { s.cx with rslot := none, latched := s.slotGivenUp.cx.latched } := cx_slotGivenUp s
  refine ⟨?_, ?_, ?_, ?_, fun j hj => ?_, ?_⟩
  · rw [State.cx, hme, hcur, Core.cx_setControl, Core.cx_received, hcx]
  · rw [hme]; exact Core.placed_received s.slotGivenUp.me s.slotGivenUp.curCtx ch ad m
  · rw [hme]; exact Core.sameButStatus_received s.slotGivenUp.me (k := s.slotGivenUp.curCtx) (a := ad) (m := m) hch
  · rw [hf]; exact curCore_slotGivenUp s
  · rw [hf]; exact State.core_modMe_other _ _ (by rw [curCore_slotGivenUp]; exact hj)
  · rw [hf]; rfl

/-- Where no message is held, what the slot that is given up leaves. -/
theorem slotGivenUp_frame (hinbuf : s.me.inbuf = []) (hslot : ∀ sl, s.cx.rslot = some sl → sl.chan < 64) :
    SameButStatus s.me.mem s.slotGivenUp.me.mem ∧ (∀ j, j ≠ s.curCore → s.slotGivenUp.core j = s.core j) ∧ s.slotGivenUp.gmem = s.gmem := by
  rw [slotGivenUp_empty hinbuf, State.me_modMe]
  exact ⟨Core.sameButStatus_releaseReception hslot, fun j hj => State.core_modMe_other s _ hj, rfl⟩

section
variable (st : BitVec 3) (a b : BitVec 5) (lowest : Bool) (heven : d.toNat % 2 = 0)
  (hset : s.isS = true ∨ (s.readG a).toNat < 2 ^ 48)
include heven hset

/-- An empty set: zeros, and the slot is given up (R243). -/
theorem receive_zeros (h : (s.readG a).toNat = 0) : ∃ t, s.receive st d a b lowest = .next t ∧ t.readG d = 0 ∧ t.readG (d + 1) = 0 ∧
    t.cx.rslot = none ∧ t.cx.pc = s.cx.pc + 4 := by
  obtain ⟨t, hdone, hfirst, hsecond, hchanges⟩ := pair_spec s.slotGivenUp st 0 0 heven
  obtain ⟨-, hrslot, -⟩ := ChangesRegs.rest hchanges
  obtain ⟨-, -, ⟨hpc, -⟩, -⟩ := hchanges
  rw [cx_slotGivenUp] at hrslot hpc
  exact ⟨t, (receive_of_empty st d a b lowest hset h).trans hdone, by rw [hfirst, ite_self], hsecond, hrslot, hpc⟩

/-- The message that is taken: its tag, length, channel, address and source in the pair, its words in q1, its slot, everything else but
status doublewords as the slot that is given up leaves it (R243). -/
theorem receive_takes {ch ad : Nat} {m : Msg} (h : (s.readG a).toNat ≠ 0) (hu : Unlogged s s.curCore)
    (hsome : s.slotGivenUp.receivesFrom (s.readG a).toNat lowest = some ch) (hm : s.slotGivenUp.me.oldest ch = some (ad, m)) (hch : ch < 64)
    (hslot : ∀ sl, s.cx.rslot = some sl → sl.chan < 64) :
    ∃ t, s.receive st d a b lowest = .next t ∧
      t.readG d = (if d = 0 then 0 else .ofNat 64 (m.tag * 2 ^ 48 + m.bytes.length * 2 ^ 32 + ch * 2 ^ 24 + ad)) ∧
      t.readG (d + 1) = m.src ∧ t.cx.q1 = dwords m.bytes ∧ t.cx.rslot = some ⟨ch, ad, slotSize m.bytes.length⟩ ∧
      t.me.placed = s.slotGivenUp.me.placed.erase (ad, m) ∧ t.cx.pc = s.cx.pc + 4 ∧ t.cx.wait = .none ∧
      RegsSameBut s t [keyG d.toNat, keyG (d + 1).toNat] ∧ FlagsSame s t ∧ SameButStatus s.slotGivenUp.me.mem t.me.mem ∧
      (∀ j, j ≠ s.curCore → t.core j = s.slotGivenUp.core j) ∧ t.gmem = s.slotGivenUp.gmem ∧
      (s.me.inbuf = [] → SameButStatus s.me.mem t.me.mem ∧ (∀ j, j ≠ s.curCore → t.core j = s.core j) ∧ t.gmem = s.gmem) := by
  obtain ⟨hcx, hplaced, hmem, hcur, hothers, hgmem⟩ := receives_spec (ad := ad) (m := m) hu hch
  obtain ⟨hpc, hstat, hrnd, hregs⟩ := regsSame_of_cx hcx
  obtain ⟨t, hdone, hfirst, hsecond, hchanges⟩ := pair_spec (s.slotGivenUp.receives ch ad m) st
    (.ofNat 64 (m.tag * 2 ^ 48 + m.bytes.length * 2 ^ 32 + ch * 2 ^ 24 + ad)) m.src heven
  obtain ⟨hq1, hrslot, hplaced', hmem', hothers', hgmem'⟩ := ChangesRegs.rest hchanges
  obtain ⟨-, -, ⟨hpc', -, hwait⟩, ⟨hstat', hrnd'⟩, hregs'⟩ := hchanges
  have hsame : SameButStatus s.slotGivenUp.me.mem t.me.mem := by rw [hmem']; exact hmem
  have hcores : ∀ j, j ≠ s.curCore → t.core j = s.slotGivenUp.core j := fun j hj =>
    (hothers' j (by rw [hcur]; exact hj)).trans (hothers j hj)
  refine ⟨t, (receive_of_some st d a b lowest hset h hsome hm hu).trans hdone, hfirst, hsecond, by rw [hq1, hcx], by rw [hrslot, hcx],
    hplaced'.trans hplaced, by rw [hpc', hpc]; rfl, hwait, RegsSameBut.of_same hregs hregs', ⟨by rw [hstat', hstat], hrnd'.trans hrnd⟩, hsame, hcores,
    hgmem'.trans hgmem, fun hinbuf => ?_⟩
  obtain ⟨hstatus, hframe, hglobal⟩ := slotGivenUp_frame hinbuf hslot
  exact ⟨SameButStatus.trans hstatus hsame, fun j hj => (hcores j hj).trans (hframe j hj), (hgmem'.trans hgmem).trans hglobal⟩

end

/-! ### The checks of the two instructions -/

theorem exec_recvany (st : BitVec 3) (d a b : BitVec 5) (s : State) : exec (.recvany st d a b) s =
    s.check [chk (!evenReg d) 0x02, chk (s.ordered s.curCore) 0x0A] (s.receive st d a b false) := rfl

theorem exec_recvanyT (st : BitVec 3) (d a b : BitVec 5) (s : State) :
    exec (.recvanyT st d a b) s = s.check [chk (!evenReg d) 0x02] (s.receive st d a b true) := rfl

/-- Each reception instruction past its own checks. -/
theorem exec_receive {st : BitVec 3} {d a b : BitVec 5} {i : Instr} (heven : d.toNat % 2 = 0)
    (hi : i = .recvany st d a b ∨ i = .recvanyT st d a b) (hordered : i = .recvany st d a b → s.ordered s.curCore = false) :
    ∃ lowest, exec i s = s.receive st d a b lowest ∧ (lowest = false → i = .recvany st d a b) ∧ (lowest = true → i = .recvanyT st d a b) := by
  have hpair : (!evenReg d) = false := by simp [evenReg, heven]
  rcases hi with rfl | rfl
  · refine ⟨false, ?_, fun _ => rfl, nofun⟩
    rw [exec_recvany, hordered rfl, hpair]; rfl
  · refine ⟨true, ?_, nofun, fun _ => rfl⟩
    rw [exec_recvanyT, hpair]; rfl

/-- Settles O9: after the checks a reception gives up its slot, chooses its channel, and takes that channel's oldest message. -/
theorem receptions : Obligations.Receptions := by
  unfold Obligations.Receptions
  intro st d a b s set B any low u able takes
  have hable : ∀ ch, able ch ↔ ch ∈ u.me.receivable set := fun ch => (Core.mem_receivable u.me set ch).symm
  refine ⟨fun hodd => ?_, fun heven hordered => ?_, fun heven i hi hpromise => ?_⟩
  · have hpair : (!evenReg d) = true := by simp [evenReg, hodd]
    exact ⟨by rw [Traps, exec_recvany, chk, State.check_cons, if_pos hpair], by rw [Traps, exec_recvanyT, chk, State.check_cons, if_pos hpair]⟩
  · have hpair : (!evenReg d) = false := by simp [evenReg, heven]
    rw [Traps, exec_recvany, chk, chk, State.check_cons, hpair, if_neg Bool.false_ne_true, State.check_cons, if_pos hordered]
  · obtain ⟨lowest, hexec, hany, hlow⟩ := exec_receive heven (by simpa using hi) hpromise
    refine ⟨fun hU hhigh => hexec.trans (receive_of_forbidden st d a b lowest hU hhigh), fun hset => ⟨fun hempty => ?_, fun hne hnone => ?_,
      fun hne hu ch ad m hm hch hslot hlowest hearliest => ?_⟩⟩
    · rw [hexec]; exact receive_zeros st a b lowest heven hset hempty
    · have hfrom := receivesFrom_none (s := u) (set := set) (fun ch hin => hnone ch ((hable ch).2 hin)) lowest
      rw [hexec, receive_of_none st d a b lowest hset hne hfrom, wbit_eq_getLsbD, wbit_eq_getLsbD]
      rfl
    · have hfrom : u.receivesFrom set lowest = some ch := by
        cases lowest with
        | true => exact receivesFrom_lowest ((hable ch).1 hch) fun j hj hin => hlowest (hlow rfl) j hj ((hable j).2 hin)
        | false => exact receivesFrom_earliest hm ((hable ch).1 hch) fun e he hin => hearliest (hany rfl) e he ((hable e.2.chan).2 hin)
      rw [hexec]
      exact receive_takes st a b lowest heven hset hne hu hfrom hm hch.1 hslot

end Sys2Proof.Machine
end

section
/-! SUPPORT. Refutations of three statements about contexts, launches and commands: the states that they overlook. -/

namespace Sys2Proof.Machine

/-! ### A message that a context has sent to its own core -/

/-- A message of context 1 of core 0 to channel 3 of its own core, as the core's input buffer holds it. -/
def selfMessage : Msg := { chan := 3, tag := 0, bytes := [], src := 0, tx := some (0, 0) }

/-- The transaction of that message, which is open until the message is placed (R170). -/
def selfMessageTx : Tx :=
  { seq := 0, ctx := 1, kind := 0, cls := 0, slk := 0, dest := 0, addr := 0, home := .core 0, key := .core 0, first := 0, body := .message selfMessage }

/-- Core 0 runs an activation of channel 3, whose inbox of 8 bytes at 0x3000 has room for one message, in context 1; the message that the
activation has sent to that channel is held. -/
def selfMessageHeld : State :=
  { State.reset with
    curCtx := 1
    launches := [placedLaunch]
    cores := [(0,
      { job := some (0, 1), part := .running, txs := [selfMessageTx], inbuf := [selfMessage],
        ctx := [(0, { live := true, pc := 0x2000 }), (1, { live := true, pc := 0x2000, kind := 1, chan := 3, slot := some ⟨3, 0x3000, 8⟩ })],
        mem := Memory.setNum (Memory.setNum (Memory.setNum [] 0x860 8 0x2000) 0x868 8 (8 * 2 ^ 32 + 0x3000)) 0x878 8 (2 ^ 62 + 0x3008) })] }

/-- The exit releases the slot, the held message is placed there, and the transaction of the context that has ended is complete. -/
theorem exit_completes_selfMessage : ∀ t, exec .cExit selfMessageHeld = .next t → t.me.txs = [] := by
  have h : (match exec .cExit selfMessageHeld with | .next t => t.me.txs | _ => []) = [] := by decide +kernel
  intro t e; rw [e] at h; exact h

/-- Refutes O6: "exit gives up its slots, but not its transactions" overlooks a message that a context has sent to a channel of its own
core and that waits for the very slot that the exit releases. It is placed before the exit is over (R36), which completes the
transaction of the context that ends (R170). -/
theorem not_activationRules : ¬ Obligations.ActivationRules := by
  unfold Obligations.ActivationRules
  rintro ⟨hexit, -⟩
  obtain ⟨t, ht, -, -, -, -, htxs, -⟩ := hexit 0 selfMessageHeld (by decide +kernel) .cExit (by simp)
  have hopen : selfMessageTx ∈ t.me.txs := htxs _ (by decide +kernel)
  rw [exit_completes_selfMessage t ht] at hopen
  cases hopen

/-! ### A completion record behind a pointer without the form of R57 -/

/-- A launch whose CPL is an address without the tag of a global pointer. -/
def untaggedCpl : Launch := { placedLaunch with reported := [0], cpl := 0 }

/-- Every die of that launch has reported, and a slice keeps the page of virtual address 0, which is 0x3000 and may be written. -/
def untaggedCplReported : State := { State.reset with launches := [untaggedCpl], slices := [(0, [⟨0, 0, 12, 0x300F⟩])] }

/-- The page translates. -/
theorem untaggedCpl_translates :
    untaggedCplReported.translateRange none 0 0 32 .write = (.ok [(0x3000, 32)], untaggedCplReported) := by decide +kernel

/-- The completion writes no completion record. -/
theorem completion_writes_no_record (t : State) (h : exec (.launchCompletion 0 1) untaggedCplReported = .next t) : t.gmem = [] := by
  have k : (match exec (.launchCompletion 0 1) untaggedCplReported with | .next t => t.gmem | _ => []) = [] := by decide +kernel
  rw [h] at k; exact k

/-- Refutes O49: the clause on the completion record asks that the address of CPL translates, but not that CPL is a global pointer in the
form of R57, without which the launch sequencer writes nothing. -/
theorem not_launchLife : ¬ Obligations.LaunchLife := by
  unfold Obligations.LaunchLife
  intro h
  obtain ⟨-, -, -, -, hcomplete, -⟩ := h 0 1 0 0 untaggedCpl untaggedCplReported
  obtain ⟨t, ht, -, -, -, -, hrecord⟩ := hcomplete (by unfold LaunchIs; decide +kernel) (by decide +kernel)
  have hdues : untaggedCplReported.performDues untaggedCpl.part untaggedCpl.lid (fun _ => true) = untaggedCplReported := by decide +kernel
  rw [hdues] at hrecord
  obtain ⟨-, hlid, -⟩ := hrecord 0x3000 _ rfl rfl untaggedCpl_translates
  rw [completion_writes_no_record t ht] at hlid
  exact absurd hlid (by decide +kernel)

/-! ### CT at a resumption -/

/-- A stopped launch whose RESUME has been taken; the CT of its core held 1 in g1 when it stopped. -/
def resumed : Launch :=
  { placedLaunch with state := .reserved, holds := false, saved := [(0, { ctx := [(11, { g := [(1, 1)] })], part := .running })] }

/-- Its core is free, and its CT holds nothing now. -/
def resumable : State := { State.reset with launches := [resumed] }

/-- The resumption gives CT the registers that it had at the stop. -/
theorem resumption_restores_ct (t : State) (h : exec (.launchResumption 0 1) resumable = .next t) : ((t.core 0).cx 11).rg 1 = 1 := by
  have k : (match exec (.launchResumption 0 1) resumable with | .next t => ((t.core 0).cx 11).rg 1 | _ => 1) = 1 := by decide +kernel
  rw [h] at k; exact k

/-- Refutes O50: of CT the resumption restores every register as it was at the stop, as R44 has it of every context, and not its queue
and reception slot alone: the statement has CT keep the registers that it holds at the resumption. -/
theorem not_commands : ¬ Obligations.Commands := by
  unfold Obligations.Commands
  intro h
  obtain ⟨-, -, hresume⟩ := h 0 1 resumable 0 [] resumed
  obtain ⟨t, ht, -, -, hcores, -⟩ := hresume (by unfold LaunchIs; decide +kernel) (by decide +kernel) (by decide +kernel) (by decide +kernel)
  obtain ⟨-, -, hct, -⟩ := hcores _ (List.mem_singleton_self _)
  have hg : ((t.core 0).cx 11).rg 1 = 0 := by rw [hct]; decide +kernel
  rw [resumption_restores_ct t ht] at hg
  exact absurd hg (by decide)

end Sys2Proof.Machine
end

section
/-! SUPPORT. What a store into local SRAM writes (R48, R51), byte by byte, and what a load or a store of an instruction leaves unchanged. -/

namespace Sys2Proof.Machine

variable {i : Instr} {s t : State} {d : BitVec 5} {w : Word} {l len stl : Nat}

/-! ### The bits that a store keeps (R48, R51) -/

/-- keptBits is the mask of the bits that Kept names. -/
theorem getLsbD_keptBits (x : Nat) {j : Nat} (hj : j < 8) : (keptBits x).getLsbD j = true ↔ Kept x j := by
  unfold keptBits Kept
  by_cases hlow : x < 0x1100 ∨ 0x2000 ≤ x
  · have hall : (0xFF : Byte).getLsbD j = true := by interval_cases j <;> rfl
    rw [if_pos (by simp; omega)]
    simp only [hall, true_iff]
    omega
  · by_cases htable : x < 0x1168
    · obtain h2 | h2 | h2 : x % 4 < 2 ∨ x % 4 = 2 ∨ x % 4 = 3 := by omega
      · have hall : (0xFF : Byte).getLsbD j = true := by interval_cases j <;> rfl
        rw [if_pos (by simp; omega)]
        simp only [hall, true_iff]
        omega
      · have hsix : (0x3F : Byte).getLsbD j = true ↔ j < 6 := by interval_cases j <;> decide
        rw [if_neg (by simp; omega), if_pos (by simp; omega), hsix]
        omega
      · rw [if_neg (by simp; omega), if_neg (by simp; omega)]
        simp only [BitVec.ofNat_eq_ofNat, BitVec.getLsbD_zero, Bool.false_eq_true, false_iff]
        omega
    · rw [if_neg (by simp; omega), if_neg (by simp; omega)]
      simp only [BitVec.ofNat_eq_ofNat, BitVec.getLsbD_zero, Bool.false_eq_true, false_iff]
      omega

/-- Outside the window table and the system area a byte keeps all its bits. -/
theorem keptBits_of_outside {x : Nat} (h : x < 0x1100 ∨ 0x2000 ≤ x) : keptBits x = .allOnes 8 := by
  rw [keptBits, if_pos (by simp; omega)]; rfl

/-- A byte after a write of local SRAM: outside the bytes written it is as before, inside its kept bits are those written. -/
theorem Core.byte_put (c : Core) (a : Nat) (bs : List Byte) (x : Nat) :
    Memory.byte (c.put a bs).mem x = if a ≤ x ∧ x < a + bs.length then bs.getD (x - a) 0 &&& keptBits x else Memory.byte c.mem x := by
  have hlen : ((bs.zip (span a bs.length)).map fun e => e.1 &&& keptBits e.2).length = bs.length := by simp [span]
  split
  · next h =>
    obtain ⟨k, rfl⟩ : ∃ k, x = a + k := ⟨x - a, by omega⟩
    have hk : k < bs.length := by omega
    rw [show a + k - a = k by omega, List.getD_eq_getElem _ _ hk]
    show Memory.byte (Memory.write c.mem a (if overlaps a bs.length 0x1100 0xF00 then _ else bs)) (a + k) = _
    split
    · rw [Memory.byte_write_inside _ _ _ _ (by rw [hlen]; exact hk)]
      simp [span]
    · next hover =>
      have hout : a + k < 0x1100 ∨ 0x2000 ≤ a + k := by simp [overlaps] at hover; omega
      rw [Memory.byte_write_inside _ _ _ _ hk, keptBits_of_outside hout, BitVec.and_allOnes]
  · next h =>
    show Memory.byte (Memory.write c.mem a (if overlaps a bs.length 0x1100 0xF00 then _ else bs)) x = _
    split
    · exact Memory.byte_write_outside _ _ _ _ (by rw [hlen]; omega)
    · exact Memory.byte_write_outside _ _ _ _ (by omega)

theorem getD_leBytes (n x : Nat) {k : Nat} (hk : k < n) : (leBytes n x).getD k 0 = .ofNat 8 (x / 256 ^ k) := by
  induction n generalizing x k with
  | zero => omega
  | succ n ih =>
    cases k with
    | zero => simp [leBytes]
    | succ k => rw [leBytes, List.getD_cons_succ, ih _ (by omega), pow_succ', Nat.div_div_eq_div_mul]

theorem getLsbD_getD_leBytes (n x : Nat) {k j : Nat} (hk : k < n) (hj : j < 8) :
    ((leBytes n x).getD k 0).getLsbD j = x.testBit (8 * k + j) := by
  rw [getD_leBytes n x hk, BitVec.getLsbD_ofNat, show (256 : Nat) ^ k = 2 ^ (8 * k) by rw [pow_mul]; rfl, Nat.testBit_div_two_pow]
  simp [hj, Nat.add_comm]

/-- The bits of a number stored: those of the number, but for the bits that read zero. -/
theorem Core.getLsbD_put_leBytes (c : Core) (a n x : Nat) {k j : Nat} (hk : k < n) (hj : j < 8) :
    (Memory.byte (c.put a (leBytes n x)).mem (a + k)).getLsbD j = true ↔ x.testBit (8 * k + j) = true ∧ Kept (a + k) j := by
  rw [Core.byte_put, if_pos (by simp; omega), BitVec.getLsbD_and, Bool.and_eq_true, getLsbD_keptBits _ hj,
    show a + k - a = k by omega, getLsbD_getD_leBytes n x hk hj]

/-! ### The state after a load or a store retires -/

/-- An access counted is a change of the issuing context beside its registers. -/
theorem changesRegs_countMem {keys : List Nat} (h : ChangesRegs s.countMem t len keys) : ChangesRegs s t len keys := by
  obtain ⟨⟨ht, -⟩, hrest, ⟨hpc, hpfx, hwait⟩, ⟨hstat, hrnd⟩, hg, hv, hp, he, hb⟩ := h
  have hcx : s.countMem.cx = s.cx.count 3 := State.cx_modCx _ _
  have hs : t = s.modCx fun _ => t.cx := by
    rw [State.countMem, State.modCx_modCx] at ht; exact ht
  have honly : OnlyContext s t := by rw [hs]; exact onlyContext_modCx s _
  rw [hcx] at hrest hpc hpfx hstat hrnd
  refine ⟨honly, hrest, ⟨hpc, hpfx, hwait⟩, ⟨hstat, hrnd⟩, fun n hn => ?_, fun n hn => ?_, fun n hn => ?_, fun n hn => ?_, fun n hn => ?_⟩
  · rw [hg n hn, State.countMem, readG_modCx]; rfl
  · rw [hv n hn, State.countMem, readV_modCx]; rfl
  · rw [hp n hn, State.countMem, readP_modCx]; rfl
  · rw [he n hn, State.countMem, readE_modCx]; rfl
  · rw [hb n hn, State.countMem, readB_modCx]; rfl

/-- A loaded value in a register, with its access counted, before the instruction retires or after. -/
theorem givesG_of_countMem (h : exec i s = .next ((s.countMem.writeG d w l).retire len stl)) : GivesG i s len d w := by
  obtain ⟨hw, hc⟩ := writeG_retire_spec s.countMem d w l len stl
  exact ⟨_, h, hw, changesRegs_countMem hc⟩

theorem writeG_countMem (s : State) (d : BitVec 5) (w : Word) (l : Nat) : (s.writeG d w l).countMem = s.countMem.writeG d w l := by
  unfold State.writeG State.countMem
  rw [State.modCx_modCx, State.modCx_modCx]
  congr 1
  funext x
  unfold Ctx.wg
  split <;> rfl

/-- The state in which the issuing core has changed by f, an access has been counted and the instruction has retired. -/
def State.stored (s : State) (f : Core → Core) (len stl : Nat) : State := ((s.modMe f).countMem).retire len stl

/-- The context of an instruction that has made an access and retires. -/
def Ctx.accessed (x : Ctx) (len stl : Nat) : Ctx := (x.count 3).goto (x.pc + .ofNat 64 len) stl

variable {f : Core → Core}

theorem State.stored_eq (s : State) (f : Core → Core) (len stl : Nat) :
    s.stored f len stl = s.modMe fun c => (f c).modCx s.curCtx fun x => x.accessed len stl := by
  have h : s.stored f len stl = (s.modMe f).modCx fun x => x.accessed len stl := State.modCx_modCx _ _ _
  rw [h]
  exact State.modCore_modCore s s.curCore f fun c => c.modCx s.curCtx fun x => x.accessed len stl

theorem State.me_stored (s : State) (f : Core → Core) (len stl : Nat) :
    (s.stored f len stl).me = (f s.me).modCx s.curCtx fun x => x.accessed len stl := by rw [State.stored_eq, State.me_modMe]

/-- What a change of local memory, its errors and the image mark leaves, when its instruction retires. -/
theorem stored_spec (h : (f s.me).storedFrom s.me) (len stl : Nat) :
    OnlyStored s (s.stored f len stl) ∧ Retired s (s.stored f len stl) len ∧ (s.stored f len stl).me.mem = (f s.me).mem ∧
    (s.stored f len stl).me.bad = (f s.me).bad ∧ (∀ j, j ≠ s.curCore → (s.stored f len stl).core j = s.core j) ∧
    (s.stored f len stl).gmem = s.gmem := by
  have hctx : (f s.me).cx = s.me.cx := by unfold Core.cx; rw [h]
  have hcx : (s.stored f len stl).cx = s.cx.accessed len stl := by
    rw [State.cx, State.me_stored, show (s.stored f len stl).curCtx = s.curCtx from rfl, Core.cx_modCx_same, hctx]; rfl
  refine ⟨⟨?_, ?_, fun k hk => ?_, by rw [hcx]; rfl, by rw [FlagsSame, hcx]; exact ⟨rfl, rfl⟩, ?_⟩, by rw [Retired, hcx]; exact ⟨rfl, rfl, rfl⟩,
    by rw [State.me_stored, Core.modCx_mem], by rw [State.me_stored, Core.modCx_bad], fun j hj => ?_, rfl⟩
  · rw [State.me_stored, State.stored_eq]; rfl
  · rw [State.me_stored]
    unfold Core.storedFrom at h
    generalize f s.me = c at h
    rw [h]; rfl
  · rw [State.me_stored, Core.cx_modCx_other _ _ hk, hctx]
  · unfold RegsSameBut State.readG State.readV State.readP State.readE State.readB
    rw [hcx]
    exact ⟨fun _ _ => rfl, fun _ _ => rfl, fun _ _ => rfl, fun _ _ => rfl, fun _ _ => rfl⟩
  · rw [State.stored_eq]; exact State.core_modMe_other s _ hj

/-- A store of bytes at a: what it leaves of memory elsewhere. -/
theorem memSameBut_stored_put (s : State) (a : Nat) (bs : List Byte) (len stl : Nat) :
    MemSameBut s (s.stored (fun c => c.put a bs) len stl) s.curCore a bs.length := by
  obtain ⟨-, -, hmem, -, hcores, hgmem⟩ := stored_spec (s := s) (f := fun c => c.put a bs) (Core.storedFrom_put s.me a bs) len stl
  refine ⟨fun j b hb => ?_, fun b => by rw [hgmem]⟩
  by_cases hj : j = s.curCore
  · subst hj
    rw [show (s.stored _ len stl).core s.curCore = (s.stored (fun c => c.put a bs) len stl).me from rfl, hmem, Core.byte_put, if_neg (by omega)]
    rfl
  · rw [hcores j hj]

end Sys2Proof.Machine
end

section
/-! SUPPORT. Scalar loads and stores (R249 to R251, R202): O12. -/

namespace Sys2Proof.Machine

variable {i : Instr} {s : State} {d : BitVec 5} {len stl n : Nat}

theorem outOfLocal_iff (a n : Nat) : outOfLocal a n = true ↔ 0x300000 < a + n := decide_eq_true_iff

/-- A load whose checks fail raises the first one, and otherwise writes its register (R49, R50, R250). -/
theorem loadsG_of_loadG {a : Word} {signed : Bool} {f : Nat → Word} (h : exec i s = s.loadG len stl d a n signed)
    (hf : ∀ x, extend signed n x = f x) : LoadsG i s len d a n f := by
  simp only [State.loadG, State.loadChecks, State.check_cons, State.check_nil, outOfLocal_iff, bne_iff_ne] at h
  unfold LoadsG Traps
  rw [h]
  split
  · rfl
  next hout =>
  split
  · rfl
  next halign =>
  split
  · rfl
  next hbad =>
  rw [if_neg hout, if_neg halign, if_neg hbad, writeG_countMem, hf] at h
  exact givesG_of_countMem h

/-- A store whose checks fail raises the first one, and otherwise writes its bytes (R49, R50, R250). -/
theorem storesG_of_storeG {a w : Word} (h : exec i s = s.storeG len stl w a n) : StoresG i s len w a n := by
  simp only [State.storeG, State.storeChecks, State.check_cons, State.check_nil, outOfLocal_iff, bne_iff_ne] at h
  unfold StoresG Traps
  split
  · next hout => rw [h, if_pos hout]; rfl
  next hout =>
  rw [if_neg hout] at h
  split
  · next halign => rw [h, if_pos halign]; rfl
  next halign =>
  rw [if_neg halign] at h
  split
  · next hprot => rw [h, if_pos hprot]; rfl
  next hprot =>
  rw [if_neg hprot] at h
  split
  · next hbad => rw [h, if_pos hbad]; rfl
  next hbad =>
  rw [if_neg hbad] at h
  obtain ⟨honly, hret, hmem, -⟩ := stored_spec (s := s) (f := fun c => c.put a.toNat (leBytes n w.toNat)) (Core.storedFrom_put s.me _ _) len stl
  have hbut := memSameBut_stored_put s a.toNat (leBytes n w.toNat) len stl
  rw [length_leBytes] at hbut
  refine ⟨_, h, honly, hret, hbut, fun k hk j hj => ?_⟩
  show (Memory.byte (s.stored (fun c => c.put a.toNat (leBytes n w.toNat)) len stl).me.mem (a.toNat + k)).getLsbD j = true ↔ _
  rw [hmem]
  exact Core.getLsbD_put_leBytes s.me a.toNat n w.toNat hk hj

/-- SignExtend (R221) is the sign extension of bit vectors. -/
theorem sext_eq_signExtend {n : Nat} (hn : 0 < n) (x : Nat) : sext n x = (BitVec.ofNat n x).signExtend 64 := by
  unfold sext BitVec.signExtend
  congr 1
  rw [BitVec.toInt_eq_toNat_cond, BitVec.toNat_ofNat, sgn]
  have hpow : 2 ^ n = 2 * 2 ^ (n - 1) := by rw [← pow_succ']; congr 1; omega
  by_cases h : x % 2 ^ n < 2 ^ (n - 1)
  · rw [if_pos h, if_pos (by omega)]
  · rw [if_neg h, if_neg (by omega)]

theorem extend_signed {n : Nat} (hn : 0 < n) (x : Nat) : extend true n x = (BitVec.ofNat (8 * n) x).signExtend 64 :=
  sext_eq_signExtend (by omega) x

/-- The address of an immediate form (R250). -/
theorem immAddr_eq (s : State) (a : BitVec 5) (i : BitVec 12) (n : Nat) : s.immAddr a i n = s.readG a + .ofNat 64 n * i.signExtend 64 := by
  rw [State.immAddr, imm12, BitVec.mul_comm]

/-- A load, by the number of bytes that it loads and how they fill the register. -/
theorem loadsG_unsigned {a : Word} (h : exec i s = s.loadG len stl d a n false) : LoadsG i s len d a n fun x => .ofNat 64 x :=
  loadsG_of_loadG h fun _ => rfl
theorem loadsG_signed {a : Word} (hn : 0 < n) (h : exec i s = s.loadG len stl d a n true) :
    LoadsG i s len d a n fun x => (BitVec.ofNat (8 * n) x).signExtend 64 := loadsG_of_loadG h fun _ => extend_signed hn _

section
variable {a : BitVec 5} {im : BitVec 12}

/-- The same at the address of an immediate form. -/
theorem loadsG_imm_unsigned (h : exec i s = s.loadG len stl d (s.immAddr a im n) n false) :
    LoadsG i s len d (s.readG a + .ofNat 64 n * im.signExtend 64) n fun x => .ofNat 64 x := loadsG_unsigned (by rw [h, immAddr_eq])
theorem loadsG_imm_signed (hn : 0 < n) (h : exec i s = s.loadG len stl d (s.immAddr a im n) n true) :
    LoadsG i s len d (s.readG a + .ofNat 64 n * im.signExtend 64) n fun x => (BitVec.ofNat (8 * n) x).signExtend 64 :=
  loadsG_signed hn (by rw [h, immAddr_eq])
theorem storesG_imm {w : Word} (h : exec i s = s.storeG len stl w (s.immAddr a im n) n) :
    StoresG i s len w (s.readG a + .ofNat 64 n * im.signExtend 64) n := storesG_of_storeG (by rw [h, immAddr_eq])

end

/-- Settles O12: each load is loadG and each store is storeG, at its address. -/
theorem scalarMemory : Obligations.ScalarMemory := by
  unfold Obligations.ScalarMemory
  refine ⟨fun st d a b i s => ?_, fun st d a b i s => ?_⟩
  · intro I A X U B H W
    have hI : I = 1 * I := (BitVec.one_mul I).symm
    refine ⟨?_, ?_, loadsG_imm_signed (by decide) rfl, loadsG_imm_unsigned rfl, loadsG_imm_signed (by decide) rfl, loadsG_imm_unsigned rfl,
      loadsG_imm_unsigned rfl, loadsG_signed (by decide) rfl, loadsG_unsigned rfl, loadsG_signed (by decide) rfl,
      loadsG_unsigned rfl, loadsG_signed (by decide) rfl, loadsG_unsigned rfl, loadsG_unsigned rfl, loadsG_unsigned rfl⟩
    · rw [hI]; exact loadsG_imm_signed (by decide) rfl
    · rw [hI]; exact loadsG_imm_unsigned rfl
  · intro I A X D
    have hI : I = 1 * I := (BitVec.one_mul I).symm
    refine ⟨?_, storesG_imm rfl, storesG_imm rfl, storesG_imm rfl, storesG_of_storeG rfl, storesG_of_storeG rfl, storesG_of_storeG rfl,
      storesG_of_storeG rfl, storesG_of_storeG rfl⟩
    rw [hI]; exact storesG_imm rfl

end Sys2Proof.Machine
end

section
/-! SUPPORT. Bit-granular accesses and the instructions of b registers (R53, R252, R253). -/

namespace Sys2Proof.Machine

variable {i : Instr} {s : State} {st : BitVec 3} {d : BitVec 5} {w : Word} {l : Nat}

/-! ### Numbers in memory, bit by bit (R7, R8) -/

/-- Bit j of a number in memory is bit j % 8 of its byte j / 8. -/
theorem Memory.testBit_num (m : Memory) (a n j : Nat) :
    (Memory.num m a n).testBit j = (decide (j < 8 * n) && (Memory.byte m (a + j / 8)).getLsbD (j % 8)) := by
  induction n generalizing a j with
  | zero => simp [Memory.num, Memory.read, leNat]
  | succ n ih =>
    have hb : (Memory.byte m a).toNat < 2 ^ 8 := (Memory.byte m a).isLt
    rw [Memory.num_succ, Nat.add_comm, show (256 : Nat) = 2 ^ 8 from rfl, Nat.testBit_two_pow_mul_add _ hb]
    by_cases h : j < 8
    · rw [if_pos h, show j / 8 = 0 by omega, Nat.mod_eq_of_lt h]
      simp [BitVec.getLsbD, show j < 8 * (n + 1) by omega]
    · rw [if_neg h, ih, show a + 1 + (j - 8) / 8 = a + j / 8 by omega, show (j - 8) % 8 = j % 8 by omega]
      congr 2
      exact propext (by omega)

/-- A field of a number in memory, bit by bit (R53). -/
theorem getLsbD_bitField (m : Memory) (p k : Nat) {j : Nat} (hj : j < 64) :
    (BitVec.ofNat 64 (fld (Memory.num m (p / 8) ((p + k + 7) / 8 - p / 8)) (p % 8) k)).getLsbD j =
      (decide (j < k) && (Memory.byte m ((p + j) / 8)).getLsbD ((p + j) % 8)) := by
  rw [BitVec.getLsbD_ofNat, fld, Nat.testBit_mod_two_pow, Nat.testBit_div_two_pow, Memory.testBit_num,
    show p / 8 + (j + p % 8) / 8 = (p + j) / 8 by omega, show (j + p % 8) % 8 = (p + j) % 8 by omega]
  by_cases h : j < k
  · simp [hj, h, show j + p % 8 < 8 * ((p + k + 7) / 8 - p / 8) by omega]
  · simp [h]

/-- A field replaced in a number in memory, bit by bit (R53). -/
theorem testBit_putField (m : Memory) (p x q : Nat) {k : Nat} (h1 : p / 8 ≤ q / 8) (h2 : q / 8 < p / 8 + ((p + k + 7) / 8 - p / 8)) :
    (putFld (Memory.num m (p / 8) ((p + k + 7) / 8 - p / 8)) (p % 8) k x).testBit (8 * (q / 8 - p / 8) + q % 8) =
      if p ≤ q ∧ q < p + k then x.testBit (q - p) else (Memory.byte m (q / 8)).getLsbD (q % 8) := by
  rw [testBit_putFld, Memory.testBit_num]
  by_cases h : p ≤ q ∧ q < p + k
  · rw [if_pos h, if_pos (by omega), show 8 * (q / 8 - p / 8) + q % 8 - p % 8 = q - p by omega]
  · rw [if_neg h, if_neg (by omega), show p / 8 + (8 * (q / 8 - p / 8) + q % 8) / 8 = q / 8 by omega,
      show (8 * (q / 8 - p / 8) + q % 8) % 8 = q % 8 by omega, decide_eq_true (by omega), Bool.true_and]

/-! ### The two accesses -/

/-- A bit-granular load of k bits at bit address p, as the statement of R252 has it. -/
theorem bitLoad_spec {p k : Nat} (h : exec i s = s.bitLoad st d p k) :
    let f := p / 8
    let z := (p + k + 7) / 8 - f
    if 0x1800000 < p + k then Traps i s { cause := 0x20, addr := .ofNat 64 f, info0 := z }
    else if s.me.badIn f z then Traps i s { cause := 0xA0 }
    else ∃ v : Word, GivesG i s 4 d v ∧
      ∀ j < 64, v.getLsbD j = (decide (j < k) && (Memory.byte s.me.mem ((p + j) / 8)).getLsbD ((p + j) % 8)) := by
  intro f z
  simp only [State.bitLoad, State.bitChecks, bitSpan, State.check_cons, State.check_nil, decide_eq_true_eq, Bool.false_and,
    Bool.false_eq_true, if_false] at h
  unfold Traps
  split
  · next hout => rw [h, if_pos hout]; rfl
  next hout =>
  rw [if_neg hout] at h
  split
  · next hbad => rw [h, if_pos hbad]; rfl
  next hbad =>
  rw [if_neg hbad] at h
  exact ⟨_, givesG_of_countMem h, fun j hj => getLsbD_bitField s.me.mem p k hj⟩

/-- A bit-granular store of k bits of w at bit address p. -/
theorem bitStore_spec {p k : Nat} (h : exec i s = s.bitStore st w p k) :
    let f := p / 8
    let z := (p + k + 7) / 8 - f
    if 0x1800000 < p + k then Traps i s { cause := 0x20, addr := .ofNat 64 f, info0 := z }
    else if s.storeProtected s.curCore s.isS f z then Traps i s { cause := 0x22, addr := .ofNat 64 f, info0 := z }
    else if s.me.badIn f z then Traps i s { cause := 0xA0 }
    else ∃ t, exec i s = .next t ∧ OnlyStored s t ∧ Retired s t 4 ∧ MemSameBut s t s.curCore f z ∧
      ∀ q, (Memory.byte t.me.mem (q / 8)).getLsbD (q % 8) = true ↔
        (if p ≤ q ∧ q < p + k then w.getLsbD (q - p) else (Memory.byte s.me.mem (q / 8)).getLsbD (q % 8)) = true ∧
          (f ≤ q / 8 → q / 8 < f + z → Kept (q / 8) (q % 8)) := by
  intro f z
  simp only [State.bitStore, State.bitChecks, bitSpan, State.check_cons, State.check_nil, decide_eq_true_eq, Bool.true_and] at h
  unfold Traps
  split
  · next hout => rw [h, if_pos hout]; rfl
  next hout =>
  rw [if_neg hout] at h
  split
  · next hprot => rw [h, if_pos hprot]; rfl
  next hprot =>
  rw [if_neg hprot] at h
  split
  · next hbad => rw [h, if_pos hbad]; rfl
  next hbad =>
  rw [if_neg hbad] at h
  have hlen : (leBytes z (putFld (s.load f z) (p % 8) k w.toNat)).length = z := length_leBytes _ _
  have hstored := stored_spec (s := s) (f := fun c => c.put f (leBytes z (putFld (s.load f z) (p % 8) k w.toNat)))
    (Core.storedFrom_put s.me _ _) 4 st.toNat
  have hbut := memSameBut_stored_put s f (leBytes z (putFld (s.load f z) (p % 8) k w.toNat)) 4 st.toNat
  rw [hlen] at hbut
  obtain ⟨honly, hret, hmem, -⟩ := hstored
  refine ⟨_, h, honly, hret, hbut, fun q => ?_⟩
  show (Memory.byte (s.stored _ 4 st.toNat).me.mem (q / 8)).getLsbD (q % 8) = true ↔ _
  rw [hmem]
  by_cases hin : f ≤ q / 8 ∧ q / 8 < f + z
  · have hput := Core.getLsbD_put_leBytes s.me f z (putFld (s.load f z) (p % 8) k w.toNat) (k := q / 8 - f) (j := q % 8) (by omega)
      (Nat.mod_lt _ (by decide))
    rw [show f + (q / 8 - f) = q / 8 by omega] at hput
    rw [hput, State.load, testBit_putField s.me.mem p w.toNat q hin.1 hin.2]
    simp only [hin, true_implies]
    rfl
  · rw [Core.byte_put, if_neg (by rw [hlen]; exact hin), if_neg (by omega)]
    exact ⟨fun hq => ⟨hq, fun h1 h2 => absurd ⟨h1, h2⟩ hin⟩, fun hq => hq.1⟩

/-- A write of a b register, retired (R253). -/
theorem givesB_of_writeB {n : BitVec 2} (h : exec i s = (s.writeB n w l).done st) : GivesB i s 4 n w := by
  rw [State.done, State.writeB, State.retire, State.modCx_modCx] at h
  refine ⟨_, h, ?_, changesRegs_modCx s _ _ _ rfl rfl rfl rfl rfl rfl (fun _ _ => rfl) (fun _ _ => rfl) (fun _ _ => rfl) (fun _ _ => rfl)
    fun m hm => ?_⟩
  · rw [readB_modCx]; exact SMap.get_put_same _ _ _ _
  · exact SMap.get_put_other _ _ _ (by simpa [keyB] using hm)

end Sys2Proof.Machine
end

section
/-! SUPPORT. Generic loads and stores (R54 to R58, R254): O13. -/

namespace Sys2Proof.Machine

variable {i : Instr} {s : State} {st : BitVec 3} {d a b : BitVec 5} {p : Word} {n : Nat}

/-! ### The bytes of a generic access (R55, R58) -/

theorem length_genericBytes (s : State) (p : Word) (n : Nat) : (s.genericBytes p n).length = n := by
  unfold State.genericBytes Core.bytesAt
  split <;> simp [span]

/-- Byte k of the number that a list of bytes holds. -/
theorem extractLsb'_leNat (bs : List Byte) (k : Nat) (hk : k < 8) :
    (BitVec.ofNat 64 (leNat bs)).extractLsb' (8 * k) 8 = bs.getD k 0 := by
  have hbyte : ∀ (bs : List Byte) (k : Nat), BitVec.ofNat 8 (leNat bs / 2 ^ (8 * k)) = bs.getD k 0 := by
    intro bs
    induction bs with
    | nil => intro k; simp [leNat]
    | cons x bs ih =>
      intro k
      cases k with
      | zero =>
        refine BitVec.eq_of_toNat_eq ?_
        have hx := x.isLt
        rw [BitVec.toNat_ofNat, leNat]
        simp only [List.getD_cons_zero, Nat.mul_zero, pow_zero, Nat.div_one]
        omega
      | succ k =>
        have hx := x.isLt
        rw [List.getD_cons_succ, ← ih k, leNat, show 8 * (k + 1) = 8 + 8 * k by omega, pow_add, ← Nat.div_div_eq_div_mul]
        congr 2
        omega
  rw [← hbyte]
  refine BitVec.eq_of_toNat_eq ?_
  rw [BitVec.extractLsb'_toNat, BitVec.toNat_ofNat, BitVec.toNat_ofNat, Nat.shiftRight_eq_div_pow]
  interval_cases k <;> omega

/-- An uncorrectable error that an access meets: in what it reads, or in a doubleword that a store does not cover (R68). -/
theorem genericBad_iff (s : State) (as : List Nat) (write : Bool) :
    (s.me.bad.any fun d => (as.any fun a => a / 8 == d) && !(write && (span (8 * d) 8).all fun a => as.contains a)) = true ↔
      ∃ x ∈ as, x / 8 ∈ s.me.bad ∧ (write = true → ∃ j < 8, x / 8 * 8 + j ∉ as) := by
  simp only [List.any_eq_true, Bool.and_eq_true, Bool.not_eq_true', Bool.and_eq_false_iff, List.all_eq_false, beq_iff_eq, span, List.mem_map,
    List.mem_range, List.contains_iff_mem]
  constructor
  · rintro ⟨d, hd, ⟨x, hx, rfl⟩, hcover⟩
    refine ⟨x, hx, hd, fun hw => ?_⟩
    obtain h | ⟨y, ⟨j, hj, rfl⟩, hy⟩ := hcover
    · rw [hw] at h; cases h
    · exact ⟨j, hj, by rwa [Nat.mul_comm]⟩
  · rintro ⟨x, hx, hd, hcover⟩
    refine ⟨x / 8, hd, ⟨x, hx, rfl⟩, ?_⟩
    cases write with
    | false => exact .inl rfl
    | true =>
      obtain ⟨j, hj, hy⟩ := hcover rfl
      exact .inr ⟨_, ⟨j, hj, rfl⟩, by rwa [Nat.mul_comm]⟩

/-! ### The bytes that a generic store writes -/

/-- Bytes put one by one at addresses other than x leave x as it is. -/
theorem Core.byte_puts_other (ws : List (Nat × Byte)) (c : Core) {x : Nat} (h : ∀ e ∈ ws, e.1 ≠ x) :
    Memory.byte (ws.foldl (fun c e => c.put e.1 [e.2]) c).mem x = Memory.byte c.mem x := by
  induction ws generalizing c with
  | nil => rfl
  | cons e ws ih =>
    have he := h e List.mem_cons_self
    rw [List.foldl_cons, ih _ fun e he => h e (List.mem_cons_of_mem _ he), Core.byte_put, if_neg (by simp; omega)]

/-- Of bytes put one by one, one whose address no later one has stands, but for the bits that read zero. -/
theorem Core.byte_puts_last (ws vs : List (Nat × Byte)) (c : Core) {x : Nat} {v : Byte} (h : ∀ e ∈ vs, e.1 ≠ x) :
    Memory.byte ((ws ++ (x, v) :: vs).foldl (fun c e => c.put e.1 [e.2]) c).mem x = v &&& keptBits x := by
  rw [List.foldl_append, List.foldl_cons, Core.byte_puts_other vs _ h, Core.byte_put, if_pos (by simp)]
  simp

theorem Core.mem_putAll (c : Core) (ws : List (Nat × Byte)) : (c.putAll ws).mem = (ws.foldl (fun c e => c.put e.1 [e.2]) c).mem := rfl

section
variable (c : Core) (as : List Nat) (x : Nat)

/-- Bytes stored at addresses of a list leave every other byte. -/
theorem Core.byte_putAll_other (bs : List Byte) (h : x ∉ as) : Memory.byte (c.putAll (as.zip bs)).mem x = Memory.byte c.mem x := by
  rw [Core.mem_putAll]
  exact Core.byte_puts_other _ c fun e he hx => h (hx ▸ (List.of_mem_zip he).1)

/-- A byte stored at an address that no other one has stands there. -/
theorem Core.byte_putAll_at (bs : List Byte) {k : Nat} (hk : k < as.length) (hlen : bs.length = as.length)
    (h : ∀ j < as.length, j ≠ k → as.getD j 0 ≠ as.getD k 0) :
    Memory.byte (c.putAll (as.zip bs)).mem (as.getD k 0) = bs.getD k 0 &&& keptBits (as.getD k 0) := by
  have hk' : k < bs.length := by omega
  have hz : k < (as.zip bs).length := by simp; omega
  rw [Core.mem_putAll, ← List.take_append_drop k (as.zip bs), List.drop_eq_getElem_cons hz, List.getElem_zip,
    List.getD_eq_getElem _ _ hk, List.getD_eq_getElem _ _ hk']
  refine Core.byte_puts_last _ _ c fun e he hx => ?_
  obtain ⟨j, hj, rfl⟩ := List.mem_iff_getElem.1 he
  have hj' : k + 1 + j < as.length := by simp at hj; omega
  rw [List.getElem_drop, List.getElem_zip] at hx
  exact h (k + 1 + j) hj' (by omega) (by rw [List.getD_eq_getElem _ _ hj', List.getD_eq_getElem _ _ hk]; exact hx)

/-- A doubleword that the bytes cover is good again (R68). -/
theorem Core.good_putAll (bs : List Byte) (hlen : as.length ≤ bs.length) (h : ∀ j < 8, x / 8 * 8 + j ∈ as) : x / 8 ∉ (c.putAll (as.zip bs)).bad := by
  have hkeys : ∀ a, (as.zip bs).any (fun e => e.1 == a) = true ↔ a ∈ as := by
    intro a
    rw [List.any_eq_true]
    refine ⟨fun ⟨e, he, ha⟩ => (beq_iff_eq.1 ha) ▸ (List.of_mem_zip he).1, fun ha => ?_⟩
    obtain ⟨j, hj, rfl⟩ := List.mem_iff_getElem.1 ha
    exact ⟨(as[j], bs[j]), List.mem_iff_getElem.2 ⟨j, by simp; omega, by simp⟩, beq_self_eq_true _⟩
  intro hbad
  have hopen := (List.mem_filter.1 hbad).2
  rw [Bool.not_eq_true', List.all_eq_false] at hopen
  obtain ⟨y, hy, hno⟩ := hopen
  obtain ⟨j, hj, rfl⟩ := List.mem_map.1 hy
  exact hno ((hkeys _).2 (by rw [Nat.mul_comm]; exact h j (List.mem_range.1 hj)))

end

/-! ### The two instructions -/

/-- The check of the pointer (R57). -/
theorem pointerCheck_of_fault {u : PtrUse} {c : Nat} (h : s.pointerFault u p n = some c) :
    s.pointerCheck u p n 0 = (true, accessRec c (s.pointerAddr c p) n 0) := by rw [State.pointerCheck, h]
theorem pointerCheck_of_none {u : PtrUse} (h : s.pointerFault u p n = none) : s.pointerCheck u p n 0 = (false, {}) := by
  rw [State.pointerCheck, h]

theorem genericLoad_spec (h : exec i s = s.genericLoad st d a b n) :
    let p := s.readG a + s.readG b
    (∀ c, s.pointerFault .load p n = some c → Traps i s (accessRec c (s.pointerAddr c p) n 0)) ∧
    (s.pointerFault .load p n = none → (∃ x ∈ s.genericBytes p n, x / 8 ∈ s.me.bad) → Traps i s { cause := 0xA0 }) ∧
    (s.pointerFault .load p n = none → (∀ x ∈ s.genericBytes p n, x / 8 ∉ s.me.bad) →
      ∃ v : Word, GivesG i s 4 d v ∧ ∀ k < 8, v.extractLsb' (8 * k) 8 =
        if k < n then Memory.byte s.me.mem ((s.genericBytes p n).getD k 0) else 0) := by
  intro p
  replace h : exec i s = s.check (s.genericChecks p n false)
    (s.countMem.result st d (.ofNat 64 (leNat ((s.genericBytes p n).map fun a => Memory.byte s.me.mem a))) 4) := h
  unfold State.genericChecks at h
  dsimp only at h
  rw [if_neg Bool.false_ne_true] at h
  refine ⟨fun c hc => ?_, fun hnone hbad => ?_, fun hnone hgood => ?_⟩
  · rw [pointerCheck_of_fault hc, State.check_cons, if_pos rfl] at h; exact h
  · rw [pointerCheck_of_none hnone, State.check_cons, if_neg Bool.false_ne_true, State.check_cons, if_pos] at h
    · exact h
    · obtain ⟨x, hx, hd⟩ := hbad
      exact (genericBad_iff s _ false).2 ⟨x, hx, hd, nofun⟩
  · rw [pointerCheck_of_none hnone, State.check_cons, if_neg Bool.false_ne_true, State.check_cons, if_neg] at h
    · refine ⟨_, givesG_of_countMem h, fun k hk => ?_⟩
      have hlen := length_genericBytes s p n
      rw [extractLsb'_leNat _ _ hk]
      split
      · next hkn =>
        rw [List.getD_eq_getElem _ _ (by rw [List.length_map, hlen]; exact hkn), List.getElem_map, List.getD_eq_getElem _ _ (by omega)]
      · rw [List.getD_eq_default _ _ (by rw [List.length_map, hlen]; omega)]
    · intro hbad
      obtain ⟨x, hx, hd, -⟩ := (genericBad_iff s _ false).1 hbad
      exact hgood x hx hd

theorem genericStore_spec (h : exec i s = s.genericStore st d a b n) :
    let p := s.readG a + s.readG b
    (∀ c, s.pointerFault .store p n = some c → Traps i s (accessRec c (s.pointerAddr c p) n 0)) ∧
    (s.pointerFault .store p n = none → (∃ x ∈ s.genericBytes p n, x / 8 ∈ s.me.bad ∧ ∃ j < 8, x / 8 * 8 + j ∉ s.genericBytes p n) →
      Traps i s { cause := 0xA0 }) ∧
    (s.pointerFault .store p n = none → (∀ x ∈ s.genericBytes p n, x / 8 ∈ s.me.bad → ∀ j < 8, x / 8 * 8 + j ∈ s.genericBytes p n) →
      ∃ t, exec i s = .next t ∧ OnlyStored s t ∧ Retired s t 4 ∧ (∀ x ∈ s.genericBytes p n, x / 8 ∉ t.me.bad) ∧
        (∀ x, x ∉ s.genericBytes p n → Memory.byte t.me.mem x = Memory.byte s.me.mem x) ∧
        ∀ k < n, (∀ j < n, j ≠ k → (s.genericBytes p n).getD j 0 ≠ (s.genericBytes p n).getD k 0) →
          ∀ j < 8, (Memory.byte t.me.mem ((s.genericBytes p n).getD k 0)).getLsbD j = true ↔
            (s.readG d).getLsbD (8 * k + j) = true ∧ Kept ((s.genericBytes p n).getD k 0) j) := by
  intro p
  replace h : exec i s = s.check (s.genericChecks p n true)
    (.next (s.stored (fun c => c.putAll ((s.genericBytes p n).zip (leBytes n (s.readG d).toNat))) 4 st.toNat)) := h
  unfold State.genericChecks at h
  dsimp only at h
  rw [if_pos rfl] at h
  refine ⟨fun c hc => ?_, fun hnone hbad => ?_, fun hnone hgood => ?_⟩
  · rw [pointerCheck_of_fault hc, State.check_cons, if_pos rfl] at h; exact h
  · rw [pointerCheck_of_none hnone, State.check_cons, if_neg Bool.false_ne_true, State.check_cons, if_pos] at h
    · exact h
    · obtain ⟨x, hx, hd, hopen⟩ := hbad
      exact (genericBad_iff s _ true).2 ⟨x, hx, hd, fun _ => hopen⟩
  · rw [pointerCheck_of_none hnone, State.check_cons, if_neg Bool.false_ne_true, State.check_cons, if_neg] at h
    · have hlen := length_genericBytes s p n
      obtain ⟨honly, hret, hmem, hbad, -⟩ := stored_spec (s := s)
        (f := fun c => c.putAll ((s.genericBytes p n).zip (leBytes n (s.readG d).toNat))) (Core.storedFrom_putAll s.me _) 4 st.toNat
      refine ⟨_, h, honly, hret, fun x hx => ?_, fun x hx => ?_, fun k hk halone j hj => ?_⟩
      · rw [hbad]
        by_cases hd : x / 8 ∈ s.me.bad
        · exact Core.good_putAll s.me _ x _ (by simp [hlen]) (hgood x hx hd)
        · exact fun hin => hd (List.mem_filter.1 hin).1
      · rw [hmem]; exact Core.byte_putAll_other s.me _ x _ hx
      · rw [hmem, Core.byte_putAll_at s.me _ _ (by omega) (by simp [hlen]) (by rwa [hlen]), BitVec.getLsbD_and, Bool.and_eq_true,
          getLsbD_keptBits _ hj, getLsbD_getD_leBytes _ _ hk hj]
        rfl
    · intro hbad
      obtain ⟨x, hx, hd, hopen⟩ := (genericBad_iff s _ true).1 hbad
      obtain ⟨j, hj, hno⟩ := hopen rfl
      exact hno (hgood x hx hd j hj)

/-- Settles O13: each instruction is its access, at the width that its operand gives. -/
theorem bitGranularAndGenericAccess : Obligations.BitGranularAndGenericAccess := by
  unfold Obligations.BitGranularAndGenericAccess
  refine ⟨fun st d a n w s => ?_, fun st d a b s => ?_⟩
  · intro p loads stores width
    have hwidth : wfld (s.readG a) 0 6 + 1 = width := by simp [wfld, fld, width]
    have hbld : exec (.bld st d n a) s = s.bitLoad st d p width := by rw [← hwidth]; rfl
    have hbst : exec (.bst st d n a) s = s.bitStore st (s.readG d) p width := by rw [← hwidth]; rfl
    exact ⟨bitLoad_spec hbld, bitStore_spec hbst, bitLoad_spec rfl, bitStore_spec rfl, givesB_of_writeB rfl,
      givesGAfter_of_result rfl, givesB_of_writeB rfl⟩
  · intro p loads stores
    exact ⟨genericLoad_spec rfl, genericLoad_spec rfl, genericLoad_spec rfl, genericLoad_spec rfl,
      genericStore_spec rfl, genericStore_spec rfl, genericStore_spec rfl, genericStore_spec rfl⟩

end Sys2Proof.Machine
end

section
/-! SUPPORT. Testing, casting and building pointers, and iflush (R255 to R257, R262): O14. -/

namespace Sys2Proof.Machine

variable {s : State} {st : BitVec 3} {d a b : BitVec 5} {p q : Word}

/-! ### Fields of a pointer (R54) -/

theorem wfld_eq (w : Word) (lo n : Nat) : wfld w lo n = w.toNat / 2 ^ lo % 2 ^ n := rfl

theorem wfld_low (w : Word) (n : Nat) : wfld w 0 n = w.toNat % 2 ^ n := by rw [wfld_eq, pow_zero, Nat.div_one]

/-- The space of a pointer. -/
theorem wfld_space (p : Word) : wfld p 61 3 = p.toNat / 2 ^ 61 := by
  have := p.isLt
  rw [wfld_eq]; omega

/-- GOOD: rows 1 and 2 of R57. -/
theorem goodPointer_iff (p : Word) :
    goodPointer p = true ↔ p.toNat < 2 ^ 63 ∧ (p.toNat / 2 ^ 61 = 3 → p.toNat / 2 ^ 48 % 2 ^ 13 = 0) := by
  rw [goodPointer, wfld_space, wfld_eq]
  simp only [Bool.and_eq_true, decide_eq_true_eq, Bool.not_eq_true', Bool.and_eq_false_iff, beq_eq_false_iff_ne, bne_eq_false_iff_eq]
  omega

/-! ### sptst (R255) -/

/-- The word that sptst writes, by its parts. -/
def testWord (laddr sp : Nat) (rem cpy gen own good : Bool) : Word :=
  .ofNat 64 (laddr * 2 ^ 32 + rem.toNat * 2 ^ 7 + cpy.toNat * 2 ^ 6 + gen.toNat * 2 ^ 5 + own.toNat * 2 ^ 4 + good.toNat * 2 ^ 3 + sp)

theorem toNat_testWord {laddr sp : Nat} (hl : laddr < 2 ^ 22) (hs : sp < 8) (rem cpy gen own good : Bool) :
    (testWord laddr sp rem cpy gen own good).toNat =
      laddr * 2 ^ 32 + rem.toNat * 2 ^ 7 + cpy.toNat * 2 ^ 6 + gen.toNat * 2 ^ 5 + own.toNat * 2 ^ 4 + good.toNat * 2 ^ 3 + sp := by
  have h1 := rem.toNat_le; have h2 := cpy.toNat_le; have h3 := gen.toNat_le; have h4 := own.toNat_le; have h5 := good.toNat_le
  rw [testWord, BitVec.toNat_ofNat, Nat.mod_eq_of_lt]
  omega

/-- A bit of a word, as its number has it. -/
theorem getLsbD_of_toNat {w : Word} {n k : Nat} {v : Bool} (hw : w.toNat = n) (h : n / 2 ^ k % 2 = v.toNat) : w.getLsbD k = v := by
  rw [← wbit_eq_getLsbD, wbit, hw, h]
  cases v <;> rfl

/-- The parts stand in the fields of R255. -/
theorem testWord_fields {laddr sp : Nat} (hl : laddr < 2 ^ 22) (hs : sp < 8) (rem cpy gen own good : Bool) :
    let w := testWord laddr sp rem cpy gen own good
    wfld w 0 3 = sp ∧ w.getLsbD 3 = good ∧ w.getLsbD 4 = own ∧ w.getLsbD 5 = gen ∧ w.getLsbD 6 = cpy ∧ w.getLsbD 7 = rem ∧
    wfld w 8 24 = 0 ∧ wfld w 54 10 = 0 ∧ wfld w 32 22 = laddr := by
  have h1 := rem.toNat_le; have h2 := cpy.toNat_le; have h3 := gen.toNat_le; have h4 := own.toNat_le; have h5 := good.toNat_le
  have hw := toNat_testWord hl hs rem cpy gen own good
  generalize testWord laddr sp rem cpy gen own good = w at hw
  simp only [wfld_eq, hw]
  refine ⟨?_, getLsbD_of_toNat hw ?_, getLsbD_of_toNat hw ?_, getLsbD_of_toNat hw ?_, getLsbD_of_toNat hw ?_, getLsbD_of_toNat hw ?_, ?_, ?_, ?_⟩ <;> omega

/-- The local address that sptst names. -/
def State.testAddr (s : State) (p : Word) : Nat :=
  if passesRow8 (s.pointerFault .load p 1) then (s.genericBytes p 1).headD 0 % 2 ^ 22
  else if p.toNat / 2 ^ 61 = 2 ∧ p.toNat % 2 ^ 57 < 0x300000 then p.toNat % 2 ^ 57 else 0

theorem State.testAddr_lt (s : State) (p : Word) : s.testAddr p < 2 ^ 22 := by
  unfold State.testAddr
  split
  · exact Nat.mod_lt _ (by decide)
  · split <;> omega

/-- Whether a pointer names the issuing core. -/
def State.ownsPointer (s : State) (p : Word) : Bool :=
  if wfld p 61 3 < 2 then wfld p 50 11 == s.curCore else wfld p 61 3 == 2 && wfld p 57 4 == memberIndex s.curCore

theorem State.ownsPointer_iff (s : State) (p : Word) : s.ownsPointer p = true ↔
    (p.toNat / 2 ^ 61 < 2 ∧ p.toNat / 2 ^ 50 % 2 ^ 11 = s.curCore) ∨
    (p.toNat / 2 ^ 61 = 2 ∧ p.toNat / 2 ^ 57 % 16 = s.curCore / 64 % 4 * 4 + s.curCore % 4) := by
  unfold State.ownsPointer
  rw [wfld_space, wfld_eq, wfld_eq, memberIndex]
  split
  · next h => rw [beq_iff_eq]; omega
  · next h =>
    rw [Bool.and_eq_true, beq_iff_eq, beq_iff_eq]
    exact ⟨.inr, fun hown => hown.resolve_left fun hlow => h hlow.1⟩

theorem pointerTest_eq (s : State) (p : Word) : s.pointerTest p =
    testWord (s.testAddr p) (wfld p 61 3) (passesRow7 (s.pointerFault .remote p 1)) (passesRow7 (s.pointerFault .copySrc p 1))
      (passesRow8 (s.pointerFault .load p 1)) (s.ownsPointer p) (goodPointer p) := by
  have hbit : ∀ (v : Bool) (k : Nat), (if v = true then 2 ^ k else 0) = v.toNat * 2 ^ k := by intro v k; cases v <;> simp
  have haddr : (if passesRow8 (s.pointerFault .load p 1) = true then (s.genericBytes p 1).headD 0 % 2 ^ 22
      else if (wfld p 61 3 = 2 && decide (wfld p 0 57 < Config.localTop)) = true then wfld p 0 22 else 0) = s.testAddr p := by
    unfold State.testAddr
    rw [wfld_space, wfld_low, wfld_low]
    split
    · rfl
    · have hiff : (decide (p.toNat / 2 ^ 61 = 2) && decide (p.toNat % 2 ^ 57 < Config.localTop)) = true ↔
          p.toNat / 2 ^ 61 = 2 ∧ p.toNat % 2 ^ 57 < 0x300000 := by
        rw [Bool.and_eq_true, decide_eq_true_eq, decide_eq_true_eq]; rfl
      by_cases h : p.toNat / 2 ^ 61 = 2 ∧ p.toNat % 2 ^ 57 < 0x300000
      · rw [if_pos h, if_pos (hiff.2 h)]; omega
      · rw [if_neg h, if_neg (mt hiff.1 h)]
  unfold State.pointerTest testWord
  dsimp only
  rw [haddr]
  simp only [hbit]
  rfl

theorem sptst_spec (st : BitVec 3) (d a : BitVec 5) (s : State) :
    let p := s.readG a
    (s.windowBad p = true → Traps (.sptst st d a) s { cause := 0xA0 }) ∧
    (s.windowBad p = false → GivesG (.sptst st d a) s 4 d (s.pointerTest p)) := by
  intro p
  have h : exec (.sptst st d a) s = s.check [(s.windowBad p, accessRec 0xA0 p 1 0)] (s.result st d (s.pointerTest p) 0) := rfl
  rw [State.check_cons, State.check_nil] at h
  refine ⟨fun hb => ?_, fun hb => ?_⟩
  · rw [Traps, h, if_pos hb]; rfl
  · rw [hb, if_neg Bool.false_ne_true] at h
    exact givesGAfter_of_result h

/-! ### spcst (R256) -/

theorem casts_of_ok {c : BitVec 3} {t : Nat} (ht : c.toNat = t) (h : s.cast (s.readG a) t = .ok q) : GivesG (.spcst st d a c) s 4 d q := by
  subst ht
  refine givesGAfter_of_result (l := 0) (st := st) ?_
  show execSpcst st d a c s = _
  unfold execSpcst; rw [h]

theorem refuses_of_error {c : BitVec 3} {t e : Nat} {r : FaultRec} (ht : c.toNat = t) (h : s.cast (s.readG a) t = .error e)
    (hr : accessRec e (s.readG a) 0 0 = r) : Traps (.spcst st d a c) s r := by
  subst ht hr
  show execSpcst st d a c s = _
  unfold execSpcst; rw [h]

section
variable {t : Nat}

theorem cast_of_noSpace (h : 2 ^ 63 ≤ p.toNat) : s.cast p t = .error 0x23 := by
  have hsp : 4 ≤ wfld p 61 3 := by rw [wfld_space]; omega
  unfold State.cast
  dsimp only
  rw [if_pos hsp]

theorem cast_of_not_good (h : p.toNat / 2 ^ 61 = 3) (hg : goodPointer p = false) : s.cast p t = .error 0x24 := by
  unfold State.cast
  dsimp only
  rw [wfld_space, h, if_neg (by decide), hg, if_pos (by decide)]

section
variable (hg : goodPointer p = true)
include hg

theorem cast_of_good (s : State) : s.cast p t = if 4 ≤ t then .error 0x23 else if wfld p 61 3 = t then .ok p else s.cast p t := by
  have hsp : ¬4 ≤ wfld p 61 3 := by
    have := ((goodPointer_iff p).1 hg).1
    rw [wfld_space]; omega
  by_cases ht : 4 ≤ t
  · rw [if_pos ht]
    unfold State.cast
    dsimp only
    rw [if_neg hsp, hg, if_neg (by decide), if_pos ht]
  · rw [if_neg ht]
    split
    · next he =>
      unfold State.cast
      dsimp only
      rw [if_neg hsp, hg, if_neg (by decide), if_neg ht, if_pos he]
    · rfl

/-- A window pointer to the cluster's view of the same byte (R256). -/
theorem cast_window_shared (h : wfld p 61 3 = 0) : s.cast p 2 =
    if wfld p 50 11 != s.curCore then .error 0x26
    else if s.windowBad p then .error 0xA0
    else if decide (11 < wfld p 46 4) || (wfld p 46 4 == 11 && !s.isS) || decide ((s.me.window (wfld p 46 4)).2 < wfld p 0 46 + 1) then .error 0x28
    else .ok (.ofNat 64 (2 * 2 ^ 61 + memberIndex s.curCore * 2 ^ 57 + ((s.me.window (wfld p 46 4)).1 + wfld p 0 46))) := by
  unfold State.cast
  simp only [h, hg]
  rfl

/-- A scratch pointer to the cluster's view. -/
theorem cast_scratch_shared (h : wfld p 61 3 = 1) : s.cast p 2 =
    if wfld p 50 11 != s.curCore then .error 0x27
    else if s.windowBad p then .error 0xA0
    else if !s.me.hasScratch then .error 0x2F
    else .ok (.ofNat 64 (2 * 2 ^ 61 + memberIndex s.curCore * 2 ^ 57 + s.me.scratchAddr (wfld p 0 50))) := by
  unfold State.cast
  simp only [h, hg]
  rfl

/-- The cluster's view to the window of the issuing context. -/
theorem cast_shared_window (h : wfld p 61 3 = 2) : s.cast p 0 =
    if wfld p 57 4 != memberIndex s.curCore then .error 0x2B
    else if s.me.badIn (0x1100 + 8 * s.curCtx) 8 then .error 0xA0
    else if !(decide ((s.me.window s.curCtx).1 ≤ wfld p 0 57) && decide (wfld p 0 57 < (s.me.window s.curCtx).1 + (s.me.window s.curCtx).2)) then
      .error 0x28
    else .ok (.ofNat 64 (s.curCore * 2 ^ 50 + s.curCtx * 2 ^ 46 + (wfld p 0 57 - (s.me.window s.curCtx).1))) := by
  unfold State.cast
  simp only [h, hg]
  rfl

/-- The cluster's view to the scratch space. -/
theorem cast_shared_scratch (h : wfld p 61 3 = 2) : s.cast p 1 =
    if wfld p 57 4 != memberIndex s.curCore then .error 0x2B
    else if s.me.badIn 0x1160 8 then .error 0xA0
    else if !s.me.hasScratch || !(decide (fld (Memory.num s.me.mem 0x1160 8) 0 22 ≤ wfld p 0 57) &&
        decide (wfld p 0 57 < fld (Memory.num s.me.mem 0x1160 8) 0 22 + 2 ^ fld (Memory.num s.me.mem 0x1160 8) 32 6)) then .error 0x2B
    else .ok (.ofNat 64 (2 ^ 61 + s.curCore * 2 ^ 50 + (wfld p 0 57 - fld (Memory.num s.me.mem 0x1160 8) 0 22))) := by
  unfold State.cast
  simp only [h, hg]
  rfl

/-- Between other spaces there is no cast. -/
theorem cast_of_no_way (h : (wfld p 61 3 = 0 ∧ t = 1) ∨ (wfld p 61 3 = 1 ∧ t = 0) ∨ (wfld p 61 3 = 3 ∧ t < 3) ∨ (wfld p 61 3 < 3 ∧ t = 3)) :
    s.cast p t = .error 0x2B := by
  have hcases : ∀ n k : Nat, wfld p 61 3 = n → t = k → n < 4 → k < 4 → n ≠ k →
      (n, k) ≠ (0, 2) → (n, k) ≠ (1, 2) → (n, k) ≠ (2, 0) → (n, k) ≠ (2, 1) → s.cast p t = .error 0x2B := by
    intro n k hn hk h1 h2 h3 h4 h5 h6 h7
    subst hk
    unfold State.cast
    simp only [hn, hg, if_neg (Nat.not_le.2 h1), if_neg (Nat.not_le.2 h2), if_neg h3, Bool.not_true, Bool.false_eq_true, if_false]
    split
    · exact absurd rfl h4
    · exact absurd rfl h5
    · exact absurd rfl h6
    · exact absurd rfl h7
    · rfl
  obtain ⟨hp, ht⟩ | ⟨hp, ht⟩ | ⟨hp, ht⟩ | ⟨hp, ht⟩ := h
  · exact hcases 0 1 hp ht (by decide) (by decide) (by decide) (by decide) (by decide) (by decide) (by decide)
  · exact hcases 1 0 hp ht (by decide) (by decide) (by decide) (by decide) (by decide) (by decide) (by decide)
  · exact hcases 3 t hp rfl (by decide) (by omega) (by omega) (by simp) (by simp) (by simp) (by simp)
  · refine hcases _ 3 rfl ht (by omega) (by decide) (by omega) ?_ ?_ ?_ ?_ <;> simp

end
end

/-! ### spmk (R257) -/

theorem builds_of_ok (h : s.build (s.readG a) (s.readG b) = .ok q) : GivesG (.spmk st d a b) s 4 d q :=
  givesGAfter_of_result (l := 0) (st := st) (by
    show execSpmk st d a b s = _
    unfold execSpmk; rw [h])

theorem refuses_build {e : Nat} (h : s.build (s.readG a) (s.readG b) = .error e) : Traps (.spmk st d a b) s (accessRec e (s.readG a) 0 0) := by
  show execSpmk st d a b s = _
  unfold execSpmk; rw [h]

/-- What a choice between a fault and a pointer gives. -/
theorem builds_of_ite {x : Bool} {r : Word} {ok : Prop} (h : s.build (s.readG a) (s.readG b) = if x then .error 0x2C else .ok r)
    (hok : x = true ↔ ¬ok) :
    (ok → GivesG (.spmk st d a b) s 4 d r) ∧ (¬ok → Traps (.spmk st d a b) s { cause := 0x2C, addr := s.readG a }) := by
  refine ⟨fun ho => builds_of_ok (h.trans (if_neg ?_)), fun ho => refuses_build (h.trans (if_pos (hok.2 ho)))⟩
  exact fun hx => hok.1 hx ho


/-- spmk by the space that bits 2 to 0 of gb name. -/
theorem build_window (s : State) (o k : Word) (h : wfld k 0 3 = 0) : s.build o k =
    if decide (2 ^ 46 ≤ o.toNat) || decide (11 < wfld k 3 4) || (!wbit k 24 && !s.onMesh (wfld k 8 11)) then .error 0x2C
    else .ok (.ofNat 64 ((if wbit k 24 then s.curCore else wfld k 8 11) * 2 ^ 50 + wfld k 3 4 * 2 ^ 46 + o.toNat)) := by
  unfold State.build; simp only [h]
theorem build_scratch (s : State) (o k : Word) (h : wfld k 0 3 = 1) : s.build o k =
    if decide (2 ^ 50 ≤ o.toNat) || (!wbit k 24 && !s.onMesh (wfld k 8 11)) then .error 0x2C
    else .ok (.ofNat 64 (2 ^ 61 + (if wbit k 24 then s.curCore else wfld k 8 11) * 2 ^ 50 + o.toNat)) := by
  unfold State.build; simp only [h]
theorem build_shared (s : State) (o k : Word) (h : wfld k 0 3 = 2) : s.build o k =
    if decide (2 ^ 57 ≤ o.toNat) then .error 0x2C
    else .ok (.ofNat 64 (2 * 2 ^ 61 + (if wbit k 24 then memberIndex s.curCore else wfld k 20 4) * 2 ^ 57 + o.toNat)) := by
  unfold State.build; simp only [h, decide_eq_true_eq]
theorem build_global (s : State) (o k : Word) (h : wfld k 0 3 = 3) : s.build o k =
    if decide (2 ^ 48 ≤ o.toNat) then .error 0x2C else .ok (.ofNat 64 (3 * 2 ^ 61 + o.toNat)) := by
  unfold State.build; simp only [h, decide_eq_true_eq]
theorem build_of_no_space (s : State) (o k : Word) (h : 4 ≤ wfld k 0 3) : s.build o k = .error 0x23 := by
  unfold State.build
  dsimp only
  split
  · next h0 => omega
  · next h1 => omega
  · next h2 => omega
  · next h3 => omega
  · rfl

/-- The owner that spmk names, and whether its core exists. -/
theorem spmk_owner (s : State) (k : Word) :
    (if wbit k 24 then s.curCore else wfld k 8 11) = (if k.getLsbD 24 then s.curCore else k.toNat / 256 % 2048) ∧
    ((!wbit k 24 && !s.onMesh (wfld k 8 11)) = true ↔
      ¬(k.getLsbD 24 = true ∨ (if k.getLsbD 24 then s.curCore else k.toNat / 256 % 2048) < 64 * s.meshRows)) := by
  rw [wbit_eq_getLsbD]
  refine ⟨rfl, ?_⟩
  cases hk : k.getLsbD 24 with
  | true => simp
  | false =>
    rw [Bool.not_false, Bool.true_and, Bool.not_eq_true', State.onMesh, decide_eq_false_iff_not, wfld_eq]
    simp

theorem spmk_spec (st : BitVec 3) (d a b : BitVec 5) (s : State) :
    let p := s.readG a
    let k := s.readG b
    let m := s.curCore / 64 % 4 * 4 + s.curCore % 4
    let owner := if k.getLsbD 24 then s.curCore else k.toNat / 256 % 2048
    let ownerOk := k.getLsbD 24 = true ∨ owner < 64 * s.meshRows
    let builds := fun (ok : Prop) (r : Nat) =>
      (ok → GivesG (.spmk st d a b) s 4 d (.ofNat 64 r)) ∧ (¬ok → Traps (.spmk st d a b) s { cause := 0x2C, addr := p })
    (k.toNat % 8 = 0 → builds (p.toNat < 2 ^ 46 ∧ k.toNat / 8 % 16 ≤ 11 ∧ ownerOk)
      (owner * 2 ^ 50 + k.toNat / 8 % 16 * 2 ^ 46 + p.toNat)) ∧
    (k.toNat % 8 = 1 → builds (p.toNat < 2 ^ 50 ∧ ownerOk) (2 ^ 61 + owner * 2 ^ 50 + p.toNat)) ∧
    (k.toNat % 8 = 2 → builds (p.toNat < 2 ^ 57)
      (2 * 2 ^ 61 + (if k.getLsbD 24 then m else k.toNat / 2 ^ 20 % 16) * 2 ^ 57 + p.toNat)) ∧
    (k.toNat % 8 = 3 → builds (p.toNat < 2 ^ 48) (3 * 2 ^ 61 + p.toNat)) ∧
    (4 ≤ k.toNat % 8 → Traps (.spmk st d a b) s { cause := 0x23, addr := p }) := by
  intro p k m owner ownerOk builds
  obtain ⟨howner, hok⟩ := spmk_owner s k
  have hspace : wfld k 0 3 = k.toNat % 8 := wfld_low k 3
  have hbit := wbit_eq_getLsbD k 24
  refine ⟨fun h => ?_, fun h => ?_, fun h => ?_, fun h => ?_, fun h => ?_⟩
  · have hbuild := build_window s p k (hspace.trans h)
    rw [howner] at hbuild
    refine builds_of_ite hbuild ?_
    rw [Bool.or_eq_true, Bool.or_eq_true, hok, decide_eq_true_eq, decide_eq_true_eq, not_and_or, not_and_or, or_assoc]
    exact or_congr (by omega) (or_congr Nat.not_le.symm Iff.rfl)
  · have hbuild := build_scratch s p k (hspace.trans h)
    rw [howner] at hbuild
    refine builds_of_ite hbuild ?_
    rw [Bool.or_eq_true, hok, decide_eq_true_eq, not_and_or]
    exact or_congr (by omega) Iff.rfl
  · have hbuild := build_shared s p k (hspace.trans h)
    rw [hbit] at hbuild
    exact builds_of_ite hbuild (by rw [decide_eq_true_eq]; exact Nat.not_lt.symm)
  · exact builds_of_ite (build_global s p k (hspace.trans h)) (by rw [decide_eq_true_eq]; exact Nat.not_lt.symm)
  · exact refuses_build (build_of_no_space s p k (by rw [hspace]; exact h))

/-! ### The statement -/

/-- The casts of good pointers, space by space (R256). -/
theorem spcst_window (st : BitVec 3) (d a : BitVec 5) (s : State) (hg : goodPointer (s.readG a) = true) (h0 : (s.readG a).toNat / 2 ^ 61 = 0) :
    let p := s.readG a
    let m := s.curCore / 64 % 4 * 4 + s.curCore % 4
    let num := p.toNat / 2 ^ 46 % 16
    let mine := p.toNat / 2 ^ 50 % 2 ^ 11 = s.curCore
    let win := s.me.window num
    let held := num < 11 ∨ (num = 11 ∧ s.isS = true)
    (mine → s.windowBad p = true → Traps (.spcst st d a 2) s { cause := 0xA0 }) ∧
    (mine → s.windowBad p = false →
      (held → p.toNat % 2 ^ 46 < win.2 →
        GivesG (.spcst st d a 2) s 4 d (.ofNat 64 (2 * 2 ^ 61 + m * 2 ^ 57 + (win.1 + p.toNat % 2 ^ 46)))) ∧
      (¬(held ∧ p.toNat % 2 ^ 46 < win.2) → Traps (.spcst st d a 2) s { cause := 0x28, addr := p })) ∧
    (¬mine → Traps (.spcst st d a 2) s { cause := 0x26, addr := p }) := by
  intro p m num mine win held
  have hcast := cast_window_shared hg (s := s) ((wfld_space _).trans h0)
  rw [show wfld (s.readG a) 46 4 = num from rfl, wfld_low, memberIndex] at hcast
  have hmine : (wfld p 50 11 != s.curCore) = true ↔ ¬mine := by rw [bne_iff_ne]; exact Iff.rfl
  have hheld : (decide (11 < num) || (num == 11 && !s.isS) || decide (win.2 < p.toNat % 2 ^ 46 + 1)) = true ↔ ¬(held ∧ p.toNat % 2 ^ 46 < win.2) := by
    rw [Bool.or_eq_true, Bool.or_eq_true, Bool.and_eq_true, decide_eq_true_eq, decide_eq_true_eq, beq_iff_eq, Bool.not_eq_true']
    simp only [held]
    cases s.isS <;> simp <;> omega
  refine ⟨fun hm hb => ?_, fun hm hb => ⟨fun hh hlt => ?_, fun hh => ?_⟩, fun hm => ?_⟩
  · exact refuses_of_error rfl (hcast.trans (by rw [if_neg (mt hmine.1 (not_not.2 hm)), if_pos hb])) rfl
  · exact casts_of_ok rfl (hcast.trans (by rw [if_neg (mt hmine.1 (not_not.2 hm)), if_neg (by rw [hb]; decide), if_neg (mt hheld.1 (not_not.2 ⟨hh, hlt⟩))]))
  · exact refuses_of_error rfl (hcast.trans (by rw [if_neg (mt hmine.1 (not_not.2 hm)), if_neg (by rw [hb]; decide), if_pos (hheld.2 hh)])) rfl
  · exact refuses_of_error rfl (hcast.trans (if_pos (hmine.2 hm))) rfl

theorem Core.hasScratch_iff (c : Core) : c.hasScratch = true ↔ Memory.num c.mem 0x1160 8 ≠ 0 := bne_iff_ne

theorem spcst_scratch (st : BitVec 3) (d a : BitVec 5) (s : State) (hg : goodPointer (s.readG a) = true) (h1 : (s.readG a).toNat / 2 ^ 61 = 1) :
    let p := s.readG a
    let m := s.curCore / 64 % 4 * 4 + s.curCore % 4
    let mine := p.toNat / 2 ^ 50 % 2 ^ 11 = s.curCore
    let D := Memory.num s.me.mem 0x1160 8
    let base := D % 2 ^ 22
    let size := 2 ^ (D / 2 ^ 32 % 2 ^ 6)
    (mine → s.windowBad p = true → Traps (.spcst st d a 2) s { cause := 0xA0 }) ∧
    (mine → s.windowBad p = false →
      (D ≠ 0 → GivesG (.spcst st d a 2) s 4 d (.ofNat 64 (2 * 2 ^ 61 + m * 2 ^ 57 + (base + p.toNat % 2 ^ 50 % size)))) ∧
      (D = 0 → Traps (.spcst st d a 2) s { cause := 0x2F, addr := p })) ∧
    (¬mine → Traps (.spcst st d a 2) s { cause := 0x27, addr := p }) := by
  intro p m mine D base size
  have hcast := cast_scratch_shared hg (s := s) ((wfld_space _).trans h1)
  have haddr : s.me.scratchAddr (p.toNat % 2 ^ 50) = base + p.toNat % 2 ^ 50 % size := by
    show fld D 0 22 + _ = _
    rw [fld, pow_zero, Nat.div_one]; rfl
  rw [wfld_low, haddr, memberIndex] at hcast
  have hmine : (wfld p 50 11 != s.curCore) = true ↔ ¬mine := by rw [bne_iff_ne]; exact Iff.rfl
  have hnone : (!s.me.hasScratch) = true ↔ D = 0 := by rw [Bool.not_eq_true', ← Bool.not_eq_true, Core.hasScratch_iff, not_not]
  refine ⟨fun hm hb => ?_, fun hm hb => ⟨fun hD => ?_, fun hD => ?_⟩, fun hm => ?_⟩
  · exact refuses_of_error rfl (hcast.trans (by rw [if_neg (mt hmine.1 (not_not.2 hm)), if_pos hb])) rfl
  · exact casts_of_ok rfl (hcast.trans (by rw [if_neg (mt hmine.1 (not_not.2 hm)), if_neg (by rw [hb]; decide), if_neg (mt hnone.1 hD)]))
  · exact refuses_of_error rfl (hcast.trans (by rw [if_neg (mt hmine.1 (not_not.2 hm)), if_neg (by rw [hb]; decide), if_pos (hnone.2 hD)])) rfl
  · exact refuses_of_error rfl (hcast.trans (if_pos (hmine.2 hm))) rfl

section
variable (st : BitVec 3) (d a : BitVec 5) (s : State) (hg : goodPointer (s.readG a) = true) (h2 : (s.readG a).toNat / 2 ^ 61 = 2)
include hg h2

theorem spcst_shared_window (hm : (s.readG a).toNat / 2 ^ 57 % 16 = s.curCore / 64 % 4 * 4 + s.curCore % 4) :
    let p := s.readG a
    let off := p.toNat % 2 ^ 57
    (s.me.badIn (0x1100 + 8 * s.curCtx) 8 = true → Traps (.spcst st d a 0) s { cause := 0xA0 }) ∧
    (s.me.badIn (0x1100 + 8 * s.curCtx) 8 = false →
      ((s.me.window s.curCtx).1 ≤ off → off < (s.me.window s.curCtx).1 + (s.me.window s.curCtx).2 →
        GivesG (.spcst st d a 0) s 4 d (.ofNat 64 (s.curCore * 2 ^ 50 + s.curCtx * 2 ^ 46 + (off - (s.me.window s.curCtx).1)))) ∧
      (off < (s.me.window s.curCtx).1 ∨ (s.me.window s.curCtx).1 + (s.me.window s.curCtx).2 ≤ off →
        Traps (.spcst st d a 0) s { cause := 0x28, addr := p })) := by
  intro p off
  have hcast := cast_shared_window hg (s := s) ((wfld_space _).trans h2)
  have hmember : ¬(wfld p 57 4 != memberIndex s.curCore) = true := by rw [bne_iff_ne, not_not]; exact hm
  rw [wfld_low, if_neg hmember] at hcast
  have hin : (!(decide ((s.me.window s.curCtx).1 ≤ off) && decide (off < (s.me.window s.curCtx).1 + (s.me.window s.curCtx).2))) = true ↔
      off < (s.me.window s.curCtx).1 ∨ (s.me.window s.curCtx).1 + (s.me.window s.curCtx).2 ≤ off := by
    rw [Bool.not_eq_true', Bool.and_eq_false_iff, decide_eq_false_iff_not, decide_eq_false_iff_not, Nat.not_le, Nat.not_lt]
  refine ⟨fun hb => refuses_of_error rfl (hcast.trans (if_pos hb)) rfl, fun hb => ⟨fun hlo hhi => ?_, fun hout => ?_⟩⟩
  · exact casts_of_ok rfl (hcast.trans (by rw [if_neg (by rw [hb]; decide), if_neg (mt hin.1 (by omega))]))
  · exact refuses_of_error rfl (hcast.trans (by rw [if_neg (by rw [hb]; decide), if_pos (hin.2 hout)])) rfl

theorem spcst_shared_scratch (hm : (s.readG a).toNat / 2 ^ 57 % 16 = s.curCore / 64 % 4 * 4 + s.curCore % 4) :
    let p := s.readG a
    let off := p.toNat % 2 ^ 57
    let D := Memory.num s.me.mem 0x1160 8
    let base := D % 2 ^ 22
    let size := 2 ^ (D / 2 ^ 32 % 2 ^ 6)
    let spare := s.me.badIn 0x1160 8 = false
    (¬spare → Traps (.spcst st d a 1) s { cause := 0xA0 }) ∧
    (spare → (D ≠ 0 → base ≤ off → off < base + size → GivesG (.spcst st d a 1) s 4 d (.ofNat 64 (2 ^ 61 + s.curCore * 2 ^ 50 + (off - base)))) ∧
      (D = 0 ∨ off < base ∨ base + size ≤ off → Traps (.spcst st d a 1) s { cause := 0x2B, addr := p })) := by
  intro p off D base size spare
  have hcast := cast_shared_scratch hg (s := s) ((wfld_space _).trans h2)
  have hmember : ¬(wfld p 57 4 != memberIndex s.curCore) = true := by rw [bne_iff_ne, not_not]; exact hm
  have hbase : fld D 0 22 = base := by rw [fld, pow_zero, Nat.div_one]
  rw [wfld_low, if_neg hmember, show Memory.num s.me.mem 0x1160 8 = D from rfl, hbase] at hcast
  have hin : (!s.me.hasScratch || !(decide (base ≤ off) && decide (off < base + size))) = true ↔ D = 0 ∨ off < base ∨ base + size ≤ off := by
    rw [Bool.or_eq_true, Bool.not_eq_true', ← Bool.not_eq_true, Core.hasScratch_iff, not_not, Bool.not_eq_true', Bool.and_eq_false_iff,
      decide_eq_false_iff_not, decide_eq_false_iff_not, Nat.not_le, Nat.not_lt]
  have hspare_of : spare → ¬s.me.badIn 0x1160 8 = true := fun hb => by rw [hb]; decide
  refine ⟨fun hb => refuses_of_error rfl (hcast.trans (if_pos ?_)) rfl, fun hb => ⟨fun hD hlo hhi => ?_, fun hout => ?_⟩⟩
  · exact Bool.not_eq_false _ ▸ hb
  · exact casts_of_ok rfl (hcast.trans ((if_neg (hspare_of hb)).trans (if_neg (mt hin.1 (by rintro (h | h | h) <;> omega)))))
  · exact refuses_of_error rfl (hcast.trans ((if_neg (hspare_of hb)).trans (if_pos (hin.2 hout)))) rfl

theorem spcst_shared_elsewhere {c : BitVec 3} (hc : c = 0 ∨ c = 1)
    (hm : (s.readG a).toNat / 2 ^ 57 % 16 ≠ s.curCore / 64 % 4 * 4 + s.curCore % 4) :
    Traps (.spcst st d a c) s { cause := 0x2B, addr := s.readG a } := by
  have hmember : (wfld (s.readG a) 57 4 != memberIndex s.curCore) = true := by rw [bne_iff_ne]; exact hm
  rcases hc with rfl | rfl
  · exact refuses_of_error rfl ((cast_shared_window hg ((wfld_space _).trans h2)).trans (if_pos hmember)) rfl
  · exact refuses_of_error rfl ((cast_shared_scratch hg ((wfld_space _).trans h2)).trans (if_pos hmember)) rfl

end

/-- Settles O14: sptst field by field, spcst and spmk space by space. -/
theorem pointerTools : Obligations.PointerTools := by
  unfold Obligations.PointerTools
  intro st d a b c s p k m off good casts refuses builds owner ownerOk space num mine win held D base size spare
  obtain ⟨htestBad, htest⟩ := sptst_spec st d a s
  have hgood : good → goodPointer p = true := (goodPointer_iff p).2
  refine ⟨htestBad, fun hb => ⟨_, htest hb, ?_⟩, fun h => refuses_of_error rfl (cast_of_noSpace h) rfl, fun h3 hg => ?_, fun hg hc => ?_, fun hg hc => ?_,
    fun hg h0 hc => ?_, fun hg h0 hc => ?_, fun hg h0 hc => ?_, fun hg h1 hc => ?_, fun hg h1 hc => ?_, fun hg h1 hc => ?_,
    fun hg h2 hc hm => ?_, fun hg h2 hc hm => ?_, fun hg h2 hc hm => spcst_shared_elsewhere st d a s (hgood hg) h2 hc hm, fun hg hway => ?_, ?_⟩
  · obtain ⟨f0, f3, f4, f5, f6, f7, f8, f54, f32⟩ := testWord_fields (sp := wfld p 61 3) (s.testAddr_lt p) (Nat.mod_lt _ (by decide))
      (passesRow7 (s.pointerFault .remote p 1)) (passesRow7 (s.pointerFault .copySrc p 1)) (passesRow8 (s.pointerFault .load p 1))
      (s.ownsPointer p) (goodPointer p)
    rw [← pointerTest_eq] at f0 f3 f4 f5 f6 f7 f8 f54 f32
    rw [wfld_eq_extractLsb'] at f0 f8 f54 f32
    rw [wfld_eq_extractLsb'] at f0
    refine ⟨BitVec.eq_of_toNat_eq f0, by rw [f3, goodPointer_iff], by rw [f4, State.ownsPointer_iff], by rw [f5], by rw [f6], by rw [f7],
      BitVec.eq_of_toNat_eq f8, BitVec.eq_of_toNat_eq f54, fun hgen => ?_, fun hgen => ?_⟩
    · rw [f5] at hgen
      rw [f32, State.testAddr, if_pos hgen]
    · rw [f5] at hgen
      rw [f32, State.testAddr, if_neg (by rw [hgen]; decide)]
  · exact refuses_of_error rfl (cast_of_not_good h3 (by rw [← Bool.not_eq_true, goodPointer_iff]; exact hg)) rfl
  · exact refuses_of_error rfl ((cast_of_good (hgood hg) s).trans (if_pos hc)) rfl
  · have hlt : ¬4 ≤ c.toNat := by have := hg.1; omega
    refine casts_of_ok rfl ((cast_of_good (hgood hg) s).trans ((if_neg hlt).trans ((if_pos ((wfld_space p).trans hc)).trans ?_)))
    rw [BitVec.ofNat_toNat, BitVec.setWidth_eq]
  · subst hc; exact (spcst_window st d a s (hgood hg) h0).1
  · subst hc; exact (spcst_window st d a s (hgood hg) h0).2.1
  · subst hc; exact (spcst_window st d a s (hgood hg) h0).2.2
  · subst hc; exact (spcst_scratch st d a s (hgood hg) h1).1
  · subst hc; exact (spcst_scratch st d a s (hgood hg) h1).2.1
  · subst hc; exact (spcst_scratch st d a s (hgood hg) h1).2.2
  · subst hc; exact spcst_shared_window st d a s (hgood hg) h2 hm
  · subst hc; exact spcst_shared_scratch st d a s (hgood hg) h2 hm
  · refine refuses_of_error rfl (cast_of_no_way (hgood hg) ?_) rfl
    rw [wfld_space]
    rcases hway with ⟨h, rfl⟩ | ⟨h, rfl⟩ | h | ⟨h, rfl⟩
    · exact .inl ⟨h, rfl⟩
    · exact .inr (.inl ⟨h, rfl⟩)
    · exact .inr (.inr (.inl h))
    · exact .inr (.inr (.inr ⟨h, rfl⟩))
  · obtain ⟨hwin, hscratch, hshared, hglobal, hnone⟩ := spmk_spec st d a b s
    exact ⟨hwin, hscratch, hshared, hglobal, hnone, givesAfter_of_done rfl⟩

end Sys2Proof.Machine
end

section
/-! SUPPORT. What an instruction that sends a transaction checks, waits for and changes (R110 to R113, R136, R310, R312, R399). -/

namespace Sys2Proof.Machine

variable {i : Instr} {s : State} {m : Target} {st : BitVec 3}

/-! ### Checks at issue (R113) -/

/-- A target as the model's operations take it. -/
def aimOf (m : Target) : Aim :=
  { use := m.use, kind := m.kind, cls := m.cls, dest := m.dest, addr := m.addr, size := m.bytes, align := m.align, cap := m.cap }

theorem destDK_eq (d : Word) : destDK d = d.toNat / 2 ^ 62 := by
  have := d.isLt
  rw [destDK, wfld_eq]; omega

theorem destCn_eq (d : Word) : destCn d = d.toNat % 2048 := wfld_low d 11

theorem outOfGeneral_iff (a n : Nat) : outOfGeneral a n = true ↔ a < 0x2000 ∨ 0x300000 < a + n := by
  rw [outOfGeneral, Bool.or_eq_true, outOfLocal_iff, decide_eq_true_iff]

/-- The first of two lists of checks comes before the second. -/
theorem State.check_append (s : State) (cs ds : List (Bool × FaultRec)) (o : Out) : s.check (cs ++ ds) o = s.check cs (s.check ds o) := by
  induction cs with
  | nil => rfl
  | cons c cs ih => rw [List.cons_append, State.check_cons, State.check_cons, ih]

/-- A check that is made only where c holds. -/
theorem State.check_ite (s : State) (c : Prop) [Decidable c] (x : Bool × FaultRec) (cs : List (Bool × FaultRec)) (o : Out) :
    s.check ((if c then x else (false, {})) :: cs) o = if c ∧ x.1 = true then .next (s.raise x.2) else s.check cs o := by
  by_cases hc : c
  · rw [if_pos hc, State.check_cons]; simp [hc]
  · rw [if_neg hc, State.check_cons, if_neg Bool.false_ne_true, if_neg fun h => hc h.1]

theorem pointerCheck_iff (u : PtrUse) (p : Word) (n : Nat) : (s.pointerCheck u p n 0).1 = true ↔ ∃ c, s.pointerFault u p n = some c := by
  unfold State.pointerCheck
  cases s.pointerFault u p n <;> simp

/-- The check of a capability bit. -/
theorem check_cap (b : Option Nat) (r : FaultRec) (cs : List (Bool × FaultRec)) (o : Out) :
    s.check ((match b with
      | some b => (s.capMissing m.dest b, r)
      | none => (false, {})) :: cs) o = if ∃ c, b = some c ∧ s.capMissing m.dest c = true then .next (s.raise r) else s.check cs o := by
  cases b with
  | none => simp
  | some b => simp

/-- An instruction whose first checks are those of R113 (R113). -/
theorem aimed_of_check {bl : Bool} {badLen ok : Prop} {cs : List (Bool × FaultRec)} {o : Out} (hbl : bl = true ↔ badLen)
    (h : exec i s = s.check (s.aimChecks (aimOf m) bl ++ cs) o)
    (hok : ¬s.destForm m.use m.dest = true → exec i s = s.check cs o → ok) : Aimed i s m badLen ok := by
  classical
  unfold Aimed Traps
  intro dk remote form chan member ptr area align cap
  have rows : s.aimChecks (aimOf m) bl =
      [(bl, { cause := 0x40 }), (s.destForm m.use m.dest, { cause := 0x41 }),
       (m.use == .send && decide (48 ≤ destChan m.dest) && !s.isS, { cause := 0x42 }),
       (m.use != .sendhost && destDK m.dest == 0 && !s.sameLaunch s.curCore (destCn m.dest), remoteFault 0x43 m.kind m.addr m.dest),
       if (m.mem && destDK m.dest == 3) = true then s.pointerCheck .remote m.addr m.bytes 0 else (false, {}),
       (m.mem && decide (destDK m.dest < 2) && outOfGeneral m.addr.toNat m.bytes, remoteFault 0x44 m.kind m.addr m.dest),
       (m.mem && m.addr.toNat % m.align != 0, remoteFault 0x45 m.kind m.addr m.dest),
       match m.cap with
       | some b => (s.capMissing m.dest b, remoteFault 0x46 m.kind m.addr m.dest)
       | none => (false, {})] := rfl
  have hchan : (m.use == .send && decide (48 ≤ destChan m.dest) && !s.isS) = true ↔ chan := by
    simp [chan, and_assoc]
  have hmember : (m.use != .sendhost && destDK m.dest == 0 && !s.sameLaunch s.curCore (destCn m.dest)) = true ↔ member := by
    simp [member, dk, destDK_eq, destCn_eq, and_assoc]
  have hptr : (m.mem && destDK m.dest == 3) = true ↔ ptr := by simp [ptr, dk, destDK_eq]
  have harea : (m.mem && decide (destDK m.dest < 2) && outOfGeneral m.addr.toNat m.bytes) = true ↔ area := by
    rw [Bool.and_eq_true, outOfGeneral_iff]; simp [area, dk, destDK_eq, and_assoc]
  have halign : (m.mem && m.addr.toNat % m.align != 0) = true ↔ align := by simp [align]
  rw [rows] at h
  simp only [List.cons_append, List.nil_append, State.check_ite, check_cap, State.check_cons] at h
  simp only [hbl, hchan, hmember, hptr, harea, halign] at h
  refine ⟨fun h1 => ?_, fun h1 h2 => ?_, fun h1 h2 h3 => ?_, fun h1 h2 h3 h4 => ?_, fun h1 h2 h3 h4 h5 c hc => ?_, fun h1 h2 h3 h4 h5 => ?_⟩
  · rw [h, if_pos h1]
  · rw [h, if_neg h1, if_pos h2]
  · rw [h, if_neg h1, if_neg h2, if_pos h3]
  · rw [if_neg h1, if_neg h2, if_neg h3] at h; exact h.trans (if_pos h4)
  · rw [h, if_neg h1, if_neg h2, if_neg h3, if_neg h4, if_pos ⟨h5, (pointerCheck_iff _ _ _).mpr ⟨c, hc⟩⟩, pointerCheck_of_fault hc]
  · have hp : ¬(ptr ∧ (s.pointerCheck .remote m.addr m.bytes 0).1 = true) := by
      rintro ⟨hptr, hfault⟩
      obtain ⟨c, hc⟩ := (pointerCheck_iff _ _ _).mp hfault
      rw [h5 hptr] at hc; cases hc
    rw [if_neg h1, if_neg h2, if_neg h3, if_neg h4, if_neg hp] at h
    refine ⟨fun h6 => ?_, fun h6 h7 => ?_, fun h6 h7 h8 => ?_, fun h6 h7 h8 => ?_⟩
    · exact h.trans (if_pos h6)
    · exact (h.trans (if_neg h6)).trans (if_pos h7)
    · exact ((h.trans (if_neg h6)).trans (if_neg h7)).trans (if_pos h8)
    · exact hok h2 (((h.trans (if_neg h6)).trans (if_neg h7)).trans (if_neg h8))

/-- The checks of a payload of len bytes at A that must be aligned, and what comes behind them (R113, R312). -/
theorem payload_of_check {A : Word} {len n : Nat} {cs : List (Bool × FaultRec)} {o : Out} {ok : Prop}
    (h : exec i s = s.check (s.payloadChecks A len n ++ cs) o) (hok : exec i s = s.check cs o → ok) :
    (A.toNat % n ≠ 0 → (len ≠ 0 → A.toNat + len ≤ 0x300000) → Traps i s { cause := 0x21, addr := A, info0 := len }) ∧
    (len ≠ 0 → 0x300000 < A.toNat + len → Traps i s { cause := 0x20, addr := A, info0 := len }) ∧
    (A.toNat % n = 0 → (len ≠ 0 → A.toNat + len ≤ 0x300000) → ok) := by
  unfold Traps
  by_cases hlen : len = 0
  · subst hlen
    simp only [State.payloadChecks, if_true, List.cons_append, List.nil_append, State.check_cons, bne_iff_ne] at h
    refine ⟨fun h1 _ => ?_, fun h1 => absurd rfl h1, fun h1 _ => ?_⟩
    · rw [h, if_pos h1]; rfl
    · rw [if_neg (not_not.mpr h1)] at h; exact hok h
  · simp only [State.payloadChecks, if_neg hlen, State.loadChecks, List.take_succ_cons, List.take_zero, List.cons_append, List.nil_append,
      State.check_cons, outOfLocal_iff, bne_iff_ne] at h
    refine ⟨fun h1 h2 => ?_, fun _ h1 => ?_, fun h1 h2 => ?_⟩
    · have := h2 hlen
      rw [h, if_neg (by omega), if_pos h1]; rfl
    · rw [h, if_pos h1]; rfl
    · have := h2 hlen
      rw [if_neg (by omega), if_neg (not_not.mpr h1)] at h; exact hok h

/-! ### Waits (R136, R310) -/

theorem admitted_of_unlessFull {o : Out} {ok : Prop} (h : exec i s = s.unlessFull (aimOf m) o) (hok : exec i s = o → ok) :
    Admitted i s (m.key s) ok := by
  have hkey : s.aimKey (aimOf m) = m.key s := rfl
  unfold State.unlessFull at h
  rw [hkey] at h
  refine ⟨fun h1 => ?_, fun h1 h2 => ?_, fun h1 h2 => ?_⟩
  · rw [if_pos h1] at h; exact h
  · rw [if_neg (Bool.not_eq_true _ ▸ h1), if_pos h2] at h; exact h
  · rw [if_neg (Bool.not_eq_true _ ▸ h1), if_neg (Bool.not_eq_true _ ▸ h2)] at h; exact hok h

/-! ### The transaction (R110, R111, R399) -/

/-- The home of an address is in this package. -/
theorem homeAtIssue_ne_remote (s : State) (part va r : Nat) : s.homeAtIssue part va ≠ .remote r := by
  unfold State.homeAtIssue State.homeOf
  dsimp only
  split
  · split
    · nofun
    · split
      · nofun
      · split <;> nofun
  · nofun

theorem targetOf_ne_remote {d a : Word} (h : destDK d ≠ 1) (s : State) (cn r : Nat) : (s.targetOf cn d a).1 ≠ .remote r := by
  unfold State.targetOf
  split
  · nofun
  · next h1 => exact absurd h1 h
  · split
    · nofun
    · exact homeAtIssue_ne_remote _ _ _ _
    · nofun
    · nofun

/-- The fields of a packet that its way to the target does not change. -/
structure SameTx (p q : Packet) : Prop where
  cn : q.cn = p.cn
  seq : q.seq = p.seq
  first : q.first = p.first
  ctx : q.ctx = p.ctx
  cls : q.cls = p.cls
  slack : q.slack = p.slack
  rallow : q.rallow = p.rallow
  kind : q.kind = p.kind
  marked : q.marked = p.marked

/-- A packet that sets out is in flight; beside it the issuing core's flow numbers alone may change (R399, R400). -/
theorem sendOut_spec (s : State) (f : Core → Core) (p : Packet) (dcn : Nat) (via : Option (Nat × Nat)) :
    ∃ q fl, (s.modCore p.cn f).sendOut p dcn via = (s.modCore p.cn fun c => { f c with flowSeq := fl }).send q ∧ SameTx p q ∧
      ((∀ r, p.home ≠ .remote r) → q = p) := by
  have same : ∀ q, (s.modCore p.cn f).send q = (s.modCore p.cn fun c => { f c with flowSeq := (f (s.core p.cn)).flowSeq }).send q := fun _ => rfl
  unfold State.sendOut
  split
  · next r hr =>
    split
    · exact ⟨_, _, same _, ⟨rfl, rfl, rfl, rfl, rfl, rfl, rfl, rfl, rfl⟩, fun h => absurd hr (h r)⟩
    · dsimp only
      split
      · rw [State.modCore_modCore]
        exact ⟨_, SMap.put (f (s.core p.cn)).flowSeq _ _, rfl, ⟨rfl, rfl, rfl, rfl, rfl, rfl, rfl, rfl, rfl⟩, fun h => absurd hr (h r)⟩
      · exact ⟨_, _, same _, ⟨rfl, rfl, rfl, rfl, rfl, rfl, rfl, rfl, rfl⟩, fun h => absurd hr (h r)⟩
  · exact ⟨p, _, same p, ⟨rfl, rfl, rfl, rfl, rfl, rfl, rfl, rfl, rfl⟩, fun _ => rfl⟩

/-- The state in which the issuing core has become c and packet p is in flight. -/
def State.sent (s : State) (c : Core) (p : Packet) : State := (s.modMe fun _ => c).send p

theorem State.me_sent (s : State) (c : Core) (p : Packet) : (s.sent c p).me = c := State.me_modMe s fun _ => c

/-- The issuing context goes on once its packet is in flight. -/
theorem State.send_modCx (s : State) (g : Core → Core) (p : Packet) (f : Ctx → Ctx) :
    ((s.modMe g).send p).modCx f = s.sent ((g s.me).modCx s.curCtx f) p := by
  have h : ((s.modMe g).send p).modCx f = ((s.modMe g).modMe fun c => c.modCx s.curCtx f).send p := rfl
  rw [h, State.modMe_modMe]; rfl

/-- What a core keeps when one of its instructions sends. -/
theorem onlySent_sent {c : Core} (p : Packet)
    (hcore : c = { s.me with ctx := c.ctx, txs := c.txs, txSeq := c.txSeq, noticed := c.noticed, closed := c.closed, q3 := c.q3,
                             flowSeq := c.flowSeq, halos := c.halos })
    (hother : ∀ k, k ≠ s.curCtx → c.cx k = s.me.cx k) (hrest : CtxRest s.cx (c.cx s.curCtx))
    (hg : (c.cx s.curCtx).g = s.cx.g) (hv : (c.cx s.curCtx).v = s.cx.v) (hp : (c.cx s.curCtx).p = s.cx.p)
    (he : (c.cx s.curCtx).e = s.cx.e) (hb : (c.cx s.curCtx).b = s.cx.b) : OnlySent s (s.sent c p) := by
  have hme := s.me_sent c p
  have hcx : (s.sent c p).cx = c.cx s.curCtx := congrArg (fun d : Core => d.cx s.curCtx) hme
  refine ⟨⟨fun cn a => ?_, fun _ => rfl⟩, by rw [hme]; rfl, by rw [hme]; exact hcore, by rw [hme]; exact hother, by rw [hcx]; exact hrest, ?_⟩
  · by_cases h : cn = s.curCore
    · subst h
      have : ((s.sent c p).core s.curCore).mem = (s.core s.curCore).mem := by
        show (s.sent c p).me.mem = s.me.mem
        rw [hme, hcore]
      rw [this]
    · exact congrArg (fun d : Core => Memory.byte d.mem a) (State.core_modMe_other s (fun _ => c) h)
  · unfold RegsSameBut State.readG State.readV State.readP State.readE State.readB Ctx.rg Ctx.rp
    rw [hcx, hg, hv, hp, he, hb]
    exact ⟨fun _ _ => rfl, fun _ _ => rfl, fun _ _ => rfl, fun _ _ => rfl, fun _ _ => rfl⟩

/-- The transaction that an instruction of the issuing context opens (R110). -/
def State.newTx (s : State) (m : Target) (body : Body) (fetch ticketed : Bool) : Tx :=
  { seq := s.me.txSeq.toNat, ctx := s.curCtx,
    report := { s.located { addr := m.addr, info1 := m.kind, detail0 := m.dest } with async := true },
    kind := m.kind, cls := m.cls, slk := s.slkOf m.cls, dest := m.dest, addr := m.addr,
    home := (s.targetOf s.curCore m.dest m.addr).1, key := m.key s, fetch := fetch, ticketed := ticketed, first := s.me.txSeq.toNat,
    via := s.reading s.curCore m.dest, body := body.withTx s.curCore s.me.txSeq.toNat (s.targetOf s.curCore m.dest m.addr).1 }

/-- The reply slot that a fetching form reserves (R122). -/
def Tx.slot (x : Tx) : Reply := { tx := some x.seq, owner := x.ctx, orphan := false, answer := none, report := x.report, cls := x.cls, slk := x.slk }

/-- The issuing core with transaction x among its outstanding ones and the context gone on by f. -/
def Core.opened (c : Core) (k : Nat) (x : Tx) (fl : SMap (BitVec 16)) (f : Ctx → Ctx) : Core :=
  { (c.modCx k fun y => f (y.count 4)).opens x with q3 := if x.fetch then c.q3 ++ [x.slot] else c.q3, flowSeq := fl }

/-- The transaction is open, and its packet in flight (R110, R111). -/
theorem issue_eq (s : State) (m : Target) (body : Body) (fetch ticketed : Bool) (f : Ctx → Ctx) :
    let x := s.newTx m body fetch ticketed
    ∃ p fl, (s.issue (aimOf m) body fetch ticketed).modCx f = s.sent (s.me.opened s.curCtx x fl f) p ∧
      p.cn = s.curCore ∧ p.seq = x.seq ∧ p.first = x.first ∧ p.ctx = s.curCtx ∧ p.cls = m.cls ∧ p.kind = m.kind ∧ p.marked = false ∧
      p.slack = slkInit x.slk ∧ p.rallow = slkRallow x.slk ∧
      (destDK m.dest ≠ 1 → p.home = x.home ∧ p.reply = false ∧ p.body = x.body ∧ p.addr = (s.targetOf s.curCore m.dest m.addr).2) := by
  intro x
  let g : Core → Core := fun c => { (c.modCx s.curCtx fun y => y.count 4).opens x with q3 := if fetch then c.q3 ++ [x.slot] else c.q3 }
  let q : Packet :=
    { cn := s.curCore, seq := x.seq, ctx := s.curCtx, pc := s.cx.pc.toNat % 2 ^ 22, kind := m.kind, part := (s.modMe g).partOf s.curCore,
      lid := (s.modMe g).lidOf s.curCore, home := x.home, addr := (s.targetOf s.curCore m.dest m.addr).2, slack := slkInit x.slk,
      rallow := slkRallow x.slk, cls := m.cls, slk := x.slk, first := x.first, report := x.report, body := x.body }
  have hissue : s.issue (aimOf m) body fetch ticketed = (s.modCore q.cn g).sendOut q (destCn m.dest) x.via := rfl
  obtain ⟨p, fl, hsend, hp, hsame⟩ := sendOut_spec s g q (destCn m.dest) x.via
  obtain ⟨hcn, hseq, hfirst, hctx, hcls, hslack, hrallow, hkind, hmarked⟩ := hp
  refine ⟨p, fl, ?_, hcn, hseq, hfirst, hctx, hcls, hkind, hmarked, hslack, hrallow, fun hdk => ?_⟩
  · rw [hissue, hsend]
    refine (State.send_modCx s _ p f).trans (congrArg (fun c => s.sent c p) ?_)
    simp only [g, Core.modCx, Core.opens, Core.opened, Core.cx, SMap.get_put_same, SMap.put_put]
    rfl
  · rw [hsame (targetOf_ne_remote hdk s s.curCore)]
    exact ⟨rfl, rfl, rfl, rfl⟩

/-- The context after its instruction has sent, whatever its wait then. -/
theorem onlySent_opened (p : Packet) (x : Tx) (fl : SMap (BitVec 16)) {f : Ctx → Ctx} (hrest : CtxRest s.cx (f (s.cx.count 4)))
    (hg : ∀ y, (f y).g = y.g) (hv : ∀ y, (f y).v = y.v) (hp : ∀ y, (f y).p = y.p) (he : ∀ y, (f y).e = y.e) (hb : ∀ y, (f y).b = y.b) :
    OnlySent s (s.sent (s.me.opened s.curCtx x fl f) p) ∧ (s.sent (s.me.opened s.curCtx x fl f) p).cx = f (s.cx.count 4) := by
  have hcx : (s.me.opened s.curCtx x fl f).cx s.curCtx = f (s.cx.count 4) := Core.cx_modCx_same s.me s.curCtx fun y => f (y.count 4)
  refine ⟨onlySent_sent p rfl (fun k hk => Core.cx_modCx_other s.me (fun y => f (y.count 4)) hk) (by rw [hcx]; exact hrest) ?_ ?_ ?_ ?_ ?_, ?_⟩
  · rw [hcx, hg]; rfl
  · rw [hcx, hv]; rfl
  · rw [hcx, hp]; rfl
  · rw [hcx, he]; rfl
  · rw [hcx, hb]; rfl
  · rw [← hcx]; exact congrArg (fun c : Core => c.cx s.curCtx) (State.me_sent s _ p)

/-- What a transaction that sets out changes (R110, R111, R122, R128, R399). -/
theorem setsOut_issue (s : State) (m : Target) (body : Body) (fetch ticketed : Bool) (f : Ctx → Ctx) :
    ∃ p fl, (s.issue (aimOf m) body fetch ticketed).modCx f = s.sent (s.me.opened s.curCtx (s.newTx m body fetch ticketed) fl f) p ∧
      SetsOut s ((s.issue (aimOf m) body fetch ticketed).modCx f) m
        (body.withTx s.curCore s.me.txSeq.toNat (s.targetOf s.curCore m.dest m.addr).1) fetch ticketed := by
  obtain ⟨p, fl, heq, hcn, hseq, hfirst, hctx, hcls, hkind, hmarked, hslack, hrallow, hhome⟩ := issue_eq s m body fetch ticketed f
  refine ⟨p, fl, heq, s.newTx m body fetch ticketed, p, ?_, ?_, rfl, hkind, rfl, rfl, rfl, rfl, rfl, rfl, ?_, ?_, ?_, ?_⟩
  · have hnet : ((s.issue (aimOf m) body fetch ticketed).modCx f).net = SMap.put s.net s.nextPkt p := by rw [heq]; rfl
    have hnext : ((s.issue (aimOf m) body fetch ticketed).modCx f).nextPkt = s.nextPkt + 1 := by rw [heq]; rfl
    refine ⟨hnet, hnext, hcn, hseq, hfirst, hctx, hcls, ?_, ?_, hmarked, rfl, rfl, rfl, rfl, rfl⟩
    · rw [hslack, slkInit, fld, pow_zero, Nat.div_one]; rfl
    · rw [hrallow]; rfl
  · rw [heq, State.me_sent]; rfl
  · rw [heq, State.me_sent]; rfl
  · intro hdk
    obtain ⟨h1, h2, h3, h4⟩ := hhome (by rw [destDK_eq]; exact hdk)
    exact ⟨h1, h2, h3, rfl, h4⟩
  · rintro rfl
    rw [heq, State.me_sent]; rfl
  · rintro rfl
    rw [heq, State.me_sent]
    exact ⟨_, rfl, rfl, rfl, rfl, rfl⟩

theorem ctxRest_goto_count (x : Ctx) (pc : Word) (stl : Nat) : CtxRest x ((x.count 4).goto pc stl) := rfl

/-- An instruction that sends its transaction and retires. -/
theorem sends_of_issue {body : Body} {fetch : Bool} (h : exec i s = (s.issue (aimOf m) body fetch false).done st) :
    ∃ t, exec i s = .next t ∧ Retired s t 4 ∧ FlagsSame s t ∧ OnlySent s t ∧
      SetsOut s t m (body.withTx s.curCore s.me.txSeq.toNat (s.targetOf s.curCore m.dest m.addr).1) fetch false := by
  obtain ⟨p, fl, heq, hsets⟩ := setsOut_issue s m body fetch false fun x => x.goto (x.pc + .ofNat 64 4) st.toNat
  obtain ⟨honly, hcx⟩ := onlySent_opened (s := s) p (s.newTx m body fetch false) fl (f := fun x => x.goto (x.pc + .ofNat 64 4) st.toNat)
    (ctxRest_goto_count _ _ _) (fun _ => rfl) (fun _ => rfl) (fun _ => rfl) (fun _ => rfl) fun _ => rfl
  rw [← heq] at honly hcx
  have hcx' : ((s.issue (aimOf m) body fetch false).retire 4 st.toNat).cx = (s.cx.count 4).goto ((s.cx.count 4).pc + .ofNat 64 4) st.toNat := hcx
  refine ⟨_, h, ?_, ?_, honly, hsets⟩
  · rw [Retired, hcx']; exact ⟨rfl, rfl, rfl⟩
  · rw [FlagsSame, hcx']; exact ⟨rfl, rfl⟩

/-- The payload is read once its instruction is admitted; an uncorrectable error there is precise (R68, R312). -/
theorem read_of_check {A : Word} {len : Nat} {o : Out} (h : exec i s = s.check [s.payloadRead A len] o) :
    (len ≠ 0 ∧ s.me.badIn A.toNat len = true → Traps i s { cause := 0xA0 }) ∧ (¬(len ≠ 0 ∧ s.me.badIn A.toNat len = true) → exec i s = o) := by
  have hbad : (len != 0 && s.me.badIn A.toNat len) = true ↔ len ≠ 0 ∧ s.me.badIn A.toNat len = true := by simp
  rw [State.payloadRead, State.check_cons, State.check_nil] at h
  refine ⟨fun h1 => ?_, fun h1 => ?_⟩
  · rw [if_pos (hbad.mpr h1)] at h; exact h
  · rw [if_neg (mt hbad.mp h1)] at h; exact h

/-- A release that is still to come is waited for (R311). -/
theorem release_of_afterRelease {scope : Nat} {o : Out} {ok : Prop} (h : exec i s = s.afterRelease scope o) (hok : exec i s = o → ok) :
    (s.releasePending s.curCore s.curCtx scope = true → Waits i s (.release scope)) ∧
    (s.releasePending s.curCore s.curCtx scope = false → ok) := by
  unfold State.afterRelease at h
  refine ⟨fun h1 => ?_, fun h1 => ?_⟩
  · rw [if_pos h1] at h; exact h
  · rw [if_neg (Bool.not_eq_true _ ▸ h1)] at h; exact hok h

end Sys2Proof.Machine
end

section
/-! SUPPORT. Messages (R112 to R114, R312): O29. -/

namespace Sys2Proof.Machine

/-- A message is sent over the package to a core, or to another package. -/
theorem destDK_of_send {s : State} {d : Word} (h : ¬s.destForm .send d = true) : destDK d = 0 ∨ destDK d = 1 := by
  by_contra hdk
  have hlarge : decide (destDK d < 2) = false := decide_eq_false (by omega)
  exact h (by simp only [State.destForm, hlarge, Bool.not_false, Bool.true_or])

end Sys2Proof.Machine

namespace Sys2Proof

open Machine

/-- Settles O29: the checks, the release and the waits in their order, then a transaction with the message. -/
theorem sendMessage : Obligations.SendMessage := by
  unfold Obligations.SendMessage
  intro st d a b c s D A len tag away scope i m msg
  have hlen : wfld (s.readG b) 0 16 = len := wfld_low _ _
  have hscope : (if destDK D = 1 then 5 else 4) = scope := by rw [destDK_eq]
  have hsend : exec i s = s.check (s.aimChecks (aimOf m) (decide (2048 < len)) ++ s.payloadChecks A len 8)
      (s.afterRelease scope (s.unlessFull (aimOf m) (s.check [s.payloadRead A len]
        ((s.issue (aimOf m) (.message { msg with tx := none }) false false).done st)))) := by
    rw [← hscope, ← hlen]
    have hsrc : msg.src = sourceId (if destDK D = 1 then 1 else 0) (s.jobRank s.curCore) s.curCore := by rw [destDK_eq]
    rw [hsrc, show msg.bytes = s.bytes A (wfld (s.readG b) 0 16) by rw [hlen]; rfl]
    rfl
  refine aimed_of_check decide_eq_true_iff hsend fun hform hpay => payload_of_check (cs := []) (by rwa [List.append_nil]) fun hrel =>
    release_of_afterRelease hrel fun hfull => admitted_of_unlessFull hfull fun hread => ⟨nofun, fun _ => ?_⟩
  obtain ⟨hbad, hgood⟩ := read_of_check hread
  refine ⟨hbad, fun hok => ?_⟩
  have hbody : (Body.message { msg with tx := none }).withTx s.curCore s.me.txSeq.toNat (s.targetOf s.curCore m.dest m.addr).1 =
      .message msg := by
    rcases destDK_of_send hform with h0 | h1
    · have haway : ¬away := by show ¬D.toNat / 2 ^ 62 = 1; rw [← destDK_eq, show destDK D = 0 from h0]; decide
      have htarget : (s.targetOf s.curCore D m.addr).1 = .core (destCn D) := by simp only [State.targetOf, show destDK D = 0 from h0]
      have htx : msg.tx = some (s.curCore, s.me.txSeq.toNat) := if_neg haway
      rw [show m.dest = D from rfl, htarget, Body.withTx, ← htx]
    · have haway : away := by show D.toNat / 2 ^ 62 = 1; rw [← destDK_eq]; exact h1
      have htarget : (s.targetOf s.curCore D m.addr).1 = .remote (destRank D) := by simp only [State.targetOf, show destDK D = 1 from h1]
      have htx : msg.tx = none := if_pos haway
      rw [show m.dest = D from rfl, htarget, ← htx]; rfl
  rw [← hbody]
  exact sends_of_issue (hgood hok)

end Sys2Proof
end

section
/-! SUPPORT. The record of a host ring (R126, R127): O30. -/

namespace Sys2Proof.Machine

variable {i : Instr} {s : State} {m : Target} {st : BitVec 3}

/-! ### The transaction of a host message -/

/-- The transaction of a host message (R110, R313). -/
def State.hostTx (s : State) (cls h tag : Nat) (D : Word) (bs : List Byte) : Tx :=
  let part := s.partOf s.curCore
  let home := s.homeAtIssue part (s.ringVa part h (s.ring part h).2.2.2.2)
  { seq := s.me.txSeq.toNat, ctx := s.curCtx, report := { s.located { info1 := 6, detail0 := D } with async := true }, kind := 6, cls := cls,
    slk := s.slkOf cls, dest := D, addr := 0, home := home, key := home.key, first := s.me.txSeq.toNat, body := .hostMsg h tag bs }

/-- The host message is in flight toward its ring's home (R110, R135). -/
theorem issueHost_modCx (s : State) (m : Aim) (h tag : Nat) (bs : List Byte) (f : Ctx → Ctx) :
    let x := s.hostTx m.cls h tag m.dest bs
    ∃ p : Packet, (s.issueHost m h tag bs).modCx f = s.sent (s.me.opened s.curCtx x s.me.flowSeq f) p ∧
      p.cn = s.curCore ∧ p.seq = x.seq ∧ p.first = x.first ∧ p.ctx = s.curCtx ∧ p.cls = m.cls ∧ p.kind = 6 ∧ p.marked = false ∧
      p.slack = slkInit x.slk ∧ p.rallow = slkRallow x.slk ∧ p.home = x.home ∧
      p.addr = s.ringVa (s.partOf s.curCore) h (s.ring (s.partOf s.curCore) h).2.2.2.2 ∧ p.reply = false ∧ p.body = x.body := by
  intro x
  refine ⟨{ cn := s.curCore, seq := x.seq, ctx := s.curCtx, pc := s.cx.pc.toNat % 2 ^ 22, kind := 6, part := s.partOf s.curCore,
            lid := s.lidOf s.curCore, home := x.home, addr := s.ringVa (s.partOf s.curCore) h (s.ring (s.partOf s.curCore) h).2.2.2.2,
            slack := slkInit x.slk, rallow := slkRallow x.slk, cls := m.cls, slk := x.slk, first := x.first, body := x.body },
    ?_, rfl, rfl, rfl, rfl, rfl, rfl, rfl, rfl, rfl, rfl, rfl, rfl, rfl⟩
  refine (State.send_modCx s (fun c => (c.modCx s.curCtx fun y => y.count 4).opens x) _ f).trans (congrArg (fun c => s.sent c _) ?_)
  simp only [Core.modCx, Core.opens, Core.opened, Core.cx, SMap.get_put_same, SMap.put_put]
  rfl

/-- An instruction that sends a host message and retires. -/
theorem sendsHost_of_issueHost {a : Aim} {h tag : Nat} {bs : List Byte} (hexec : exec i s = (s.issueHost a h tag bs).done st) :
    ∃ t x p, exec i s = .next t ∧ Retired s t 4 ∧ FlagsSame s t ∧ OnlySent s t ∧ Leaves s t p x a.cls ∧ t.me.txs = s.me.txs ++ [x] ∧
      t.me.txSeq = s.me.txSeq + 1 ∧ t.me.q3 = s.me.q3 ∧ x = s.hostTx a.cls h tag a.dest bs ∧ p.kind = 6 ∧ p.home = x.home ∧
      p.addr = s.ringVa (s.partOf s.curCore) h (s.ring (s.partOf s.curCore) h).2.2.2.2 ∧ p.reply = false ∧ p.body = x.body := by
  obtain ⟨p, heq, hcn, hseq, hfirst, hctx, hcls, hkind, hmarked, hslack, hrallow, hhome, haddr, hreply, hbody⟩ :=
    issueHost_modCx s a h tag bs fun x => x.goto (x.pc + .ofNat 64 4) st.toNat
  obtain ⟨honly, hcx⟩ := onlySent_opened (s := s) p (s.hostTx a.cls h tag a.dest bs) s.me.flowSeq (f := fun x => x.goto (x.pc + .ofNat 64 4) st.toNat)
    (ctxRest_goto_count _ _ _) (fun _ => rfl) (fun _ => rfl) (fun _ => rfl) (fun _ => rfl) fun _ => rfl
  rw [← heq] at honly hcx
  have hcx' : ((s.issueHost a h tag bs).retire 4 st.toNat).cx = (s.cx.count 4).goto ((s.cx.count 4).pc + .ofNat 64 4) st.toNat := hcx
  have hstate : (s.issueHost a h tag bs).retire 4 st.toNat = _ := heq
  refine ⟨_, _, p, hexec, ?_, ?_, honly, ⟨?_, ?_, hcn, hseq, hfirst, hctx, hcls, ?_, hrallow, hmarked, rfl, rfl, rfl, rfl, rfl⟩, ?_, ?_, ?_, rfl, hkind,
    hhome, haddr, hreply, hbody⟩
  · rw [Retired, hcx']; exact ⟨rfl, rfl, rfl⟩
  · rw [FlagsSame, hcx']; exact ⟨rfl, rfl⟩
  · rw [hstate]; rfl
  · rw [hstate]; rfl
  · rw [hslack, slkInit, fld, pow_zero, Nat.div_one]; rfl
  · rw [hstate, State.me_sent]; rfl
  · rw [hstate, State.me_sent]; rfl
  · rw [hstate, State.me_sent]; rfl

/-! ### What a translation gives, whatever is in flight -/

theorem walkFrom_net (s : State) (n : SMap Packet) (va level t : Nat) : ({ s with net := n } : State).walkFrom va level t = s.walkFrom va level t := by
  induction level generalizing t with
  | zero => rfl
  | succ level ih => simp only [State.walkFrom, ih]; rfl

theorem translate_net (s : State) (n : SMap Packet) (cn : Option Nat) (p va : Nat) (acc : Access) :
    (({ s with net := n } : State).translate cn p va acc).1 = (s.translate cn p va acc).1 := by
  have hwalk : ({ s with net := n } : State).dieWalk p va = s.dieWalk p va := walkFrom_net s n va _ _
  have hcore : (cn.bind fun c => cacheHit (({ s with net := n } : State).core c).xcache acc (({ s with net := n } : State).asid p) va) =
      cn.bind fun c => cacheHit (s.core c).xcache acc (s.asid p) va := rfl
  have hslice : cacheHit (SMap.get [] ({ s with net := n } : State).slices (sliceOf (({ s with net := n } : State).asid p) va)) acc
      (({ s with net := n } : State).asid p) va = cacheHit (SMap.get [] s.slices (sliceOf (s.asid p) va)) acc (s.asid p) va := rfl
  unfold State.translate
  dsimp only
  rw [hwalk]
  split
  · next h => rw [hcore] at h; rw [h]
  · next h =>
    rw [hcore] at h; rw [h]
    dsimp only
    split
    · next h => rw [hslice] at h; rw [h]
    · next h =>
      rw [hslice] at h; rw [h]
      dsimp only
      split
      · rfl
      · split <;> rfl

/-! ### Bytes in global memory -/

theorem Memory.foldl_setByte_span (m : Memory) (a : Nat) (bs : List Byte) :
    ((span a bs.length).zip bs).foldl (fun m w => Memory.setByte m w.1 w.2) m = Memory.write m a bs := by
  induction bs generalizing m a with
  | nil => rfl
  | cons b bs ih =>
    have hspan : span a (b :: bs).length = a :: span (a + 1) bs.length := by
      simp [span, List.range_succ_eq_map, Nat.add_assoc, Nat.add_comm 1]
    rw [hspan, List.zip_cons_cons, List.foldl_cons, ih]; rfl

theorem mem_span {a n x : Nat} (h : x ∈ span a n) : ∃ k < n, x = a + k := by
  obtain ⟨k, hk, rfl⟩ := List.mem_map.mp h
  exact ⟨k, List.mem_range.mp hk, rfl⟩

/-- Bytes outside the launch sequencer's fields are all written (R362). -/
theorem gmem_putBytes {pa : Nat} {bs : List Byte} (h : ∀ k < bs.length, s.sequencerField (pa + k) = false) :
    (s.putBytes pa bs).gmem = Memory.write s.gmem pa bs := by
  rw [← Memory.foldl_setByte_span]
  have hall : ∀ w ∈ (span pa bs.length).zip bs, (!s.sequencerField w.1) = true := by
    intro w hw
    obtain ⟨k, hk, he⟩ := mem_span (List.of_mem_zip hw).1
    rw [he, h k hk]; rfl
  show List.foldl _ _ (List.filter _ _) = _
  rw [List.filter_eq_self.mpr hall]

/-! ### The transactions of a core -/

/-- A completed transaction is outstanding no longer, and every other one still is (R170). -/
theorem Core.txs_completeTx (c : Core) (q : Nat) : (c.completeTx q).txs = c.txs.filter fun t => t.seq != q := by
  unfold Core.completeTx
  split
  · rw [(Core.settle_spec _).1]; rfl
  · next h =>
    refine (List.filter_eq_self.mpr fun t ht => ?_).symm
    simpa using List.find?_eq_none.mp h t ht

theorem txs_queueRecord (c : Core) (r : FaultRec) : (c.queueRecord r).txs = c.txs := by
  obtain ⟨t, ht⟩ := c.queueRecord_trap_only r
  rw [ht]

theorem txs_modCore {s : State} {cn : Nat} {f : Core → Core} (h : (f (s.core cn)).txs = (s.core cn).txs) (j : Nat) :
    ((s.modCore cn f).core j).txs = (s.core j).txs := by
  by_cases hj : j = cn
  · subst hj; rw [State.core_modCore_same]; exact h
  · rw [State.core_modCore_other _ _ hj]

/-- An asynchronous record leaves the transactions as they are. -/
theorem txs_async (s : State) (cn : Nat) (r : FaultRec) (j : Nat) : ((s.async cn r).core j).txs = (s.core j).txs := by
  have report : ∀ u : State, ((u.report cn r).core j).txs = (u.core j).txs := by
    intro u
    obtain ⟨v, hv, hreport⟩ := u.report_eq cn r
    rw [hreport, txs_modCore (txs_queueRecord _ _), State.core, hv]; rfl
  unfold State.async
  split
  · rw [report]; exact txs_modCore rfl j
  · exact report s

/-! ### The record is written, and the transaction completes -/

/-- What the record of a host message changes: no core's memory or transactions, and, where its ring's address translates, global
memory and the producer index (R126, R127). -/
theorem writeRing_spec (s : State) (cn h : Nat) (r : FaultRec) (bs : List Byte) :
    let part := s.partOf cn
    let prod := (s.ring part h).2.2.2.2
    let u := s.writeRing cn h r bs
    (∀ j, (u.core j).mem = (s.core j).mem ∧ (u.core j).txs = (s.core j).txs) ∧
    ∀ pa, (s.translate (some cn) part (s.ringVa part h prod) .write).1 = .ok pa →
      (∀ k < bs.length, s.sequencerField (pa + k) = false) →
      u.gmem = Memory.write s.gmem pa bs ∧ u.rings = SMap.put s.rings (part * 16 + h) ((prod + 1) % 2 ^ 32) ∧ u.net = s.net := by
  intro part prod u
  have hcaches := onlyCaches_translate s (some cn) part (s.ringVa part h prod) .write
  have hu : u = match s.translate (some cn) part (s.ringVa part h prod) .write with
      | (.ok pa, s) => { s.putBytes pa bs with rings := SMap.put s.rings (part * 16 + h) ((prod + 1) % 2 ^ 32) }
      | (_, s) => s.async cn (statusRec 3 r) := rfl
  generalize s.translate (some cn) part (s.ringVa part h prod) .write = x at hcaches hu
  obtain ⟨o, v⟩ := x
  obtain ⟨hrest, hcores⟩ := hcaches
  dsimp only at hrest hcores hu ⊢
  cases o
  case ok pa =>
    refine ⟨fun j => ?_, fun pa' hpa hseq => ?_⟩
    · have : u.core j = v.core j := by rw [hu]; rfl
      rw [this, hcores]; exact ⟨rfl, rfl⟩
    · cases hpa
      refine ⟨?_, ?_, ?_⟩
      · have hseq' : ∀ k < bs.length, v.sequencerField (pa + k) = false := by
          rw [hrest]; exact hseq
        have : u.gmem = (v.putBytes pa bs).gmem := by rw [hu]
        rw [this, gmem_putBytes hseq', hrest]
      · rw [hu, hrest]
      · rw [hu]; show v.net = s.net; rw [hrest]
  all_goals
    refine ⟨fun j => ?_, fun _ h => by cases h⟩
    have hasync : u = v.async cn (statusRec 3 r) := hu
    rw [hasync, (Settles.async v cn _).mem, txs_async, hcores]
    exact ⟨rfl, rfl⟩

end Sys2Proof.Machine

namespace Sys2Proof

open Machine

/-- Settles O30: the checks and waits of the instruction, then its transaction; and the record that the completion writes. -/
theorem sendToHost : Obligations.SendToHost := by
  unfold Obligations.SendToHost
  refine ⟨fun st d a b c s => ?_, fun n h tag bs p x s => ?_⟩
  · intro D A len tag h part ring va home i m
    have hlen : wfld (s.readG b) 0 16 = len := wfld_low _ _
    have hh : wfld D 0 4 = h := wfld_low _ _
    have hva : s.ringVa part h (s.ring part h).2.2.2.2 = va := by
      show wfld ring.1 0 48 + _ = _
      rw [wfld_low]; rfl
    have hsend : exec i s = s.check (s.aimChecks (aimOf m) (decide (48 < len)) ++ (s.payloadChecks A len 8 ++ [chk (!ring.2.1) 0x4A]))
        (s.afterRelease 4
          (if s.me.choked then s.block .router
           else if s.ringFull part h then s.block (.ring h)
           else if s.me.windowFull home.key then s.block (.window home.key)
           else s.check [s.payloadRead A len] ((s.issueHost (aimOf m) h tag (s.bytes A len)).done st))) := by
      rw [← List.append_assoc, show home = s.homeAtIssue part (s.ringVa part h (s.ring part h).2.2.2.2) by rw [hva], ← hlen,
        show ring = s.ring part (wfld D 0 4) by rw [hh], ← hh]
      rfl
    refine aimed_of_check decide_eq_true_iff hsend fun _ hpay => payload_of_check hpay fun hring => ?_
    rw [chk, State.check_cons, State.check_nil] at hring
    have hon : ring.2.1 = true → exec i s = s.afterRelease 4 _ := fun hen => by rw [hen] at hring; exact hring
    refine ⟨fun hen => by rw [hen] at hring; exact hring, fun hen hrel => (release_of_afterRelease (hon hen) id).1 hrel, fun hen hrel => ?_⟩
    have hgo := (release_of_afterRelease (hon hen) id).2 hrel
    refine ⟨fun h1 => ?_, fun h1 h2 => ?_, fun h1 h2 h3 => ?_, fun h1 h2 h3 => ?_⟩
    · rw [if_pos h1] at hgo; exact hgo
    · rw [h1, if_neg Bool.false_ne_true, if_pos h2] at hgo; exact hgo
    · rw [h1, if_neg Bool.false_ne_true, h2, if_neg Bool.false_ne_true, if_pos h3] at hgo; exact hgo
    rw [h1, if_neg Bool.false_ne_true, h2, if_neg Bool.false_ne_true, h3, if_neg Bool.false_ne_true] at hgo
    obtain ⟨hbad, hgood⟩ := read_of_check hgo
    refine ⟨fun h4 h5 => hbad ⟨h4, h5⟩, fun h4 => ?_⟩
    have hdone := hgood fun ⟨h5, h6⟩ => by rw [h4 h5] at h6; cases h6
    obtain ⟨t, x, p, ht, hret, hflags, honly, hleaves, htxs, hseq, hq3, hx, hkind, hhome, haddr, hreply, hbody⟩ := sendsHost_of_issueHost hdone
    refine ⟨t, x, p, ht, hret, hflags, honly, hleaves, htxs, hseq, hq3, ?_, ?_, ?_, ?_, ?_, hkind, ?_, haddr.trans hva, hreply, hbody.trans ?_⟩
    · rw [hx]; rfl
    · rw [hx]; rfl
    · rw [hx]; show (s.homeAtIssue part (s.ringVa part h (s.ring part h).2.2.2.2)).key = _; rw [hva]
    · rw [hx]; rfl
    · rw [hx]; rfl
    · rw [hhome, hx]; show s.homeAtIssue part (s.ringVa part h (s.ring part h).2.2.2.2) = _; rw [hva]
    · rw [hx]; rfl
  · intro ring prod size bytes hp hbody htx hmarked hfirst
    have htake : s.takePacket n p = { s with net := SMap.del s.net n } := by rw [State.takePacket, hmarked]; rfl
    let w : State := { s with net := SMap.del s.net n }
    have hva : s.ringVa (s.partOf p.cn) h prod = ring.1.toNat % 2 ^ 48 + 64 * (prod % size) := by
      show wfld ring.1 0 48 + _ = _
      rw [wfld_low]; rfl
    have hexec : exec (.transactionCompletion n) s = .next ((w.writeRing p.cn h x.report bytes).modCore p.cn fun c => c.completeTx x.seq) := by
      have hfree : (s.net.any fun e => decide (e.1 < n) && e.2.host? && e.2.cn == p.cn && e.2.ctx == p.ctx) = false := by
        refine List.any_eq_false.mpr fun e he hall => ?_
        simp only [Bool.and_eq_true, decide_eq_true_iff, beq_iff_eq] at hall
        obtain ⟨⟨⟨hlt, hhost⟩, hcn⟩, hctx⟩ := hall
        exact hfirst e he hlt hhost hcn hctx
      show execTransactionCompletion n s = _
      unfold execTransactionCompletion
      rw [hp]
      dsimp only
      rw [hbody, htx, hfree, htake]
      cases p.home <;> rfl
    obtain ⟨hcores, hwritten⟩ := writeRing_spec w p.cn h x.report bytes
    refine ⟨_, hexec, fun y => ?_, fun j => ?_, fun pa u hu hseq => ?_⟩
    · rw [State.core_modCore_same, Core.txs_completeTx, (hcores p.cn).2, List.mem_filter, bne_iff_ne]; rfl
    · rw [(Settles.completeTx _ p.cn x.seq).mem, (hcores j).1]; rfl
    · have hpa : (w.translate (some p.cn) (w.partOf p.cn) (w.ringVa (w.partOf p.cn) h (w.ring (w.partOf p.cn) h).2.2.2.2) .write).1 = .ok pa := by
        rw [translate_net]
        exact (congrArg (fun a => (s.translate (some p.cn) (s.partOf p.cn) a .write).1) hva).trans (congrArg Prod.fst hu)
      exact hwritten pa hpa hseq

end Sys2Proof
end

section
/-! SUPPORT. Several packets that set out in one instruction: listings of the network, and sending composed with sending. -/

namespace Sys2Proof.Machine

variable {i : Instr} {s t u : State}

/-! ### What a map lists -/

theorem listed_put_same {α : Type} (m : SMap α) (k : Nat) (x : α) : listed (SMap.put m k x) k = some x := by
  induction m with
  | nil => simp [listed, SMap.put]
  | cons e m ih =>
    obtain ⟨j, y⟩ := e
    unfold listed at ih ⊢
    unfold SMap.put
    split
    · next h => rw [List.find?_cons_of_neg (by simp; omega)]; exact ih
    · split <;> simp

theorem listed_put_other {α : Type} (m : SMap α) {k j : Nat} (x : α) (h : j ≠ k) : listed (SMap.put m k x) j = listed m j := by
  induction m with
  | nil => simp [listed, SMap.put, Ne.symm h]
  | cons e m ih =>
    obtain ⟨n, y⟩ := e
    unfold listed at ih ⊢
    unfold SMap.put
    split
    · by_cases hn : n = j
      · simp [hn]
      · rw [List.find?_cons_of_neg (by simpa using hn), List.find?_cons_of_neg (by simpa using hn)]; exact ih
    · split
      · next hk => subst hk; simp [Ne.symm h]
      · simp [Ne.symm h]

/-! ### Sending, and then more -/

theorem CtxRest.trans {x y z : Ctx} (h : CtxRest x y) (k : CtxRest y z) : CtxRest x z := by
  unfold CtxRest at h k ⊢
  rw [k, h]

theorem RegsSameBut.trans {keys : List Nat} (h : RegsSameBut s t keys) (k : RegsSameBut t u keys) : RegsSameBut s u keys := by
  obtain ⟨hg, hv, hp, he, hb⟩ := h
  obtain ⟨kg, kv, kp, ke, kb⟩ := k
  exact ⟨fun n hn => (kg n hn).trans (hg n hn), fun n hn => (kv n hn).trans (hv n hn), fun n hn => (kp n hn).trans (hp n hn),
    fun n hn => (ke n hn).trans (he n hn), fun n hn => (kb n hn).trans (hb n hn)⟩

/-- A core that is replaced twice. -/
theorem modMe_replaced {c d : Core} {n : SMap Packet} {k : Nat} (h : t = { (s.modMe fun _ => d) with net := n, nextPkt := k }) :
    t.modMe (fun _ => c) = { (s.modMe fun _ => c) with net := n, nextPkt := k } := by
  subst h
  show ({ ((s.modMe fun _ => d).modMe fun _ => c) with net := n, nextPkt := k } : State) = _
  rw [State.modMe_modMe]

theorem OnlySent.trans (h : OnlySent s t) (k : OnlySent t u) : OnlySent s u := by
  obtain ⟨hmem, hstate, hme, hother, hrest, hregs⟩ := h
  obtain ⟨kmem, kstate, kme, kother, krest, kregs⟩ := k
  have hctx : t.curCtx = s.curCtx := by rw [hstate]; rfl
  refine ⟨MemSame.trans hmem kmem, ?_, by rw [kme, hme], fun k hk => (kother k (hctx ▸ hk)).trans (hother k hk), CtxRest.trans hrest krest,
    RegsSameBut.trans hregs kregs⟩
  refine kstate.trans ?_
  rw [modMe_replaced hstate]

/-- Retiring leaves what an instruction that sends may not change. -/
theorem onlySent_retire (s : State) (len stl : Nat) : OnlySent s (s.retire len stl) := by
  obtain ⟨⟨hstate, hmem⟩, hrest, -, -, hregs⟩ := changesRegs_retire s len stl
  have hme : (s.retire len stl).me = s.me.modCx s.curCtx fun x => x.goto (x.pc + .ofNat 64 len) stl := State.me_modCx s _
  refine ⟨hmem, ?_, by rw [hme]; rfl, fun k hk => by rw [hme]; exact Core.cx_modCx_other s.me _ hk, hrest, hregs⟩
  rw [hme]; rfl

/-- A further change of the core that has sent. -/
theorem State.modMe_sent (s : State) (c : Core) (p : Packet) (g : Core → Core) : (s.sent c p).modMe g = s.sent (g c) p := by
  have h : (s.sent c p).modMe g = ((s.modMe fun _ => c).modMe g).send p := rfl
  rw [h, State.modMe_modMe]; rfl

/-! ### Transfers to neighbours (R67, R321) -/

/-- The target of a halo transfer to core n. -/
def haloTarget (cls n : Nat) (at_ : Word) : Target := { use := .put, kind := 5, cls := cls, dest := .ofNat 64 n, addr := at_ }

/-- One transfer of a halo (R67, R321). -/
theorem forkHalo_spec {cls dir n : Nat} {at_ : Word} {bs : List Byte} (hn : s.neighbour s.curCore dir = some n) (hlt : n < 2048) :
    let u := s.forkHalo cls at_ bs dir
    OnlySent s u ∧ u.cx = { s.cx with perf := u.cx.perf } ∧ u.me.halos = s.me.halos + 1 ∧ u.me.txs.length = s.me.txs.length + 1 ∧
      ∃ p : Packet, u.net = SMap.put s.net s.nextPkt p ∧ u.nextPkt = s.nextPkt + 1 ∧ p.home = .core n ∧ p.addr = at_.toNat ∧ p.kind = 5 ∧
        p.body = .halo ((dir + 2) % 4) bs := by
  intro u
  let m := haloTarget cls n at_
  have hD : m.dest.toNat = n := Nat.mod_eq_of_lt (by omega)
  have hdk : destDK m.dest = 0 := by rw [destDK_eq, hD]; omega
  have htarget : s.targetOf s.curCore m.dest m.addr = (.core n, at_.toNat) := by
    rw [State.targetOf, hdk]
    show (Home.core (destCn m.dest), _) = _
    rw [destCn_eq, hD, Nat.mod_eq_of_lt hlt]; rfl
  let x := s.newTx m (.halo ((dir + 2) % 4) bs) false false
  obtain ⟨p, fl, heq, -, -, -, -, -, hkind, -, -, -, hhome⟩ := issue_eq s m (.halo ((dir + 2) % 4) bs) false false fun x => x.count 5
  obtain ⟨hph, -, hbody, haddr⟩ := hhome (by rw [hdk]; decide)
  have hu : u = s.sent { s.me.opened s.curCtx x fl (fun x => x.count 5) with halos := s.me.halos + 1 } p := by
    have hfork : u = ((s.issue (aimOf m) (.halo ((dir + 2) % 4) bs) false false).modCx fun x => x.count 5).modMe fun c => { c with halos := c.halos + 1 } := by
      show s.forkHalo cls at_ bs dir = _
      unfold State.forkHalo State.modCx
      rw [hn, State.modMe_modMe]
      rfl
    rw [hfork, heq, State.modMe_sent]; rfl
  have hcx : ({ s.me.opened s.curCtx x fl (fun x => x.count 5) with halos := s.me.halos + 1 } : Core).cx s.curCtx = (s.cx.count 4).count 5 :=
    Core.cx_modCx_same s.me s.curCtx fun y => (y.count 4).count 5
  have hucx : u.cx = (s.cx.count 4).count 5 := by
    rw [← hcx, State.cx, hu, State.me_sent]; rfl
  refine ⟨?_, by rw [hucx]; rfl, by rw [hu, State.me_sent], by rw [hu, State.me_sent]; exact List.length_append, p, by rw [hu]; rfl, by rw [hu]; rfl,
    ?_, ?_, hkind, hbody⟩
  · rw [hu]
    refine onlySent_sent p rfl (fun k hk => Core.cx_modCx_other s.me (fun y => (y.count 4).count 5) hk) ?_ ?_ ?_ ?_ ?_ ?_
    all_goals rw [hcx]; rfl
  · rw [hph]; exact congrArg Prod.fst htarget
  · rw [haddr]; exact congrArg Prod.snd htarget

theorem OnlySent.neighbour (h : OnlySent s t) (k : Nat) : t.neighbour t.curCore k = s.neighbour s.curCore k := by
  obtain ⟨-, hstate, -⟩ := h
  rw [hstate]; rfl

/-- The transfers of a halo to the neighbours in the directions of a list (R321). -/
theorem forkHalos_spec {cls : Nat} {at_ : Word} {bs : List Byte} (stl : Nat) (dirs : List Nat) (s : State)
    (hn : ∀ k ∈ dirs, ∃ n, s.neighbour s.curCore k = some n ∧ n < 2048) :
    let t := (dirs.foldl (fun s k => s.forkHalo cls at_ bs k) s).retire 4 stl
    Retired s t 4 ∧ FlagsSame s t ∧ OnlySent s t ∧ t.me.halos = s.me.halos + dirs.length ∧ t.nextPkt = s.nextPkt + dirs.length ∧
      t.me.txs.length = s.me.txs.length + dirs.length ∧ (∀ k < s.nextPkt, listed t.net k = listed s.net k) ∧
      ∀ j (h : j < dirs.length), ∃ p, listed t.net (s.nextPkt + j) = some p ∧
        p.home = .core ((s.neighbour s.curCore dirs[j]).getD 0) ∧ p.addr = at_.toNat ∧ p.kind = 5 ∧ p.body = .halo ((dirs[j] + 2) % 4) bs := by
  induction dirs generalizing s with
  | nil =>
    obtain ⟨-, -, hret, hflags, -⟩ := changesRegs_retire s 4 stl
    have hme : (s.retire 4 stl).me = s.me.modCx s.curCtx fun x => x.goto (x.pc + .ofNat 64 4) stl := State.me_modCx s _
    exact ⟨hret, hflags, onlySent_retire s 4 stl, by rw [List.foldl_nil, hme]; rfl, rfl, by rw [List.foldl_nil, hme]; rfl, fun _ _ => rfl, nofun⟩
  | cons d dirs ih =>
    intro t
    obtain ⟨n, hd, hlt⟩ := hn d List.mem_cons_self
    obtain ⟨honly, hcx, hhalos, htxs, p, hnet, hnext, hhome, haddr, hkind, hbody⟩ := forkHalo_spec (cls := cls) (at_ := at_) (bs := bs) hd hlt
    generalize hu : s.forkHalo cls at_ bs d = u at *
    have hneighbour := OnlySent.neighbour honly
    have ht : t = (dirs.foldl (fun s k => s.forkHalo cls at_ bs k) u).retire 4 stl := by rw [← hu]; rfl
    obtain ⟨⟨hpc, hpfx, hwait⟩, ⟨hstat, hrnd⟩, hrest, hthalos, htnext, httxs, hkept, hall⟩ :=
      ih u fun k hk => by rw [hneighbour]; exact hn k (List.mem_cons_of_mem _ hk)
    rw [← ht] at hpc hpfx hwait hstat hrnd hrest hthalos htnext httxs hkept hall
    have hpp : u.cx.pp = s.cx.pp := by rw [hcx]; rfl
    refine ⟨⟨?_, ?_, hwait⟩, ⟨?_, ?_⟩, OnlySent.trans honly hrest, ?_, ?_, ?_, fun k hk => ?_, fun j hj => ?_⟩
    · rw [hpc, hcx]
    · rw [hpfx, hpp, hcx]
    · rw [hstat, hcx]
    · rw [hrnd, hcx]
    · rw [hthalos, hhalos, List.length_cons]; omega
    · rw [htnext, hnext, List.length_cons]; omega
    · rw [httxs, htxs, List.length_cons]; omega
    · rw [hkept k (by omega), hnet, listed_put_other _ _ (by omega)]
    · cases j with
      | zero =>
        refine ⟨p, ?_, ?_, haddr, hkind, hbody⟩
        · rw [Nat.add_zero, hkept _ (by omega), hnet, listed_put_same]
        · rw [hhome]; simp [hd]
      | succ j =>
        obtain ⟨q, hq, hqhome, hqrest⟩ := hall j (by simpa using hj)
        refine ⟨q, ?_, ?_, hqrest⟩
        · rw [← hq, hnext]; congr 1; omega
        · rw [hqhome, hneighbour]; rfl

end Sys2Proof.Machine
end

section
/-! SUPPORT. Halos and zero-watches (R67, R124, R125, R321, R322): O35. -/

namespace Sys2Proof.Machine

variable {s : State} {st : BitVec 3} {d a b : BitVec 5} {c : BitVec 2}

/-! ### Halo -/

/-- The directions of a halo's control word. -/
theorem ones_wfld (w : Word) : ones (wfld w 0 4) 4 = (List.range 4).filter fun k => w.toNat / 2 ^ k % 2 = 1 := by
  refine List.filter_congr fun k hk => ?_
  have hk4 : k < 4 := List.mem_range.mp hk
  have hbit : w.toNat % 2 ^ 4 / 2 ^ k % 2 = w.toNat / 2 ^ k % 2 := by
    have h := congrArg (fun x : Bool => x.toNat) (Nat.testBit_mod_two_pow w.toNat 4 k)
    simpa [Nat.toNat_testBit, hk4] using h
  rw [wfld_low, hbit]
  exact Bool.beq_eq_decide_eq _ _

/-- The first number of a rising list that passes a test. -/
theorem find?_of_first {l : List Nat} {test : Nat → Bool} {k : Nat} (hsorted : l.Pairwise (· < ·)) (hk : k ∈ l) (hpass : test k = true)
    (hbefore : ∀ j ∈ l, j < k → ¬test j = true) : l.find? test = some k := by
  induction l with
  | nil => cases hk
  | cons j l ih =>
    obtain ⟨hlt, hsorted⟩ := List.pairwise_cons.mp hsorted
    rcases List.mem_cons.mp hk with rfl | hk
    · exact List.find?_cons_of_pos hpass
    · rw [List.find?_cons_of_neg (hbefore j List.mem_cons_self (hlt k hk))]
      exact ih hsorted hk fun i hi => hbefore i (List.mem_cons_of_mem _ hi)

/-- The first key of a list of directions whose window is full. -/
theorem find_key {dirs : List Nat} {nbr : Nat → Option Nat} {full : DestKey → Bool} {k : Nat} (hsorted : dirs.Pairwise (· < ·))
    (hn : ∀ k ∈ dirs, ∃ n, nbr k = some n) (hk : k ∈ dirs) (hfull : full (.core (.ofNat 11 ((nbr k).getD 0))) = true)
    (hbefore : ∀ j ∈ dirs, j < k → ¬full (.core (.ofNat 11 ((nbr j).getD 0))) = true) :
    ((dirs.filterMap fun i => (nbr i).map fun t => (Home.core t).key).find? full) = some (.core (.ofNat 11 ((nbr k).getD 0))) := by
  have hkey : ∀ j ∈ dirs, (nbr j).map (fun t => (Home.core t).key) = some (.core (.ofNat 11 ((nbr j).getD 0))) := by
    intro j hj
    obtain ⟨n, hn⟩ := hn j hj
    rw [hn]; rfl
  rw [List.find?_filterMap, find?_of_first hsorted hk]
  · exact hkey k hk
  · rw [hkey k hk]; exact hfull
  · intro j hj hlt
    rw [hkey j hj]; exact hbefore j hj hlt

/-- No window is full. -/
theorem find_key_none {dirs : List Nat} {nbr : Nat → Option Nat} {full : DestKey → Bool}
    (h : ∀ k ∈ dirs, ¬full (.core (.ofNat 11 ((nbr k).getD 0))) = true) :
    ((dirs.filterMap fun i => (nbr i).map fun t => (Home.core t).key).find? full) = none := by
  refine List.find?_eq_none.mpr fun key hkey => ?_
  obtain ⟨i, hi, hmap⟩ := List.mem_filterMap.mp hkey
  obtain ⟨n, hn, rfl⟩ := Option.map_eq_some_iff.mp hmap
  have := h i hi
  rwa [hn] at this

/-- No core of the launch lies in a direction. -/
def State.loneAt (s : State) (k : Nat) : Bool :=
  match s.neighbour s.curCore k with
  | some t => !s.sameLaunch s.curCore t
  | none => true

theorem loneAt_iff (s : State) (k : Nat) : s.loneAt k = true ↔ ∀ t, s.neighbour s.curCore k = some t → s.sameLaunch s.curCore t = false := by
  unfold State.loneAt
  cases s.neighbour s.curCore k <;> simp

/-- What a halo does behind its checks (R321). -/
def State.haloGo (s : State) (st : BitVec 3) (cls : Nat) (dirs : List Nat) (src dst : Word) (len : Nat) : Out :=
  if 16 - dirs.length < s.me.halos then s.block (.halos (16 - dirs.length))
  else if s.me.choked then s.block .router
  else match (dirs.filterMap fun i => (s.neighbour s.curCore i).map fun t => (Home.core t).key).find? fun k => s.me.windowFull k with
    | some k => s.block (.window k)
    | none => s.check [s.payloadRead src len] ((dirs.foldl (fun s i => s.forkHalo cls dst (s.bytes src len) i) s).done st)

theorem exec_halo (st : BitVec 3) (d a b : BitVec 5) (c : BitVec 2) (s : State) :
    let dirs := (List.range 4).filter fun k => (s.readG b).toNat / 2 ^ k % 2 = 1
    let len := (s.readG b).toNat / 2 ^ 32 % 2 ^ 12
    exec (.halo st d a b c) s =
      if dirs = [] ∨ len = 0 ∨ 2048 < len ∨ len % 8 ≠ 0 then .next (s.raise { cause := 0x4B })
      else if 0x300000 < (s.readG a).toNat + len then .next (s.raise { cause := 0x20, addr := s.readG a, info0 := len })
      else if (s.readG a).toNat % 8 ≠ 0 then .next (s.raise { cause := 0x21, addr := s.readG a, info0 := len })
      else if dirs.any s.loneAt = true then .next (s.raise (remoteFault 0x43 5 (s.readG d) 0))
      else if (s.readG d).toNat < 0x2000 ∨ 0x300000 < (s.readG d).toNat + len then .next (s.raise (remoteFault 0x44 5 (s.readG d) 0))
      else if (s.readG d).toNat % 8 ≠ 0 then .next (s.raise { cause := 0x21, addr := s.readG d, info0 := len })
      else s.haloGo st c.toNat dirs (s.readG a) (s.readG d) len := by
  intro dirs len
  have hlengths : (dirs.isEmpty || len == 0 || decide (2048 < len) || len % 8 != 0) = true ↔ dirs = [] ∨ len = 0 ∨ 2048 < len ∨ len % 8 ≠ 0 := by
    simp [or_assoc]
  have h : exec (.halo st d a b c) s = s.check ([chk (dirs.isEmpty || len == 0 || decide (2048 < len) || len % 8 != 0) 0x4B] ++
      (s.loadChecks (s.readG a) len 8 0).take 2 ++ [(dirs.any s.loneAt, remoteRec 0x43 5 (s.readG d) 0),
        (outOfGeneral (s.readG d).toNat len, remoteRec 0x44 5 (s.readG d) 0), ((s.readG d).toNat % 8 != 0, accessRec 0x21 (s.readG d) len 0)])
      (s.haloGo st c.toNat dirs (s.readG a) (s.readG d) len) := by
    rw [show dirs = ones (wfld (s.readG b) 0 4) 4 from (ones_wfld _).symm]; rfl
  simp only [State.loadChecks, List.take_succ_cons, List.take_zero, List.cons_append, List.nil_append, chk, State.check_cons, State.check_nil,
    outOfLocal_iff, outOfGeneral_iff, bne_iff_ne, hlengths] at h
  exact h

/-! ### Zero-watch -/

/-- What zwatch does behind its checks: it arms the lowest free entry (R322). -/
def State.arm (s : State) (st : BitVec 3) (d : BitVec 5) (z : ZWatch) : Out :=
  match (span 1 8).find? fun n => !SMap.has s.me.zwatch n with
  | none => s.result st d 0 0
  | some n =>
    let s := s.modMe fun c => { c with zwatch := SMap.put c.zwatch n z }
    let s := if s.me.watchZero z then s.fireWatch s.curCore n z else s
    s.result st d (.ofNat 64 n) 0

theorem exec_zwatch (st : BitVec 3) (d a b : BitVec 5) (s : State) :
    let B := (s.readG b).toNat
    let w := if B / 256 % 2 = 1 then 8 else 4
    exec (.zwatch st d a b) s =
      if 2 ^ 63 ≤ B then
        if SMap.has s.me.zwatch (B % 16) then (s.modMe fun c => { c with zwatch := SMap.del c.zwatch (B % 16) }).result st d 1 0
        else s.result st d 0 0
      else if 48 ≤ B % 64 ∧ s.isS = false then .next (s.raise { cause := 0x42 })
      else if 0x300000 < (s.readG a).toNat + w then .next (s.raise { cause := 0x20, addr := s.readG a, info0 := w })
      else if (s.readG a).toNat % w ≠ 0 then .next (s.raise { cause := 0x21, addr := s.readG a, info0 := w })
      else if (s.readG a).toNat < 0x2000 ∨ 0x300000 < (s.readG a).toNat + w then .next (s.raise { cause := 0x22, addr := s.readG a, info0 := w })
      else s.arm st d ⟨(s.readG a).toNat, w == 8, B % 64, B / 2 ^ 16 % 2 ^ 16⟩ := by
  intro B w
  have hw : (if wbit (s.readG b) 8 then 8 else 4) = w := by
    simp [w, wbit, B]
  have hop : wbit (s.readG b) 63 = true ↔ 2 ^ 63 ≤ B := by
    have := (s.readG b).isLt
    rw [wbit, beq_iff_eq]; omega
  have hn : wfld (s.readG b) 0 4 = B % 16 := wfld_low _ _
  have hch : wfld (s.readG b) 0 6 = B % 64 := wfld_low _ _
  have h : exec (.zwatch st d a b) s = if wbit (s.readG b) 63 then
        if SMap.has s.me.zwatch (wfld (s.readG b) 0 4) then (s.modMe fun c => { c with zwatch := SMap.del c.zwatch (wfld (s.readG b) 0 4) }).result st d 1 0
        else s.result st d 0 0
      else s.check [chk (decide (48 ≤ wfld (s.readG b) 0 6) && !s.isS) 0x42, (outOfLocal (s.readG a).toNat w, accessRec 0x20 (s.readG a) w 0),
          ((s.readG a).toNat % w != 0, accessRec 0x21 (s.readG a) w 0), (outOfGeneral (s.readG a).toNat w, accessRec 0x22 (s.readG a) w 0)]
        (s.arm st d ⟨(s.readG a).toNat, w == 8, wfld (s.readG b) 0 6, wfld (s.readG b) 16 16⟩) := by
    rw [← hw]; rfl
  have hforbidden : (decide (48 ≤ B % 64) && !s.isS) = true ↔ 48 ≤ B % 64 ∧ s.isS = false := by simp
  simp only [hn, hch, hop, chk, State.check_cons, State.check_nil, outOfLocal_iff, outOfGeneral_iff, bne_iff_ne, hforbidden] at h
  exact h

/-- No entry is free. -/
theorem arm_full {z : ZWatch} (h : ∀ n, ¬(1 ≤ n ∧ n ≤ 8 ∧ SMap.has s.me.zwatch n = false)) : s.arm st d z = s.result st d 0 0 := by
  have hnone : ((span 1 8).find? fun n => !SMap.has s.me.zwatch n) = none := by
    refine List.find?_eq_none.mpr fun n hn hfree => ?_
    obtain ⟨k, hk, rfl⟩ := mem_span hn
    exact h (1 + k) ⟨by omega, by omega, by simpa using hfree⟩
  rw [State.arm, hnone]

/-- The lowest free entry is armed (R124). -/
theorem arm_free {z : ZWatch} {n : Nat} (hn : 1 ≤ n ∧ n ≤ 8 ∧ SMap.has s.me.zwatch n = false)
    (hbefore : ∀ j, j < n → ¬(1 ≤ j ∧ j ≤ 8 ∧ SMap.has s.me.zwatch j = false)) :
    let u := s.modMe fun c => { c with zwatch := SMap.put c.zwatch n z }
    s.arm st d z = (if s.me.watchZero z then u.fireWatch s.curCore n z else u).result st d (.ofNat 64 n) 0 := by
  obtain ⟨h1, h8, hfree⟩ := hn
  have hfind : ((span 1 8).find? fun n => !SMap.has s.me.zwatch n) = some n := by
    refine find?_of_first (List.Pairwise.map _ (fun _ _ h => Nat.add_lt_add_left h 1) List.pairwise_lt_range) ?_ (by rw [hfree]; rfl) ?_
    · exact List.mem_map.mpr ⟨n - 1, List.mem_range.mpr (by omega), by omega⟩
    · intro j hj hlt hpass
      obtain ⟨k, hk, rfl⟩ := mem_span hj
      exact hbefore (1 + k) hlt ⟨by omega, by omega, by simpa using hpass⟩
  intro u
  have hzero : u.me.watchZero z = s.me.watchZero z := by rw [State.me_modMe]; rfl
  rw [State.arm, hfind, ← hzero]; rfl

/-- An entry that fires is disarmed, and its message is in flight to its own core (R125). -/
theorem fireWatch_armed (s : State) (n : Nat) (z : ZWatch) :
    let u := (s.modMe fun c => { c with zwatch := SMap.put c.zwatch n z }).fireWatch s.curCore n z
    ∃ p : Packet, u = s.sent { s.me with zwatch := SMap.del (SMap.put s.me.zwatch n z) n } p ∧ p.home = .core s.curCore ∧
      p.body = .message { chan := z.chan, tag := z.tag, bytes := leBytes 8 (n * 2 ^ 56 + z.addr), src := sourceId 2 (s.jobRank s.curCore) s.curCore } := by
  have hrank : (s.modMe fun c => { c with zwatch := SMap.put c.zwatch n z }).jobRank s.curCore = s.jobRank s.curCore := by
    unfold State.jobRank State.modMe
    rw [State.launchOf_modCore]
    rfl
  intro u
  have hu : u = (((s.modMe fun c => { c with zwatch := SMap.put c.zwatch n z }).modMe fun c => { c with zwatch := SMap.del c.zwatch n }).send _) := rfl
  rw [State.modMe_modMe] at hu
  refine ⟨_, hu, rfl, ?_⟩
  rw [← hrank]

/-- Arming an entry over bytes that are zero (R124, R125). -/
theorem fires_of_arm {i : Instr} {z : ZWatch} {n : Nat}
    (h : exec i s = ((s.modMe fun c => { c with zwatch := SMap.put c.zwatch n z }).fireWatch s.curCore n z).result st d (.ofNat 64 n) 0) :
    ∃ t p, exec i s = .next t ∧ t.readG d = (if d = 0 then 0 else .ofNat 64 n) ∧ Retired s t 4 ∧ RegsSameBut s t [keyG d.toNat] ∧ MemSame s t ∧
      SMap.has t.me.zwatch n = false ∧ t.net = SMap.put s.net s.nextPkt p ∧ p.home = .core s.curCore ∧
      p.body = .message { chan := z.chan, tag := z.tag, bytes := leBytes 8 (n * 2 ^ 56 + z.addr), src := sourceId 2 (s.jobRank s.curCore) s.curCore } := by
  obtain ⟨p, hu, hhome, hbody⟩ := fireWatch_armed s n z
  generalize State.fireWatch _ s.curCore n z = u at h hu
  have hme : u.me = { s.me with zwatch := SMap.del (SMap.put s.me.zwatch n z) n } := by rw [hu, State.me_sent]
  have hcx : u.cx = s.cx := by
    have hctx : u.curCtx = s.curCtx := by rw [hu]; rfl
    rw [State.cx, hme, hctx]; rfl
  obtain ⟨t, ht, hg, ⟨honly, hmem⟩, -, hret, -, hregs⟩ := result_spec u st d (.ofNat 64 n) 0
  have hsent : MemSame s u := by
    rw [hu]
    exact memSame_modCore s s.curCore (f := fun _ => { s.me with zwatch := SMap.del (SMap.put s.me.zwatch n z) n }) rfl
  rw [Retired, hcx] at hret
  obtain ⟨-, -, -, hsame⟩ := regsSame_of_cx hcx
  refine ⟨t, p, h.trans ht, hg, hret, RegsSameBut.of_same hsame hregs, MemSame.trans hsent hmem, ?_, ?_, hhome, hbody⟩
  · have : t.me.zwatch = u.me.zwatch := by rw [honly, State.me_modCx]; rfl
    rw [this, hme]
    exact List.any_eq_false.mpr fun e he => by simpa using (List.mem_filter.mp he).2
  · rw [honly, hu]; rfl

/-- A halo behind its checks: its waits in their order, the read of the payload, and the transfers (R136, R321). -/
theorem haloGo_spec {i : Instr} {dirs : List Nat} {src dst : Word} {cls len : Nat} (h : exec i s = s.haloGo st cls dirs src dst len)
    (hsorted : dirs.Pairwise (· < ·)) (hfew : dirs.length ≤ 4) (hlen : len ≠ 0)
    (hn : ∀ k ∈ dirs, ∃ n, s.neighbour s.curCore k = some n ∧ n < 2048) :
    let nbr := fun k => (s.neighbour s.curCore k).getD 0
    let full := fun k => s.me.windowFull (.core (.ofNat 11 (nbr k))) = true
    (16 < s.me.halos + dirs.length → Waits i s (.halos (16 - dirs.length))) ∧
    (s.me.halos + dirs.length ≤ 16 → s.me.choked = true → Waits i s .router) ∧
    (s.me.halos + dirs.length ≤ 16 → s.me.choked = false →
      (∀ k ∈ dirs, full k → (∀ j ∈ dirs, j < k → ¬full j) → Waits i s (.window (.core (.ofNat 11 (nbr k))))) ∧
      ((∀ k ∈ dirs, ¬full k) →
        (s.me.badIn src.toNat len = true → Traps i s { cause := 0xA0 }) ∧
        (s.me.badIn src.toNat len = false →
          exec i s = .next ((dirs.foldl (fun s k => s.forkHalo cls dst (s.bytes src len) k) s).retire 4 st.toNat)))) := by
  intro nbr full
  unfold State.haloGo at h
  refine ⟨fun h1 => ?_, fun h1 h2 => ?_, fun h1 h2 => ?_⟩
  · rw [if_pos (by omega)] at h; exact h
  · rw [if_neg (by omega), if_pos h2] at h; exact h
  rw [if_neg (by omega), h2, if_neg Bool.false_ne_true] at h
  refine ⟨fun k hk hfull hbefore => ?_, fun hnone => ?_⟩
  · rw [find_key (full := fun k => s.me.windowFull k) hsorted (fun j hj => (hn j hj).imp fun _ h => h.1) hk hfull hbefore] at h
    exact h
  · rw [find_key_none (full := fun k => s.me.windowFull k) hnone] at h
    obtain ⟨hbad, hgood⟩ := read_of_check h
    exact ⟨fun h3 => hbad ⟨hlen, h3⟩, fun h3 => hgood fun h4 => by rw [h3] at h4; cases h4.2⟩

/-- The bytes that each transfer carries are those before the first one. -/
theorem forkHalos_bytes {cls len : Nat} {src dst : Word} {bs : List Byte} (dirs : List Nat) (s : State) (hbs : s.bytes src len = bs)
    (hn : ∀ k ∈ dirs, ∃ n, s.neighbour s.curCore k = some n ∧ n < 2048) :
    dirs.foldl (fun u k => u.forkHalo cls dst (u.bytes src len) k) s = dirs.foldl (fun u k => u.forkHalo cls dst bs k) s := by
  induction dirs generalizing s with
  | nil => rw [List.foldl_nil, List.foldl_nil]
  | cons d dirs ih =>
    obtain ⟨n, hd, hlt⟩ := hn d List.mem_cons_self
    obtain ⟨honly, -⟩ := forkHalo_spec (cls := cls) (at_ := dst) (bs := bs) hd hlt
    rw [List.foldl_cons, List.foldl_cons, hbs]
    generalize s.forkHalo cls dst bs d = u at honly
    have hneighbour := OnlySent.neighbour honly
    obtain ⟨-, -, hme, -⟩ := honly
    refine ih u ?_ fun k hk => ?_
    · rw [State.bytes, hme]; exact hbs
    · rw [hneighbour]; exact hn k (List.mem_cons_of_mem _ hk)

end Sys2Proof.Machine

namespace Sys2Proof

open Machine

/-- Settles O35: the checks and waits of halo and its transfers, and what zwatch arms, fires and disarms. -/
theorem haloAndZeroWatch : Obligations.HaloAndZeroWatch := by
  unfold Obligations.HaloAndZeroWatch
  intro st d a b c s B len dirs S D i w nbr full lone free zero own
  have halo : exec i s = _ := exec_halo st d a b c s
  have zwatch : exec (.zwatch st d a b) s = _ := exec_zwatch st d a b s
  have hlengths : dirs ≠ [] → 0 < len → len ≤ 2048 → len % 8 = 0 → ¬(dirs = [] ∨ len = 0 ∨ 2048 < len ∨ len % 8 ≠ 0) := by
    intro h1 h2 h3 h4 h
    rcases h with h | h | h | h
    · exact h1 h
    all_goals omega
  have hallowed : B % 64 < 48 ∨ s.isS = true → ¬(48 ≤ B % 64 ∧ s.isS = false) := by
    rintro (h | h) ⟨h3, h4⟩
    · exact Nat.not_le.mpr h h3
    · rw [h] at h4; cases h4
  refine ⟨fun h => ?_, fun h1 h2 h3 h4 => ?_, fun h1 h2 h3 => ?_, fun h1 h2 => ?_, fun h1 h2 h3 h4 h5 => ?_, fun h1 => ?_⟩
  · exact halo.trans (if_pos h)
  · replace halo := halo.trans (if_neg (hlengths h1 h2 h3 h4))
    refine ⟨fun h => ?_, fun h5 h => ?_, fun h5 h6 h => ?_, fun h5 h6 hall => ?_⟩
    · exact halo.trans (if_pos h)
    · exact (halo.trans (if_neg (Nat.not_lt.mpr h5))).trans (if_pos h)
    · obtain ⟨k, hk, hlone⟩ := h
      have hany : dirs.any s.loneAt = true := List.any_eq_true.mpr ⟨k, hk, (loneAt_iff s k).mpr hlone⟩
      exact ((halo.trans (if_neg (Nat.not_lt.mpr h5))).trans (if_neg (not_not.mpr h6))).trans (if_pos hany)
    · have hnone : ¬dirs.any s.loneAt = true := by
        intro hany
        obtain ⟨k, hk, hlone⟩ := List.any_eq_true.mp hany
        obtain ⟨t, ht, -, hsame⟩ := hall k hk
        rw [(loneAt_iff s k).mp hlone t ht] at hsame; cases hsame
      replace halo := ((halo.trans (if_neg (Nat.not_lt.mpr h5))).trans (if_neg (not_not.mpr h6))).trans (if_neg hnone)
      have hgeneral : 0x2000 ≤ D.toNat → D.toNat + len ≤ 0x300000 → ¬(D.toNat < 0x2000 ∨ 0x300000 < D.toNat + len) := by omega
      refine ⟨fun h => halo.trans (if_pos h), fun h7 h8 h => (halo.trans (if_neg (hgeneral h7 h8))).trans (if_pos h), fun h7 h8 h9 => ?_⟩
      replace halo := (halo.trans (if_neg (hgeneral h7 h8))).trans (if_neg (not_not.mpr h9))
      have hn : ∀ k ∈ dirs, ∃ n, s.neighbour s.curCore k = some n ∧ n < 2048 := fun k hk =>
        (hall k hk).imp fun t h => ⟨h.1, h.2.1⟩
      have hsorted : dirs.Pairwise (· < ·) := List.pairwise_lt_range.sublist List.filter_sublist
      have hfew : dirs.length ≤ 4 := List.length_filter_le _ _
      obtain ⟨hroom, hrouter, hgo⟩ := haloGo_spec halo hsorted hfew (Nat.ne_of_gt h2) hn
      refine ⟨hroom, hrouter, fun h10 h11 => ?_⟩
      obtain ⟨hwindow, hread⟩ := hgo h10 h11
      refine ⟨hwindow, fun hopen => ?_⟩
      obtain ⟨hbad, hsend⟩ := hread hopen
      refine ⟨hbad, fun hgood => ?_⟩
      have hexec := hsend hgood
      rw [forkHalos_bytes dirs s rfl hn] at hexec
      obtain ⟨hret, hflags, honly, hhalos, hnext, htxs, -, hpackets⟩ := forkHalos_spec (cls := c.toNat) (at_ := D) (bs := s.bytes S len) st.toNat dirs s hn
      exact ⟨_, hexec, hret, hflags, honly, hhalos, hnext, htxs, hpackets⟩
  · exact (zwatch.trans (if_neg (Nat.not_le.mpr h1))).trans (if_pos ⟨h2, h3⟩)
  · replace zwatch := (zwatch.trans (if_neg (Nat.not_le.mpr h1))).trans (if_neg (hallowed h2))
    refine ⟨fun h => ?_, fun h3 h => ?_, fun h3 h4 h => ?_⟩
    · exact zwatch.trans (if_pos h)
    · exact (zwatch.trans (if_neg (Nat.not_lt.mpr h3))).trans (if_pos h)
    · exact ((zwatch.trans (if_neg (Nat.not_lt.mpr h3))).trans (if_neg (not_not.mpr h4))).trans (if_pos (.inl h))
  · have hgeneral : ¬(S.toNat < 0x2000 ∨ 0x300000 < S.toNat + w) := by
      rintro (h | h)
      · exact Nat.not_le.mpr h h3
      · exact Nat.not_le.mpr h h4
    replace zwatch := ((((zwatch.trans (if_neg (Nat.not_le.mpr h1))).trans (if_neg (hallowed h2))).trans (if_neg (Nat.not_lt.mpr h4))).trans
      (if_neg (not_not.mpr h5))).trans (if_neg hgeneral)
    refine ⟨fun hfull => ?_, fun n hn hbefore => ?_⟩
    · exact givesGAfter_of_result (zwatch.trans (arm_full hfull))
    · have harm := zwatch.trans (arm_free hn hbefore)
      have hwidth : (if (w == 8) = true then 8 else 4) = w := by
        by_cases h8 : B / 256 % 2 = 1
        · rw [show w = 8 from if_pos h8]; rfl
        · rw [show w = 4 from if_neg h8]; rfl
      have hwatch : s.me.watchZero ⟨S.toNat, w == 8, B % 64, B / 2 ^ 16 % 2 ^ 16⟩ = true ↔ zero := by
        show (Memory.num s.me.mem S.toNat (if (w == 8) = true then 8 else 4) == 0) = true ↔ _
        rw [hwidth, beq_iff_eq]
      refine ⟨fun hz => ?_, fun hz => ?_⟩
      · rw [if_neg (mt hwatch.mp hz)] at harm; exact givesGAfter_of_result harm
      · rw [if_pos (hwatch.mpr hz)] at harm; exact fires_of_arm harm
  · replace zwatch := zwatch.trans (if_pos h1)
    refine ⟨fun h => ?_, fun h => ?_⟩
    · rw [h, if_neg Bool.false_ne_true] at zwatch; exact givesGAfter_of_result zwatch
    · rw [if_pos h] at zwatch; exact givesGAfter_of_result zwatch

end Sys2Proof
end

section
/-! SUPPORT. Answers of a home, and the sequences of a launch (R121, R132, R145). -/

namespace Sys2Proof.Machine

variable {s v : State} {p : Packet} {i st : Nat} {data : List Word}

/-! ### Answers -/

/-- The answer to a request of this package (R121, R132). -/
def Packet.answer (p : Packet) (st : Nat) (data : List Word) : Packet :=
  { p with home := .core p.cn, slack := min 4095 (p.slack + p.rallow), rallow := 0, marked := false, reply := true, body := .reply st data }

theorem takePacket_unmarked (s : State) (i : Nat) (hm : p.marked = false) : s.takePacket i p = { s with net := SMap.del s.net i } := by
  rw [State.takePacket, hm]; rfl

theorem reply_eq (v : State) (i st : Nat) (data : List Word) (hr : p.remote = none) (hm : p.marked = false) :
    v.reply i p st data = ({ v with net := SMap.del v.net i } : State).send (p.answer st data) := by
  have hissuer : p.issuer = none := by rw [Packet.issuer, hr]; rfl
  unfold State.reply
  rw [takePacket_unmarked v i hm, hissuer]; rfl

theorem partReply_eq (v : State) (i st : Nat) (data : List Word) (hm : p.marked = false) :
    v.partReply i p st data = ({ v with net := SMap.del v.net i } : State).send (p.answer st data) := by
  unfold State.partReply
  rw [takePacket_unmarked v i hm]; rfl

theorem replied_send (h : s.nextPkt ≤ v.nextPkt) : Replied s (({ v with net := SMap.del v.net i } : State).send (p.answer st data)) p st data :=
  ⟨v.nextPkt, h, listed_put_same _ _ _⟩

/-- A home that answers from state v. -/
theorem replied_reply (hr : p.remote = none) (hm : p.marked = false) (h : s.nextPkt ≤ v.nextPkt) : Replied s (v.reply i p st data) p st data := by
  rw [reply_eq v i st data hr hm]; exact replied_send h

theorem cores_reply (hr : p.remote = none) (hm : p.marked = false) : (v.reply i p st data).cores = v.cores := by
  rw [reply_eq v i st data hr hm]; rfl
theorem gmem_reply (hr : p.remote = none) (hm : p.marked = false) : (v.reply i p st data).gmem = v.gmem := by
  rw [reply_eq v i st data hr hm]; rfl
theorem launches_reply (hr : p.remote = none) (hm : p.marked = false) : (v.reply i p st data).launches = v.launches := by
  rw [reply_eq v i st data hr hm]; rfl

theorem memSame_of_fields {s t : State} (hc : t.cores = s.cores) (hg : t.gmem = s.gmem) : MemSame s t :=
  ⟨fun cn a => by rw [State.core, hc]; rfl, fun a => by rw [hg]⟩

theorem memSame_reply (hr : p.remote = none) (hm : p.marked = false) (h : MemSame s v) : MemSame s (v.reply i p st data) :=
  MemSame.trans h (memSame_of_fields (cores_reply hr hm) (gmem_reply hr hm))

/-! ### The sequences of a launch -/

/-- The launch that a change of launches with its partition and LID makes of the first one. -/
theorem launch?_modLaunch {part lid : Nat} {l : Launch} {g : Launch → Launch} (h : s.launch? part lid = some l)
    (hg : ∀ x, (g x).part = x.part ∧ (g x).lid = x.lid) : (s.modLaunch part lid g).launch? part lid = some (g l) := by
  unfold State.launch? at h ⊢
  have hkey : (fun x : Launch => x.part == part && x.lid == lid) ∘ (fun x => if x.part == part && x.lid == lid then g x else x) =
      fun x : Launch => x.part == part && x.lid == lid := by
    funext x
    obtain ⟨hp, hl⟩ := hg x
    simp only [Function.comp]
    split
    · rw [hp, hl]
    · rfl
  show (s.launches.map _).find? _ = _
  rw [List.find?_map, hkey, h, Option.map_some, if_pos (List.find?_some (p := fun x : Launch => x.part == part && x.lid == lid) h)]

/-- The sequence that a launch holds in a slot once it is written there. -/
theorem launch?_setSeq {l : Launch} (n : Nat) (q : Seq) (h : s.launch? l.part l.lid = some l) :
    ∃ l', (s.setSeq l n q).launch? l.part l.lid = some l' ∧ listed l'.seqs n = some q :=
  ⟨_, launch?_modLaunch h fun _ => ⟨rfl, rfl⟩, listed_put_same _ _ _⟩

theorem launch?_congr {t : State} (h : t.launches = s.launches) (part lid : Nat) : t.launch? part lid = s.launch? part lid := by
  unfold State.launch?; rw [h]

/-- Nothing is due on the lines that f names. -/
theorem performDue_none {q : Seq} {f : Line → Bool} (h : ∀ e ∈ q.due, ∀ ln, q.line e.1 = some ln → f ln = false) : s.performDue q f = (s, q) := by
  have hmine : ∀ e ∈ q.due, ((q.line e.1).map f).getD false = false := by
    intro e he
    cases hl : q.line e.1 with
    | none => rfl
    | some ln => exact h e he ln hl
  unfold State.performDue
  dsimp only
  rw [List.filter_eq_nil_iff.mpr fun e he => by simp [hmine e he], List.filter_eq_self.mpr fun e he => by simp [hmine e he]]
  rfl

theorem index_of_line {q : Seq} {k : Nat} {ln : Line} (h : q.line k = some ln) : ln.index = k := by
  simpa using List.find?_some h

end Sys2Proof.Machine
end

section
/-! SUPPORT. The application of an update to its line (R125, R146, R147). -/

namespace Sys2Proof.Machine

variable {s : State} {h : Home}

/-- The memory of a home. -/
def State.homeMem (s : State) (h : Home) : Memory :=
  match h with
  | .core cn => (s.core cn).mem
  | _ => s.gmem

theorem homeMem_congr {t : State} (hc : ∀ cn, (t.core cn).mem = (s.core cn).mem) (hg : t.gmem = s.gmem) (h : Home) : t.homeMem h = s.homeMem h := by
  cases h
  case core cn => exact hc cn
  all_goals exact hg

theorem homeNum_eq (s : State) (h : Home) (a n : Nat) : s.homeNum h a n = Memory.num (s.homeMem h) a n := by
  cases h <;> rfl

theorem homeNum_of_onlyCaches {t : State} (ht : OnlyCaches s t) (h : Home) (a n : Nat) : t.homeNum h a n = s.homeNum h a n := by
  have hmem : t.homeMem h = s.homeMem h := homeMem_congr (fun cn => by rw [ht.cores]) (by rw [ht.rest]) h
  rw [homeNum_eq, homeNum_eq, hmem]

/-- A line may be written: its whole in a core's general area, or outside the launch sequencer's fields (R48, R362). -/
def State.lineWritable (s : State) (h : Home) (la : Nat) : Prop :=
  match h with
  | .core _ => 0x2000 ≤ la
  | _ => ∀ k < 64, s.sequencerField (la + k) = false

/-- What the application of an update changes beside memory: watches, and packets that join those in flight. -/
structure Applies (s t : State) : Prop where
  launches : t.launches = s.launches
  parts : t.parts = s.parts
  nextPkt : s.nextPkt ≤ t.nextPkt

theorem Applies.refl (s : State) : Applies s s := ⟨rfl, rfl, Nat.le_refl _⟩
theorem Applies.trans {t u : State} (h : Applies s t) (k : Applies t u) : Applies s u :=
  ⟨k.launches.trans h.launches, k.parts.trans h.parts, h.nextPkt.trans k.nextPkt⟩

theorem Applies.lineWritable {t : State} {la : Nat} (k : Applies s t) (hw : s.lineWritable h la) : t.lineWritable h la := by
  have hseq : ∀ a, t.sequencerField a = s.sequencerField a := by
    intro a
    unfold State.sequencerField State.partDw
    rw [k.parts]
  cases h
  case core => exact hw
  all_goals exact fun k hk => (hseq _).trans (hw k hk)

/-- A number written in a line of a home (R147). -/
theorem setHomeNum_spec {la a n : Nat} (x : Nat) (hw : s.lineWritable h la) (hlo : la ≤ a) (hhi : a + n ≤ la + 64) :
    let t := s.setHomeNum h a n x
    t.homeMem h = Memory.write (s.homeMem h) a (leBytes n x) ∧ Applies s t := by
  have global : (∀ k < 64, s.sequencerField (la + k) = false) →
      (s.putGlobal ((span a n).zip (leBytes n x))).gmem = Memory.write s.gmem a (leBytes n x) := by
    intro hw
    have hput : (s.putGlobal ((span a n).zip (leBytes n x))) = s.putBytes a (leBytes n x) := by rw [State.putBytes, length_leBytes]
    rw [hput]
    refine gmem_putBytes fun k hk => ?_
    rw [length_leBytes] at hk
    rw [show a + k = la + (a - la + k) by omega]
    exact hw _ (by omega)
  cases h
  case core cn =>
    refine ⟨?_, rfl, rfl, Nat.le_refl _⟩
    show ((s.modCore cn fun c => c.put a (leBytes n x)).core cn).mem = _
    rw [State.core_modCore_same]
    exact Core.mem_put_general _ _ (Nat.le_trans hw hlo)
  all_goals exact ⟨global hw, rfl, rfl, Nat.le_refl _⟩

theorem Memory.num_write_same (m : Memory) (a n x : Nat) : Memory.num (Memory.write m a (leBytes n x)) a n = x % 256 ^ n := by
  have h := Memory.read_write_same m a (leBytes n x)
  rw [length_leBytes] at h
  rw [Memory.num, h, leNat_leBytes]

/-- Elements of one line that are not the same share no byte. -/
theorem elements_apart {n j k : Nat} (h : j ≠ k) : n * j + n ≤ n * k ∨ n * k + n ≤ n * j := by
  rcases Nat.lt_or_gt_of_ne h with h | h
  · exact .inl (by rw [← Nat.mul_succ]; exact Nat.mul_le_mul_left n h)
  · exact .inr (by rw [← Nat.mul_succ]; exact Nat.mul_le_mul_left n h)

/-- Apply(L, U): every element that is named becomes its rounded sum, and no other byte of the line's home changes (R147). -/
theorem applyLanes_spec {q : Seq} {ln : Line} (lanes : List (Nat × Nat)) (s : State) (hnodup : (lanes.map (·.1)).Nodup)
    (hfit : ∀ x ∈ lanes, elemBytes q.fmt * x.1 + elemBytes q.fmt ≤ 64) (hw : s.lineWritable ln.home ln.addr) :
    let n := elemBytes q.fmt
    let t := s.applyLanes q ln lanes
    Applies s t ∧
    (∀ x ∈ lanes, t.homeNum ln.home (ln.addr + n * x.1) n = addCodes q.fmt q.rm (s.homeNum ln.home (ln.addr + n * x.1) n) x.2 % 256 ^ n) ∧
    ∀ a, (∀ x ∈ lanes, a < ln.addr + n * x.1 ∨ ln.addr + n * x.1 + n ≤ a) →
      Memory.byte (t.homeMem ln.home) a = Memory.byte (s.homeMem ln.home) a := by
  intro n
  induction lanes generalizing s with
  | nil => exact ⟨Applies.refl s, nofun, fun _ _ => rfl⟩
  | cons e lanes ih =>
    obtain ⟨j, x⟩ := e
    obtain ⟨hnew, hnodup⟩ := List.nodup_cons.mp hnodup
    have hj : n * j + n ≤ 64 := hfit (j, x) List.mem_cons_self
    obtain ⟨hmem, happ⟩ := setHomeNum_spec (s := s) (a := ln.addr + n * j) (n := n)
      (addCodes q.fmt q.rm (s.homeNum ln.home (ln.addr + n * j) n) x) hw (Nat.le_add_right _ _) (by omega)
    generalize hu : s.setHomeNum ln.home (ln.addr + n * j) n (addCodes q.fmt q.rm (s.homeNum ln.home (ln.addr + n * j) n) x) = u at hmem happ
    have ht : s.applyLanes q ln ((j, x) :: lanes) = u.applyLanes q ln lanes := by rw [← hu]; rfl
    obtain ⟨hrest, hvals, hframe⟩ := ih u hnodup (fun y hy => hfit y (List.mem_cons_of_mem _ hy)) (happ.lineWritable hw)
    have hother : ∀ y ∈ lanes, y.1 ≠ j := fun y hy hyj => hnew (List.mem_map.mpr ⟨y, hy, hyj⟩)
    have hbyte : ∀ a, a < ln.addr + n * j ∨ ln.addr + n * j + n ≤ a → Memory.byte (u.homeMem ln.home) a = Memory.byte (s.homeMem ln.home) a := by
      intro a ha
      rw [hmem]
      exact Memory.byte_write_outside _ _ _ _ (by rw [length_leBytes]; exact ha)
    dsimp only
    rw [ht]
    refine ⟨happ.trans hrest, fun y hy => ?_, fun a ha => ?_⟩
    · rcases List.mem_cons.mp hy with rfl | hy
      · have hkeep : Memory.num ((u.applyLanes q ln lanes).homeMem ln.home) (ln.addr + n * j) n = Memory.num (u.homeMem ln.home) (ln.addr + n * j) n :=
          Memory.num_congr fun a h1 h2 => hframe a fun y hy => by
            have := elements_apart (n := n) (hother y hy)
            omega
        rw [homeNum_eq, hkeep, hmem, Memory.num_write_same]
      · have hsame : u.homeNum ln.home (ln.addr + n * y.1) n = s.homeNum ln.home (ln.addr + n * y.1) n := by
          rw [homeNum_eq, homeNum_eq]
          refine Memory.num_congr fun a h1 h2 => hbyte a ?_
          have := elements_apart (n := n) (hother y hy)
          omega
        rw [hvals y hy, hsame]
    · rw [hframe a fun y hy => ha y (List.mem_cons_of_mem _ hy)]
      exact hbyte a (ha (j, x) List.mem_cons_self)

/-- Watches that fire send messages, and change no memory (R125). -/
theorem watchAfter_spec (s old : State) (cn : Nat) :
    Applies s (s.watchAfter old cn) ∧ ∀ h, (s.watchAfter old cn).homeMem h = s.homeMem h := by
  have fire : ∀ (u : State) (n : Nat) (z : ZWatch), Applies u (u.fireWatch cn n z) ∧ ∀ h, (u.fireWatch cn n z).homeMem h = u.homeMem h := by
    intro u n z
    refine ⟨⟨rfl, rfl, Nat.le_succ _⟩, fun h => ?_⟩
    cases h
    case core j =>
      show ((u.modCore cn fun c => { c with zwatch := SMap.del c.zwatch n }).core j).mem = (u.core j).mem
      by_cases hj : j = cn
      · subst hj; rw [State.core_modCore_same]
      · rw [State.core_modCore_other _ _ hj]
    all_goals rfl
  unfold State.watchAfter
  refine List.foldlRecOn (motive := fun u => Applies s u ∧ ∀ h, u.homeMem h = s.homeMem h) _ _ ⟨Applies.refl s, fun _ => rfl⟩ ?_
  rintro u ⟨hu, hmem⟩ ⟨n, z⟩ -
  dsimp only
  split
  · obtain ⟨hf, hfmem⟩ := fire u n z
    exact ⟨hu.trans hf, fun h => (hfmem h).trans (hmem h)⟩
  · exact ⟨hu, hmem⟩

/-- One application of an update of n-byte elements: its sums, and everything else of its home as it was (R125, R147). -/
theorem applyUpdate_spec {q : Seq} {ln : Line} {lanes : List (Nat × Nat)} {n : Nat} {t : State} (ht : s.applyUpdate q ln lanes = t)
    (hn : elemBytes q.fmt = n) (hnodup : (lanes.map (·.1)).Nodup)
    (hfit : ∀ x ∈ lanes, n * x.1 + n ≤ 64) (hw : s.lineWritable ln.home ln.addr) :
    Applies s t ∧
    (∀ x ∈ lanes, t.homeNum ln.home (ln.addr + n * x.1) n = addCodes q.fmt q.rm (s.homeNum ln.home (ln.addr + n * x.1) n) x.2 % 256 ^ n) ∧
    ∀ a, (∀ x ∈ lanes, a < ln.addr + n * x.1 ∨ ln.addr + n * x.1 + n ≤ a) → t.homeNum ln.home a 1 = s.homeNum ln.home a 1 := by
  subst hn ht
  obtain ⟨happ, hvals, hframe⟩ := applyLanes_spec lanes s hnodup hfit hw
  have hcore : Applies (s.applyLanes q ln lanes) (s.applyUpdate q ln lanes) ∧
      ∀ h, (s.applyUpdate q ln lanes).homeMem h = (s.applyLanes q ln lanes).homeMem h := by
    unfold State.applyUpdate
    split
    · exact watchAfter_spec _ _ _
    · exact ⟨Applies.refl _, fun _ => rfl⟩
  obtain ⟨happ', hmem⟩ := hcore
  refine ⟨happ.trans happ', fun x hx => ?_, fun a ha => ?_⟩
  · rw [homeNum_eq, hmem, ← homeNum_eq]; exact hvals x hx
  · rw [homeNum_eq, homeNum_eq, hmem, Memory.num_one, Memory.num_one, hframe a ha]

end Sys2Proof.Machine
end

section
/-! SUPPORT. A ticketed update at the home of its line (R146, R147, R150): O46. -/

namespace Sys2Proof.Machine

variable {s v : State} {p : Packet} {i : Nat} {h : Home} {l : Launch} {n : Nat} {q : Seq} {ln : Line} {f t la part lid : Nat}
  {lanes : List (Nat × Nat)} {late : Bool}

/-- The line that a part holds is the one at the address (R146). -/
theorem line_of_seqAt (hs : s.seqAt part h la = some (l, n, q, ln)) : ln.home = h ∧ ln.addr = la := by
  unfold State.seqAt at hs
  obtain ⟨l', -, hl⟩ := List.exists_of_findSome?_eq_some hs
  obtain ⟨e, -, he⟩ := List.exists_of_findSome?_eq_some hl
  dsimp only at he
  split at he
  · cases he
  · obtain ⟨ln', hfind, heq⟩ := Option.map_eq_some_iff.mp he
    cases heq
    simpa using List.find?_some hfind

theorem queriedAt_iff : q.queriedAt h = true ↔ ∃ x ∈ q.queried, q.parts[x.1]? = some h := by
  simp [Seq.queriedAt]

theorem heldAt_iff {k t : Nat} : (q.heldAt k t).isSome = true ↔ ∃ u ∈ q.held, u.line = k ∧ u.ticket = t := by
  simp [Seq.heldAt]

/-- The answer of a home that has decided on an update (R146, R151). -/
def Packet.decided (p : Packet) (i : Nat) (r : Nat × Nat × State) : State := r.2.2.reply i p r.1 (if r.2.1 = 0 then [] else [.ofNat 64 r.2.1])

/-- What a home of this package's core does with an update (R142, R146). -/
theorem updateArrival_core {cn : Nat} (hp : s.packet i = some p) (hreply : p.reply = false) (hremote : p.remote = none)
    (hbody : p.body = .ticket f t lanes) (hhome : p.home = .core cn) (late : Bool) :
    s.updateArrival i late = .next (p.decided i (match s.door p cn with
      | .hold => (6, 0, s)
      | .refuse => (4, s.noSeqReason p.part (.core cn) (p.addr / 64 * 64), s)
      | .accept =>
        if fld (s.ipOf 0x04C).toNat (updateCap 7 f) 1 = 0 then (2, 0, s)
        else s.updateAt (.core cn) (p.addr / 64 * 64) f t lanes (p.part, p.lid) late)) := by
  unfold State.updateArrival
  rw [hp]
  dsimp only
  rw [hreply, hbody, hhome, hremote]
  dsimp only
  cases s.door p cn
  · by_cases hl : fld (s.ipOf 0x04C).toNat (updateCap 7 f) 1 = 0
    · simp only [hl, beq_self_eq_true, if_true]; rfl
    · simp only [beq_eq_false_iff_ne.mpr hl, if_neg hl, Bool.false_eq_true, if_false]; rfl
  · rfl
  · rfl

/-- What the home of a global line does with an update (R146, R391). -/
theorem updateArrival_global (hp : s.packet i = some p) (hreply : p.reply = false) (hremote : p.remote = none)
    (hbody : p.body = .ticket f t lanes) (hcore : ∀ cn, p.home ≠ .core cn) (haway : ∀ r, p.home ≠ .remote r) (late : Bool) :
    s.updateArrival i late = .next (p.decided i
      (if fld (s.ipOf 0x04C).toNat (updateCap 7 f) 1 = 0 then (2, 0, s)
       else match s.translate (some p.cn) p.part p.addr .rmw with
        | (.ok pa, v) => if inHost pa then (4, 1, v) else v.updateAt (v.homeOf pa) (pa / 64 * 64) f t lanes (p.part, p.lid) late
        | (e, v) => (3, e.code, v))) := by
  unfold State.updateArrival
  rw [hp]
  dsimp only
  rw [hreply, hbody, hremote]
  dsimp only
  by_cases hl : fld (s.ipOf 0x04C).toNat (updateCap 7 f) 1 = 0
  · simp only [hl, beq_self_eq_true, if_true]
    cases hh : p.home with
    | core cn => exact absurd hh (hcore cn)
    | remote r => exact absurd hh (haway r)
    | _ => rfl
  · simp only [beq_eq_false_iff_ne.mpr hl, if_neg hl, Bool.false_eq_true, if_false]
    have hmain : (match s.translate (some p.cn) p.part p.addr .rmw with
          | (.ok pa, s) => if inHost pa then Host.Outcome.next (p.decided i (4, 1, s))
              else .next (p.decided i (s.updateAt (s.homeOf pa) (pa / 64 * 64) f t lanes (p.part, p.lid) late))
          | (e, s) => .next (p.decided i (3, e.code, s)) : Out) =
        .next (p.decided i (match s.translate (some p.cn) p.part p.addr .rmw with
          | (.ok pa, v) => if inHost pa then (4, 1, v) else v.updateAt (v.homeOf pa) (pa / 64 * 64) f t lanes (p.part, p.lid) late
          | (e, v) => (3, e.code, v))) := by
      obtain ⟨x, v⟩ := s.translate (some p.cn) p.part p.addr .rmw
      cases x
      case ok pa =>
        dsimp only
        split <;> rfl
      all_goals rfl
    cases hh : p.home with
    | core cn => exact absurd hh (hcore cn)
    | remote r => exact absurd hh (haway r)
    | _ => exact hmain

/-- An uncorrectable error at a core's line is one of the core (R355). -/
def State.countBad (s : State) (h : Home) : State :=
  match h with
  | .core cn => s.countUnc cn
  | _ => s

theorem memSame_countBad (s : State) (h : Home) : MemSame s (s.countBad h) ∧ (s.countBad h).nextPkt = s.nextPkt := by
  cases h
  case core cn => exact ⟨(Settles.countUnc s cn).memSame, rfl⟩
  all_goals exact ⟨⟨fun _ _ => rfl, fun _ => rfl⟩, rfl⟩

/-- The order of the checks of R146 behind the sequence. -/
theorem updateAt_of_seq (hs : v.seqAt part h la = some (l, n, q, ln)) :
    v.updateAt h la f t lanes (part, lid) late =
      if q.queriedAt h then (6, 0, v)
      else if f != q.fmt then (4, 2, v)
      else if q.p ≤ t then (4, 3, v)
      else if v.partRetries l q (decide ((part, lid) = (l.part, l.lid))) then (6, 0, v)
      else match if t == ln.ctr then v.lineBad h la (elemBytes f) lanes else none with
        | some k => (5, k, v.countBad h)
        | none =>
          let r := q.takeUpdate (v.ipOf 0x043).toNat ln t lanes
          let x := if late then (v, r.2) else v.performDue r.2 fun y => y.index == ln.index
          (r.1, 0, (if l.state == .stopping then { x.1 with fresh := x.1.fresh + 1 } else x.1).setSeq l n x.2) := by
  unfold State.updateAt
  rw [hs]
  rfl

theorem updateAt_of_none (hs : v.seqAt part h la = none) :
    v.updateAt h la f t lanes (part, lid) late = (4, v.noSeqReason part h la, v) := by
  unfold State.updateAt
  rw [hs]

/-- A duplicate (R146). -/
theorem takeUpdate_dup {w : Nat} (h : t < ln.ctr ∨ ∃ u ∈ q.held, u.line = ln.index ∧ u.ticket = t) :
    q.takeUpdate w ln t lanes = (0, { q with dup := min (q.dup + 1) (2 ^ 32 - 1) }) := by
  have hdup : (decide (t < ln.ctr) || (q.heldAt ln.index t).isSome) = true := by
    rw [Bool.or_eq_true, decide_eq_true_iff, heldAt_iff]; exact h
  unfold Seq.takeUpdate
  dsimp only
  rw [if_pos hdup]; rfl

/-- The update that the line waits for, with no held one behind it (R146). -/
theorem takeUpdate_next {w : Nat} (ht : t = ln.ctr) (hheld : ¬∃ u ∈ q.held, u.line = ln.index ∧ u.ticket = t)
    (hnext : ∀ x ∈ q.held, ¬(x.line = ln.index ∧ x.ticket = t + 1)) :
    q.takeUpdate w ln t lanes = (0, { q.setCtr ln.index (t + 1) with due := q.due ++ [(ln.index, lanes)] }) := by
  have hdup : ¬(decide (t < ln.ctr) || (q.heldAt ln.index t).isSome) = true := by
    rw [Bool.or_eq_true, decide_eq_true_iff, heldAt_iff]
    rintro (h | h)
    · omega
    · exact hheld h
  have hnone : q.heldAt ln.index (t + 1) = none := by
    refine List.find?_eq_none.mpr fun u hu => ?_
    simpa using hnext u hu
  have hadvance : ({ q with due := q.due ++ [(ln.index, lanes)] } : Seq).advance ln.index q.held.length (t + 1) =
      ({ q with due := q.due ++ [(ln.index, lanes)] } : Seq).setCtr ln.index (t + 1) := by
    cases q.held.length with
    | zero => rfl
    | succ k =>
      have hnone' : ({ q with due := q.due ++ [(ln.index, lanes)] } : Seq).heldAt ln.index (t + 1) = none := hnone
      rw [Seq.advance, hnone']
  unfold Seq.takeUpdate
  dsimp only
  rw [if_neg hdup, if_pos ht, hadvance]; rfl

/-- An update ahead of its turn: beyond the window or without an entry it comes again, and otherwise it is held (R146, R150). -/
theorem takeUpdate_ahead {w : Nat} (ht : ln.ctr < t) (hheld : ¬∃ u ∈ q.held, u.line = ln.index ∧ u.ticket = t) :
    let used := (q.held.filter fun u => ((q.line u.line).map (·.home)) == some ln.home).length
    q.takeUpdate w ln t lanes = if ln.ctr + w ≤ t ∨ w ≤ used + 1 then (6, q) else (0, { q with held := q.held ++ [⟨ln.index, t, lanes⟩] }) := by
  intro used
  have hdup : ¬(decide (t < ln.ctr) || (q.heldAt ln.index t).isSome) = true := by
    rw [Bool.or_eq_true, decide_eq_true_iff, heldAt_iff]
    rintro (h | h)
    · omega
    · exact hheld h
  have hfull : (decide (ln.ctr + w ≤ t) || decide (w - 1 ≤ used)) = true ↔ ln.ctr + w ≤ t ∨ w ≤ used + 1 := by
    rw [Bool.or_eq_true, decide_eq_true_iff, decide_eq_true_iff]; omega
  unfold Seq.takeUpdate
  dsimp only
  rw [if_neg hdup, if_neg (by omega)]
  exact if_congr hfull rfl rfl

/-- The one application that is due on a line is performed, and the others stay due (R146, R147). -/
theorem performDue_next {c : Nat} (hline : q.line ln.index = some ln) (hdue : ∀ x ∈ q.due, x.1 ≠ ln.index) :
    let q' := { q.setCtr ln.index c with due := q.due ++ [(ln.index, lanes)] }
    s.performDue q' (fun y => y.index == ln.index) = (s.applyUpdate q' { ln with ctr := c } lanes, q.setCtr ln.index c) := by
  intro q'
  have hline' : q'.line ln.index = some { ln with ctr := c } := by
    have hkey : (fun x : Line => x.index == ln.index) ∘ (fun x : Line => if x.index = ln.index then { x with ctr := c } else x) =
        fun x : Line => x.index == ln.index := by
      funext x
      simp only [Function.comp]
      split <;> rfl
    show (q.lines.map _).find? _ = _
    unfold Seq.line at hline
    rw [List.find?_map, hkey, hline, Option.map_some, if_pos rfl]
  have hold : ∀ e ∈ q.due, ((q'.line e.1).map fun y => y.index == ln.index).getD false = false := by
    intro e he
    cases hl : q'.line e.1 with
    | none => rfl
    | some y => simpa [index_of_line hl] using hdue e he
  have hmine : ((q'.line ln.index).map fun y => y.index == ln.index).getD false = true := by
    rw [hline']; exact beq_self_eq_true ln.index
  have hin : q'.due.filter (fun e => ((q'.line e.1).map fun y => y.index == ln.index).getD false) = [(ln.index, lanes)] := by
    show (q.due ++ [(ln.index, lanes)]).filter _ = _
    rw [List.filter_append, List.filter_eq_nil_iff.mpr fun e he => by simp [hold e he], List.nil_append]
    exact List.filter_cons_of_pos hmine
  have hout : q'.due.filter (fun e => !((q'.line e.1).map fun y => y.index == ln.index).getD false) = q.due := by
    show (q.due ++ [(ln.index, lanes)]).filter _ = _
    rw [List.filter_append, List.filter_eq_self.mpr fun e he => by simp [hold e he]]
    exact (congrArg (q.due ++ ·) (List.filter_cons_of_neg (by simp [hmine]))).trans (List.append_nil _)
  unfold State.performDue
  dsimp only
  rw [hin, hout, List.foldl_cons, List.foldl_nil, hline']
  rfl

/-- An open sequence of a launch that is not being stopped decides on its updates (R146, R156). -/
theorem not_partRetries {own : Bool} (hstate : q.state = .opened) (hl : l.state ≠ .stopping) : ¬v.partRetries l q own = true := by
  have hstop : (l.state == .stopping) = false := beq_eq_false_iff_ne.mpr hl
  rw [State.partRetries, hstate, hstop]
  exact Bool.false_ne_true

/-- What a part that takes an update makes of it (R146). -/
theorem updateAt_takes (hs : v.seqAt part h la = some (l, n, q, ln)) (hclosing : ¬∃ x ∈ q.queried, q.parts[x.1]? = some h) (hf : f = q.fmt)
    (ht : t < q.p) (hstate : q.state = .opened) (hl : l.state ≠ .stopping) (hbad : t ≠ ln.ctr ∨ v.lineBad h la (elemBytes f) lanes = none) :
    v.updateAt h la f t lanes (part, lid) late =
      let r := q.takeUpdate (v.ipOf 0x043).toNat ln t lanes
      let x := if late then (v, r.2) else v.performDue r.2 fun y => y.index == ln.index
      (r.1, 0, x.1.setSeq l n x.2) := by
  have hgood : (if (t == ln.ctr) = true then v.lineBad h la (elemBytes f) lanes else none) = none := by
    rcases hbad with hne | hnone
    · rw [if_neg (by simpa using hne)]
    · rw [hnone, ite_self]
  rw [updateAt_of_seq hs, if_neg (mt queriedAt_iff.mp hclosing), if_neg (by simpa using hf), if_neg (Nat.not_le.mpr ht), if_neg (not_partRetries hstate hl), hgood]
  dsimp only
  rw [if_neg (by simpa using hl)]

/-- An update that leaves nothing due on its line, or whose applications are left for later (R146, R176). -/
theorem updateAt_keeps {st : Nat} {q' : Seq} (hs : v.seqAt part h la = some (l, n, q, ln)) (hclosing : ¬∃ x ∈ q.queried, q.parts[x.1]? = some h)
    (hf : f = q.fmt) (ht : t < q.p) (hstate : q.state = .opened) (hl : l.state ≠ .stopping)
    (hbad : t ≠ ln.ctr ∨ v.lineBad h la (elemBytes f) lanes = none) (htake : q.takeUpdate (v.ipOf 0x043).toNat ln t lanes = (st, q'))
    (hidle : late = true ∨ ∀ e ∈ q'.due, e.1 ≠ ln.index) :
    v.updateAt h la f t lanes (part, lid) late = (st, 0, v.setSeq l n q') := by
  have hdue : (if late = true then (v, q') else v.performDue q' fun y => y.index == ln.index) = (v, q') := by
    rcases hidle with hlate | hidle
    · rw [if_pos hlate]
    · rw [performDue_none fun e he y hy => by simpa [index_of_line hy] using hidle e he, ite_self]
  rw [updateAt_takes hs hclosing hf ht hstate hl hbad, htake]
  dsimp only
  rw [hdue]

/-- An update whose application is performed at once (R146, R147). -/
theorem updateAt_applies {c : Nat} {x : State} (hx : v.applyUpdate { q.setCtr ln.index c with due := q.due ++ [(ln.index, lanes)] } { ln with ctr := c } lanes = x)
    (hs : v.seqAt part h la = some (l, n, q, ln)) (hclosing : ¬∃ x ∈ q.queried, q.parts[x.1]? = some h)
    (hf : f = q.fmt) (ht : t < q.p) (hstate : q.state = .opened) (hl : l.state ≠ .stopping)
    (hbad : t ≠ ln.ctr ∨ v.lineBad h la (elemBytes f) lanes = none) (hline : q.line ln.index = some ln) (hdue : ∀ x ∈ q.due, x.1 ≠ ln.index)
    (htake : q.takeUpdate (v.ipOf 0x043).toNat ln t lanes = (0, { q.setCtr ln.index c with due := q.due ++ [(ln.index, lanes)] })) :
    v.updateAt h la f t lanes (part, lid) false =
      (0, 0, x.setSeq l n (q.setCtr ln.index c)) := by
  rw [updateAt_takes hs hclosing hf ht hstate hl hbad, htake]
  dsimp only
  rw [if_neg Bool.false_ne_true, performDue_next hline hdue, hx]

/-- The reason of status 4 as a datum (log entry 23). -/
theorem noSeqReason_word (s : State) (part : Nat) (h : Home) (la : Nat) : (if s.noSeqReason part h la = 0 then [] else [BitVec.ofNat 64 (s.noSeqReason part h la)]) =
    [if s.launches.any fun l => l.part == part && l.closedLines.contains (h, la) then (4 : Word) else 1] := by
  unfold State.noSeqReason
  split <;> rfl

variable {st d : Nat} {u : State}

/-- An answer to an update of this package. -/
theorem answers_of_decided (hexec : s.updateArrival i late = .next (p.decided i (st, d, u))) (hremote : p.remote = none) (hmarked : p.marked = false)
    (hmem : MemSame s u) (hnext : s.nextPkt ≤ u.nextPkt) :
    ∃ w, s.updateArrival i late = .next w ∧ Replied s w p st (if d = 0 then [] else [.ofNat 64 d]) ∧ MemSame s w :=
  ⟨_, hexec, replied_reply hremote hmarked hnext, memSame_reply hremote hmarked hmem⟩

/-- An update that a part has taken, its applications being x: the sequence that its launch then holds, and the answer. -/
theorem becomes_of_decided {x : State} {q' : Seq} (hexec : s.updateArrival i late = .next (p.decided i (st, 0, x.setSeq l n q')))
    (hremote : p.remote = none) (hmarked : p.marked = false) (hx : x.launches = s.launches) (hnext : s.nextPkt ≤ x.nextPkt)
    (hl : s.launch? l.part l.lid = some l) :
    ∃ w, s.updateArrival i late = .next w ∧ (∃ l', w.launch? l.part l.lid = some l' ∧ listed l'.seqs n = some q') ∧ Replied s w p st [] ∧
      (∀ h, w.homeMem h = x.homeMem h) ∧ (MemSame s x → MemSame s w) := by
  have hmem : ∀ h, (p.decided i (st, 0, x.setSeq l n q')).homeMem h = x.homeMem h := by
    intro h
    have hc : (p.decided i (st, 0, x.setSeq l n q')).cores = x.cores := cores_reply hremote hmarked
    have hg : (p.decided i (st, 0, x.setSeq l n q')).gmem = x.gmem := gmem_reply hremote hmarked
    cases h
    case core cn => exact congrArg (fun m : SMap Core => (SMap.get {} m cn).mem) hc
    all_goals exact hg
  refine ⟨_, hexec, ?_, replied_reply hremote hmarked hnext, hmem, fun hsame => memSame_reply hremote hmarked hsame⟩
  have hlaunches : (p.decided i (st, 0, x.setSeq l n q')).launches = (x.setSeq l n q').launches := launches_reply hremote hmarked
  rw [launch?_congr hlaunches]
  exact launch?_setSeq n q' (by rw [launch?_congr hx]; exact hl)

/-! ### Requests to a part of a sequence (R145, R153, R154) -/

variable {j k : Nat} {data : List Word}

/-- A part answers once its sequence is written. -/
theorem answers_of_partReply (hmarked : p.marked = false) (hexec : exec (.sequencePartQuery i) s = .next ((s.setSeq l k q).partReply i p 0 data))
    (hl : s.launch? l.part l.lid = some l) :
    Answers (.sequencePartQuery i) s fun u => Replied s u p 0 data ∧ u.cores = s.cores ∧ u.gmem = s.gmem ∧
      ∃ l', u.launch? l.part l.lid = some l' ∧ listed l'.seqs k = some q := by
  rw [partReply_eq _ i 0 data hmarked] at hexec
  exact ⟨_, hexec, replied_send (Nat.le_refl _), rfl, rfl, launch?_setSeq k q hl⟩

theorem partQuery_open (hp : s.packet i = some p) (hbody : p.body = .seqOpen n j) (hl : s.launch? p.part p.lid = some l) (hq : l.openingIn n = some q) :
    exec (.sequencePartQuery i) s = .next ((s.openPart l n j q p.home).partReply i p 0 [.ofNat 64 n]) := by
  show execSequencePartQuery i s = _
  unfold execSequencePartQuery
  rw [hp]
  dsimp only
  rw [hbody, hl]
  dsimp only
  rw [Option.bind_some, hq]
  rfl

theorem partQuery_none (hp : s.packet i = some p) (hbody : p.body = .seqQuery n j ∨ p.body = .seqDrain n j) (hnone : s.seqOf p.cn (.ofNat 64 p.addr) = none) :
    exec (.sequencePartQuery i) s = .next (s.partReply i p 4 []) := by
  show execSequencePartQuery i s = _
  unfold execSequencePartQuery
  rw [hp]
  rcases hbody with hbody | hbody <;>
    · dsimp only
      rw [hbody, hnone]

/-- A part whose lines are at P, or whose sequence was aborted, answers TDRAIN (R153). -/
theorem partQuery_drain (hp : s.packet i = some p) (hbody : p.body = .seqDrain n j) (hq : s.seqOf p.cn (.ofNat 64 p.addr) = some (l, k, q))
    (hdone : q.state = .aborted ∨ ∀ ln ∈ q.lines, ln.home = p.home → ln.ctr = q.p) :
    let x := s.performDue q fun ln => ln.home == p.home
    exec (.sequencePartQuery i) s = .next ((x.1.setSeq l k x.2).partReply i p 0 []) := by
  have hwait : (q.state != .aborted && q.lines.any (fun ln => ln.home == p.home && ln.ctr != q.p)) = false := by
    rcases hdone with hdone | hdone
    · rw [hdone]; rfl
    · rw [Bool.and_eq_false_iff]
      refine .inr (List.any_eq_false.mpr fun ln hln => ?_)
      simpa using hdone ln hln
  show execSequencePartQuery i s = _
  unfold execSequencePartQuery
  rw [hp]
  dsimp only
  rw [hbody, hq]
  dsimp only
  rw [hwait]
  rfl

theorem partQuery_close (hp : s.packet i = some p) (hbody : p.body = .seqQuery n j) (hq : s.seqOf p.cn (.ofNat 64 p.addr) = some (l, k, q)) :
    let x := s.performDue q fun ln => ln.home == p.home
    exec (.sequencePartQuery i) s = .next ((x.1.setSeq l k { x.2 with queried := x.2.queried ++ [(j, p.cn, p.ctx)] }).partReply i p 0 []) := by
  show execSequencePartQuery i s = _
  unfold execSequencePartQuery
  rw [hp]
  dsimp only
  rw [hbody, hq]

/-- A part that meets a protected line (R144). -/
theorem openPart_clash (hprot : ∃ ln ∈ q.lines.filter fun ln => ln.home == h, s.lineProtected h ln.addr 64 = true) :
    s.openPart l n j q h = s.setSeq l n { q with clash := true } := by
  rw [State.openPart, if_pos (List.any_eq_true.mpr hprot)]

/-- A part that meets none opens where it has the capacity (R145). -/
theorem openPart_free (hfree : ∀ ln ∈ q.lines.filter fun ln => ln.home == h, s.lineProtected h ln.addr 64 = false) :
    s.openPart l n j q h = if !s.partFits h then s.setSeq l n { q with shut := q.shut ++ [j] } else s.setSeq l n { q with openAt := q.openAt ++ [j] } := by
  have hnone : ¬((q.lines.filter fun ln => ln.home == h).any fun ln => s.lineProtected h ln.addr 64) = true := by
    intro hany
    obtain ⟨ln, hln, hprot⟩ := List.any_eq_true.mp hany
    rw [hfree ln hln] at hprot; cases hprot
  rw [State.openPart, if_neg hnone]

end Sys2Proof.Machine

namespace Sys2Proof

open Machine

/-- Settles O46: what a part does with an update by its sequence's state and the update's ticket, and with the requests of its sequence. -/
theorem ticketsAtHome : Obligations.TicketsAtHome := by
  unfold Obligations.TicketsAtHome
  intro i f t lanes p s w e lacks answered decided hp hreply hremote hmarked
  have hdecided : ∀ (v : State) (h : Home) (la : Nat), OnlyCaches s v →
      (∀ late, s.updateArrival i late = .next (p.decided i (v.updateAt h la f t lanes (p.part, p.lid) late))) → decided v h la := by
    intro v h la hv hexec
    have hmem : MemSame s v := hv.memSame
    have hnext : s.nextPkt ≤ v.nextPkt := by rw [hv.rest]
    refine ⟨fun hs => ?_, fun l n q ln hs => ?_⟩
    · have h1 := answers_of_decided (by rw [hexec false, updateAt_of_none hs]) hremote hmarked hmem hnext
      rw [noSeqReason_word] at h1
      exact h1
    intro held becomes closing window used
    have checks := fun late => (hexec late).trans (congrArg (fun r => Host.Outcome.next (p.decided i r)) (updateAt_of_seq hs))
    refine ⟨fun hc => ?_, fun hc hf => ?_, fun hc hf ht => ?_, fun hc hf ht hstop => ?_, fun hc hf ht hopen hl => ⟨fun htk k hk => ?_, fun hgood hlaunch hdue hline => ?_⟩⟩
    · have h1 := checks false
      rw [if_pos (queriedAt_iff.mpr hc)] at h1
      exact answers_of_decided h1 hremote hmarked hmem hnext
    · have h1 := checks false
      rw [if_neg (mt queriedAt_iff.mp hc), if_pos (by simpa using hf)] at h1
      exact answers_of_decided h1 hremote hmarked hmem hnext
    · have h1 := checks false
      rw [if_neg (mt queriedAt_iff.mp hc), if_neg (by simpa using hf), if_pos ht] at h1
      exact answers_of_decided h1 hremote hmarked hmem hnext
    · have h1 := checks false
      have hretry : v.partRetries l q (decide ((p.part, p.lid) = (l.part, l.lid))) = true := by
        rcases hstop with hstop | ⟨hstop, hlid⟩
        · rw [State.partRetries, hstop]; rfl
        · have hown : decide ((p.part, p.lid) = (l.part, l.lid)) = false := decide_eq_false fun h => hlid (congrArg Prod.snd h)
          rw [State.partRetries, hstop, hown, Bool.or_eq_true]; exact .inr rfl
      rw [if_neg (mt queriedAt_iff.mp hc), if_neg (by simpa using hf), if_neg (Nat.not_le.mpr ht), if_pos hretry] at h1
      exact answers_of_decided h1 hremote hmarked hmem hnext
    · have h1 := checks false
      rw [if_neg (mt queriedAt_iff.mp hc), if_neg (by simpa using hf), if_neg (Nat.not_le.mpr ht),
        if_neg (not_partRetries hopen hl), if_pos (by simpa using htk), show elemBytes f = w from rfl, hk] at h1
      obtain ⟨hcmem, hcnext⟩ := memSame_countBad v h
      have hnext' : s.nextPkt ≤ (v.countBad h).nextPkt := by rw [hcnext]; exact hnext
      refine ⟨_, h1, replied_reply hremote hmarked hnext', memSame_reply hremote hmarked (MemSame.trans hmem hcmem), ?_⟩
      rintro cn rfl
      have hcores : (p.decided i (5, k, v.countBad (.core cn))).cores = (v.countUnc cn).cores := cores_reply hremote hmarked
      rw [State.core, hcores]
      show ((v.countUnc cn).core cn).trap.hwUnc = _
      rw [State.countUnc, State.core_modCore_same, hv.cores]
    · have hip : v.ipOf 0x043 = s.ipOf 0x043 := by rw [hv.rest]; rfl
      have hlaunches : v.launches = s.launches := by rw [hv.rest]
      have keeps : ∀ (late : Bool) (st : Nat) (q' : Machine.Seq), q.takeUpdate window ln t lanes = (st, q') → late = true ∨ (∀ x ∈ q'.due, x.1 ≠ ln.index) →
          s.updateArrival i late = .next (p.decided i (st, 0, v.setSeq l n q')) := by
        intro late st q' htake hidle
        rw [hexec, updateAt_keeps hs hc hf ht hopen hl hgood (by rw [hip]; exact htake) hidle]
      refine ⟨fun hd => ?_, fun htk hheld hbehind => ⟨?_, fun hnodup hwidth hfit hwrite => ?_⟩, fun hahead hheld => ⟨fun hfull => ?_, fun h1 h2 => ?_⟩⟩
      · obtain ⟨u, hu, hbecomes, hreplied, -, hsame⟩ := becomes_of_decided (keeps false 0 _ (takeUpdate_dup hd) (.inr hdue)) hremote hmarked hlaunches hnext hlaunch
        exact ⟨u, hu, hbecomes, hreplied, hsame hmem⟩
      · obtain ⟨u, hu, hbecomes, hreplied, -, hsame⟩ :=
          becomes_of_decided (keeps true 0 _ (takeUpdate_next htk hheld hbehind) (.inl rfl)) hremote hmarked hlaunches hnext hlaunch
        exact ⟨u, hu, hreplied, hsame hmem, hbecomes⟩
      · obtain ⟨hhome, haddr⟩ := line_of_seqAt hs
        have hwidths : elemBytes q.fmt = w := by rw [← hf]; rfl
        have happv : Applies s v := ⟨hlaunches, by rw [hv.rest], hnext⟩
        have hwritable : v.lineWritable ln.home ln.addr := by rw [hhome, haddr]; exact happv.lineWritable hwrite
        have hbytes : ∀ a k, v.homeNum h a k = s.homeNum h a k := fun a k => homeNum_of_onlyCaches hv h a k
        obtain ⟨x, hx⟩ : ∃ x, v.applyUpdate { q.setCtr ln.index (t + 1) with due := q.due ++ [(ln.index, lanes)] } { ln with ctr := t + 1 } lanes = x :=
          ⟨_, rfl⟩
        obtain ⟨happ, hvals, hframe⟩ := applyUpdate_spec hx hwidths hnodup hfit hwritable
        have htake := takeUpdate_next (w := (v.ipOf 0x043).toNat) (lanes := lanes) htk hheld hbehind
        have happlies := (hexec false).trans (congrArg (fun r => Host.Outcome.next (p.decided i r))
          (updateAt_applies hx hs hc hf ht hopen hl hgood hline hdue htake))
        obtain ⟨u, hu, hbecomes, hreplied, hhomes, -⟩ :=
          becomes_of_decided happlies hremote hmarked (happ.launches.trans hlaunches) (hnext.trans happ.nextPkt) hlaunch
        refine ⟨u, hu, hbecomes, hreplied, haddr, hhome, fun y hy => ?_, fun a ha => ?_⟩
        · have hval := hvals y hy
          dsimp only at hval
          rw [hhome, haddr, hbytes, show (q.setCtr ln.index (t + 1)).fmt = f from hf.symm] at hval
          rw [homeNum_eq, hhomes, ← homeNum_eq, pow_mul]
          exact hval
        · have hsame := hframe a (by rw [haddr]; exact ha)
          dsimp only at hsame
          rw [hhome, hbytes] at hsame
          rw [homeNum_eq, hhomes, ← homeNum_eq]
          exact hsame
      · have htake := (takeUpdate_ahead (lanes := lanes) hahead hheld).trans (if_pos hfull)
        exact answers_of_decided (keeps false 6 q htake (.inr hdue)) hremote hmarked hmem hnext
      · have hroom : ¬(ln.ctr + window ≤ t ∨ window ≤ used + 1) := not_or.mpr ⟨Nat.not_le.mpr h1, Nat.not_le.mpr h2⟩
        have htake := (takeUpdate_ahead (lanes := lanes) hahead hheld).trans (if_neg hroom)
        obtain ⟨u, hu, hbecomes, hreplied, -, hsame⟩ := becomes_of_decided (keeps false 0 _ htake (.inr hdue)) hremote hmarked hlaunches hnext hlaunch
        exact ⟨u, hu, hbecomes, hreplied, hsame hmem⟩
  have hreturned : ∀ (st d : Nat) (u : State), s.updateArrival i false = .next (p.decided i (st, d, u)) → MemSame s u → s.nextPkt ≤ u.nextPkt →
      answered st (if d = 0 then [] else [.ofNat 64 d]) := fun st d u hexec hmem hnext => answers_of_decided hexec hremote hmarked hmem hnext
  have hsame : MemSame s s := ⟨fun _ _ => rfl, fun _ => rfl⟩
  refine ⟨fun cn hbody hhome => ?_, fun hbody hcore haway => ?_, ?_⟩
  · intro la
    have hexec := fun late => updateArrival_core hp hreply hremote hbody hhome late
    refine ⟨fun hdoor => ?_, fun hdoor => ?_, fun hdoor => ⟨fun hlacks => ?_, fun hhas => ?_⟩⟩
    · have h1 := hexec false
      rw [hdoor] at h1
      have h2 := hreturned _ _ _ h1 hsame (Nat.le_refl _)
      rwa [noSeqReason_word] at h2
    · have h1 := hexec false
      rw [hdoor] at h1
      exact hreturned _ _ _ h1 hsame (Nat.le_refl _)
    · have h1 := hexec false
      rw [hdoor] at h1
      dsimp only at h1
      rw [if_pos hlacks] at h1
      exact hreturned _ _ _ h1 hsame (Nat.le_refl _)
    · refine hdecided s (.core cn) la (OnlyCaches.refl s) fun late => ?_
      rw [hexec late, hdoor]
      dsimp only
      rw [if_neg hhas]
  · have hexec := fun late => updateArrival_global hp hreply hremote hbody hcore haway late
    refine ⟨fun hlacks => ?_, fun hhas x v hx => ?_⟩
    · have h1 := hexec false
      rw [if_pos hlacks] at h1
      exact hreturned _ _ _ h1 hsame (Nat.le_refl _)
    · have hv : OnlyCaches s v := by
        have := onlyCaches_translate s (some p.cn) p.part p.addr .rmw
        rwa [hx] at this
      have hnext : s.nextPkt ≤ v.nextPkt := by rw [hv.rest]
      have hgo := fun late => (hexec late).trans (congrArg (fun r => Host.Outcome.next (p.decided i r)) (if_neg hhas))
      simp only [hx] at hgo
      refine ⟨fun hfail => ?_, fun pa hpa => ?_⟩
      · have h1 : s.updateArrival i false = .next (p.decided i (3, x.code, v)) := by
          cases x
          case ok pa => exact absurd rfl (hfail pa)
          all_goals exact hgo false
        exact hreturned _ _ _ h1 hv.memSame hnext
      · subst hpa
        refine ⟨fun hhost => ?_, fun hhost => ?_⟩
        · have h1 := hgo false
          dsimp only at h1
          rw [if_pos hhost] at h1
          exact hreturned _ _ _ h1 hv.memSame hnext
        · refine hdecided v (s.homeOf pa) (pa / 64 * 64) hv fun late => ?_
          have hhome : v.homeOf pa = s.homeOf pa := by rw [hv.rest]; rfl
          rw [hgo late]
          dsimp only
          rw [hhost, if_neg Bool.false_ne_true, hhome]
  · have answersOf := fun l k q data => answers_of_partReply (s := s) (p := p) (i := i) (l := l) (k := k) (q := q) (data := data) hmarked
    intro answers refused h settled
    have hidle : ∀ q, settled q → ∀ x ∈ q.due, ∀ ln, q.line x.1 = some ln → (ln.home == p.home) = false :=
      fun q hq x hx ln hln => beq_eq_false_iff_ne.mpr (hq x hx ln hln)
    refine ⟨fun n j l q hbody hl hq hpart hlid => ?_, fun n j hbody hnone => ?_, fun n j l k q hbody hq hdone hl hsettled => ?_,
      fun n j l k q hbody hq hl hsettled => ?_⟩
    · intro own
      have hl' : s.launch? l.part l.lid = some l := by rw [hpart, hlid]; exact hl
      have hexec := partQuery_open hp hbody hl hq
      refine ⟨fun ⟨ln, hln, hprot⟩ => ?_, fun hfree => ⟨fun hfits => ?_, fun hfits => ?_⟩⟩
      · rw [openPart_clash ⟨ln, hln, hprot⟩] at hexec
        exact answersOf l n _ _ hexec hl'
      · rw [openPart_free hfree, hfits] at hexec
        exact answersOf l n _ _ hexec hl'
      · rw [openPart_free hfree, hfits] at hexec
        exact answersOf l n _ _ hexec hl'
    · have hexec := partQuery_none hp hbody hnone
      refine ⟨_, hexec, ?_, ?_, ?_⟩
      · rw [partReply_eq s i 4 [] hmarked]; exact replied_send (Nat.le_refl _)
      · rw [partReply_eq s i 4 [] hmarked]; exact memSame_of_fields rfl rfl
      · rw [partReply_eq s i 4 [] hmarked]; rfl
    · have hexec := partQuery_drain hp hbody hq hdone
      rw [performDue_none (hidle q hsettled)] at hexec
      exact answersOf l k q [] hexec hl
    · have hexec := partQuery_close hp hbody hq
      rw [performDue_none (hidle q hsettled)] at hexec
      exact answersOf l k _ [] hexec hl

end Sys2Proof
end

section
/-! SUPPORT. The copies of a core, and how one of them stops or is suspended (R65, R69, R391, R393, R429). -/

namespace Sys2Proof.Machine

variable {s t v : State} {cn : Nat} {y z : CopyOp}

/-! ### What a change of the cores leaves -/

/-- t is s but for the cores. -/
def OnlyCores (s t : State) : Prop := t = { s with cores := t.cores }

theorem onlyCores_modCore (s : State) (cn : Nat) (f : Core → Core) : OnlyCores s (s.modCore cn f) := rfl
theorem OnlyCores.trans {u : State} (h : OnlyCores s t) (k : OnlyCores t u) : OnlyCores s u := by
  unfold OnlyCores at h k ⊢
  rw [k, h]

theorem walkFrom_cores (s : State) (c : SMap Core) (va level t : Nat) : ({ s with cores := c } : State).walkFrom va level t = s.walkFrom va level t := by
  induction level generalizing t with
  | zero => rfl
  | succ level ih => simp only [State.walkFrom, ih]; rfl

/-- Which lines are records of launches does not depend on the cores (R99). -/
theorem OnlyCores.recordLine (h : OnlyCores s t) (line : Nat) : t.recordLine line = s.recordLine line := by
  have hwalk : ∀ p va, t.walk p va = s.walk p va := by
    intro p va
    rw [h]
    exact walkFrom_cores s t.cores va _ _
  unfold State.recordLine
  simp only [hwalk]
  rw [h]

/-! ### A copy replaced -/

theorem copies_modCore {f : Core → Core} (h : (f (s.core cn)).copies = (s.core cn).copies) (j : Nat) :
    ((s.modCore cn f).core j).copies = (s.core j).copies := by
  by_cases hj : j = cn
  · subst hj; rw [State.core_modCore_same]; exact h
  · rw [State.core_modCore_other _ _ hj]

theorem trap_modCore {f : Core → Core} (h : (f (s.core cn)).trap = (s.core cn).trap) (j : Nat) :
    ((s.modCore cn f).core j).trap = (s.core j).trap := by
  by_cases hj : j = cn
  · subst hj; rw [State.core_modCore_same]; exact h
  · rw [State.core_modCore_other _ _ hj]

/-- A copy that is replaced stands in its new form. -/
theorem mem_setCopy (hy : y ∈ (s.core cn).copies) (hid : z.id = y.id) : z ∈ ((s.setCopy cn z).core cn).copies := by
  rw [State.setCopy, State.core_modCore_same]
  exact List.mem_map.mpr ⟨y, hy, if_pos hid.symm⟩

theorem memSame_setCopy (s : State) (cn : Nat) (z : CopyOp) : MemSame s (s.setCopy cn z) := memSame_modCore s cn rfl
theorem trap_setCopy (s : State) (cn : Nat) (z : CopyOp) (j : Nat) : ((s.setCopy cn z).core j).trap = (s.core j).trap := trap_modCore rfl j

theorem copies_report (s : State) (cn : Nat) (r : FaultRec) (j : Nat) : ((s.report cn r).core j).copies = (s.core j).copies := by
  obtain ⟨v, hv, hreport⟩ := s.report_eq cn r
  rw [hreport, copies_modCore (Core.queueRecord_copies _ _), State.core, hv]; rfl

/-- An asynchronous record leaves the copies as they are. -/
theorem copies_async (s : State) (cn : Nat) (r : FaultRec) (j : Nat) : ((s.async cn r).core j).copies = (s.core j).copies := by
  unfold State.async
  split
  · rw [copies_report]; exact copies_modCore rfl j
  · exact copies_report s cn r j

theorem Core.hwUnc_queueRecord (c : Core) (r : FaultRec) : (c.queueRecord r).trap.hwUnc = c.trap.hwUnc := by
  unfold Core.queueRecord
  dsimp only
  split
  · split <;> rfl
  · split
    · rfl
    · split <;> rfl

theorem hwUnc_report (s : State) (cn : Nat) (r : FaultRec) (j : Nat) : ((s.report cn r).core j).trap.hwUnc = (s.core j).trap.hwUnc := by
  obtain ⟨v, hv, hreport⟩ := s.report_eq cn r
  have hcore : v.core j = s.core j := by rw [State.core, hv]; rfl
  rw [hreport]
  by_cases hj : j = cn
  · subst hj; rw [State.core_modCore_same, Core.hwUnc_queueRecord, hcore]
  · rw [State.core_modCore_other _ _ hj, hcore]

/-- The packets in flight do not change with a record. -/
theorem nextPkt_report (s : State) (cn : Nat) (r : FaultRec) : (s.report cn r).nextPkt = s.nextPkt := by
  unfold State.report
  dsimp only
  split
  · split <;> rfl
  · rfl

theorem nextPkt_async (s : State) (cn : Nat) (r : FaultRec) : (s.async cn r).nextPkt = s.nextPkt := by
  unfold State.async
  split <;> exact nextPkt_report _ _ _

/-! ### A copy that stops -/

/-- Every byte reads as before, copy z of core cn stands, and no packet has set out. -/
structure Stops (s t : State) (cn : Nat) (z : CopyOp) : Prop where
  mem : MemSame s t
  now : z ∈ (t.core cn).copies
  nextPkt : t.nextPkt = s.nextPkt

theorem stops_setCopy (z : CopyOp) (hy : y ∈ (s.core cn).copies) (hid : z.id = y.id) : Stops s (s.setCopy cn z) cn z :=
  ⟨memSame_setCopy s cn z, mem_setCopy hy hid, rfl⟩

theorem Stops.async (h : Stops s t cn z) (r : FaultRec) : Stops s (t.async cn r) cn z :=
  ⟨MemSame.trans h.mem (Settles.async t cn r).memSame, by rw [copies_async]; exact h.now, (nextPkt_async _ _ _).trans h.nextPkt⟩

theorem stops_refuseCopy (hy : y ∈ (s.core cn).copies) (reason : Nat) :
    Stops s (s.refuseCopy cn y reason) cn { y with phase := .stopped 4 } := (stops_setCopy { y with phase := .stopped 4 } hy rfl).async _

/-- A copy that an uncorrectable error stops; one in a core's memory is counted there (R69, R355). -/
theorem breakCopy_spec (hy : y ∈ (s.core cn).copies) (p : Word) (write : Bool) :
    Stops s (s.breakCopy cn y p write) cn { y with phase := .stopped 1 } ∧
    ∀ m a, y.cell cn p = some (m, a) → ((s.breakCopy cn y p write).core m).trap.hwUnc = (s.core m).trap.hwUnc + 1 := by
  have hstop := stops_setCopy { y with phase := .stopped 1 } hy rfl
  unfold State.breakCopy
  dsimp only
  cases hcell : y.cell cn p with
  | none => exact ⟨hstop.async _, fun _ _ h => by cases h⟩
  | some e =>
    obtain ⟨m, a⟩ := e
    dsimp only
    generalize hu : s.setCopy cn { y with phase := .stopped 1 } = u at hstop
    refine ⟨⟨MemSame.trans hstop.mem (MemSame.trans (Settles.countUnc u m).memSame (Settles.report _ cn _).memSame), ?_,
      (nextPkt_report _ _ _).trans hstop.nextPkt⟩, fun m' a' h => ?_⟩
    · rw [copies_report]
      exact (copies_modCore (s := u) (cn := m) (f := fun c => { c with trap := { c.trap with hwUnc := c.trap.hwUnc + 1 } }) rfl cn).symm ▸ hstop.now
    · cases h
      rw [hwUnc_report, State.countUnc, State.core_modCore_same, ← hu, trap_setCopy]

/-- The record of a suspended copy joins a queue that has room (R351, R393). -/
theorem queue_async (s : State) (cn : Nat) (r : FaultRec) (hk : keptCause r.cause = false) (hu : countsUnc r.cause = false)
    (hroom : ((s.core cn).trap.queue.filter fun q => !keptCause q.cause).length < 12) :
    ((s.async cn r).core cn).trap.queue = (s.core cn).trap.queue ++ [{ r with async := true, cn := cn, lid := s.lidOf cn }] := by
  obtain ⟨v, hv, hreport⟩ := s.report_eq cn r
  have hcore : v.core cn = s.core cn := by rw [State.core, hv]; rfl
  have hasync : s.async cn r = s.report cn r := by rw [State.async, hu, if_neg Bool.false_ne_true]
  rw [hasync, hreport, State.core_modCore_same, ← hcore]
  refine Core.queueRecord_room (r := { r with async := true, cn := cn, lid := s.lidOf cn }) hk ?_
  rw [hcore]
  simpa [roomFor] using hroom

/-- A translation failure names no kept cause and no uncorrectable error. -/
theorem xlateCause_spec (e : Xlated) : keptCause (xlateCause e) = false ∧ countsUnc (xlateCause e) = false := by
  cases e <;> exact ⟨rfl, rfl⟩

/-- A copy is suspended where an address does not translate (R391, R393). -/
theorem suspendCopy_spec (hy : y ∈ (s.core cn).copies) (va : Nat) (e : Xlated) (write : Bool) :
    Stops s (s.suspendCopy cn y va e write) cn { y with phase := .suspended, pages := none, lines := [] } ∧
    (((s.core cn).trap.queue.filter fun q => !keptCause q.cause).length < 12 → ∃ r : FaultRec,
      ((s.suspendCopy cn y va e write).core cn).trap.queue = (s.core cn).trap.queue ++ [r] ∧ r.addr = .ofNat 64 va ∧ r.info0 = y.block ∧
      r.info1 = (if write then 1 else 0) ∧ r.opid = y.report.opid ∧ r.cause = xlateCause e) := by
  obtain ⟨hkept, hunc⟩ := xlateCause_spec e
  refine ⟨(stops_setCopy { y with phase := .suspended, pages := none, lines := [] } hy rfl).async _, fun hroom => ?_⟩
  unfold State.suspendCopy
  generalize hz : ({ y with phase := .suspended, pages := none, lines := [] } : CopyOp) = z
  have htrap : ((s.setCopy cn z).core cn).trap = (s.core cn).trap := trap_setCopy s cn z cn
  rw [queue_async _ _ _ hkept hunc (by rw [htrap]; exact hroom), htrap]
  exact ⟨_, rfl, rfl, rfl, rfl, rfl, rfl⟩

end Sys2Proof.Machine
end

section
/-! SUPPORT. A running copy: the translations of its part, and the requests that it sends (R65, R110, R136, R391). -/

namespace Sys2Proof.Machine

variable {s t : State} {cn : Nat} {y : CopyOp}

/-! ### Translations -/

/-- A key is listed once it has been put, and every other one as before. -/
theorem SMap.has_put {α : Type} (m : SMap α) (k j : Nat) (x : α) : SMap.has (SMap.put m k x) j = (j == k || SMap.has m j) := by
  have hlisted : ∀ m : SMap α, SMap.has m j = (listed m j).isSome := by
    intro m
    rw [SMap.has, listed, Option.isSome_map, List.isSome_find?]
  rw [hlisted, hlisted]
  by_cases h : j = k
  · subst h; simp [listed_put_same]
  · rw [listed_put_other _ _ h, beq_eq_false_iff_ne.mpr h, Bool.false_or]

section
variable {step : Except (Nat × Xlated × Bool) (SMap Nat) × State → Nat × Access → Except (Nat × Xlated × Bool) (SMap Nat) × State}
  (herr : ∀ e v x, (step (.error e, v) x).1 = .error e)
include herr

/-- Translations made one after another fail where one has failed. -/
theorem foldl_error (xs : List (Nat × Access)) (e : Nat × Xlated × Bool) (v : State) : (xs.foldl step (.error e, v)).1 = .error e := by
  induction xs generalizing v with
  | nil => rfl
  | cons x xs ih =>
    rw [List.foldl_cons, show step (.error e, v) x = (.error e, (step (.error e, v) x).2) from Prod.ext (herr e v x) rfl]
    exact ih _

/-- Where each translation lists its page and keeps the pages before it, all of them are listed in the end. -/
theorem has_foldl (hok : ∀ m v x m', (step (.ok m, v) x).1 = .ok m' →
      SMap.has m' (CopyOp.pageKey x.1 (x.2 != .read)) = true ∧ ∀ k, SMap.has m k = true → SMap.has m' k = true)
    (xs : List (Nat × Access)) (m m' : SMap Nat) (v : State) (h : (xs.foldl step (.ok m, v)).1 = .ok m') :
    (∀ e ∈ xs, SMap.has m' (CopyOp.pageKey e.1 (e.2 != .read)) = true) ∧ ∀ k, SMap.has m k = true → SMap.has m' k = true := by
  induction xs generalizing m v with
  | nil => cases h; exact ⟨nofun, fun _ h => h⟩
  | cons x xs ih =>
    rw [List.foldl_cons] at h
    cases hr : (step (.ok m, v) x).1 with
    | error e =>
      rw [show step (.ok m, v) x = (.error e, (step (.ok m, v) x).2) from Prod.ext hr rfl, foldl_error herr] at h
      cases h
    | ok m₁ =>
      rw [show step (.ok m, v) x = (.ok m₁, (step (.ok m, v) x).2) from Prod.ext hr rfl] at h
      obtain ⟨hx, hkeep⟩ := hok m v x m₁ hr
      obtain ⟨hxs, hkeep'⟩ := ih m₁ _ h
      refine ⟨fun e he => ?_, fun k hk => hkeep' k (hkeep k hk)⟩
      rcases List.mem_cons.mp he with rfl | he
      · exact hkeep' _ hx
      · exact hxs e he

end

/-- The pages that a part has translated are all that it uses (R391). -/
theorem has_translatePart {m : SMap Nat} {u : State} (h : s.translatePart cn y = (.ok m, u)) :
    ∀ e ∈ y.uses cn, SMap.has m (CopyOp.pageKey e.1 (e.2 != .read)) = true := by
  refine (has_foldl (fun _ _ _ => rfl) ?_ (y.uses cn) [] m s (congrArg Prod.fst h)).1
  rintro m v ⟨va, acc⟩ m' hm
  dsimp only at hm ⊢
  split at hm
  · next hhas => cases hm; exact ⟨hhas, fun _ h => h⟩
  · split at hm
    · cases hm
      exact ⟨by rw [SMap.has_put]; simp, fun k hk => by rw [SMap.has_put, hk, Bool.or_true]⟩
    · cases hm

theorem copies_translatePart {u : State} {r : Except (Nat × Xlated × Bool) (SMap Nat)} (h : s.translatePart cn y = (r, u)) :
    OnlyCaches s u ∧ (u.core cn).copies = (s.core cn).copies ∧ (u.core cn).trap = (s.core cn).trap := by
  have hu : OnlyCaches s u := by
    have hu : (s.translatePart cn y).2 = u := congrArg Prod.snd h
    exact hu ▸ onlyCaches_translatePart s cn y
  exact ⟨hu, by rw [hu.cores], by rw [hu.cores]⟩

/-! ### The requests of a block -/

/-- A line that the block still lacks is all that the copy requests (R110). -/
theorem nextRequests_missing {k : Nat} (h : y.missing cn = some k) :
    s.nextRequests cn y = [((s.farHome k).1, (s.farHome k).2, .copyRead y.id k)] := by
  unfold State.nextRequests
  rw [h]

theorem length_farDsts (y : CopyOp) (cn : Nat) : (y.farDsts cn).length ≤ 2 := by
  have hopt : ∀ o : Option Nat, o.toList.length ≤ 1 := by intro o; cases o <;> simp
  unfold CopyOp.farDsts
  dsimp only
  rw [List.length_append]
  split
  · exact Nat.le_succ_of_le (hopt _)
  · exact Nat.add_le_add (hopt _) (hopt _)

/-- Once its lines are there, a block requests its write in each other home that it writes in (R110). -/
theorem nextRequests_farDsts (hm : y.missing cn = none) (hacc : y.acc ≠ 5) :
    (∀ e ∈ s.nextRequests cn y, ∃ k ∈ y.farDsts cn, e = ((s.farHome k).1, (s.farHome k).2, .copyBlock y.id)) ∧
    ∀ k ∈ y.farDsts cn, ∃ e ∈ s.nextRequests cn y, e.1 = (s.farHome k).1 := by
  have hlen := length_farDsts y cn
  unfold State.nextRequests
  rw [hm]
  dsimp only
  rw [if_neg hacc]
  match y.farDsts cn, hlen with
  | [], _ => exact ⟨nofun, nofun⟩
  | [j], _ => simp
  | [j, k], _ =>
    simp only [List.map_cons, List.map_nil]
    split <;> simp_all

/-- A copy whose router and windows have room for its requests is not held (R136, R310). -/
theorem copyHeld_of_room (hreq : s.nextRequests cn y ≠ [] ∨ y.acc ≠ 5) (hchoked : s.nextRequests cn y ≠ [] → (s.core cn).choked = false)
    (hroom : ∀ e ∈ s.nextRequests cn y, (s.core cn).windowFull e.1.key = false) : s.copyHeld cn y = false := by
  have hhomes : s.nextHomes cn y = (s.nextRequests cn y).map (·.1) := by
    unfold State.nextHomes
    refine if_neg fun h => ?_
    obtain ⟨hmissing, hacc⟩ := Bool.and_eq_true_iff.mp h
    refine hreq.elim (fun hne => hne ?_) fun hne => hne (by simpa using hacc)
    unfold State.nextRequests
    rw [Option.isNone_iff_eq_none.mp hmissing]
    dsimp only
    rw [if_pos (by simpa using hacc)]
  have hback : ∀ e ∈ s.nextRequests cn y, s.heldBack cn e.1 = none := by
    intro e he
    unfold State.heldBack
    rw [hchoked (List.ne_nil_of_mem he), if_neg Bool.false_ne_true, hroom e he, if_neg Bool.false_ne_true]
  unfold State.copyHeld
  rw [hhomes, Bool.and_eq_false_iff]
  right
  rw [List.any_eq_false]
  intro h hh
  obtain ⟨e, he, rfl⟩ := List.mem_map.mp hh
  rw [hback e he]
  exact Bool.false_ne_true

/-- The copy as it waits for the request with sequence n. -/
def CopyOp.sent (y : CopyOp) (n first : Nat) : CopyOp := { y with phase := .waiting n, first := some first }

/-- The packet q carries request e of a copy, with sequence n (R110, R133). -/
def Carries (cn : Nat) (y : CopyOp) (e : Home × Nat × Body) (q : Packet) (n : Nat) : Prop :=
  q.home = e.1 ∧ q.addr = e.2.1 ∧ q.body = e.2.2 ∧ q.reply = false ∧ q.cn = cn ∧ q.kind = 4 ∧ q.cls = y.cls ∧
  q.slack = y.slk % 2 ^ 12 ∧ q.rallow = y.slk / 2 ^ 12 % 2 ^ 12 ∧ q.seq = n

/-- The transaction z of request e of a copy. -/
def Opens (y : CopyOp) (e : Home × Nat × Body) (z : Tx) (n : Nat) : Prop := z.seq = n ∧ z.key = e.1.key ∧ z.copy = some y.id ∧ z.body = e.2.2

/-- The transaction of a request of a copy whose first one has the sequence given (R110). -/
def State.requestTx (s : State) (cn : Nat) (y : CopyOp) (e : Home × Nat × Body) (first : Nat) : Tx := { s.copyTx cn y e.1 e.2.2 with first := first }

/-- The core whose copy y waits for transaction x. -/
def Core.requests (c : Core) (y : CopyOp) (x : Tx) : Core :=
  { c.opens x with copies := c.copies.map fun q => if q.id = y.id then q.sent x.seq x.first else q }

/-- One request of a copy sets out (R110, R133). -/
theorem sendCopyPacket_spec (s : State) (cn : Nat) (y : CopyOp) (e : Home × Nat × Body) (first : Nat) :
    let t := s.sendCopyPacket cn y (s.requestTx cn y e first) e.2.1
    let n := (s.core cn).txSeq.toNat
    MemSame s t ∧ (∃ q, t.net = SMap.put s.net s.nextPkt q ∧ Carries cn y e q n) ∧ t.nextPkt = s.nextPkt + 1 ∧
    (∃ z, (t.core cn).txs = (s.core cn).txs ++ [z] ∧ Opens y e z n) ∧ (t.core cn).txSeq = (s.core cn).txSeq + 1 ∧
    (t.core cn).copies = (s.core cn).copies.map fun q => if q.id = y.id then q.sent n first else q := by
  intro t n
  have hcore : t.core cn = (s.core cn).requests y (s.requestTx cn y e first) :=
    State.core_modCore_same s cn fun c => c.requests y (s.requestTx cn y e first)
  have hslack : slkInit y.slk = y.slk % 2 ^ 12 := by rw [slkInit, fld, pow_zero, Nat.div_one]
  refine ⟨?_, ⟨_, rfl, rfl, rfl, rfl, rfl, rfl, rfl, rfl, hslack, rfl, rfl⟩, rfl, ⟨_, by rw [hcore]; rfl, rfl, rfl, rfl, rfl⟩, by rw [hcore]; rfl,
    by rw [hcore]; rfl⟩
  refine MemSame.trans (memSame_modCore s cn (f := fun c => c.requests y (s.requestTx cn y e first)) rfl) ?_
  exact memSame_of_fields rfl rfl

/-- The copy waits once its request has set out. -/
theorem mem_requests {n first : Nat} {c : List CopyOp} (hy : y ∈ c) : y.sent n first ∈ c.map fun q => if q.id = y.id then q.sent n first else q :=
  List.mem_map.mpr ⟨y, hy, if_pos rfl⟩

/-- A single request sets out, and the copy waits for its answer. -/
theorem sendRequests_one (hy : y ∈ (s.core cn).copies) (e : Home × Nat × Body) :
    let t := s.sendRequests cn y [e]
    let n := (s.core cn).txSeq.toNat
    MemSame s t ∧ (∃ q, t.net = SMap.put s.net s.nextPkt q ∧ Carries cn y e q n) ∧
    (∃ z, (t.core cn).txs = (s.core cn).txs ++ [z] ∧ Opens y e z n) ∧ (t.core cn).txSeq = (s.core cn).txSeq + 1 ∧
    y.sent n (y.first.getD n) ∈ (t.core cn).copies := by
  intro t n
  obtain ⟨hmem, hnet, -, htx, hseq, hcopies⟩ := sendCopyPacket_spec s cn y e (y.first.getD n)
  exact ⟨hmem, hnet, htx, hseq, hcopies ▸ mem_requests hy⟩

/-- Two requests set out together, and the copy waits for the answer of the second. -/
theorem sendRequests_two (hy : y ∈ (s.core cn).copies) (d e : Home × Nat × Body) :
    let t := s.sendRequests cn y [d, e]
    let n := (s.core cn).txSeq
    MemSame s t ∧ (∃ p q, t.net = SMap.put (SMap.put s.net s.nextPkt p) (s.nextPkt + 1) q ∧ Carries cn y d p n.toNat ∧ Carries cn y e q (n + 1).toNat) ∧
    (∃ x z, (t.core cn).txs = (s.core cn).txs ++ [x, z] ∧ Opens y d x n.toNat ∧ Opens y e z (n + 1).toNat) ∧ (t.core cn).txSeq = n + 2 ∧
    y.sent (n + 1).toNat (y.first.getD n.toNat) ∈ (t.core cn).copies := by
  intro t n
  obtain ⟨hmem, ⟨p, hp, hcp⟩, hpkt, ⟨x, hx, hox⟩, hseq, hcopies⟩ := sendCopyPacket_spec s cn y d (y.first.getD n.toNat)
  have ht : t = (s.sendCopyPacket cn y (s.requestTx cn y d (y.first.getD n.toNat)) d.2.1).sendCopyPacket cn y
    ((s.sendCopyPacket cn y (s.requestTx cn y d (y.first.getD n.toNat)) d.2.1).requestTx cn y e (y.first.getD n.toNat)) e.2.1 := rfl
  generalize s.sendCopyPacket cn y (s.requestTx cn y d (y.first.getD n.toNat)) d.2.1 = u at *
  obtain ⟨hmem', ⟨q, hq, hcq⟩, -, ⟨z, hz, hoz⟩, hseq', hcopies'⟩ := sendCopyPacket_spec u cn y e (y.first.getD n.toNat)
  rw [hseq] at hcq hoz hseq' hcopies'
  have hnow : y.sent n.toNat (y.first.getD n.toNat) ∈ (u.core cn).copies := hcopies ▸ mem_requests hy
  rw [ht]
  refine ⟨MemSame.trans hmem hmem', ⟨p, q, by rw [hq, hp, hpkt], hcp, hcq⟩, ⟨x, z, by rw [hz, hx, List.append_assoc]; rfl, hox, hoz⟩, ?_, ?_⟩
  · rw [hseq', add_assoc]; rfl
  · rw [hcopies']
    exact mem_requests (y := y.sent n.toNat (y.first.getD n.toNat)) hnow

end Sys2Proof.Machine
end

section
/-! SUPPORT. The bytes that a block of a copy writes in cores (R65, R125). -/

namespace Sys2Proof.Machine

variable {s : State} {cn : Nat} {y : CopyOp}

/-- Of bytes put one by one, those of an address that is given one value alone stand there, but for the bits that read zero. -/
theorem Core.byte_puts_of_mem (ws : List (Nat × Byte)) (c : Core) {x : Nat} {v : Byte} (hx : (x, v) ∈ ws) (h : ∀ w, (x, w) ∈ ws → w = v) :
    Memory.byte (ws.foldl (fun c e => c.put e.1 [e.2]) c).mem x = v &&& keptBits x := by
  induction ws generalizing c with
  | nil => cases hx
  | cons e ws ih =>
    by_cases hlater : (x, v) ∈ ws
    · exact ih _ hlater fun w hw => h w (List.mem_cons_of_mem _ hw)
    · have he : e = (x, v) := ((List.mem_cons.mp hx).resolve_right hlater).symm
      subst he
      refine Core.byte_puts_last [] ws c fun e he hex => hlater ?_
      obtain ⟨a, w⟩ := e
      obtain rfl : a = x := hex
      exact h w (List.mem_cons_of_mem _ he) ▸ he

/-- Bytes put in several cores. -/
theorem putCores_spec (g : Nat → List (Nat × Byte)) (ts : List Nat) (s : State) :
    let t := ts.foldl (fun s t => s.modCore t fun c => c.putAll (g t)) s
    OnlyCores s t ∧ (∀ j, (t.core j).copies = (s.core j).copies) ∧ (∀ j ∉ ts, t.core j = s.core j) ∧
    (∀ j x, (∀ e ∈ g j, e.1 ≠ x) → Memory.byte (t.core j).mem x = Memory.byte (s.core j).mem x) ∧
    ∀ j ∈ ts, ∀ x v, (x, v) ∈ g j → (∀ w, (x, w) ∈ g j → w = v) → Memory.byte (t.core j).mem x = v &&& keptBits x := by
  induction ts generalizing s with
  | nil => exact ⟨rfl, fun _ => rfl, fun _ _ => rfl, fun _ _ _ => rfl, nofun⟩
  | cons k ts ih =>
    have hputs : ∀ (ws : List (Nat × Byte)) (c : Core), (ws.foldl (fun c e => c.put e.1 [e.2]) c).copies = c.copies := by
      intro ws
      induction ws with
      | nil => exact fun _ => rfl
      | cons e ws ih => exact fun c => ih (c.put e.1 [e.2])
    obtain ⟨honly, hcopies, hother, hframe, hval⟩ := ih (s.modCore k fun c => c.putAll (g k))
    refine ⟨OnlyCores.trans (onlyCores_modCore s k _) honly, fun j => ?_, fun j hj => ?_, fun j x hx => ?_, fun j hj x v hx hv => ?_⟩
    · exact (hcopies j).trans (copies_modCore (hputs _ _) j)
    · rw [List.mem_cons, not_or] at hj
      exact (hother j hj.2).trans (State.core_modCore_other _ _ hj.1)
    · refine (hframe j x hx).trans ?_
      by_cases hjk : j = k
      · subst hjk; rw [State.core_modCore_same]; exact Core.byte_puts_other _ _ hx
      · rw [State.core_modCore_other _ _ hjk]
    · by_cases hlater : j ∈ ts
      · exact hval j hlater x v hx hv
      · obtain rfl : j = k := (List.mem_cons.mp hj).resolve_right hlater
        rw [List.foldl_cons, hother j hlater, State.core_modCore_same]
        exact Core.byte_puts_of_mem _ _ hx hv

/-- Bytes written at cells of the cores' general areas, each of which is named once. -/
theorem putSite_cells {ds : List (Nat × Nat)} {bs : List Byte} (hlen : bs.length = ds.length) (hnodup : ds.Nodup)
    (hgen : ∀ e ∈ ds, 0x2000 ≤ e.2) :
    let t := s.putSite (.cells ds) bs
    OnlyCores s t ∧ (∀ j, (t.core j).copies = (s.core j).copies) ∧
    (∀ k e, ds[k]? = some e → Memory.byte (t.core e.1).mem e.2 = bs.getD k 0) ∧
    ∀ j a, (j, a) ∉ ds → Memory.byte (t.core j).mem a = Memory.byte (s.core j).mem a := by
  intro t
  obtain ⟨honly, hcopies, -, hframe, hval⟩ := putCores_spec
    (fun t => (ds.zip bs).filterMap fun (e, b) => if e.1 = t then some (e.2, b) else none) (ds.map (·.1)).eraseDups s
  have hmem : ∀ j a b, (a, b) ∈ ((ds.zip bs).filterMap fun (e, b) => if e.1 = j then some (e.2, b) else none) ↔ ((j, a), b) ∈ ds.zip bs := by
    intro j a b
    rw [List.mem_filterMap]
    constructor
    · rintro ⟨⟨⟨j', a'⟩, b'⟩, he, h⟩
      dsimp only at h
      split at h
      · next hj => cases h; subst hj; exact he
      · cases h
    · exact fun h => ⟨_, h, if_pos rfl⟩
  have hone : ∀ e b w, (e, b) ∈ ds.zip bs → (e, w) ∈ ds.zip bs → w = b := by
    intro e b w hb hw
    obtain ⟨i, hi, hib⟩ := List.mem_iff_getElem.mp hb
    obtain ⟨j, hj, hjw⟩ := List.mem_iff_getElem.mp hw
    rw [List.getElem_zip, Prod.mk.injEq] at hib hjw
    have hij : i = j := hnodup.getElem_inj_iff.mp (hib.1.trans hjw.1.symm)
    subst hij
    exact hjw.2.symm.trans hib.2
  refine ⟨honly, hcopies, fun k e he => ?_, fun j a ha => hframe j a fun e he hea => ha ?_⟩
  · obtain ⟨hk, rfl⟩ := List.getElem?_eq_some_iff.mp he
    have hk' : k < bs.length := hlen ▸ hk
    have hin : (ds[k], bs[k]) ∈ ds.zip bs := List.mem_iff_getElem.mpr ⟨k, by simp [hk, hk'], by simp⟩
    have hin' : ds[k] ∈ ds := List.getElem_mem hk
    have hbyte := hval ds[k].1 (List.mem_eraseDups.mpr (List.mem_map.mpr ⟨_, hin', rfl⟩)) ds[k].2 bs[k] ((hmem _ _ _).mpr hin)
      fun w hw => hone _ _ _ hin ((hmem _ _ _).mp hw)
    rw [List.getD_eq_getElem _ _ hk']
    refine hbyte.trans ?_
    rw [keptBits_of_outside (.inr (hgen _ hin'))]
    exact BitVec.and_allOnes
  · obtain ⟨x, b⟩ := e
    obtain rfl : x = a := hea
    exact (List.of_mem_zip ((hmem _ _ _).mp he)).1

theorem siteBytes_cells {ds : List (Nat × Nat)} {bs : List Byte} (hlen : bs.length = ds.length)
    (h : ∀ k e, ds[k]? = some e → Memory.byte (s.core e.1).mem e.2 = bs.getD k 0) : s.siteBytes (.cells ds) = bs := by
  refine List.ext_getElem (by simp [State.siteBytes, hlen]) fun k h1 h2 => ?_
  have hk : k < ds.length := hlen ▸ h2
  rw [← List.getD_eq_getElem bs 0 h2, ← h k _ (List.getElem?_eq_getElem hk)]
  simp [State.siteBytes]

/-- Cells that take the write of a block lie in general areas (R48, R429). -/
theorem general_of_siteRefuses {ds : List (Nat × Nat)} (h : s.siteRefuses (.cells ds) false = false) : ∀ e ∈ ds, 0x2000 ≤ e.2 := by
  intro e he
  have hcell := List.any_eq_false.mp h e he
  by_contra hlow
  refine hcell ?_
  have hout : outOfGeneral e.2 1 = true := (outOfGeneral_iff _ _).mpr (.inl (Nat.lt_of_not_le hlow))
  simp [State.coreRefuses, hout]

/-! ### A site of no bytes -/

/-- A block of a copy that writes no side entries: their site is empty. -/
theorem site_empty (y : CopyOp) (cn : Nat) (p : Word) (off : Nat) : y.site cn p off 0 = .cells [] ∨ y.site cn p off 0 = .global [] := by
  unfold CopyOp.site
  dsimp only
  split
  · exact .inl rfl
  · exact .inl rfl
  · exact .inl rfl
  · exact .inr rfl

theorem putGlobal_nil (s : State) : s.putGlobal [] = s := by
  have hlost : s.lost.filter (fun _ => !false) = s.lost := List.filter_eq_self.mpr fun _ _ => rfl
  have hbad : s.gbad.filter (fun d => !((span (8 * d) 8).all fun _ => false)) = s.gbad := List.filter_eq_self.mpr fun _ _ => rfl
  show ({ s with lost := s.lost.filter fun _ => !false, gbad := s.gbad.filter fun d => !((span (8 * d) 8).all fun _ => false) } : State) = s
  rw [hlost, hbad]

theorem empty_site (s : State) (y : CopyOp) (cn : Nat) (p : Word) (off : Nat) :
    s.putSite (y.site cn p off 0) [] = s ∧ s.writeBad (y.site cn p off 0) = none ∧ s.siteRefuses (y.site cn p off 0) false = false := by
  rcases site_empty y cn p off with h | h <;> rw [h]
  · exact ⟨rfl, rfl, rfl⟩
  · exact ⟨putGlobal_nil s, rfl, rfl⟩

end Sys2Proof.Machine
end

section
/-! SUPPORT. The block of a copy whose source bytes are there: it is performed, or the copy stops (R65, R69, R429). -/

namespace Sys2Proof.Machine

variable {s : State} {cn : Nat} {y : CopyOp}

theorem not_converts_of_plain (h : y.plain = true) : y.converts = false := by
  obtain ⟨hs, hd⟩ := Bool.and_eq_true_iff.mp h
  rw [CopyOp.converts, beq_iff_eq.mp hs, beq_iff_eq.mp hd]; rfl

/-- The bytes of the next block of a plain copy: as they fall, with no side entries (R62). -/
theorem blockSpan_plain (h : y.plain = true) :
    (y.blockSpan cn).src = (y.off, (y.blockSpan cn).n) ∧ (y.blockSpan cn).srcSide = (0, 0) ∧ (y.blockSpan cn).dstSide = (0, 0) := by
  simp [CopyOp.blockSpan, h, not_converts_of_plain h]

/-- One source byte of a copy, as the copy unit has it (R110). -/
def State.copyByte (s : State) (cn : Nat) (o : CopyOp) (q : Word) : Option Byte :=
  match o.far cn q false, o.cell cn q with
  | some k, _ => ((o.line? (k / 64)).getD []).getD (k % 64) none
  | none, some (m, a) => if (s.core m).bad.contains (a / 8) then none else some (Memory.byte (s.core m).mem a)
  | none, none => none

theorem copyBytes_eq (s : State) (cn : Nat) (o : CopyOp) (p : Word) (off n : Nat) :
    s.copyBytes cn o p off n = (List.range n).map fun i => s.copyByte cn o (p + .ofNat 64 (off + i)) := rfl

/-- The source bytes of the next block of a plain copy. -/
theorem plan_src (h : y.plain = true) : (s.plan cn y).src = (List.range (y.blockSpan cn).n).map fun i =>
    s.copyByte cn y (y.srcPtr y.row + .ofNat 64 (y.off + i)) := by
  obtain ⟨hsrc, -, -⟩ := blockSpan_plain (cn := cn) h
  rw [← copyBytes_eq]
  show s.copyBytes cn y _ _ _ = _
  rw [hsrc]

theorem getD_plan_src (h : y.plain = true) {j : Nat} (hj : j < (y.blockSpan cn).n) :
    (s.plan cn y).src.getD j none = s.copyByte cn y (y.srcPtr y.row + .ofNat 64 (y.off + j)) := by
  rw [plan_src h, List.getD_eq_getElem _ _ (by simpa using hj)]
  simp

/-! ### What becomes of the block -/

/-- The first source byte that is lost stops the copy (R69). -/
theorem copyBlock_lost {j : Nat} (h : (s.plan cn y).src.findIdx? (fun e => e.isNone) = some j) :
    s.copyBlock cn y = s.breakCopy cn y (y.srcPtr y.row + .ofNat 64 ((y.blockSpan cn).src.1 + j)) false := by
  unfold State.copyBlock
  dsimp only
  rw [h]

section
variable (hacc : y.acc = 0)
include hacc

/-- What becomes of a block whose bytes are there, where the write covers every bad doubleword of its destination. -/
theorem copyBlock_whole (hsrc : (s.plan cn y).src.findIdx? (fun e => e.isNone) = none)
    (hside : (s.plan cn y).srcSide.findIdx? (fun e => e.isNone) = none) (hdst : s.writeBad (s.plan cn y).dst = none) :
    s.copyBlock cn y = match s.writeBad (s.plan cn y).dstSide with
      | some i => s.breakCopy cn y (y.side + .ofNat 64 ((y.blockSpan cn).dstSide.1 + i)) true
      | none =>
        if s.siteRefuses (s.plan cn y).dst false || s.siteRefuses (s.plan cn y).dstSide false then s.refuseCopy cn y 0
        else s.performBlock cn y (s.plan cn y) := by
  have hflag : (y.acc != 0) = false := by rw [hacc]; rfl
  unfold State.copyBlock
  dsimp only
  rw [hsrc, hside, if_pos hacc, hdst, hflag]
  cases s.writeBad (s.plan cn y).dstSide <;> rfl

/-- A plain block that contributes to no record is performed by writing its bytes. -/
theorem performBlock_plain (hplain : y.plain = true) (hrec : y.recen = false) (b : BlockPlan) :
    let v := s.putSite b.dst (b.src.map fun x => x.getD 0)
    s.performBlock cn y b = (v.putSite b.dstSide []).pastBlock cn y b.n (v.siteBytes b.dst) := by
  have hfive : y.acc ≠ 5 := by rw [hacc]; decide
  unfold State.performBlock
  simp only [hplain, hrec, if_true, if_pos hacc, if_neg hfive, Bool.false_eq_true, if_false, List.isEmpty_nil]
  split <;> rfl

end

/-- The copy z, which copy y has become behind its block: of the part's lines, those of records stay (R100, R105). -/
def State.past (s : State) (y z : CopyOp) : CopyOp :=
  { z with pages := none, lines := [], kept := (y.lines.filter fun e => s.recordLine e.1).foldl (fun m e => SMap.put m e.1 e.2) y.kept }

/-- What changes in the cores does not change which lines are kept. -/
theorem pastBlock_congr {t : State} (h : OnlyCores s t) (cn : Nat) (y : CopyOp) (n : Nat) (new : List Byte) :
    t.pastBlock cn y n new = t.setCopy cn (s.past y (y.advanced n new)) := by
  unfold State.pastBlock State.past
  simp only [h.recordLine]

theorem id_advanced (y : CopyOp) (n : Nat) (new : List Byte) : (y.advanced n new).id = y.id := by
  unfold CopyOp.advanced
  dsimp only
  split
  · rfl
  · split <;> rfl

theorem findIdx?_map_some {α : Type} (bs : List α) : (bs.map some).findIdx? (fun e => e.isNone) = none := by
  rw [List.findIdx?_eq_none_iff]
  intro x hx
  obtain ⟨b, -, rfl⟩ := List.mem_map.mp hx
  rfl

section
variable (hy : y ∈ (s.core cn).copies) (hacc : y.acc = 0)
include hy hacc

/-- A plain block in local SRAM moves its bytes and no others (R65). -/
theorem copyBlock_moves (hplain : y.plain = true) (hrec : y.recen = false) {ds : List (Nat × Nat)} {bs : List Byte}
    (hsrc : (s.plan cn y).src = bs.map some) (hdst : (s.plan cn y).dst = .cells ds) (hlen : bs.length = ds.length) (hnodup : ds.Nodup)
    (hbad : s.writeBad (s.plan cn y).dst = none) (hok : s.siteRefuses (s.plan cn y).dst false = false) :
    let t := s.copyBlock cn y
    ((∀ k e, ds[k]? = some e → Memory.byte (t.core e.1).mem e.2 = bs.getD k 0) ∧
      (∀ j a, (j, a) ∉ ds → Memory.byte (t.core j).mem a = Memory.byte (s.core j).mem a) ∧
      ∀ a, Memory.byte t.gmem a = Memory.byte s.gmem a) ∧
    s.past y (y.advanced (s.plan cn y).n bs) ∈ (t.core cn).copies ∧ t.nextPkt = s.nextPkt := by
  obtain ⟨-, hss, hds⟩ := blockSpan_plain (cn := cn) hplain
  have hsrcSide : (s.plan cn y).srcSide = [] := by
    show s.copyBytes cn y y.side _ _ = []
    rw [hss]; rfl
  have hdstSide : (s.plan cn y).dstSide = y.site cn y.side 0 0 := by
    show y.site cn y.side _ _ = _
    rw [hds]
  obtain ⟨hput, hwrite, hrefuse⟩ := empty_site s y cn y.side 0
  have hblock : s.copyBlock cn y = s.performBlock cn y (s.plan cn y) := by
    rw [copyBlock_whole hacc (by rw [hsrc]; exact findIdx?_map_some bs) (by rw [hsrcSide]; rfl) hbad, hdstSide, hwrite, hok, hrefuse]
    rfl
  have hgen : ∀ e ∈ ds, 0x2000 ≤ e.2 := general_of_siteRefuses (hdst ▸ hok)
  have hbytes : ((bs.map some).map fun x => x.getD 0) = bs := by rw [List.map_map]; exact List.map_id bs
  obtain ⟨honly, hcopies, hval, hframe⟩ := putSite_cells (s := s) hlen hnodup hgen
  have hperform := performBlock_plain (s := s) (cn := cn) hacc hplain hrec (s.plan cn y)
  dsimp only at hperform honly hcopies hval hframe ⊢
  rw [hsrc, hdst, hbytes, hdstSide] at hperform
  generalize s.putSite (.cells ds) bs = v at hperform honly hcopies hval hframe
  rw [(empty_site v y cn y.side 0).1, siteBytes_cells hlen hval, pastBlock_congr honly] at hperform
  rw [hblock, hperform]
  have hstay := memSame_setCopy v cn (s.past y (y.advanced (s.plan cn y).n bs))
  refine ⟨⟨fun k e he => (hstay.1 _ _).trans (hval k e he), fun j a ha => (hstay.1 _ _).trans (hframe j a ha), fun a => ?_⟩, ?_, ?_⟩
  · rw [show (v.setCopy cn _).gmem = v.gmem from rfl, honly]
  · exact mem_setCopy (hcopies cn ▸ hy) (id_advanced y _ _)
  · rw [show (v.setCopy cn _).nextPkt = v.nextPkt from rfl, honly]

omit hacc in
/-- A lost source byte stops a plain copy, and is counted where it is (R69, R355). -/
theorem copyBlock_breaks (hplain : y.plain = true) {j : Nat} (h : (s.plan cn y).src.findIdx? (fun e => e.isNone) = some j) :
    Stops s (s.copyBlock cn y) cn { y with phase := .stopped 1 } ∧
    ∀ m a, y.cell cn (y.srcPtr y.row + .ofNat 64 (y.off + j)) = some (m, a) →
      ((s.copyBlock cn y).core m).trap.hwUnc = (s.core m).trap.hwUnc + 1 := by
  obtain ⟨hsrc, -, -⟩ := blockSpan_plain (cn := cn) hplain
  rw [copyBlock_lost h, hsrc]
  exact breakCopy_spec hy _ _

/-- Where a block's side entries cannot be written, or a target refuses a write, the copy stops with nothing of the block written
(R69, R429). -/
theorem copyBlock_stops (hsome : ∀ e ∈ (s.plan cn y).src ++ (s.plan cn y).srcSide, e.isSome = true)
    (hbad : s.writeBad (s.plan cn y).dst = none) :
    (∀ j, s.writeBad (s.plan cn y).dstSide = some j → Stops s (s.copyBlock cn y) cn { y with phase := .stopped 1 }) ∧
    (s.writeBad (s.plan cn y).dstSide = none →
      s.siteRefuses (s.plan cn y).dst false = true ∨ s.siteRefuses (s.plan cn y).dstSide false = true →
      Stops s (s.copyBlock cn y) cn { y with phase := .stopped 4 }) := by
  have whole : ∀ l : List (Option Byte), (∀ e ∈ l, e.isSome = true) → l.findIdx? (fun e => e.isNone) = none := by
    intro l hl
    rw [List.findIdx?_eq_none_iff]
    intro e he
    rw [Option.isNone_eq_false_iff]
    exact hl e he
  have hblock := copyBlock_whole hacc (whole _ fun e he => hsome e (List.mem_append_left _ he)) (whole _ fun e he => hsome e (List.mem_append_right _ he)) hbad
  refine ⟨fun j hj => ?_, fun hnone hrefuse => ?_⟩
  · rw [hblock, hj]
    exact (breakCopy_spec hy _ _).1
  · rw [hblock, hnone]
    dsimp only
    rw [if_pos (by rw [Bool.or_eq_true]; exact hrefuse)]
    exact stops_refuseCopy hy 0

end

end Sys2Proof.Machine
end

section
/-! SUPPORT. A line of 64 bytes as the data of a reply (R110). -/

namespace Sys2Proof

/-- The bytes of the number that bytes make up are those bytes (R8). -/
theorem leBytes_leNat (bs : List Byte) : leBytes bs.length (leNat bs) = bs := by
  induction bs with
  | nil => rfl
  | cons b bs ih =>
    have hb : b.toNat < 256 := b.isLt
    have hlow : BitVec.ofNat 8 (leNat (b :: bs)) = b := by
      apply BitVec.eq_of_toNat_eq
      rw [BitVec.toNat_ofNat, leNat]
      omega
    have hhigh : leNat (b :: bs) / 256 = leNat bs := by rw [leNat]; omega
    rw [List.length_cons, leBytes, hlow, hhigh, ih]

theorem leNat_lt (bs : List Byte) : leNat bs < 256 ^ bs.length := by
  induction bs with
  | nil => decide
  | cons b bs ih =>
    have hb : b.toNat < 256 := b.isLt
    rw [leNat, List.length_cons, pow_succ']
    omega

/-- Whole doublewords hold the bytes that they were made of (R8). -/
theorem dwordsUpTo_spec (n fuel : Nat) (bs : List Byte) (hlen : bs.length = 8 * n) (hfuel : n ≤ fuel) :
    (dwordsUpTo fuel bs).length = n ∧ ((dwordsUpTo fuel bs).flatMap fun w => leBytes 8 w.toNat) = bs := by
  induction n generalizing fuel bs with
  | zero =>
    obtain rfl := List.eq_nil_of_length_eq_zero hlen
    cases fuel <;> exact ⟨rfl, rfl⟩
  | succ n ih =>
    obtain ⟨fuel, rfl⟩ : ∃ k, fuel = k + 1 := ⟨fuel - 1, by omega⟩
    obtain ⟨b, bs, rfl⟩ := List.exists_cons_of_length_pos (l := bs) (by omega)
    have htake : ((b :: bs).take 8).length = 8 := by rw [List.length_take]; omega
    have hbytes : leBytes 8 (BitVec.ofNat 64 (leNat ((b :: bs).take 8))).toNat = (b :: bs).take 8 := by
      have hlt := leNat_lt ((b :: bs).take 8)
      have hround := leBytes_leNat ((b :: bs).take 8)
      rw [htake] at hlt hround
      rw [BitVec.toNat_ofNat, Nat.mod_eq_of_lt (show _ < 2 ^ 64 from hlt), hround]
    obtain ⟨hcount, hrest⟩ := ih fuel ((b :: bs).drop 8) (by rw [List.length_drop]; omega) (by omega)
    rw [dwordsUpTo]
    exact ⟨by rw [List.length_cons, hcount], by rw [List.flatMap_cons, hrest, hbytes, List.take_append_drop]⟩

namespace Machine

/-- A number made of one bit for each index for which p holds. -/
def bitsOf (p : Nat → Bool) (n : Nat) : Nat := (List.range n).foldl (fun a j => if p j then a + 2 ^ j else a) 0

theorem bitsOf_succ (p : Nat → Bool) (n : Nat) : bitsOf p (n + 1) = if p n then bitsOf p n + 2 ^ n else bitsOf p n := by
  rw [bitsOf, List.range_succ, List.foldl_append]; rfl

theorem testBit_bitsOf (p : Nat → Bool) (n : Nat) : bitsOf p n < 2 ^ n ∧ ∀ j < n, (bitsOf p n).testBit j = p j := by
  induction n with
  | zero => exact ⟨Nat.one_pos, nofun⟩
  | succ n ih =>
    obtain ⟨hlt, hbit⟩ := ih
    rw [bitsOf_succ, pow_succ]
    refine ⟨by split <;> omega, fun j hj => ?_⟩
    rcases Nat.lt_succ_iff_lt_or_eq.mp hj with hj | rfl
    · split
      · rw [Nat.add_comm, Nat.testBit_two_pow_add_gt hj, hbit j hj]
      · exact hbit j hj
    · split
      · next h => rw [Nat.add_comm, Nat.testBit_two_pow_add_eq, Nat.testBit_lt_two_pow hlt, h]; rfl
      · next h => rw [Nat.testBit_lt_two_pow hlt, Bool.eq_false_of_not_eq_true h]

/-- A line goes to the data of a reply and back, as each of its doublewords is bad as a whole or good as a whole. -/
theorem dataLine_lineData (x : List (Option Byte)) (hlen : x.length = 64)
    (hwhole : ∀ i < 64, (x.getD i none).isNone = (x.getD (8 * (i / 8)) none).isNone) : dataLine (lineData x) = x := by
  have hlen' : (x.map fun b => b.getD 0).length = 8 * 8 := (List.length_map _).trans hlen
  obtain ⟨hcount, hbytes⟩ := dwordsUpTo_spec 8 (x.map fun b => b.getD 0).length _ hlen' (by rw [hlen']; decide)
  obtain ⟨hlt, hbit⟩ := testBit_bitsOf (fun j => (x.getD (8 * j) none).isNone) 8
  have hdata : lineData x = dwords (x.map fun b => b.getD 0) ++ [.ofNat 64 (bitsOf (fun j => (x.getD (8 * j) none).isNone) 8)] := rfl
  have hmask : (lineData x).getD 8 0 = .ofNat 64 (bitsOf (fun j => (x.getD (8 * j) none).isNone) 8) := by
    rw [hdata, dwords, List.getD_append_right _ _ _ _ (Nat.le_of_eq hcount), hcount]; rfl
  have htake : (lineData x).take 8 = dwords (x.map fun b => b.getD 0) := by
    rw [hdata, dwords, List.take_append_of_le_length (Nat.le_of_eq hcount.symm), List.take_of_length_le (Nat.le_of_eq hcount)]
  unfold dataLine
  rw [hmask, htake, dwords, hbytes]
  refine List.ext_getElem (by simp) fun i h1 h2 => ?_
  have hi : i < 64 := hlen ▸ h2
  have hlost : wbit (.ofNat 64 (bitsOf (fun j => (x.getD (8 * j) none).isNone) 8)) (i / 8) = (x[i]).isNone := by
    rw [wbit_eq_getLsbD, BitVec.getLsbD_ofNat, hbit _ (by omega), ← hwhole i hi, List.getD_eq_getElem _ _ h2, decide_eq_true (by omega), Bool.true_and]
  rw [List.getElem_map, List.getElem_zipIdx, List.getElem_map]
  dsimp only
  rw [Nat.zero_add, hlost]
  cases x[i] <;> rfl

/-- The line that a home sends is the one that arrives (R110). -/
theorem dataLine_lineBytes (m : Memory) (bad : List Nat) (a : Nat) : dataLine (lineData (lineBytes m bad a)) = lineBytes m bad a := by
  have hlen : (lineBytes m bad a).length = 64 := by simp [lineBytes, span]
  have hlost : ∀ i < 64, ((lineBytes m bad a).getD i none).isNone = bad.contains (a / 64 * 8 + i / 8) := by
    intro i hi
    have hb : (a / 64 * 64 + i) / 8 = a / 64 * 8 + i / 8 := by omega
    rw [List.getD_eq_getElem _ _ (hlen.symm ▸ hi)]
    simp only [lineBytes, span, List.getElem_map, List.getElem_range, hb]
    split
    · next h => rw [h]; rfl
    · next h => rw [Bool.eq_false_of_not_eq_true h]; rfl
  refine dataLine_lineData _ hlen fun i hi => ?_
  rw [hlost i hi, hlost _ (by omega), Nat.mul_div_cancel_left _ (by decide)]

end Machine

end Sys2Proof
end

section
/-! SUPPORT. The start of a copy, its parts and its completion as events (R63, R65, R66, R320). -/

namespace Sys2Proof.Machine

variable {s : State} {y : CopyOp}

/-! ### The start (R63, R320) -/

/-- The core whose context k has forked copy z. -/
def Core.fork (c : Core) (k : Nat) (z : CopyOp) : Core :=
  { c.modCx k fun x => x.count 5 with copies := c.copies ++ [z], nextId := c.nextId + 1 }

/-- The state in which copy z has been forked. -/
def State.forked (s : State) (z : CopyOp) : State := s.modMe fun c => c.fork s.curCtx z

/-- The copy that CP.GO forks: one without a byte to write is complete at once. -/
def State.newCopy (s : State) : CopyOp := { s.copyOf with phase := if s.copyOf.dstRow = 0 then .stopped 0 else .running }

/-- The state of the core after that, with RNDCTR advanced for a copy that converts (R83). -/
def State.started (s : State) : State :=
  if s.copyOf.converts = true ∧ stochastic s.rm = true then (s.forked s.newCopy).modCx fun x => { x with rndctr := x.rndctr + 1 }
  else s.forked s.newCopy

theorem execCopyGo_room (st : BitVec 3) (d : BitVec 5) (h : s.me.copies.length < 32) :
    exec (.copyGo st d) s = s.check (s.copyChecks s.copyOf) (s.started.result st d (s.me.nextId.setWidth 64) 0) := by
  have hnew : (if s.copyOf.dstRow = 0 then { s.copyOf with phase := .stopped 0 } else s.copyOf : CopyOp) = s.newCopy := by
    unfold State.newCopy
    split <;> rfl
  have hstarted : (if s.newCopy.converts = true then (s.forked s.newCopy).advance s.newCopy.rm else s.forked s.newCopy) = s.started := by
    unfold State.started State.advance
    have hconv : s.newCopy.converts = s.copyOf.converts := rfl
    have hrm : s.newCopy.rm = s.rm := rfl
    rw [hconv, hrm]
    by_cases h1 : s.copyOf.converts = true <;> by_cases h2 : stochastic s.rm = true <;> simp [h1, h2]
  have hid : (BitVec.ofNat 64 s.newCopy.id) = s.me.nextId.setWidth 64 := BitVec.ofNat_toNat _ _
  show execCopyGo st d s = _
  unfold execCopyGo
  rw [if_neg (Nat.not_le_of_lt h)]
  dsimp only
  rw [hnew, ← hid, ← hstarted]
  rfl

theorem started_spec (s : State) :
    s.started.me.copies = s.me.copies ++ [s.newCopy] ∧ s.started.me.nextId = s.me.nextId + 1 ∧ MemSame s s.started ∧
    OnlyCore s s.started s.curCore ∧
    s.started.cx.rndctr = s.cx.rndctr + (if s.copyOf.converts = true ∧ stochastic s.rm = true then 1 else 0) := by
  have hmem : MemSame s (s.forked s.newCopy) := memSame_modCore s s.curCore rfl
  have hme : (s.forked s.newCopy).me = s.me.fork s.curCtx s.newCopy := State.me_modMe s fun c => c.fork s.curCtx s.newCopy
  have hcx : (s.forked s.newCopy).cx = s.cx.count 5 := by
    show (s.forked s.newCopy).me.cx s.curCtx = _
    rw [hme]
    exact Core.cx_modCx_same s.me s.curCtx fun x => x.count 5
  unfold State.started
  split
  · refine ⟨?_, ?_, MemSame.trans hmem (memSame_modCx _ _), ?_, ?_⟩
    · rw [State.me_modCx, hme]; rfl
    · rw [State.me_modCx, hme]; rfl
    · have hmod : ((s.forked s.newCopy).modCx fun x => { x with rndctr := x.rndctr + 1 }) = s.modCore s.curCore _ :=
        State.modMe_modMe s _ _
      rw [hmod]
      exact onlyCore_modCore s s.curCore _
    · rw [State.cx_modCx, hcx]; rfl
  · refine ⟨by rw [hme]; rfl, by rw [hme]; rfl, hmem, onlyCore_modCore s s.curCore fun c => c.fork s.curCtx s.newCopy, ?_⟩
    rw [hcx, add_zero]; rfl

/-! ### Answers of a home that performs a block -/

/-- A reply changes no core and no memory. -/
theorem reply_keeps (v : State) (i : Nat) (p : Packet) (st : Nat) (data : List Word) :
    (v.reply i p st data).cores = v.cores ∧ (v.reply i p st data).gmem = v.gmem := by
  have htake : (v.takePacket i p).cores = v.cores ∧ (v.takePacket i p).gmem = v.gmem := by
    unfold State.takePacket
    dsimp only
    split
    · split <;> exact ⟨rfl, rfl⟩
    · exact ⟨rfl, rfl⟩
  unfold State.reply
  dsimp only
  split <;> exact htake

/-- The requests of a block are answered. -/
def State.replies (v : State) (ps : List (Nat × Packet)) : State := ps.foldl (fun s (i, p) => s.reply i p 0 []) v

theorem replies_keeps (ps : List (Nat × Packet)) (v : State) : (v.replies ps).cores = v.cores ∧ (v.replies ps).gmem = v.gmem := by
  induction ps generalizing v with
  | nil => exact ⟨rfl, rfl⟩
  | cons e ps ih =>
    obtain ⟨hc, hg⟩ := ih (v.reply e.1 e.2 0 [])
    obtain ⟨kc, kg⟩ := reply_keeps v e.1 e.2 0 []
    exact ⟨hc.trans kc, hg.trans kg⟩

/-! ### The events of a copy -/

section
variable {cn : CoreNo} {id : BitVec 16} (hy : (s.core cn.toNat).copies.find? (fun o => o.id == id.toNat) = some y)
include hy

theorem mem_of_find : y ∈ (s.core cn.toNat).copies := List.mem_of_find?_eq_some hy

theorem exec_write_running (hp : y.phase = .running) : exec (.copyBlockWrite cn id) s =
    if s.copyHeld cn.toNat y then .refused .notEnabled else s.startBlock cn.toNat y := by
  show execCopyBlockWrite cn id s = _
  unfold execCopyBlockWrite
  dsimp only
  rw [hy]
  dsimp only
  rw [hp]

theorem exec_write_answered {st : Nat} {data : List Word} (hp : y.phase = .answered st data) :
    exec (.copyBlockWrite cn id) s = .next (s.copyAnswered cn.toNat y st data) := by
  show execCopyBlockWrite cn id s = _
  unfold execCopyBlockWrite
  dsimp only
  rw [hy]
  dsimp only
  rw [hp]

/-- A request for a line is answered with it (R110). -/
theorem exec_write_read {q i m k : Nat} {p : Packet} {ps : List (Nat × Packet)} (hp : y.phase = .waiting q)
    (hr : s.blockRequests cn.toNat y = (i, p) :: ps) (hb : p.body = .copyRead m k) :
    exec (.copyBlockWrite cn id) s = .next (s.reply i p 0 (lineData (s.farLine k))) := by
  show execCopyBlockWrite cn id s = _
  unfold execCopyBlockWrite
  dsimp only
  rw [hy]
  dsimp only
  rw [hp, hr]
  dsimp only
  rw [hb]

/-- The requests of a block that contributes to no record perform it, and are answered (R65, R132). -/
theorem exec_write_block {q i m : Nat} {p : Packet} {ps : List (Nat × Packet)} (hp : y.phase = .waiting q)
    (hr : s.blockRequests cn.toNat y = (i, p) :: ps) (hb : p.body = .copyBlock m) (hrec : y.recen = false) :
    exec (.copyBlockWrite cn id) s = .next ((s.copyBlock cn.toNat y).replies ((i, p) :: ps)) := by
  show execCopyBlockWrite cn id s = _
  unfold execCopyBlockWrite
  dsimp only
  rw [hy]
  dsimp only
  rw [hp, hr]
  dsimp only
  rw [hb]
  dsimp only
  unfold State.unlessUnfilled
  rw [hrec]
  rfl

/-- The part of a running copy begins with its translations (R391). -/
theorem exec_write_begins (hp : y.phase = .running) (hpages : y.pages = none) :
    exec (.copyBlockWrite cn id) s = .next (s.beginPart cn.toNat y) := by
  have hheld : s.copyHeld cn.toNat y = false := by unfold State.copyHeld; rw [hpages]; rfl
  rw [exec_write_running hy hp, hheld, State.startBlock, hpages]; rfl

/-- The requests of a running copy set out where there is room for them (R110, R136). -/
theorem exec_write_requests (hp : y.phase = .running) (hpages : y.pages ≠ none) (hready : y.recen = false ∨ (y.missing cn.toNat).isSome = true)
    (hreq : s.nextRequests cn.toNat y ≠ []) (hchoked : (s.core cn.toNat).choked = false)
    (hroom : ∀ e ∈ s.nextRequests cn.toNat y, (s.core cn.toNat).windowFull e.1.key = false) :
    exec (.copyBlockWrite cn id) s = .next (s.sendRequests cn.toNat y (s.nextRequests cn.toNat y)) := by
  have hheld := copyHeld_of_room (.inl hreq) (fun _ => hchoked) hroom
  have hsome : y.pages.isNone = false := by rwa [Option.isNone_eq_false_iff, Option.isSome_iff_ne_none]
  rw [exec_write_running hy hp, hheld, if_neg Bool.false_ne_true, State.startBlock, hsome, if_neg Bool.false_ne_true]
  split
  · next h => exact absurd h hreq
  · split
    · rfl
    · next hmissing =>
      have hrec : y.recen = false := hready.resolve_right hmissing
      unfold State.unlessUnfilled
      rw [hrec]; rfl

/-- A block that needs no packet is performed at once (R65). -/
theorem exec_write_here (hp : y.phase = .running) (hpages : y.pages ≠ none) (hrec : y.recen = false) (hacc : y.acc ≠ 5)
    (hreq : s.nextRequests cn.toNat y = []) : exec (.copyBlockWrite cn id) s = .next (s.copyBlock cn.toNat y) := by
  have hheld := copyHeld_of_room (s := s) (cn := cn.toNat) (.inr hacc) (fun h => absurd hreq h) (by rw [hreq]; exact nofun)
  have hsome : y.pages.isNone = false := by rwa [Option.isNone_eq_false_iff, Option.isSome_iff_ne_none]
  rw [exec_write_running hy hp, hheld, if_neg Bool.false_ne_true, State.startBlock, hsome, if_neg Bool.false_ne_true, hreq]
  dsimp only
  unfold State.unlessUnfilled
  rw [hrec]; rfl

/-! ### The completion (R66) -/

/-- The message of a completion. -/
def State.completionMsg (s : State) (cn : Nat) (y : CopyOp) (e : Nat) : Msg :=
  { chan := y.chan, tag := y.id, bytes := y.payload e, src := sourceId 2 (s.jobRank cn) cn, copy := some y.id }

/-- The copies of a core with copy y replaced by q, if that is one. -/
def Core.leave (c : Core) (y : CopyOp) (q : Option CopyOp) : Core :=
  { c with copies := c.copies.filterMap fun x => if x.id == y.id then q else some x }

/-- The core with the id of copy y pushed to q0. -/
def Core.pushId (c : Core) (y : CopyOp) : Core := { c with q0 := c.q0 ++ [.ofNat 64 y.id] }

/-- A stopped copy whose packets are answered completes as NOTE says. -/
theorem exec_finish {e : Nat} (hp : y.phase = .stopped e) (hfree : ∀ q ∈ (s.core cn.toNat).txs, q.copy ≠ some y.id)
    (hroom : y.note = 1 → (s.core cn.toNat).q0.length < 32) :
    let room := decide ((s.core cn.toNat).q0.length < 32)
    let u := if y.note != 1 then s.engineMsg cn.toNat (s.completionMsg cn.toNat y e) else s
    let v := if y.note != 0 && room then u.modCore cn.toNat fun c => c.pushId y else u
    exec (.copyCompletion cn id) s = .next (v.modCore cn.toNat fun c => c.leave y (y.deliver (y.note != 0 && !room) (y.note != 1))) := by
  have hbusy : ((s.core cn.toNat).txs.any (fun t => t.copy == some y.id) ||
      (!(y.note != 1) && !decide ((s.core cn.toNat).q0.length < 32))) = false := by
    rw [Bool.or_eq_false_iff]
    refine ⟨List.any_eq_false.mpr fun q hq => by simpa using hfree q hq, ?_⟩
    by_cases h : y.note = 1
    · rw [decide_eq_true (hroom h)]; simp
    · simp [h]
  show execCopyCompletion cn id s = _
  unfold execCopyCompletion
  dsimp only
  rw [hy]
  dsimp only
  rw [hp]
  dsimp only
  rw [hbusy]
  rfl

end

end Sys2Proof.Machine
end

section
/-! SUPPORT. What the events of a copy answer (R65, R66, R69, R391): O47. -/

namespace Sys2Proof.Machine

variable {s : State} {y : CopyOp} {i : Instr}

/-- A copy that has stopped or gone on, behind what its home still sends. -/
theorem Stops.after {cn : Nat} {t u : State} {z : CopyOp} (h : Stops s t cn z) (hu : u.cores = t.cores ∧ u.gmem = t.gmem) :
    MemSame s u ∧ z ∈ (u.core cn).copies := by
  obtain ⟨hc, hg⟩ := hu
  refine ⟨MemSame.trans h.mem (memSame_of_fields hc hg), ?_⟩
  rw [State.core, hc]
  exact h.now

/-- The bytes bs stand at the cells ds, and every other byte of memory is as before. -/
def Moves (s t : State) (ds : List (Nat × Nat)) (bs : List Byte) : Prop :=
  (∀ k e, ds[k]? = some e → Memory.byte (t.core e.1).mem e.2 = bs.getD k 0) ∧
  (∀ j a, (j, a) ∉ ds → Memory.byte (t.core j).mem a = Memory.byte (s.core j).mem a) ∧
  ∀ a, Memory.byte t.gmem a = Memory.byte s.gmem a

section
variable {cn : Nat} {f : State → State} (hexec : exec i s = .next (f (s.copyBlock cn y)))
  (hf : ∀ v, (f v).cores = v.cores ∧ (f v).gmem = v.gmem) (hy : y ∈ (s.core cn).copies)
include hexec hf hy

/-- An event that performs the next block of a plain copy: which bytes it moves, and where it stops instead (R65, R69). -/
theorem performs_of_copyBlock {more : State → Prop} (hmore : ∀ v, v.nextPkt = s.nextPkt → more (f v)) (hrec : y.recen = false)
    (hplain : y.plain = true) (hacc : y.acc = 0) :
    (∀ ds bs, (s.plan cn y).src = bs.map some → (s.plan cn y).dst = .cells ds → bs.length = ds.length → ds.Nodup →
      s.writeBad (s.plan cn y).dst = none → s.siteRefuses (s.plan cn y).dst false = false →
      Answers i s fun t => more t ∧ Moves s t ds bs ∧ s.past y (y.advanced (s.plan cn y).n bs) ∈ (t.core cn).copies) ∧
    ∀ j, (s.plan cn y).src.findIdx? (fun e => e.isNone) = some j → Answers i s fun t => more t ∧ MemSame s t ∧
      { y with phase := .stopped 1 } ∈ (t.core cn).copies ∧
      ∀ m a, y.cell cn (y.srcPtr y.row + .ofNat 64 (y.off + j)) = some (m, a) →
        (t.core m).trap.hwUnc = (s.core m).trap.hwUnc + 1 := by
  obtain ⟨hc, hg⟩ := hf (s.copyBlock cn y)
  have hcore : ∀ j, (f (s.copyBlock cn y)).core j = (s.copyBlock cn y).core j := fun j => by rw [State.core, hc]; rfl
  refine ⟨fun ds bs hsrc hdst hlen hnodup hbad hok => ?_, fun j hj => ?_⟩
  · obtain ⟨⟨hval, hframe, hgmem⟩, hnow, hpkt⟩ := copyBlock_moves hy hacc hplain hrec hsrc hdst hlen hnodup hbad hok
    refine ⟨_, hexec, hmore _ hpkt, ⟨fun k e he => ?_, fun j a ha => ?_, fun a => ?_⟩, ?_⟩
    · rw [hcore]; exact hval k e he
    · rw [hcore]; exact hframe j a ha
    · rw [hg]; exact hgmem a
    · rw [hcore]; exact hnow
  · obtain ⟨hstop, hcount⟩ := copyBlock_breaks hy hplain hj
    obtain ⟨hmem, hnow⟩ := hstop.after ⟨hc, hg⟩
    exact ⟨_, hexec, hmore _ hstop.nextPkt, hmem, hnow, fun m a h => by rw [hcore]; exact hcount m a h⟩

/-- An event that performs the next block of a copy whose write is refused, or whose side entries cannot be written (R69, R429). -/
theorem leavesAll_of_copyBlock (hacc : y.acc = 0) (hsome : ∀ e ∈ (s.plan cn y).src ++ (s.plan cn y).srcSide, e.isSome = true)
    (hbad : s.writeBad (s.plan cn y).dst = none) :
    (∀ j, s.writeBad (s.plan cn y).dstSide = some j → Answers i s fun t => MemSame s t ∧ { y with phase := .stopped 1 } ∈ (t.core cn).copies) ∧
    (s.writeBad (s.plan cn y).dstSide = none →
      s.siteRefuses (s.plan cn y).dst false = true ∨ s.siteRefuses (s.plan cn y).dstSide false = true →
      Answers i s fun t => MemSame s t ∧ { y with phase := .stopped 4 } ∈ (t.core cn).copies) := by
  obtain ⟨hside, hrefuse⟩ := copyBlock_stops hy hacc hsome hbad
  exact ⟨fun j hj => ⟨_, hexec, (hside j hj).after (hf _)⟩, fun h hr => ⟨_, hexec, (hrefuse h hr).after (hf _)⟩⟩

end

/-- A copy that goes on with the line of byte k if it waits for sequence n. -/
def CopyOp.receives (o : CopyOp) (n k : Nat) (data : List Word) : CopyOp :=
  if o.phase = .waiting n then { o with phase := .running, lines := SMap.put o.lines (k / 64) (dataLine data) } else o

/-- A line that a copy waits for arrives (R110). -/
theorem transactionCompletion_copyRead {cn i m k h : Nat} {p : Packet} {x : Tx} {data : List Word} (hy : y ∈ (s.core cn).copies)
    (hp : s.packet i = some p) (hcn : p.cn = cn) (hm : p.marked = false) (hhome : p.home = .core h) (hbody : p.body = .reply 0 data)
    (htx : s.txOf p = some x) (hfetch : x.fetch = false) (hticket : x.ticketed = false) (hkind : x.kind = 4) (hctx : x.ctx ≠ 13)
    (hcopy : x.copy = some y.id) (hread : x.body = .copyRead m k) (hphase : y.phase = .waiting x.seq) :
    Answers (.transactionCompletion i) s fun t =>
      MemSame s t ∧ { y with phase := .running, lines := SMap.put y.lines (k / 64) (dataLine data) } ∈ (t.core cn).copies := by
  have hwaits : s.fillWaits p.cn x = false := by
    unfold State.fillWaits
    rw [hread]
    split
    · next h _ => exact absurd h hctx
    · rfl
  have htake : s.takeReply i p = { s with net := SMap.del s.net i } := by
    unfold State.takeReply
    rw [hm]; rfl
  have hfinish : ∀ v : State, v.finishTx p.cn 0 x data = v.modCore p.cn fun c => c.copyData x data := by
    intro v
    unfold State.finishTx
    rw [hticket, hkind, hcopy, if_neg Bool.false_ne_true, if_neg hctx]; rfl
  have hexec : exec (.transactionCompletion i) s =
      .next ((({ s with net := SMap.del s.net i } : State).modCore p.cn fun c => c.completeTx x.seq).modCore p.cn fun c => c.copyData x data) := by
    show execTransactionCompletion i s = _
    unfold execTransactionCompletion
    rw [hp]
    dsimp only
    rw [hhome, hbody, htx]
    dsimp only
    rw [hfetch, hwaits, htake, hfinish]
    rfl
  have hdata : ∀ c : Core, c.copyData x data = { c with copies := c.copies.map fun o => o.receives x.seq k data } := by
    intro c
    unfold Core.copyData
    rw [hread]; rfl
  subst hcn
  have hsettle := Settles.completeTx ({ s with net := SMap.del s.net i } : State) p.cn x.seq
  refine ⟨_, hexec, MemSame.trans hsettle.memSame (memSame_modCore _ _ (by rw [hdata])), ?_⟩
  rw [State.core_modCore_same, State.core_modCore_same, hdata]
  refine List.mem_map.mpr ⟨y, ?_, if_pos hphase⟩
  obtain ⟨hrest, -⟩ := Core.completeTx_spec (s.core p.cn) x.seq
  show y ∈ ((s.core p.cn).completeTx x.seq).copies
  rw [hrest]
  exact hy

/-- An event that suspends a copy, behind translations (R391, R393). -/
theorem suspends_of_suspendCopy {cn va : Nat} {e : Xlated} {write : Bool} {u : State} (hu : OnlyCaches s u)
    (hexec : exec i s = .next (u.suspendCopy cn y va e write)) (hy : y ∈ (s.core cn).copies) :
    Answers i s fun t => MemSame s t ∧ { y with phase := .suspended, pages := none, lines := [] } ∈ (t.core cn).copies ∧
      (((s.core cn).trap.queue.filter fun q => !keptCause q.cause).length < 12 → ∃ r : FaultRec,
        (t.core cn).trap.queue = (s.core cn).trap.queue ++ [r] ∧ r.addr = .ofNat 64 va ∧ r.info0 = y.block ∧
        r.info1 = (if write then 1 else 0) ∧ r.opid = y.report.opid ∧ r.cause = xlateCause e) := by
  have hcopies : (u.core cn).copies = (s.core cn).copies := by rw [hu.cores]
  have htrap : (u.core cn).trap = (s.core cn).trap := by rw [hu.cores]
  obtain ⟨hstop, hqueue⟩ := suspendCopy_spec (hcopies ▸ hy) va e write
  rw [htrap] at hqueue
  exact ⟨_, hexec, MemSame.trans hu.memSame hstop.mem, hstop.now, hqueue⟩

/-! ### Completion -/

section
variable {cn : CoreNo} {id : BitVec 16} {e : Nat} (hy : (s.core cn.toNat).copies.find? (fun o => o.id == id.toNat) = some y)
  (hp : y.phase = .stopped e) (hfree : ∀ q ∈ (s.core cn.toNat).txs, q.copy ≠ some y.id)
include hy hp hfree

/-- NOTE = 1: the id is pushed, and the copy is gone (R66). -/
theorem finish_pushes (hnote : y.note = 1) (hroom : (s.core cn.toNat).q0.length < 32) : Answers (.copyCompletion cn id) s fun t =>
    MemSame s t ∧ OnlyCore s t cn.toNat ∧ (t.core cn.toNat).q0 = (s.core cn.toNat).q0 ++ [.ofNat 64 y.id] ∧
    ∀ z, z ∈ (t.core cn.toNat).copies ↔ z ∈ (s.core cn.toNat).copies ∧ z.id ≠ y.id := by
  have hexec : exec (.copyCompletion cn id) s = .next (s.modCore cn.toNat fun c => (c.pushId y).leave y none) := by
    rw [exec_finish hy hp hfree fun _ => hroom, hnote, decide_eq_true hroom]
    exact congrArg Host.Outcome.next (State.modCore_modCore s cn.toNat (fun c => c.pushId y) fun c => c.leave y none)
  refine ⟨_, hexec, memSame_modCore s _ rfl, onlyCore_modCore s _ _, by rw [State.core_modCore_same]; rfl, fun z => ?_⟩
  rw [State.core_modCore_same]
  show z ∈ (s.core cn.toNat).copies.filterMap _ ↔ _
  rw [List.mem_filterMap]
  constructor
  · rintro ⟨x, hx, h⟩
    split at h
    · cases h
    · next hne => cases h; exact ⟨hx, by simpa using hne⟩
  · rintro ⟨hz, hne⟩
    exact ⟨z, hz, if_neg (by simpa using hne)⟩

/-- NOTE = 0 or 2: the message sets out, and with NOTE = 2 the id is pushed where it has room (R66). -/
theorem finish_messages (hnote : y.note = 0 ∨ y.note = 2) : Answers (.copyCompletion cn id) s fun t =>
    MemSame s t ∧ (∃ p : Packet, t.net = SMap.put s.net s.nextPkt p ∧ p.home = .core cn.toNat ∧
      p.body = .message (s.completionMsg cn.toNat y e)) ∧
    (y.note = 0 → (t.core cn.toNat).q0 = (s.core cn.toNat).q0 ∧ { y with phase := .delivering false true } ∈ (t.core cn.toNat).copies) ∧
    (y.note = 2 → (s.core cn.toNat).q0.length < 32 → (t.core cn.toNat).q0 = (s.core cn.toNat).q0 ++ [.ofNat 64 y.id]) := by
  have hone : y.note ≠ 1 := by rcases hnote with h | h <;> rw [h] <;> decide
  have hexec := exec_finish hy hp hfree fun h => absurd h hone
  generalize hroom : decide ((s.core cn.toNat).q0.length < 32) = room at hexec
  have hmsg : (y.note != 1) = true := by simpa using hone
  dsimp only at hexec
  rw [hmsg, if_pos rfl] at hexec
  have hsent := memSame_of_fields (s := s) (t := s.engineMsg cn.toNat (s.completionMsg cn.toNat y e)) rfl rfl
  have hcore : (s.engineMsg cn.toNat (s.completionMsg cn.toNat y e)).core cn.toNat = s.core cn.toNat := rfl
  by_cases hpush : (y.note != 0 && room) = true
  · rw [if_pos hpush, State.modCore_modCore] at hexec
    have hzero : y.note ≠ 0 := by simpa using (Bool.and_eq_true_iff.mp hpush).1
    refine ⟨_, hexec, MemSame.trans hsent (memSame_modCore _ _ rfl), ⟨_, rfl, rfl, rfl⟩, fun h => absurd h hzero, fun _ _ => ?_⟩
    rw [State.core_modCore_same, hcore]; rfl
  · rw [if_neg hpush] at hexec
    refine ⟨_, hexec, MemSame.trans hsent (memSame_modCore _ _ rfl), ⟨_, rfl, rfl, rfl⟩, fun h => ⟨?_, ?_⟩, fun h hlt => ?_⟩
    · rw [State.core_modCore_same, hcore]; rfl
    · rw [State.core_modCore_same, hcore]
      refine List.mem_filterMap.mpr ⟨y, mem_of_find hy, ?_⟩
      rw [if_pos (beq_self_eq_true _), h]; rfl
    · exact absurd (by rw [← hroom, decide_eq_true hlt, h]; rfl) hpush

end

end Sys2Proof.Machine

namespace Sys2Proof

open Machine

/-- Settles O47: the start, each kind of part and the completion of a copy, from what their events answer. -/
theorem copies : Obligations.Copies := by
  intro st d cn id y s x o c go write finish slk
  refine ⟨fun h => if_pos h, fun hroom => ⟨fun f hf => ?_, fun hnone => ?_⟩, fun hy => ⟨?_, fun e hp hfree => ⟨?_, ?_⟩⟩, dataLine_lineBytes⟩
  · show exec go s = _
    rw [execCopyGo_room st d hroom, State.check, hf]
  · obtain ⟨hcopies, hnext, hmem, honly, hrnd⟩ := started_spec s
    refine ⟨s.started, s.newCopy, givesGAfter_of_result (st := st) (l := 0) ?_, hcopies, hnext, hmem, honly, rfl, rfl, rfl, rfl, rfl, rfl, rfl, rfl, rfl, rfl, rfl,
      rfl, rfl, rfl, rfl, rfl, hrnd⟩
    rw [execCopyGo_room st d hroom, State.check, hnone]
  · have hmem := mem_of_find hy
    intro sp records kept now room suspends moves b performs leavesAll sent opened at_
    have source : y.plain = true → b.n = sp.n ∧ b.src.length = sp.n ∧ ∀ j < sp.n,
        b.src.getD j none = s.copyByte cn.toNat y (y.srcPtr y.row + .ofNat 64 (y.off + j)) := fun hplain =>
      ⟨rfl, by rw [show b.src = _ from plan_src hplain]; simp [sp], fun j hj => getD_plan_src hplain hj⟩
    refine ⟨?_, fun k => nextRequests_missing, fun hm hacc => nextRequests_farDsts hm hacc, ?_, ?_, ?_, ?_, ?_⟩
    · intro hp hpages
      have hexec := exec_write_begins hy hp hpages
      unfold State.beginPart at hexec
      refine ⟨fun va e w u hu => ?_, fun m u hu => ⟨has_translatePart hu, ?_⟩⟩
      · rw [hu] at hexec
        exact suspends_of_suspendCopy (copies_translatePart hu).1 hexec hmem
      · rw [hu] at hexec
        obtain ⟨hcaches, hcopies, -⟩ := copies_translatePart hu
        exact ⟨_, hexec, MemSame.trans hcaches.memSame (memSame_setCopy u _ _), mem_setCopy (y := y) (hcopies ▸ hmem) rfl⟩
    · intro hp hpages
      refine ⟨fun hready hchoked hroom => ⟨fun e he => ?_, fun d e he => ?_⟩, fun hreq hrec hacc => ?_⟩
      · have hexec := exec_write_requests hy hp hpages hready (by rw [he]; exact List.cons_ne_nil _ _) hchoked hroom
        rw [he] at hexec
        exact ⟨_, hexec, sendRequests_one hmem e⟩
      · have hexec := exec_write_requests hy hp hpages hready (by rw [he]; exact List.cons_ne_nil _ _) hchoked hroom
        rw [he] at hexec
        exact ⟨_, hexec, sendRequests_two hmem d e⟩
      · have hexec := exec_write_here hy hp hpages hrec hacc hreq
        refine ⟨fun hplain hacc => ⟨source hplain, ?_⟩, fun _ hacc hsome hbad => ?_⟩
        · exact performs_of_copyBlock (f := fun v => v) hexec (fun _ => ⟨rfl, rfl⟩) hmem (fun _ _ => trivial) hrec hplain hacc
        · exact leavesAll_of_copyBlock (f := fun v => v) hexec (fun _ => ⟨rfl, rfl⟩) hmem hacc hsome hbad
    · intro q i p ps hp hr
      refine ⟨fun m k hb hm hremote => ?_, fun m hb hrec hacc => ?_⟩
      · have hcores : (s.reply i p 0 (lineData (s.farLine k))).cores = s.cores := cores_reply hremote hm
        exact ⟨_, exec_write_read hy hp hr hb, memSame_reply hremote hm ⟨fun _ _ => rfl, fun _ => rfl⟩, replied_reply hremote hm (Nat.le_refl _),
          by rw [State.core, hcores]; rfl⟩
      · have hexec := exec_write_block hy hp hr hb hrec
        refine ⟨fun _ hacc hsome hbad => ?_, fun hps hm hremote hplain hacc => ⟨source hplain, ?_⟩⟩
        · exact leavesAll_of_copyBlock hexec (replies_keeps _) hmem hacc hsome hbad
        · subst hps
          exact performs_of_copyBlock (f := fun v => v.replies [(i, p)]) hexec (replies_keeps _) hmem
            (fun v hv => replied_reply (v := v) (i := i) hremote hm (Nat.le_of_eq hv.symm)) hrec hplain hacc
    · intro i p x h m k data hp hcn hm hhome hbody htx hfetch hticket hkind hctx hcopy hread hphase
      exact transactionCompletion_copyRead hmem hp hcn hm hhome hbody htx hfetch hticket hkind hctx hcopy hread hphase
    · intro data hp
      exact ⟨_, exec_write_answered hy hp, memSame_setCopy s _ _, mem_setCopy hmem (id_advanced y _ _)⟩
    · intro data hp
      exact suspends_of_suspendCopy (OnlyCaches.refl s) (exec_write_answered hy hp) hmem
  · exact fun hnote hroom => finish_pushes hy hp hfree hnote hroom
  · exact fun hnote => finish_messages hy hp hfree hnote

end Sys2Proof
end

section
/-! SUPPORT. Instructions that write registers and add flags (R88, R212), and the elements of a vector register (R209, R210, R265). -/

namespace Sys2Proof.Machine

variable {i : Instr} {s : State} {st : BitVec 3} {g : Ctx → Ctx} {keys fs : List Nat} {fl : Nat}

/-! ### Registers written -/

/-- The context y is x with registers written: every register that the keys do not name reads as before. -/
structure Ctx.Writes (x y : Ctx) (keys : List Nat) : Prop where
  rest : y = { x with g := y.g, v := y.v, p := y.p, e := y.e, b := y.b, bad := y.bad, ready := y.ready }
  g : ∀ n, keyG n ∉ keys → y.rg n = x.rg n
  v : ∀ n, keyV n ∉ keys → SMap.get 0 y.v n = SMap.get 0 x.v n
  p : ∀ n, keyP n ∉ keys → y.rp n = x.rp n
  e : ∀ n, keyE n ∉ keys → SMap.get 0 y.e n = SMap.get 0 x.e n
  b : ∀ n, keyB n ∉ keys → SMap.get 0 y.b n = SMap.get 0 x.b n

theorem Ctx.writes_wg (x : Ctx) (n : Nat) (w : Word) (l : Nat) : x.Writes ((x.wg n w).written (keyG n) l) [keyG n] where
  rest := by unfold Ctx.wg; split <;> rfl
  g m h := by
    have hm : m ≠ n := fun hm => h (by rw [hm]; exact List.mem_singleton_self _)
    rw [Ctx.rg_written, Ctx.rg_wg, if_neg hm]
  v _ _ := by simp
  p _ _ := by simp
  e _ _ := by simp
  b _ _ := by simp

theorem Ctx.writes_wp (x : Ctx) (n : Nat) (w : Word) (l : Nat) : x.Writes ((x.wp n w).written (keyP n) l) [keyP n] where
  rest := by unfold Ctx.wp; split <;> rfl
  g _ _ := by simp
  v _ _ := by simp
  p m h := by
    have hm : m ≠ n := fun hm => h (by rw [hm]; exact List.mem_singleton_self _)
    rw [Ctx.rp_written, Ctx.rp_wp, if_neg hm]
  e _ _ := by simp
  b _ _ := by simp

/-- Neither a register's error nor the obligation of its producer is a register. -/
theorem Ctx.Writes.marked {x y : Ctx} (h : x.Writes y keys) (bad : List Nat) (ready : SMap Nat) :
    x.Writes { y with bad := bad, ready := ready } keys :=
  ⟨by rw [h.rest], h.g, h.v, h.p, h.e, h.b⟩

theorem Ctx.writes_merged_wp (x : Ctx) (n : Nat) (w : Word) (l : Nat) : x.Writes ((x.wp n w).merged (keyP n) l) [keyP n] :=
  (x.writes_wp n w l).marked _ _

theorem Ctx.writes_v (x : Ctx) (n : Nat) (w : VReg) : x.Writes { x with v := SMap.put x.v n w } [keyV n] where
  rest := rfl
  g _ _ := rfl
  v m h := SMap.get_put_other _ _ _ fun hm => h (by rw [hm]; exact List.mem_singleton_self _)
  p _ _ := rfl
  e _ _ := rfl
  b _ _ := rfl

theorem Ctx.writes_putLanes (x : Ctx) (n : Nat) (w : VReg) (l : Nat) (kept : Nat → Bool) : x.Writes (x.putLanes n w l kept) [keyV n] := by
  unfold Ctx.putLanes
  dsimp only
  split
  · exact (x.writes_v n w).marked _ _
  · exact (x.writes_v n w).marked _ _

theorem Ctx.v_putLanes (x : Ctx) (n : Nat) (w : VReg) (l : Nat) (kept : Nat → Bool) : (x.putLanes n w l kept).v = SMap.put x.v n w := by
  unfold Ctx.putLanes
  dsimp only
  split <;> rfl

/-- An instruction that writes registers and retires. -/
theorem changesRegs_of_writes (h : s.cx.Writes (g s.cx) keys) (len stl : Nat) : ChangesRegs s ((s.modCx g).retire len stl) len keys := by
  unfold State.retire
  rw [State.modCx_modCx]
  obtain ⟨hrest, hg, hv, hp, he, hb⟩ := h
  have hpc : (g s.cx).pc = s.cx.pc := by rw [hrest]
  have hstat : (g s.cx).stat = s.cx.stat := by rw [hrest]
  have hpfx : (g s.cx).pfx = s.cx.pfx := by rw [hrest]
  refine changesRegs_modCx s _ len keys ?_ ?_ ?_ rfl ?_ ?_ hg hv hp he hb
  · generalize g s.cx = y at hrest; unfold CtxRest; rw [hrest]; rfl
  · rw [Ctx.goto_pc, hpc]
  · rw [Ctx.goto_pfx, Ctx.pp, Ctx.pp, hstat, hpfx]
  · rw [Ctx.goto_stat, hstat]
  · rw [Ctx.goto_rndctr, hrest]

/-! ### Flags (R88) -/

theorem fld_one_eq_testBit (x k : Nat) : (fld x k 1 == 1) = x.testBit k := by
  rw [Nat.testBit_eq_decide_div_mod_eq, fld]; rfl

theorem wbit_or_flags (w : Word) (f : Nat) {k : Nat} (hk : k < 64) :
    wbit (w ||| .ofNat 64 (f % 64)) k = (wbit w k || (decide (k < 6) && f.testBit k)) := by
  have h6 : (f % 64).testBit k = (decide (k < 6) && f.testBit k) := Nat.testBit_mod_two_pow f 6 k
  rw [wbit_eq_getLsbD, wbit_eq_getLsbD, BitVec.getLsbD_or, BitVec.getLsbD_ofNat, h6, decide_eq_true hk, Bool.true_and]

/-- STAT with flags added when its instruction retires. -/
theorem wbit_clearPend_flags (w : Word) (f : Nat) {k : Nat} (hk : k < 64) :
    wbit (clearPend (w ||| .ofNat 64 (f % 64))) k =
      if k < 6 then wbit w k || f.testBit k else wbit w k && k != 14 && k != 15 := by
  rw [wbit_clearPend _ _ hk, wbit_or_flags _ _ hk]
  by_cases h6 : k < 6
  · rw [if_pos h6, decide_eq_true h6, Bool.true_and, bne_iff_ne.mpr (by omega : k ≠ 14), bne_iff_ne.mpr (by omega : k ≠ 15), Bool.and_true,
      Bool.and_true]
  · rw [if_neg h6, decide_eq_false h6, Bool.false_and, Bool.or_false]

/-- The context of an instruction that has written its registers: flags added, retired, RNDCTR advanced in a stochastic mode (R83). -/
def Ctx.rounded (x : Ctx) (fl m stl : Nat) : Ctx :=
  let y := (x.flag fl).goto (x.pc + .ofNat 64 4) stl
  { y with rndctr := y.rndctr + .ofNat 64 (if stochastic m then 1 else 0) }

@[simp] theorem Ctx.rg_rounded (x : Ctx) (fl m stl n : Nat) : (x.rounded fl m stl).rg n = x.rg n := rfl
@[simp] theorem Ctx.rounded_v (x : Ctx) (fl m stl : Nat) : (x.rounded fl m stl).v = x.v := rfl

theorem advanced_flag_done (s : State) (g : Ctx → Ctx) (fl m : Nat) (st : BitVec 3) :
    State.advanced (((s.modCx g).flag fl).done st) m = .next (s.modCx fun x => (g x).rounded fl m st.toNat) := by
  have hdone : ((s.modCx g).flag fl).done st = .next (s.modCx fun x => ((g x).flag fl).goto ((g x).pc + .ofNat 64 4) st.toNat) := by
    unfold State.done State.retire State.flag
    rw [State.modCx_modCx, State.modCx_modCx]
    rfl
  rw [hdone]
  unfold State.advanced State.advance Ctx.rounded
  dsimp only
  split
  · rw [State.modCx_modCx]; rfl
  · simp only [BitVec.add_zero]

theorem advanced_zero (o : Out) : State.advanced o 0 = o := by cases o <;> rfl

/-- An instruction that writes registers, adds flags and rounds. -/
theorem changesFlagged_rounded (h : s.cx.Writes (g s.cx) keys) (hfl : ∀ k, fl.testBit k = fs.any fun f => f.testBit k) (m stl : Nat) :
    ChangesFlagged s (s.modCx fun x => (g x).rounded fl m stl) keys fs (if stochastic m then 1 else 0) := by
  obtain ⟨hrest, hg, hv, hp, he, hb⟩ := h
  have hpc : (g s.cx).pc = s.cx.pc := by rw [hrest]
  have hstat : (g s.cx).stat = s.cx.stat := by rw [hrest]
  have hpfx : (g s.cx).pfx = s.cx.pfx := by rw [hrest]
  have hrnd : (g s.cx).rndctr = s.cx.rndctr := by rw [hrest]
  have hcx := State.cx_modCx s fun x => (g x).rounded fl m stl
  refine ⟨onlyContext_modCx s _, ?_, ?_, ⟨fun n hn => ?_, fun n hn => ?_, fun n hn => ?_, fun n hn => ?_, fun n hn => ?_⟩, fun k hk => ?_, ?_⟩
  · rw [hcx]; generalize g s.cx = y at hrest; unfold CtxRest; rw [hrest]; rfl
  · rw [Retired, hcx]
    refine ⟨congrArg (· + _) hpc, ?_, rfl⟩
    show (if wbit ((g s.cx).stat ||| _) 14 = true then (0 : BitVec 14) else (g s.cx).pfx) = _
    rw [hstat, hpfx, wbit_or_flags _ _ (by decide), Ctx.pp]
    simp
  · rw [readG_modCx]; exact hg _ hn
  · rw [readV_modCx]; exact hv _ hn
  · rw [readP_modCx]; exact hp _ hn
  · rw [readE_modCx]; exact he _ hn
  · rw [readB_modCx]; exact hb _ hn
  · have hstat' : (s.modCx fun x => (g x).rounded fl m stl).cx.stat = clearPend (s.cx.stat ||| .ofNat 64 (fl % 64)) := by
      rw [hcx, ← hstat]; rfl
    rw [hstat', wbit_clearPend_flags _ _ hk, hfl]
    simp only [fld_one_eq_testBit]
  · rw [hcx, ← hrnd]; rfl

/-- The union of the flags of some elements. -/
theorem testBit_allFlags (rs : List (Nat × Nat)) (k : Nat) : (allFlags rs).testBit k = rs.any fun r => r.2.testBit k := by
  have h : ∀ f, (rs.foldl (fun a x => orFlags a x.2) f).testBit k = (f.testBit k || rs.any fun r => r.2.testBit k) := by
    induction rs with
    | nil => simp
    | cons r rs ih => intro f; rw [List.foldl_cons, ih, orFlags, Nat.testBit_or, List.any_cons, Bool.or_assoc]
  rw [allFlags, h, Nat.zero_testBit, Bool.false_or]

/-- The flags of elements come from the active ones (R265). -/
theorem testBit_allFlags_active (n : Nat) (act : Nat → Bool) (op : Nat → Nat × Nat) (k : Nat) :
    (allFlags ((List.range n).map fun j => if act j then op j else (0, 0))).testBit k =
      (((List.range n).filter act).map fun j => (op j).2).any fun f => f.testBit k := by
  rw [testBit_allFlags, List.any_map, List.any_map, List.any_filter]
  congr 1
  funext j
  cases h : act j <;> simp [h]

/-! ### Elements of a register (R209) -/

theorem lane_lt (w v k : Nat) : lane w v k < 2 ^ w := Nat.mod_lt _ (by positivity)

theorem foldr_pack_lt (w : Nat) (xs : List Nat) : xs.foldr (fun x a => x % 2 ^ w + a * 2 ^ w) 0 < 2 ^ (w * xs.length) := by
  induction xs with
  | nil => simp
  | cons x xs ih =>
    have hx : x % 2 ^ w < 2 ^ w := Nat.mod_lt _ (by positivity)
    rw [List.foldr_cons, List.length_cons, Nat.mul_succ, pow_add]
    have := Nat.mul_le_mul_right (2 ^ w) (Nat.succ_le_of_lt ih)
    rw [Nat.succ_mul] at this
    omega

theorem lane_foldr_pack (w : Nat) (xs : List Nat) (k : Nat) :
    lane w (xs.foldr (fun x a => x % 2 ^ w + a * 2 ^ w) 0) k = xs.getD k 0 % 2 ^ w := by
  induction xs generalizing k with
  | nil => simp [lane]
  | cons x xs ih =>
    have hx : x % 2 ^ w < 2 ^ w := Nat.mod_lt _ (by positivity)
    rw [List.foldr_cons]
    cases k with
    | zero => rw [lane, Nat.mul_zero, pow_zero, Nat.div_one, Nat.add_mul_mod_self_right, Nat.mod_mod, List.getD_cons_zero]
    | succ k =>
      rw [List.getD_cons_succ, ← ih, lane, lane, Nat.mul_succ, Nat.add_comm (w * k), pow_add, ← Nat.div_div_eq_div_mul,
        Nat.add_mul_div_right _ _ (by positivity), Nat.div_eq_of_lt hx, Nat.zero_add]

/-- Elements packed into a register read back (R209). -/
theorem lane_packLanes {w : Nat} {xs : List Nat} (h : w * xs.length ≤ 2048) (k : Nat) :
    lane w (packLanes w xs).toNat k = xs.getD k 0 % 2 ^ w := by
  have hlt := (foldr_pack_lt w xs).trans_le (Nat.pow_le_pow_right (by decide) h)
  rw [packLanes, BitVec.toNat_ofNat, Nat.mod_eq_of_lt hlt, lane_foldr_pack]

theorem getD_map_range {α : Type} (f : Nat → α) (n k : Nat) (x : α) : ((List.range n).map f).getD k x = if k < n then f k else x := by
  by_cases h : k < n <;> simp [List.getD_eq_getElem?_getD, h]

theorem mul_length_map_range_le (w n : Nat) (f : Nat → Nat) (h : n ≤ 2048 / w) : w * ((List.range n).map f).length ≤ 2048 := by
  rw [List.length_map, List.length_range]
  exact (Nat.mul_le_mul_left w h).trans (Nat.mul_div_le 2048 w)

/-- A v result whose elements are put together, with the flags of its elements. -/
theorem putLanes_gives {d : BitVec 5} {v : VReg} {l m : Nat} {kept : Nat → Bool}
    (h : exec i s = State.advanced (((s.modCx fun c => c.putLanes d.toNat v l kept).flag fl).done st) m)
    (hfl : ∀ k, fl.testBit k = fs.any fun f => f.testBit k) : GivesVFlagged i s d v fs (if stochastic m then 1 else 0) := by
  rw [advanced_flag_done] at h
  refine ⟨_, h, ?_, changesFlagged_rounded (g := fun c => c.putLanes d.toNat v l kept) (s.cx.writes_putLanes _ _ _ _) hfl m _⟩
  rw [readV_modCx, Ctx.rounded_v, Ctx.v_putLanes, SMap.get_put_same]

/-- An element-wise instruction (R265), with the advance of RNDCTR that its mode asks for. -/
theorem givesLanes_of_advanced {d : BitVec 5} {p : BitVec 3} {z : BitVec 1} {w l m : Nat} {op : Nat → Nat × Nat}
    (h : exec i s = State.advanced (s.lanewise st d p z w l op) m) : GivesLanes i s d p z w (if stochastic m then 1 else 0) op := by
  obtain ⟨t, ht, hv, hc⟩ := putLanes_gives h (testBit_allFlags_active (2048 / w) (s.active p w) op)
  refine ⟨t, ht, fun k hk => ?_, hc⟩
  rw [hv, lane_packLanes (mul_length_map_range_le w _ _ le_rfl), getD_map_range, if_pos hk]
  show (if s.active p w k then _ else _) % 2 ^ w = _
  split
  · next hact => dsimp only; rw [getD_map_range, if_pos hk, if_pos hact]
  · split
    · exact Nat.zero_mod _
    · exact Nat.mod_eq_of_lt (lane_lt _ _ _)

/-- An element-wise instruction that does not round. -/
theorem givesLanes_of_lanewise {d : BitVec 5} {p : BitVec 3} {z : BitVec 1} {w l : Nat} {op : Nat → Nat × Nat}
    (h : exec i s = s.lanewise st d p z w l op) : GivesLanes i s d p z w 0 op :=
  givesLanes_of_advanced (m := 0) (h.trans (advanced_zero _).symm)

end Sys2Proof.Machine
end

section
/-! SUPPORT. Element widths, element-wise results and predicate results (R264, R265, R284), the random bits of R282 and R283: O23. -/

namespace Sys2Proof.Machine

variable {i : Instr} {s : State} {st : BitVec 3} {p : BitVec 3} {z : BitVec 1}

/-! ### Widths (R264) -/

theorem iw_dvd (s : State) : s.iw ∈ [8, 16, 32, 64] := by
  have hlt : fld s.atIssue.fmt.toNat 8 2 < 4 := fld_lt _ 8 2
  unfold State.iw
  interval_cases fld s.atIssue.fmt.toNat 8 2 <;> decide

theorem fmtBits_int {f : Nat} (h : isInt f = true) : fmtBits f ∈ [8, 16, 32, 64] := by
  obtain ⟨hlo, hhi⟩ : 10 ≤ f ∧ f ≤ 15 := by simpa [isInt] using h
  interval_cases f <;> decide

theorem fmtBits_scalar {f : Nat} (hlo : 1 ≤ f) (hhi : f ≤ 6) : fmtBits f ∈ [8, 16, 32, 64] := by
  interval_cases f <;> decide

theorem intWidth_mem {w : Nat} (h : s.intWidth = some w) : w ∈ [8, 16, 32, 64] := by
  unfold State.intWidth at h
  split at h
  · split at h
    · next hint => cases h; exact fmtBits_int hint
    · cases h
  · cases h; exact iw_dvd s

theorem dataWidth_mem {w : Nat} (h : s.dataWidth = some w) : w ∈ [8, 16, 32, 64] := by
  unfold State.dataWidth at h
  split at h
  · split at h
    · next hf =>
      cases h
      rcases hf with ⟨hlo, hhi⟩ | hint
      · exact fmtBits_scalar hlo hhi
      · exact fmtBits_int hint
    · cases h
  · cases h; exact iw_dvd s

/-- Each of these widths divides a doubleword. -/
theorem dvd_of_width {w : Nat} (h : w ∈ [8, 16, 32, 64]) : w ∣ 64 := by
  simp only [List.mem_cons, List.not_mem_nil, or_false] at h
  obtain rfl | rfl | rfl | rfl := h <;> decide

theorem withType_some (s : State) (w : Nat) (k : Nat → Out) : s.withType (some w) false k = k w := rfl

/-! ### Element-wise results over a width -/

/-- An element-wise result depends on what its operation gives at the elements that the register has. -/
theorem GivesLanes.congr {d : BitVec 5} {w n : Nat} {op op' : Nat → Nat × Nat} (h : GivesLanes i s d p z w n op)
    (hop : ∀ k < 2048 / w, op k = op' k) : GivesLanes i s d p z w n op' := by
  obtain ⟨t, ht, hv, hc⟩ := h
  refine ⟨t, ht, fun k hk => by rw [hv k hk, hop k hk], ?_⟩
  have hflags : (s.activeLanes p w).map (fun k => (op k).2) = (s.activeLanes p w).map fun k => (op' k).2 :=
    List.map_congr_left fun k hk => by rw [hop k (List.mem_range.mp (List.mem_filter.mp hk).1)]
  rwa [hflags] at hc

theorem widthLanes_of_lanewise {d : BitVec 5} {t : Option Nat} {l : Nat} {op op' : Nat → Nat → Nat × Nat}
    (h : exec i s = s.withType t false fun w => s.lanewise st d p z w l (op' w))
    (hop : ∀ w, t = some w → ∀ k < 2048 / w, op' w k = op w k) : WidthLanes i s d p z t op := by
  cases t with
  | none => exact h
  | some w => exact GivesLanes.congr (givesLanes_of_lanewise (h.trans (withType_some s w _))) (hop w rfl)

/-! ### Predicate results (R284) -/

theorem rp_written_wp (x : Ctx) (d : BitVec 3) (w : Word) : (x.wp d.toNat w).rp d.toNat = if d = 0 then .allOnes 64 else w := by
  rw [Ctx.rp_wp, if_pos rfl]
  exact if_congr (by rw [← BitVec.toNat_inj]; rfl) rfl rfl

theorem givesP_of_writeP {d : BitVec 3} {w : Word} {l : Nat} (h : exec i s = (s.writeP d w l).done st) : GivesP i s 4 d w := by
  refine ⟨_, h, ?_, changesRegs_of_writes (s.cx.writes_wp d.toNat w l) 4 st.toNat⟩
  unfold State.retire State.writeP
  rw [State.modCx_modCx, readP_modCx]
  exact rp_written_wp s.cx d w

theorem givesP_of_mergeP {d : BitVec 3} {w : Word} {l : Nat} (h : exec i s = (s.mergeP d w l).done st) : GivesP i s 4 d w := by
  refine ⟨_, h, ?_, changesRegs_of_writes (s.cx.writes_merged_wp d.toNat w l) 4 st.toNat⟩
  unfold State.retire State.mergeP
  rw [State.modCx_modCx, readP_modCx]
  exact rp_written_wp s.cx d w

/-- The bits of a predicate that is put together bit by bit. -/
theorem getLsbD_predicate (bit : Nat → Bool) {j : Nat} (hj : j < 64) :
    (BitVec.ofNat 64 ((List.range 64).foldl (fun x j => if bit j then x + 2 ^ j else x) 0)).getLsbD j = bit j := by
  rw [BitVec.getLsbD_ofNat, (testBit_sum_two_pow bit 64).2]
  simp [hj]

theorem popCount_eq_countP (x n : Nat) : popCount x n = (List.range n).countP fun k => x.testBit k := by
  induction n with
  | zero => rfl
  | succ n ih =>
    have hbit : x / 2 ^ n % 2 = if x.testBit n then 1 else 0 := by
      rw [Nat.testBit_eq_decide_div_mod_eq]
      rcases Nat.mod_two_eq_zero_or_one (x / 2 ^ n) with h | h <;> simp [h]
    rw [popCount, ih, List.range_succ, List.countP_append, hbit, List.countP_singleton]

/-- The number of trailing zeros: the lowest one bit, or all n. -/
theorem ctzBits_spec (x n : Nat) :
    ctzBits x n ≤ n ∧ (∀ k < ctzBits x n, x.testBit k = false) ∧ (ctzBits x n < n → x.testBit (ctzBits x n) = true) := by
  induction n generalizing x with
  | zero => simp [ctzBits]
  | succ n ih =>
    obtain ⟨hle, hzero, hone⟩ := ih (x / 2)
    rw [ctzBits]
    split
    · next h => exact ⟨Nat.zero_le _, nofun, fun _ => by rw [Nat.testBit_zero, decide_eq_true h]⟩
    · next h =>
      refine ⟨by omega, fun k hk => ?_, fun hlt => ?_⟩
      · cases k with
        | zero => rw [Nat.testBit_zero, decide_eq_false h]
        | succ k => rw [Nat.testBit_succ]; exact hzero k (by omega)
      · rw [Nat.add_comm 1, Nat.testBit_succ]; exact hone (by omega)

/-! ### Random bits (R282, R283) -/

theorem mixer_lt (k c : Nat) : mixer k c < 2 ^ 64 := by
  have h : ∀ (rcs : List Nat) (x : Nat), x < 2 ^ 64 → rcs.foldl (fun x rc => mixRound k x rc % 2 ^ 64) x < 2 ^ 64 := by
    intro rcs
    induction rcs with
    | nil => exact fun _ hx => hx
    | cons rc rcs ih => exact fun x _ => ih _ (Nat.mod_lt _ (by positivity))
  exact h mixRC _ (Nat.mod_lt _ (by positivity))

/-- An element no wider than a doubleword lies in one doubleword of its register. -/
theorem lane_eq_of_dvd {w : Nat} (h : w ∣ 64) (v k : Nat) : lane w v k = lane 64 v (k * w / 64) / 2 ^ (k * w % 64) % 2 ^ w := by
  obtain ⟨c, hc⟩ := h
  have hw : 0 < w := Nat.pos_of_ne_zero fun h0 => by simp [h0] at hc
  have hfit : k * w % 64 + w ≤ 64 := by
    have hmod : k * w % 64 = w * (k % c) := by rw [hc, Nat.mul_comm k, Nat.mul_mod_mul_left]
    have hlt : k % c < c := Nat.mod_lt _ (Nat.pos_of_ne_zero fun h0 => by simp [h0] at hc)
    calc k * w % 64 + w = w * (k % c + 1) := by rw [hmod, Nat.mul_succ]
      _ ≤ w * c := Nat.mul_le_mul_left w hlt
      _ = 64 := hc.symm
  have hsplit : w * k = 64 * (k * w / 64) + k * w % 64 := by rw [Nat.div_add_mod, Nat.mul_comm]
  apply Nat.eq_of_testBit_eq
  intro j
  simp only [lane, hsplit, Nat.testBit_mod_two_pow, Nat.testBit_div_two_pow]
  by_cases hj : j < w
  · simp only [hj, decide_true, Bool.true_and]
    rw [decide_eq_true (by omega), Bool.true_and]
    congr 1; omega
  · simp only [hj, decide_false, Bool.false_and]

theorem randKey_eq (s : State) (n : Nat) (c : Word) :
    s.randKey n c = mixer (s.me.seed.toNat ^^^ (n * 2 ^ 56)) (s.curCore * 2 ^ 53 + c.toNat % 2 ^ 53) := by
  rw [State.randKey, wfld, fld, pow_zero, Nat.div_one]

/-- An element of vrand's 32 draws (R282). -/
theorem lane_draws {w : Nat} (h : w ∈ [8, 16, 32, 64]) (kr : Nat) {k : Nat} (hk : k < 2048 / w) :
    lane w (packLanes 64 ((List.range 32).map fun j => mixer kr j)).toNat k = mixer kr (k * w / 64) / 2 ^ (k * w % 64) % 2 ^ w := by
  have hdw : k * w / 64 < 32 := by
    have := (Nat.lt_div_iff_mul_lt' (dvd_trans (dvd_of_width h) (by decide : 64 ∣ 2048)) k).mp hk
    rw [Nat.div_lt_iff_lt_mul (by decide)]
    rw [Nat.mul_comm]; omega
  rw [lane_eq_of_dvd (dvd_of_width h), lane_packLanes (mul_length_map_range_le 64 32 _ le_rfl), getD_map_range, if_pos hdw, Nat.mod_eq_of_lt (mixer_lt _ _)]

theorem exec_vrand (st : BitVec 3) (d a : BitVec 5) (p : BitVec 3) (z : BitVec 1) (s : State) :
    exec (.vrand st d a p z) s = s.withType s.dataWidth false fun w => s.lanewise st d p z w 3 fun k =>
      (lane w (packLanes 64 ((List.range 32).map fun j => mixer (s.randKey 1 (s.readG a)) j)).toNat k, 0) := rfl

theorem dmask_gives (st d : BitVec 3) (a b : BitVec 5) (p : BitVec 3) (z : BitVec 1) (s : State) :
    ∃ v : Word, GivesP (.dmask st d a b p z) s 4 d v ∧ ∀ j < 64, v.getLsbD j =
      if (s.readP p).getLsbD j then
        decide (mixer (s.randKey 2 (s.readG b)) (j / 4) / 2 ^ (16 * (j % 4)) % 2 ^ 16 < (s.readG a).toNat % 2 ^ 16)
      else (z == 0 && (s.readP d).getLsbD j) := by
  let bit (j : Nat) : Bool :=
    if wbit (s.readP p) j then decide (fld (mixer (s.randKey 2 (s.readG b)) (j / 4)) (16 * (j % 4)) 16 < wfld (s.readG a) 0 16)
    else if z = 1 then false else wbit (s.readP d) j
  refine ⟨.ofNat 64 ((List.range 64).foldl (fun x j => if bit j then x + 2 ^ j else x) 0), ?_, fun j hj => ?_⟩
  · by_cases hkept : (z == 0 && s.readP p != .allOnes 64) = true
    · exact givesP_of_mergeP (l := 3) (congrArg (fun u : State => u.done st) (if_pos hkept))
    · exact givesP_of_writeP (l := 3) (congrArg (fun u : State => u.done st) (if_neg hkept))
  · have hz : (if z = 1 then false else wbit (s.readP d) j) = (z == 0 && (s.readP d).getLsbD j) := by
      rw [wbit_eq_getLsbD]
      obtain rfl | rfl : z = 0 ∨ z = 1 := by revert z; decide
      · rfl
      · rfl
    have hlow : wfld (s.readG a) 0 16 = (s.readG a).toNat % 2 ^ 16 := by rw [wfld, fld, pow_zero, Nat.div_one]
    rw [getLsbD_predicate _ hj]
    show (if wbit (s.readP p) j then _ else _) = _
    rw [hz, hlow, wbit_eq_getLsbD]
    rfl

/-- Settles O23: the bits of the mixer as each instruction takes them, and each predicate instruction by what it writes. -/
theorem randomBitsAndPredicates : Obligations.RandomBitsAndPredicates := by
  unfold Obligations.RandomBitsAndPredicates
  refine ⟨fun st d a b e p z s => ?_, fun st e p q d a s => ?_⟩
  · intro key kr kd
    have hkr : s.randKey 1 (s.readG a) = kr := randKey_eq s 1 _
    have hkd : s.randKey 2 (s.readG b) = kd := randKey_eq s 2 _
    refine ⟨?_, ?_, ?_⟩
    · rw [← hkr]; exact givesGAfter_of_result rfl
    · rw [← hkr]
      exact widthLanes_of_lanewise (exec_vrand st d a p z s) fun w hw k hk => Prod.ext (lane_draws (dataWidth_mem hw) _ hk) rfl
    · have hmask := dmask_gives st e a b p z s
      rwa [hkd] at hmask
  · intro A B
    have hcount : popCount A.toNat 64 = (List.range 64).countP fun k => A.getLsbD k := popCount_eq_countP _ _
    obtain ⟨hle, hzero, hone⟩ := ctzBits_spec A.toNat 64
    refine ⟨givesP_of_writeP rfl, givesP_of_writeP rfl, givesP_of_writeP rfl, givesP_of_writeP rfl, givesP_of_writeP rfl,
      givesP_of_writeP rfl, givesGAfter_of_result rfl, ?_, ctzBits A.toNat 64, givesGAfter_of_result rfl, hle, hzero, hone⟩
    rw [← hcount]; exact givesGAfter_of_result rfl

end Sys2Proof.Machine
end

section
/-! SUPPORT. Conversions between formats, to and from integers, and between integer widths (R86, R280, R281): O22. -/

namespace Sys2Proof.Machine

variable {i : Instr} {s : State} {st : BitVec 3} {d a : BitVec 5} {p : BitVec 3} {z : BitVec 1} {ws wd n : Nat}

/-! ### Conversions of elements -/

theorem converts_of_advanced {m : Nat} {op : Nat → Nat → Nat × Nat}
    (h : exec i s = State.advanced (s.convertLanes st d a p z ws wd op) m) :
    Converts i s d a p z ws wd (if stochastic m then 1 else 0) op := by
  obtain ⟨t, ht, hv, hc⟩ := putLanes_gives h
    (testBit_allFlags_active (2048 / max ws wd) (s.active p (max ws wd)) fun k => op k (lane ws (s.readV a).toNat k))
  refine ⟨t, ht, fun k _ => ?_, hc⟩
  have hfit : ∀ f : Nat → Nat, wd * ((List.range (2048 / max ws wd)).map f).length ≤ 2048 := fun f =>
    (Nat.mul_le_mul_right _ (le_max_right ws wd)).trans (mul_length_map_range_le (max ws wd) _ f le_rfl)
  rw [hv, lane_packLanes (hfit _), getD_map_range]
  by_cases hk : k < 2048 / max ws wd
  · rw [if_pos hk, if_neg (Nat.not_le.mpr hk)]
    split
    · next hact => rw [getD_map_range, if_pos hk, if_pos hact]
    · split
      · exact Nat.zero_mod _
      · exact Nat.mod_eq_of_lt (lane_lt _ _ _)
  · rw [if_neg hk, if_pos (Nat.not_lt.mp hk)]
    exact Nat.zero_mod _

/-- A conversion depends on what its operation gives for the codes that an element can hold. -/
theorem Converts.congr {op op' : Nat → Nat → Nat × Nat} (h : Converts i s d a p z ws wd n op)
    (hop : ∀ k, ∀ x < 2 ^ ws, op k x = op' k x) : Converts i s d a p z ws wd n op' := by
  have hlanes : ∀ k, op k (lane ws (s.readV a).toNat k) = op' k (lane ws (s.readV a).toNat k) := fun k => hop k _ (lane_lt _ _ _)
  unfold Converts at h ⊢
  simpa only [hlanes] using h

theorem converts_of_convertLanes {op op' : Nat → Nat → Nat × Nat} (h : exec i s = s.convertLanes st d a p z ws wd op)
    (hop : ∀ k, ∀ x < 2 ^ ws, op k x = op' k x) : Converts i s d a p z ws wd 0 op' :=
  Converts.congr (converts_of_advanced (m := 0) (h.trans (advanced_zero _).symm)) hop

/-- A conversion that rounds: without a source or a destination type it traps, and so it does where R161 forbids its mode (R280). -/
theorem converts_of_convertOp {src dst : Option NumTy} (h : exec i s = s.convertOp st d a p z src dst) :
    ((src = none ∨ dst = none) → Traps i s { cause := 0x60 }) ∧
    ∀ x y, src = some x → dst = some y →
      if s.srForbidden s.rm then Traps i s { cause := 0x0A }
      else Converts i s d a p z x.bits y.bits (if stochastic s.rm then 1 else 0) fun k c => convertTy x y c s.rm (s.draw s.rm k) := by
  refine ⟨fun hnone => ?_, ?_⟩
  · rcases hnone with rfl | rfl
    · exact h
    · cases src <;> exact h
  · rintro x y rfl rfl
    have hexec : exec i s = s.check [chk (s.srForbidden s.rm) 0x0A] _ := h
    rw [chk, State.check_cons, State.check_nil] at hexec
    split
    · next hforbidden => rw [if_pos hforbidden] at hexec; exact hexec
    · next hallowed => rw [if_neg hallowed] at hexec; exact converts_of_advanced hexec

/-! ### Integers (R281) -/

theorem clampInt_eq_max_min {x lo hi : Int} (h : lo ≤ hi) : clampInt x lo hi = max lo (min x hi) := by
  unfold clampInt
  split
  · next hlo => rw [min_eq_left (by omega), max_eq_left (by omega)]
  · split
    · next hhi => rw [min_eq_right (by omega), max_eq_right h]
    · rw [min_eq_left (by omega), max_eq_right (by omega)]

theorem intLo_le_intHi (w : Nat) (signed : Bool) : intLo w signed ≤ intHi w signed := by
  have hlow : 0 < 2 ^ (w - 1) := by positivity
  have hall : 0 < 2 ^ w := by positivity
  unfold intLo intHi
  split <;> omega

theorem intOf_eq {w x : Nat} (signed : Bool) (h : x < 2 ^ w) : intOf w signed x = if signed then sgn w x else x := by
  rw [intOf, Nat.mod_eq_of_lt h]

/-- Settles O22: each conversion by the types of its elements, each width change by the range of its destination. -/
theorem vectorConversions : Obligations.VectorConversions := by
  unfold Obligations.VectorConversions
  intro st d a p z s m n converts flt sg
  have hnarrow : exec (.vnarrow st d a p z) s = s.withType (s.intWidth.filter fun w => w != 8) false fun w =>
      s.convertLanes st d a p z w (w / 2) fun _ x =>
        let c := clampInt (intOf w sg x) (intLo (w / 2) sg) (intHi (w / 2) sg)
        (intCode (w / 2) c, if c = intOf w sg x then 0 else fSAT) := rfl
  have hwiden : exec (.vwiden st d a p z) s = s.withType (s.intWidth.filter fun w => w != 64) false fun w =>
      s.convertLanes st d a p z w (2 * w) fun _ x => (intCode (2 * w) (intOf w sg x), 0) := rfl
  have hcvt : exec (.vcvt st d a p z) s = s.convertOp st d a p z (flt s.fmt1) (flt (s.cx.f2.getD 2)) := rfl
  have hcvtfi : exec (.vcvtfi st d a p z) s = s.convertOp st d a p z (flt s.fmt1) (s.intTy s.cx.f2) := rfl
  have hcvtif : exec (.vcvtif st d a p z) s = s.convertOp st d a p z (s.intTy s.cx.f1) (flt (s.cx.f2.getD s.vf)) := rfl
  refine ⟨converts_of_convertOp hcvt, converts_of_convertOp hcvtfi, converts_of_convertOp hcvtif, fun h => ?_, fun h => ?_, fun w h hw => ?_,
    fun w h hw => ?_⟩
  · rcases h with h | h <;> rw [h] at hnarrow <;> exact hnarrow
  · rcases h with h | h <;> rw [h] at hwiden <;> exact hwiden
  · rw [h, Option.filter_some, if_pos (bne_iff_ne.mpr hw), withType_some] at hnarrow
    refine converts_of_convertLanes hnarrow fun k x hx => ?_
    dsimp only
    rw [intOf_eq sg hx, clampInt_eq_max_min (intLo_le_intHi _ _)]
    rfl
  · rw [h, Option.filter_some, if_pos (bne_iff_ne.mpr hw), withType_some] at hwiden
    refine converts_of_convertLanes hwiden fun k x hx => ?_
    rw [intOf_eq sg hx]
    rfl

end Sys2Proof.Machine
end

section
/-! SUPPORT. Reductions (R93, R279): the tree over the active elements gives what an associative operation gives from left to right, so that
the integer reductions can be said without it: O21. -/

namespace Sys2Proof.Machine

variable {i : Instr} {s : State} {st : BitVec 3} {d a : BitVec 5} {p : BitVec 3} {w : Nat} {node : Nat → Nat → Nat → Nat × Nat}

/-! ### The tree (R93) -/

section

variable {α : Type} {op : α → α → α} {h : Nat → α}

/-- A node joins its two inputs, of which either may be absent. -/
theorem treeLevel_pair (hnode : ∀ k x y, h (node k x y).1 = op (h x) (h y)) (k : Nat) (x y : Option Nat) (xs : List (Option Nat)) :
    (treeLevel node k (x :: y :: xs)).1.map (Option.map h) =
      Option.merge op (x.map h) (y.map h) :: (treeLevel node (k + 1) xs).1.map (Option.map h) := by
  cases x with
  | none => cases y <;> rfl
  | some x =>
    cases y with
    | none => rfl
    | some y => exact congrArg (some · :: _) (hnode k x y)

/-- One level of the tree keeps what its inputs give from left to right. -/
theorem foldr_treeLevel [Std.Associative op] (hnode : ∀ k x y, h (node k x y).1 = op (h x) (h y)) : ∀ k xs,
    ((treeLevel node k xs).1.map (Option.map h)).foldr (Option.merge op) none = (xs.map (Option.map h)).foldr (Option.merge op) none
  | _, [] => rfl
  | _, [x] => by cases x <;> rfl
  | k, x :: y :: xs => by
    rw [treeLevel_pair hnode, List.foldr_cons, foldr_treeLevel hnode (k + 1) xs, Std.Associative.assoc (op := Option.merge op)]
    rfl

theorem length_treeLevel : ∀ k xs, (treeLevel node k xs).1.length = (xs.length + 1) / 2
  | _, [] => rfl
  | _, [none] => rfl
  | _, [some _] => by simp [treeLevel]
  | k, x :: y :: xs => by
    have hpair : (treeLevel node k (x :: y :: xs)).1.length = (treeLevel node (k + 1) xs).1.length + 1 := by
      simpa using congrArg List.length (treeLevel_pair (node := node) (op := fun _ _ => ()) (h := fun _ => ()) (fun _ _ _ => rfl) k x y xs)
    rw [hpair, length_treeLevel (k + 1) xs, List.length_cons, List.length_cons]
    omega

/-- Enough levels reduce the inputs to what they give from left to right. -/
theorem reduceTree_eq_foldr [Std.Associative op] (hnode : ∀ k x y, h (node k x y).1 = op (h x) (h y)) (n k : Nat) (xs : List (Option Nat))
    (hlen : xs.length ≤ 2 ^ n) : (reduceTree node n k xs).1.map h = (xs.map (Option.map h)).foldr (Option.merge op) none := by
  have hshort : ∀ xs : List (Option Nat), xs.length ≤ 1 → xs.head?.join.map h = (xs.map (Option.map h)).foldr (Option.merge op) none
    | [], _ => rfl
    | [none], _ => rfl
    | [some _], _ => rfl
  induction n generalizing k xs with
  | zero => exact hshort xs hlen
  | succ n ih =>
    rw [reduceTree]
    split
    · next hone => exact hshort xs hone
    · have hhalf : (treeLevel node k xs).1.length ≤ 2 ^ n := by rw [length_treeLevel]; rw [pow_succ] at hlen; omega
      exact (ih _ _ hhalf).trans (foldr_treeLevel hnode k xs)

/-- What the present inputs give from left to right, behind a first value. -/
theorem foldl_reduceOption [Std.Associative op] (x : α) (ys : List (Option α)) :
    ys.reduceOption.foldl op x = (ys.foldr (Option.merge op) none).elim x (op x) := by
  induction ys generalizing x with
  | nil => rfl
  | cons y ys ih =>
    cases y with
    | none => rw [List.reduceOption_cons_of_none, ih, List.foldr_cons, Option.merge_none_left]
    | some y =>
      rw [List.reduceOption_cons_of_some, List.foldl_cons, ih, List.foldr_cons]
      cases ys.foldr (Option.merge op) none with
      | none => rfl
      | some r => exact Std.Associative.assoc x y r

/-- The tree gives what its operation gives from left to right, and e where every input is absent; e may stand before the inputs where it
changes none of them. -/
theorem reduceTree_getD [Std.Associative op] (hnode : ∀ k x y, h (node k x y).1 = op (h x) (h y)) {n : Nat} (k : Nat) {xs : List (Option Nat)}
    (hlen : xs.length ≤ 2 ^ n) {e : Nat} (he : ∀ x ∈ xs.reduceOption, op (h e) (h x) = h x) :
    h ((reduceTree node n k xs).1.getD e) = (xs.reduceOption.map h).foldl op (h e) := by
  have htree := reduceTree_eq_foldr hnode n k xs hlen
  have hgetD : h ((reduceTree node n k xs).1.getD e) = ((reduceTree node n k xs).1.map h).getD (h e) := by
    cases (reduceTree node n k xs).1 <;> rfl
  rw [hgetD, htree]
  clear htree hgetD hlen
  induction xs with
  | nil => rfl
  | cons x xs ih =>
    cases x with
    | none =>
      rw [List.reduceOption_cons_of_none] at he ⊢
      rw [List.map_cons, Option.map_none, List.foldr_cons, Option.merge_none_left]
      exact ih he
    | some x =>
      have hx : op (h e) (h x) = h x := he x (by rw [List.reduceOption_cons_of_some]; exact List.mem_cons_self)
      have hmap : xs.reduceOption.map h = (xs.map (Option.map h)).reduceOption := List.reduceOption_map.symm
      rw [List.reduceOption_cons_of_some, List.map_cons (l := xs.reduceOption), List.foldl_cons, hx, hmap, foldl_reduceOption, List.map_cons,
        List.foldr_cons]
      cases (xs.map (Option.map h)).foldr (Option.merge op) none <;> rfl

end

/-- A tree whose nodes set no flag sets none. -/
theorem snd_treeLevel (hnode : ∀ k x y, (node k x y).2 = 0) : ∀ k xs, (treeLevel node k xs).2 = 0
  | _, [] => rfl
  | _, [none] => rfl
  | _, [some _] => rfl
  | k, some x :: some y :: xs => by
    show (node k x y).2 ||| (treeLevel node (k + 1) xs).2 = 0
    rw [hnode, snd_treeLevel hnode (k + 1) xs]; rfl
  | k, none :: some _ :: xs => snd_treeLevel hnode (k + 1) xs
  | k, some _ :: none :: xs => snd_treeLevel hnode (k + 1) xs
  | k, none :: none :: xs => snd_treeLevel hnode (k + 1) xs

theorem snd_reduceTree (hnode : ∀ k x y, (node k x y).2 = 0) (n k : Nat) (xs : List (Option Nat)) : (reduceTree node n k xs).2 = 0 := by
  induction n generalizing k xs with
  | zero => rfl
  | succ n ih =>
    rw [reduceTree]
    split
    · rfl
    · show (treeLevel node k xs).2 ||| (reduceTree node n _ _).2 = 0
      rw [snd_treeLevel hnode, ih]; rfl

/-! ### Reductions of a register (R279) -/

/-- The inputs of the tree: the elements of a register, of which the active ones are present. -/
def State.treeInputs (s : State) (p : BitVec 3) (w : Nat) (a : BitVec 5) : List (Option Nat) :=
  (List.range (2048 / w)).map fun k => if s.active p w k then some (lane w (s.readV a).toNat k) else none

theorem reduceOption_treeInputs (s : State) (p : BitVec 3) (w : Nat) (a : BitVec 5) : (s.treeInputs p w a).reduceOption = activeOf s p w a := by
  unfold State.treeInputs activeOf State.activeLanes
  generalize List.range (2048 / w) = ks
  induction ks with
  | nil => rfl
  | cons k ks ih =>
    rw [List.map_cons]
    by_cases hact : s.active p w k = true
    · rw [if_pos hact, List.reduceOption_cons_of_some, ih, List.filter_cons_of_pos hact, List.map_cons]
    · rw [if_neg hact, List.reduceOption_cons_of_none, ih, List.filter_cons_of_neg hact]

theorem lt_of_mem_activeOf {x : Nat} (hx : x ∈ activeOf s p w a) : x < 2 ^ w := by
  obtain ⟨k, -, rfl⟩ := List.mem_map.mp hx
  exact lane_lt _ _ _

/-- A reduction writes its register and adds the flags of its tree. -/
theorem reduce_eq (s : State) (st : BitVec 3) (d a : BitVec 5) (p : BitVec 3) (w : Nat) (node : Nat → Nat → Nat → Nat × Nat) (e : Nat)
    (fill : Nat → Word) :
    s.reduce st d a p w node e fill =
      ((s.writeG d (fill ((reduceTree node 8 0 (s.treeInputs p w a)).1.getD e)) 8).flag (reduceTree node 8 0 (s.treeInputs p w a)).2).done st := by
  unfold State.reduce State.treeInputs
  dsimp only

/-- A reduction with flags, and the advance of RNDCTR that its mode asks for. -/
theorem givesGFlagged_of_reduce {m e : Nat} {fill : Nat → Word} (h : exec i s = State.advanced (s.reduce st d a p w node e fill) m) :
    GivesGFlagged i s d (fill ((reduceTree node 8 0 (s.treeInputs p w a)).1.getD e)) [(reduceTree node 8 0 (s.treeInputs p w a)).2]
      (if stochastic m then 1 else 0) := by
  rw [reduce_eq] at h
  generalize reduceTree node 8 0 (s.treeInputs p w a) = r at h ⊢
  let g : Ctx → Ctx := fun x => (x.wg d.toNat (fill (r.1.getD e))).written (keyG d.toNat) 8
  have hexec : exec i s = .next (s.modCx fun x => (g x).rounded r.2 m st.toNat) := h.trans (advanced_flag_done s g r.2 m st)
  have hfl : ∀ k, r.2.testBit k = [r.2].any fun f => f.testBit k := fun k => by rw [List.any_cons, List.any_nil, Bool.or_false]
  have hc := changesFlagged_rounded (g := g) (s.cx.writes_wg _ _ _) hfl m st.toNat
  refine ⟨_, hexec, ?_, hc⟩
  rw [readG_modCx, Ctx.rg_rounded, Ctx.rg_written, Ctx.rg_wg, if_pos rfl]
  exact if_congr (by rw [← BitVec.toNat_inj]; rfl) rfl rfl

/-- A result whose instruction adds no flag. -/
theorem writeG_flag_zero (s : State) (d : BitVec 5) (v : Word) (l : Nat) : (s.writeG d v l).flag 0 = s.writeG d v l := by
  unfold State.writeG State.flag
  rw [State.modCx_modCx]
  simp only [Ctx.flag, Nat.zero_mod, BitVec.or_zero]

/-- A reduction by an associative operation that sets no flag, through h: the result is that of the active elements from left to right. -/
theorem givesG_of_reduce {α : Type} {op : α → α → α} [Std.Associative op] {h : Nat → α} {e : Nat} {fill : Nat → Word} {r : Word}
    (hexec : exec i s = s.reduce st d a p w node e fill) (hw : 8 ≤ w) (hnode : ∀ k x y, h (node k x y).1 = op (h x) (h y))
    (hflags : ∀ k x y, (node k x y).2 = 0) (he : ∀ x < 2 ^ w, op (h e) (h x) = h x)
    (hr : ∀ x, h x = ((activeOf s p w a).map h).foldl op (h e) → fill x = r) : GivesG i s 4 d r := by
  have hlen : (s.treeInputs p w a).length ≤ 2 ^ 8 := by
    rw [State.treeInputs, List.length_map, List.length_range]
    exact Nat.div_le_of_le_mul (by omega)
  have hval := reduceTree_getD (e := e) hnode 0 hlen fun x hx => he x (lt_of_mem_activeOf (by rwa [reduceOption_treeInputs] at hx))
  rw [reduceOption_treeInputs] at hval
  rw [reduce_eq, snd_reduceTree hflags, writeG_flag_zero, hr _ hval] at hexec
  exact givesGAfter_of_result hexec

/-! ### Signed elements (R277) -/

theorem sgn_mod (w x : Nat) : sgn w (x % 2 ^ w) = sgn w x := by rw [sgn, sgn, Nat.mod_mod]

theorem sgn_bounds (w x : Nat) (hw : 0 < w) : -(2 ^ (w - 1) : Nat) ≤ sgn w x ∧ sgn w x ≤ (2 ^ (w - 1) : Nat) - 1 := by
  have hlt : x % 2 ^ w < 2 ^ w := Nat.mod_lt _ (by positivity)
  have hpow : 2 ^ w = 2 * 2 ^ (w - 1) := by rw [← pow_succ', Nat.sub_add_cancel hw]
  unfold sgn
  split <;> omega

/-- The lowest and the highest signed element. -/
theorem sgn_lowest {w : Nat} (hw : 0 < w) : sgn w (2 ^ (w - 1)) = -(2 ^ (w - 1) : Nat) := by
  have hlow : 0 < 2 ^ (w - 1) := by positivity
  have hpow : 2 ^ w = 2 * 2 ^ (w - 1) := by rw [← pow_succ', Nat.sub_add_cancel hw]
  rw [sgn, Nat.mod_eq_of_lt (by omega), if_neg (Nat.lt_irrefl _)]
  omega
theorem sgn_highest {w : Nat} (hw : 0 < w) : sgn w (2 ^ (w - 1) - 1) = (2 ^ (w - 1) : Nat) - 1 := by
  have hlow : 0 < 2 ^ (w - 1) := by positivity
  have hpow : 2 ^ w = 2 * 2 ^ (w - 1) := by rw [← pow_succ', Nat.sub_add_cancel hw]
  rw [sgn, Nat.mod_eq_of_lt (by omega), if_pos (by omega)]
  omega

/-- The larger and the smaller of two elements, by their signed values. -/
theorem sgn_pickLane_larger (w x y : Nat) : sgn w (pickLane true true w x y) = max (sgn w x) (sgn w y) := by
  unfold pickLane intOf
  by_cases h : sgn w x < sgn w y
  · simp [h, max_eq_right h.le]
  · simp [h, max_eq_left (not_lt.mp h)]
theorem sgn_pickLane_smaller (w x y : Nat) : sgn w (pickLane true false w x y) = min (sgn w x) (sgn w y) := by
  unfold pickLane intOf
  by_cases h : sgn w x < sgn w y
  · simp [h, min_eq_left h.le]
  · simp [h, min_eq_right (not_lt.mp h)]

theorem foldl_add_zmod (n : Nat) (xs : List Nat) : (xs.map (Nat.cast : Nat → ZMod n)).foldl (· + ·) 0 = ((xs.sum : Nat) : ZMod n) := by
  rw [← List.sum_eq_foldl, Nat.cast_list_sum]

/-! ### The instructions (R279) -/

variable (st d a p s)

theorem exec_viredadd : exec (.viredadd st d a p) s = s.withType s.intWidth false fun w =>
    s.reduce st d a p w (fun _ x y => ((x + y) % 2 ^ w, 0)) 0 fun x => Sys2Proof.sext w x := rfl
theorem exec_viredmax : exec (.viredmax st d a p) s = s.withType s.intWidth false fun w =>
    s.reduce st d a p w (fun _ x y => (pickLane true true w x y, 0)) (2 ^ (w - 1)) fun x => Sys2Proof.sext w x := rfl
theorem exec_viredmin : exec (.viredmin st d a p) s = s.withType s.intWidth false fun w =>
    s.reduce st d a p w (fun _ x y => (pickLane true false w x y, 0)) (2 ^ (w - 1) - 1) fun x => Sys2Proof.sext w x := rfl
theorem exec_vredand : exec (.vredand st d a p) s = s.withType s.intWidth false fun w =>
    s.reduce st d a p w (fun _ x y => (x &&& y, 0)) (2 ^ w - 1) fun x => .ofNat 64 x := rfl
theorem exec_vredor : exec (.vredor st d a p) s = s.withType s.intWidth false fun w =>
    s.reduce st d a p w (fun _ x y => (x ||| y, 0)) 0 fun x => .ofNat 64 x := rfl

variable {s st d a p}

/-- The sum modulo 2 ^ w, in the ring of the numbers modulo 2 ^ w. -/
theorem givesG_sum (h : exec i s = s.reduce st d a p w (fun _ x y => ((x + y) % 2 ^ w, 0)) 0 fun x => Sys2Proof.sext w x) (hw : 8 ≤ w) :
    GivesG i s 4 d (.ofInt 64 (sgn w (activeOf s p w a).sum)) := by
  refine givesG_of_reduce (α := ZMod (2 ^ w)) (op := (· + ·)) (h := Nat.cast) h hw (fun _ x y => ?_) (fun _ _ _ => rfl) (fun x _ => ?_) fun x hx => ?_
  · rw [ZMod.natCast_mod, Nat.cast_add]
  · rw [Nat.cast_zero, zero_add]
  · rw [Nat.cast_zero, foldl_add_zmod, ZMod.natCast_eq_natCast_iff] at hx
    rw [Sys2Proof.sext, ← sgn_mod w x, hx, sgn_mod]

theorem givesG_max (h : exec i s = s.reduce st d a p w (fun _ x y => (pickLane true true w x y, 0)) (2 ^ (w - 1)) fun x => Sys2Proof.sext w x)
    (hw : 8 ≤ w) : GivesG i s 4 d (.ofInt 64 (((activeOf s p w a).map (sgn w)).foldl max (-(2 ^ (w - 1) : Nat)))) := by
  have hpos : 0 < w := by omega
  refine givesG_of_reduce (op := max) (h := sgn w) h hw (fun _ => sgn_pickLane_larger w) (fun _ _ _ => rfl) (fun x _ => ?_) fun x hx => ?_
  · rw [sgn_lowest hpos]; exact max_eq_right (sgn_bounds w x hpos).1
  · rw [Sys2Proof.sext, hx, sgn_lowest hpos]

theorem givesG_min (h : exec i s = s.reduce st d a p w (fun _ x y => (pickLane true false w x y, 0)) (2 ^ (w - 1) - 1) fun x => Sys2Proof.sext w x)
    (hw : 8 ≤ w) : GivesG i s 4 d (.ofInt 64 (((activeOf s p w a).map (sgn w)).foldl min ((2 ^ (w - 1) : Nat) - 1))) := by
  have hpos : 0 < w := by omega
  refine givesG_of_reduce (op := min) (h := sgn w) h hw (fun _ => sgn_pickLane_smaller w) (fun _ _ _ => rfl) (fun x _ => ?_) fun x hx => ?_
  · rw [sgn_highest hpos]; exact min_eq_right (sgn_bounds w x hpos).2
  · rw [Sys2Proof.sext, hx, sgn_highest hpos]

theorem givesG_and (h : exec i s = s.reduce st d a p w (fun _ x y => (x &&& y, 0)) (2 ^ w - 1) fun x => .ofNat 64 x) (hw : 8 ≤ w) :
    GivesG i s 4 d (.ofNat 64 ((activeOf s p w a).foldl (· &&& ·) (2 ^ w - 1))) := by
  refine givesG_of_reduce (op := (· &&& ·)) (h := id) h hw (fun _ _ _ => rfl) (fun _ _ _ => rfl) (fun x hx => ?_) fun x hx => ?_
  · exact (Nat.and_comm _ _).trans (Nat.and_two_pow_sub_one_of_lt_two_pow hx)
  · rw [List.map_id] at hx; exact congrArg _ hx

theorem givesG_or (h : exec i s = s.reduce st d a p w (fun _ x y => (x ||| y, 0)) 0 fun x => .ofNat 64 x) (hw : 8 ≤ w) :
    GivesG i s 4 d (.ofNat 64 ((activeOf s p w a).foldl (· ||| ·) 0)) := by
  refine givesG_of_reduce (op := (· ||| ·)) (h := id) h hw (fun _ _ _ => rfl) (fun _ _ _ => rfl) (fun x _ => Nat.zero_or x) fun x hx => ?_
  rw [List.map_id] at hx; exact congrArg _ hx

/-- Settles O21: the float reductions by their tree, the integer ones by the fold over the active elements. -/
theorem vectorReductions : Obligations.VectorReductions := by
  unfold Obligations.VectorReductions
  intro st d a p s m f floatOk inputs tree sum most least noType
  have hadd : exec (.vredadd st d a p) s = s.withType s.floatFmt true fun f =>
    State.advanced (s.reduce st d a p (fmtBits f) (fun k x y => rounded f (addV (decode f x) (decode f y) m) m (s.draw m k)) 0 (.ofNat 64 ·)) m := rfl
  have hmax : exec (.vredmax st d a p) s = s.withType s.floatFmt false fun f =>
    s.reduce st d a p (fmtBits f) (fun _ x y => numberOf true f x y) ((fmtOf f).inf true) (.ofNat 64 ·) := rfl
  have hmin : exec (.vredmin st d a p) s = s.withType s.floatFmt false fun f =>
    s.reduce st d a p (fmtBits f) (fun _ x y => numberOf false f x y) ((fmtOf f).inf false) (.ofNat 64 ·) := rfl
  have hiadd := exec_viredadd s st d a p
  have himax := exec_viredmax s st d a p
  have himin := exec_viredmin s st d a p
  have hiand := exec_vredand s st d a p
  have hior := exec_vredor s st d a p
  refine ⟨fun h => ?_, fun h => ?_, fun h => ?_, fun w h => ?_⟩
  · have hnone : s.floatFmt = none := if_neg h
    rw [hnone] at hadd hmax hmin
    exact ⟨hadd, hmax, hmin⟩
  · have hsome : s.floatFmt = some f := if_pos h
    rw [hsome] at hadd hmax hmin
    rw [withType_some, ← advanced_zero (s.reduce _ _ _ _ _ _ _ _)] at hmax hmin
    refine ⟨?_, givesGFlagged_of_reduce hmax, givesGFlagged_of_reduce hmin⟩
    rw [State.withType, chk, State.check_cons, State.check_nil, Bool.true_and] at hadd
    split
    · next hforbidden => rw [if_pos hforbidden] at hadd; exact hadd
    · next hallowed => rw [if_neg hallowed] at hadd; exact givesGFlagged_of_reduce hadd
  · rw [h] at hiadd himax himin hiand hior
    exact ⟨hiadd, himax, himin, hiand, hior⟩
  · have hw : 8 ≤ w := by
      have := intWidth_mem h
      simp only [List.mem_cons, List.not_mem_nil, or_false] at this
      omega
    rw [h, withType_some] at hiadd himax himin hiand hior
    exact ⟨givesG_sum hiadd hw, givesG_max himax hw, givesG_min himin hw, givesG_and hiand hw, givesG_or hior hw⟩

end Sys2Proof.Machine
end

section
/-! SUPPORT. The matrix engine's products (R94, R300, R303): the accumulator element by element, and what mma and mma.z change. -/

namespace Sys2Proof.Machine

variable {i : Instr} {s t u : State} {st : BitVec 3} {x : Matrix}

/-! ### Fields put side by side -/

/-- A sum of fields of b bits holds each of them (R7). -/
theorem fld_sum_fields (b : Nat) (f : Nat → Nat) (n : Nat) :
    let x := (List.range n).foldl (fun x k => x + f k % 2 ^ b * 2 ^ (b * k)) 0
    x < 2 ^ (b * n) ∧ ∀ k < n, fld x (b * k) b = f k % 2 ^ b := by
  induction n with
  | zero => simp
  | succ n ih =>
    obtain ⟨hlt, hfld⟩ := ih
    rw [List.range_succ, List.foldl_append, List.foldl_cons, List.foldl_nil]
    generalize (List.range n).foldl (fun x k => x + f k % 2 ^ b * 2 ^ (b * k)) 0 = x at hlt hfld
    have hf : f n % 2 ^ b < 2 ^ b := Nat.mod_lt _ (by positivity)
    refine ⟨?_, fun k hk => ?_⟩
    · have := Nat.mul_le_mul_right (2 ^ (b * n)) (Nat.succ_le_of_lt hf)
      rw [Nat.succ_mul] at this
      rw [Nat.mul_succ, pow_add, Nat.mul_comm (2 ^ (b * n))]
      omega
    · obtain rfl | hkn : k = n ∨ k < n := by omega
      · rw [fld, Nat.add_mul_div_right _ _ (by positivity), Nat.div_eq_of_lt hlt, Nat.zero_add, Nat.mod_mod]
      · have hwide : 2 ^ (b * n) = 2 ^ (b * (n - k - 1)) * 2 ^ b * 2 ^ (b * k) := by
          rw [← pow_add, ← pow_add]
          congr 1
          rw [← Nat.mul_succ, ← Nat.mul_add]
          congr 1; omega
        rw [← hfld k hkn, fld, fld, hwide, ← Nat.mul_assoc, Nat.add_mul_div_right _ _ (by positivity), ← Nat.mul_assoc, Nat.add_mul_mod_self_right]

/-! ### Tile steps (R94, R303) -/

section

variable (fa fb abits assc bbits bssc mr nc : Nat)

/-- The operands of a tile step for element (m, n). -/
def tilePairs (m n g : Nat) : List (Val × Val) :=
  (List.range 32).map fun j => (operandValue fa abits assc m (32 * g + j), operandValue fb bbits bssc n (32 * g + j))

/-- An element after one tile step. -/
def tileElem (m n g old : Nat) : Nat := tileSum (decode 2 old) (tilePairs fa fb abits assc bbits bssc m n g) % 2 ^ 32

/-- Field k of the accumulator after tile step g: element (k / 32, k % 32), stepped within the shape. -/
def tileField (g c k : Nat) : Nat :=
  if k / 32 ≤ mr && k % 32 ≤ nc then
    tileSum (decode 2 (accElem c (k / 32) (k % 32)))
      ((span (32 * g) 32).map fun j => (operandValue fa abits assc (k / 32) j, operandValue fb bbits bssc (k % 32) j))
  else accElem c (k / 32) (k % 32)

theorem accElem_lt (c m n : Nat) : accElem c m n < 2 ^ 32 := fld_lt _ _ _

theorem tileStep_spec (g c : Nat) :
    tileStep fa fb abits assc bbits bssc mr nc g c < 2 ^ (32 * 1024) ∧ ∀ m < 32, ∀ n < 32,
      accElem (tileStep fa fb abits assc bbits bssc mr nc g c) m n =
        if m ≤ mr ∧ n ≤ nc then tileElem fa fb abits assc bbits bssc m n g (accElem c m n) else accElem c m n := by
  obtain ⟨hlt, hfld⟩ := fld_sum_fields 32 (tileField fa fb abits assc bbits bssc mr nc g c) 1024
  refine ⟨hlt, fun m hm n hn => (hfld (32 * m + n) (by omega)).trans ?_⟩
  have hrow : (32 * m + n) / 32 = m := by omega
  have hcol : (32 * m + n) % 32 = n := by omega
  have hpairs : ((span (32 * g) 32).map fun j => (operandValue fa abits assc m j, operandValue fb bbits bssc n j)) =
      tilePairs fa fb abits assc bbits bssc m n g := List.map_map
  show (if _ then _ else _) % 2 ^ 32 = _
  rw [hrow, hcol, hpairs]
  by_cases hin : m ≤ mr ∧ n ≤ nc
  · rw [if_pos (by simpa using hin), if_pos hin]; rfl
  · rw [if_neg (by simpa using hin), if_neg hin, Nat.mod_eq_of_lt (accElem_lt _ _ _)]

theorem tileSteps_zero (c : Nat) : tileSteps fa fb abits assc bbits bssc mr nc 0 c = tileStep fa fb abits assc bbits bssc mr nc 0 c := by
  rw [tileSteps, Nat.zero_add, List.range_one, List.foldl_cons, List.foldl_nil]

theorem tileSteps_succ (ks c : Nat) : tileSteps fa fb abits assc bbits bssc mr nc (ks + 1) c =
    tileStep fa fb abits assc bbits bssc mr nc (ks + 1) (tileSteps fa fb abits assc bbits bssc mr nc ks c) := by
  rw [tileSteps, List.range_succ, List.foldl_append, List.foldl_cons, List.foldl_nil, tileSteps]

theorem tileSteps_lt (ks c : Nat) : tileSteps fa fb abits assc bbits bssc mr nc ks c < 2 ^ (32 * 1024) := by
  cases ks with
  | zero => rw [tileSteps_zero]; exact (tileStep_spec fa fb abits assc bbits bssc mr nc 0 c).1
  | succ ks => rw [tileSteps_succ]; exact (tileStep_spec fa fb abits assc bbits bssc mr nc (ks + 1) _).1

/-- An element after tile steps 0 to ks. -/
theorem accElem_tileSteps (ks c : Nat) {m n : Nat} (hm : m < 32) (hn : n < 32) :
    accElem (tileSteps fa fb abits assc bbits bssc mr nc ks c) m n =
      if m ≤ mr ∧ n ≤ nc then
        (List.range (ks + 1)).foldl (fun acc g => tileElem fa fb abits assc bbits bssc m n g acc) (accElem c m n)
      else accElem c m n := by
  induction ks with
  | zero =>
    rw [tileSteps_zero, (tileStep_spec fa fb abits assc bbits bssc mr nc 0 c).2 m hm n hn, Nat.zero_add, List.range_one, List.foldl_cons,
      List.foldl_nil]
  | succ ks ih =>
    rw [tileSteps_succ, (tileStep_spec fa fb abits assc bbits bssc mr nc (ks + 1) _).2 m hm n hn, ih, List.range_succ (n := ks + 1), List.foldl_append,
      List.foldl_cons, List.foldl_nil]
    split <;> rfl

end

/-! ### What the products read of the slots (R300, R355) -/

/-- A row holds 16 doublewords, side entries included (R300). -/
theorem matDws_lt {f ks : Nat} (hlo : 3 ≤ f) (hhi : f ≤ 9) (hks : ks ≤ matK f / 32 - 1) : ∀ d ∈ matDws f ks, d < 16 := by
  have hbits : matK f * fmtBits f ≤ 1024 := by interval_cases f <;> decide
  have hK : matK f = 64 ∨ matK f = 128 := by unfold matK; split <;> simp
  have helems : 32 * (ks + 1) ≤ matK f := by omega
  have hread := (Nat.mul_le_mul_right (fmtBits f) helems).trans hbits
  have hceil : ceilDiv (32 * (ks + 1) * fmtBits f) 64 ≤ 16 := by unfold ceilDiv; omega
  intro d hd
  rcases List.mem_append.mp hd with hd | hd
  · exact (List.mem_range.mp hd).trans_le hceil
  · split at hd
    · rw [List.mem_singleton.mp hd]; decide
    · split at hd
      · rw [List.mem_singleton.mp hd]; decide
      · cases hd

/-- Rows whose doublewords are good hold no error in what is read of them. -/
theorem badRows_eq_false {key r : Nat} {dws : List Nat} (hgood : x.badIn key 0 (16 * (r + 1)) = false) (hdws : ∀ d ∈ dws, d < 16) :
    x.badRows key r dws = false := by
  unfold Matrix.badIn at hgood
  unfold Matrix.badRows Matrix.badIn
  simp only [List.any_eq_false, List.mem_range, Bool.not_eq_true, Bool.and_eq_false_iff, beq_eq_false_iff_ne, decide_eq_false_iff_not] at hgood ⊢
  intro k hk d hd e he
  have hd16 := hdws d hd
  have hgood' := hgood e he
  omega

end Sys2Proof.Machine
end

section
/-! SUPPORT. mma and mma.z (R302, R303): the checks of the two, and the engine that each leaves. -/

namespace Sys2Proof.Machine

variable {i : Instr} {s t u : State} {st : BitVec 3} {d : BitVec 5} {o q : BitVec 4} {e : BitVec 3}

/-! ### The engine of the issuing core -/

theorem State.me_modMatrix (s : State) (f : Matrix → Matrix) : (s.modMatrix f).me = { s.me with matrix := f s.me.matrix } :=
  State.me_modMe s _

theorem onlyMatrix_modMatrix (s : State) (f : Matrix → Matrix) : OnlyMatrix s (s.modMatrix f) := by
  have hme := s.me_modMatrix f
  unfold OnlyMatrix
  rw [hme]
  exact State.modMe_congr rfl

/-- A performance counter is no register (R425). -/
theorem ChangesRegs.of_count {k len : Nat} {keys : List Nat} (h : ChangesRegs (s.modCx fun x => x.count k) t len keys) :
    ChangesRegs s t len keys := by
  obtain ⟨⟨ht, -⟩, hrest, ⟨hpc, hpfx, hwait⟩, ⟨hstat, hrnd⟩, hg, hv, hp, he, hb⟩ := h
  have hcx : (s.modCx fun x => x.count k).cx = s.cx.count k := State.cx_modCx _ _
  rw [State.modCx_modCx] at ht
  rw [hcx] at hrest hpc hpfx hstat hrnd
  refine ⟨?_, hrest, ⟨hpc, hpfx, hwait⟩, ⟨hstat, hrnd⟩, fun n hn => ?_, fun n hn => ?_, fun n hn => ?_, fun n hn => ?_, fun n hn => ?_⟩
  · rw [ht]; exact onlyContext_modCx s _
  · rw [hg n hn, readG_modCx]; rfl
  · rw [hv n hn, readV_modCx]; rfl
  · rw [hp n hn, readP_modCx]; rfl
  · rw [he n hn, readE_modCx]; rfl
  · rw [hb n hn, readB_modCx]; rfl

theorem givesAfter_of_count_done {k : Nat} (h : exec i s = (u.modCx fun x => x.count k).done st) : GivesAfter i s u 4 :=
  ⟨_, h, ChangesRegs.of_count (changesRegs_retire _ 4 st.toNat)⟩

theorem givesGAfter_of_count_result {k l : Nat} {w : Word} (h : exec i s = (u.modCx fun x => x.count k).result st d w l) :
    GivesGAfter i s u 4 d w := by
  obtain ⟨t, ht, hw, hc⟩ := result_spec (u.modCx fun x => x.count k) st d w l
  exact ⟨t, h.trans ht, hw, ChangesRegs.of_count hc⟩

/-! ### Slots (R297, R298) -/

theorem SMap.mem_put_self {α : Type} (m : SMap α) (k : Nat) (x : α) : (k, x) ∈ SMap.put m k x := by
  induction m with
  | nil => exact List.mem_singleton_self _
  | cons e m ih =>
    obtain ⟨j, y⟩ := e
    rw [SMap.put]
    split
    · exact List.mem_cons_of_mem _ ih
    · split <;> exact List.mem_cons_self

/-- The engine with accumulator slot c holding v. -/
def Matrix.withAcc (x : Matrix) (c v : Nat) : Matrix := { x with acc := SMap.put x.acc c (.ofNat 32768 v) }
/-- The engine with accumulator slot c claimed by context k and holding v. -/
def Matrix.claimAcc (x : Matrix) (c k v : Nat) : Matrix :=
  { x with owner := SMap.put x.owner (accKey c) k, acc := SMap.put x.acc c (.ofNat 32768 v) }.mend (accKey c)

theorem toNat_ofNat_of_lt {n v : Nat} (h : v < 2 ^ n) : (BitVec.ofNat n v).toNat = v := by rw [BitVec.toNat_ofNat, Nat.mod_eq_of_lt h]

theorem Matrix.accBits_withAcc_same (x : Matrix) (c : Nat) {v : Nat} (h : v < 2 ^ (32 * 1024)) : (x.withAcc c v).accBits c = v := by
  unfold Matrix.accBits Matrix.withAcc
  rw [SMap.get_put_same]
  exact toNat_ofNat_of_lt (n := 32 * 1024) h

theorem Matrix.accBits_withAcc_other (x : Matrix) {c j : Nat} (v : Nat) (h : j ≠ c) : (x.withAcc c v).accBits j = x.accBits j :=
  congrArg BitVec.toNat (SMap.get_put_other _ _ _ h)

theorem Matrix.accBits_claimAcc (x : Matrix) (c k v j : Nat) : (x.claimAcc c k v).accBits j = (x.withAcc c v).accBits j := rfl

/-- A slot claimed for a context is owned by it. -/
theorem Matrix.owns_claimAcc (x : Matrix) (c k v : Nat) : (x.claimAcc c k v).owns (accKey c) k = true :=
  List.any_eq_true.mpr ⟨(accKey c, k), SMap.mem_put_self _ _ _, by simp⟩

/-- The accumulator check: the register names a slot below 16 that the context owns. -/
theorem accCheck_iff (s : State) (w : Word) :
    (decide (15 < w.toNat) || !s.me.matrix.owns (accKey w.toNat) s.curCtx) = true ↔ ¬(w.toNat < 16 ∧ s.me.matrix.owns (16 + w.toNat) s.curCtx = true) := by
  simp only [Bool.or_eq_true, decide_eq_true_eq, Bool.not_eq_true', accKey, not_and, Bool.not_eq_true]
  constructor
  · rintro (h | h)
    · intro h16; omega
    · exact fun _ => h
  · intro h
    by_cases h16 : w.toNat < 16
    · exact .inr (h h16)
    · exact .inl (by omega)

/-! ### The checks of mma and mma.z (R302, R303) -/

/-- The formats of R303: two formats of the engine with rows of the same length. -/
def State.productFormats (s : State) : Prop :=
  let fa := s.cx.f1.getD s.mfa
  let fb := s.cx.f2.getD s.mfb
  3 ≤ fa ∧ fa ≤ 9 ∧ 3 ≤ fb ∧ fb ≤ 9 ∧ matK fa = matK fb

/-- Both operand slots are owned by the issuing context. -/
def State.ownsOperands (s : State) (o q : BitVec 4) : Prop :=
  s.me.matrix.owns o.toNat s.curCtx = true ∧ s.me.matrix.owns q.toNat s.curCtx = true

theorem productFormats_check (s : State) :
    (!matFmt (s.cx.f1.getD s.mfa) || !matFmt (s.cx.f2.getD s.mfb) || matK (s.cx.f1.getD s.mfa) != matK (s.cx.f2.getD s.mfb)) = true ↔
      ¬s.productFormats := by
  unfold State.productFormats matFmt
  simp only [Bool.or_eq_true, Bool.not_eq_true', Bool.and_eq_false_iff, decide_eq_false_iff_not, bne_iff_ne]
  tauto

theorem ownsOperands_check (s : State) (o q : BitVec 4) :
    (!s.me.matrix.owns o.toNat s.curCtx || !s.me.matrix.owns q.toNat s.curCtx) = true ↔ ¬s.ownsOperands o q := by
  unfold State.ownsOperands
  rw [Bool.or_eq_true, Bool.not_eq_true', Bool.not_eq_true', not_and_or, Bool.not_eq_true, Bool.not_eq_true]

/-- The number of tile steps less one, in the shape operand (R302). -/
theorem wfld_steps (sh : Word) : wfld sh 0 2 = sh.toNat % 4 := congrArg (· % 4) (Nat.div_one _)

/-- The checks of mma and mma.z up to the operand slots, and what follows them. -/
theorem mmaChecks_spec {sh : Word} {cs : List (Bool × FaultRec)} {out : Out} (h : exec i s = s.check (s.mmaChecks o q sh ++ cs) out) :
    (¬s.productFormats → Traps i s { cause := 0x60 }) ∧
    (s.productFormats → matK (s.cx.f1.getD s.mfa) / 32 - 1 < sh.toNat % 4 → Traps i s { cause := 0x65 }) ∧
    (s.productFormats → sh.toNat % 4 ≤ matK (s.cx.f1.getD s.mfa) / 32 - 1 →
      (¬s.ownsOperands o q → Traps i s { cause := 0x64 }) ∧ (s.ownsOperands o q → exec i s = s.check cs out)) := by
  have hsteps : wfld sh 0 2 = sh.toNat % 4 := wfld_steps sh
  have hformats := productFormats_check s
  have howns := ownsOperands_check s o q
  simp only [State.mmaChecks, State.matFmts, chk, List.cons_append, List.nil_append, State.check_cons, decide_eq_true_eq, hsteps] at h
  refine ⟨fun h1 => ?_, fun h1 h2 => ?_, fun h1 h2 => ⟨fun h3 => ?_, fun h3 => ?_⟩⟩
  · exact h.trans (if_pos (hformats.mpr h1))
  · exact (h.trans (if_neg (mt hformats.mp (not_not.mpr h1)))).trans (if_pos h2)
  · exact ((h.trans (if_neg (mt hformats.mp (not_not.mpr h1)))).trans (if_neg (Nat.not_lt.mpr h2))).trans (if_pos (howns.mpr h3))
  · exact ((h.trans (if_neg (mt hformats.mp (not_not.mpr h1)))).trans (if_neg (Nat.not_lt.mpr h2))).trans (if_neg (mt howns.mp (not_not.mpr h3)))

section

variable (s o q) (sh : Word)

/-- The operand rows that a product reads hold no uncorrectable error (R355). -/
def State.operandsGood : Prop :=
  s.me.matrix.badIn o.toNat 0 (16 * (sh.toNat / 256 % 32 + 1)) = false ∧ s.me.matrix.badIn q.toNat 0 (16 * (sh.toNat / 65536 % 32 + 1)) = false

theorem operandsBad_eq_false (hformats : s.productFormats) (hsteps : sh.toNat % 4 ≤ matK (s.cx.f1.getD s.mfa) / 32 - 1)
    (hgood : s.operandsGood o q sh) : s.operandsBad o q sh = false := by
  obtain ⟨ha3, ha9, hb3, hb9, hK⟩ := hformats
  obtain ⟨ha, hb⟩ := hgood
  have hks : wfld sh 0 2 = sh.toNat % 4 := wfld_steps sh
  rw [← hks] at hsteps
  exact Bool.or_eq_false_iff.mpr ⟨badRows_eq_false ha (matDws_lt ha3 ha9 hsteps), badRows_eq_false hb (matDws_lt hb3 hb9 (hK ▸ hsteps))⟩

theorem tileBad_eq_false {c : Nat} (hgood : s.me.matrix.badIn (16 + c) 0 (16 * (sh.toNat / 256 % 32 + 1)) = false) : s.tileBad c sh = false := by
  refine badRows_eq_false hgood fun d hd => ?_
  have hcol := fld_lt sh.toNat 16 5
  have hd' := List.mem_range.mp hd
  unfold wfld at hd'
  omega

/-- Element (m, n) of the accumulator after the product, where it held old (R94, R303). -/
def State.productElem (m n old : Nat) : Nat :=
  if m ≤ sh.toNat / 256 % 32 ∧ n ≤ sh.toNat / 65536 % 32 then
    (List.range (sh.toNat % 4 + 1)).foldl (fun acc g =>
      tileElem (s.cx.f1.getD s.mfa) (s.cx.f2.getD s.mfb) (s.me.matrix.opBits o.toNat) (s.me.matrix.scale o.toNat) (s.me.matrix.opBits q.toNat)
        (s.me.matrix.scale q.toNat) m n g acc) old
  else old

theorem product_lt (c : Nat) : s.product o q sh c < 2 ^ (32 * 1024) := tileSteps_lt _ _ _ _ _ _ _ _ _ _

theorem accElem_product (c : Nat) {m n : Nat} (hm : m < 32) (hn : n < 32) :
    accElem (s.product o q sh c) m n = s.productElem o q sh m n (accElem c m n) := by
  have hsteps : wfld sh 0 2 = sh.toNat % 4 := wfld_steps sh
  rw [State.productElem, ← hsteps]
  exact accElem_tileSteps _ _ _ _ _ _ _ _ _ _ hm hn

end

/-! ### mma and mma.z (R303) -/

section

variable (hpow : s.me.matrix.powered = true)
include hpow

theorem exec_mma (st : BitVec 3) (d : BitVec 5) (o q : BitVec 4) (e : BitVec 3) : exec (.mma st d o q e) s =
    s.check (s.mmaChecks o q (s.readE e) ++ [s.accCheck (s.readG d), chk (s.operandsBad o q (s.readE e) || s.tileBad (s.readG d).toNat (s.readE e)) 0xA6])
      (((s.modMatrix fun x => x.withAcc (s.readG d).toNat (s.product o q (s.readE e) (x.accBits (s.readG d).toNat))).modCx
        fun x => x.count 5).done st) := if_pos hpow

/-- mma whose register names no accumulator slot of the context. -/
theorem mma_traps_slot (hformats : s.productFormats) (hsteps : (s.readE e).toNat % 4 ≤ matK (s.cx.f1.getD s.mfa) / 32 - 1)
    (hown : s.ownsOperands o q) (h : ¬((s.readG d).toNat < 16 ∧ s.me.matrix.owns (16 + (s.readG d).toNat) s.curCtx = true)) :
    Traps (.mma st d o q e) s { cause := 0x64 } := by
  have hexec := (((mmaChecks_spec (exec_mma hpow st d o q e)).2.2 hformats hsteps).2 hown)
  rw [State.accCheck, chk, State.check_cons] at hexec
  exact hexec.trans (if_pos ((accCheck_iff s _).mpr h))

/-- A product into an accumulator slot that the context owns. -/
theorem mma_gives (hformats : s.productFormats) (hsteps : (s.readE e).toNat % 4 ≤ matK (s.cx.f1.getD s.mfa) / 32 - 1) (hown : s.ownsOperands o q)
    (hc : (s.readG d).toNat < 16) (hacc : s.me.matrix.owns (16 + (s.readG d).toNat) s.curCtx = true) (hgood : s.operandsGood o q (s.readE e))
    (haccGood : s.me.matrix.badIn (16 + (s.readG d).toNat) 0 (16 * ((s.readE e).toNat / 256 % 32 + 1)) = false) :
    ∃ u, GivesAfter (.mma st d o q e) s u 4 ∧ OnlyMatrix s u ∧
      (∀ m < 32, ∀ n < 32, accElem (u.me.matrix.accBits (s.readG d).toNat) m n =
        s.productElem o q (s.readE e) m n (accElem (s.me.matrix.accBits (s.readG d).toNat) m n)) ∧
      u.me.matrix = { s.me.matrix with acc := u.me.matrix.acc } ∧
      ∀ j, j ≠ (s.readG d).toNat → u.me.matrix.accBits j = s.me.matrix.accBits j := by
  have hexec := (((mmaChecks_spec (exec_mma hpow st d o q e)).2.2 hformats hsteps).2 hown)
  rw [State.accCheck, chk, chk, State.check_cons, State.check_cons, State.check_nil, if_neg (fun h => (accCheck_iff s _).mp h ⟨hc, hacc⟩),
    operandsBad_eq_false s o q _ hformats hsteps hgood, tileBad_eq_false s _ haccGood] at hexec
  have hme := s.me_modMatrix fun x => x.withAcc (s.readG d).toNat (s.product o q (s.readE e) (x.accBits (s.readG d).toNat))
  refine ⟨_, givesAfter_of_count_done hexec, onlyMatrix_modMatrix s _, fun m hm n hn => ?_, ?_, fun j hj => ?_⟩
  · rw [hme, Matrix.accBits_withAcc_same _ _ (product_lt s o q _ _), accElem_product s o q _ _ hm hn]
  · rw [hme]; rfl
  · rw [hme]; exact Matrix.accBits_withAcc_other _ _ hj

theorem exec_mmaZ_none (hnone : ∀ n < 16, s.me.matrix.free (16 + n) = false) :
    exec (.mmaZ st d o q e) s = s.check (s.mmaChecks o q (s.readE e)) (s.trap 0x66) := by
  have hfind : ((List.range 16).find? fun n => s.me.matrix.free (accKey n)) = none := by
    rw [List.find?_eq_none]
    intro n hn
    rw [accKey, hnone n (List.mem_range.mp hn)]
    exact Bool.false_ne_true
  refine (if_pos hpow).trans ?_
  rw [hfind]

/-- mma.z with no free accumulator slot. -/
theorem mmaZ_traps_full (hformats : s.productFormats) (hsteps : (s.readE e).toNat % 4 ≤ matK (s.cx.f1.getD s.mfa) / 32 - 1)
    (hown : s.ownsOperands o q) (hnone : ∀ n < 16, s.me.matrix.free (16 + n) = false) : Traps (.mmaZ st d o q e) s { cause := 0x66 } :=
  ((mmaChecks_spec (cs := []) ((exec_mmaZ_none hpow hnone).trans (congrArg (State.check s · _) (List.append_nil _).symm))).2.2 hformats hsteps).2 hown

theorem exec_mmaZ_some {c : Nat} (hc : c < 16) (hfree : s.me.matrix.free (16 + c) = true) (hlow : ∀ n < c, s.me.matrix.free (16 + n) = false) :
    exec (.mmaZ st d o q e) s = s.check (s.mmaChecks o q (s.readE e) ++ [chk (s.operandsBad o q (s.readE e)) 0xA6])
      (((s.modMatrix fun x => x.claimAcc c s.curCtx (s.product o q (s.readE e) 0)).modCx fun x => x.count 5).result st d (.ofNat 64 c) 0) := by
  have hfind : ((List.range 16).find? fun n => s.me.matrix.free (accKey n)) = some c := by
    rw [List.find?_range_eq_some]
    exact ⟨hfree, List.mem_range.mpr hc, fun n hn => by rw [accKey, hlow n hn]; rfl⟩
  refine (if_pos hpow).trans ?_
  rw [hfind]
  rfl

/-- Whatever slots are free, mma.z makes the checks of mma first. -/
theorem exec_mmaZ_checks (st : BitVec 3) (d : BitVec 5) (o q : BitVec 4) (e : BitVec 3) :
    ∃ cs out, exec (.mmaZ st d o q e) s = s.check (s.mmaChecks o q (s.readE e) ++ cs) out := by
  by_cases hnone : ∀ n < 16, s.me.matrix.free (16 + n) = false
  · exact ⟨[], _, by rw [List.append_nil]; exact exec_mmaZ_none hpow hnone⟩
  · push Not at hnone
    let c := Nat.find hnone
    obtain ⟨hc, hfree⟩ := Nat.find_spec hnone
    refine ⟨_, _, exec_mmaZ_some hpow hc (by simpa using hfree) fun n hn => ?_⟩
    have hmin := Nat.find_min hnone hn
    by_contra hn'
    exact hmin ⟨hn.trans hc, hn'⟩

/-- A product into the lowest-numbered free accumulator slot. -/
theorem mmaZ_gives (hformats : s.productFormats) (hsteps : (s.readE e).toNat % 4 ≤ matK (s.cx.f1.getD s.mfa) / 32 - 1) (hown : s.ownsOperands o q)
    (hgood : s.operandsGood o q (s.readE e)) {c : Nat} (hc : c < 16) (hfree : s.me.matrix.free (16 + c) = true)
    (hlow : ∀ n < c, s.me.matrix.free (16 + n) = false) :
    ∃ u, GivesGAfter (.mmaZ st d o q e) s u 4 d (.ofNat 64 c) ∧ OnlyMatrix s u ∧
      (∀ m < 32, ∀ n < 32, accElem (u.me.matrix.accBits c) m n = s.productElem o q (s.readE e) m n 0) ∧
      u.me.matrix.owns (16 + c) s.curCtx = true ∧ u.me.matrix.operand = s.me.matrix.operand ∧ u.me.matrix.ssc = s.me.matrix.ssc ∧
      ∀ j, j ≠ c → u.me.matrix.accBits j = s.me.matrix.accBits j := by
  have hexec := (((mmaChecks_spec (exec_mmaZ_some (st := st) (d := d) hpow hc hfree hlow)).2.2 hformats hsteps).2 hown)
  rw [chk, State.check_cons, State.check_nil, operandsBad_eq_false s o q _ hformats hsteps hgood] at hexec
  have hme := s.me_modMatrix fun x => x.claimAcc c s.curCtx (s.product o q (s.readE e) 0)
  have hzero : ∀ m n, accElem 0 m n = 0 := fun m n => by rw [accElem, fld, Nat.zero_div, Nat.zero_mod]
  refine ⟨_, givesGAfter_of_count_result hexec, onlyMatrix_modMatrix s _, fun m hm n hn => ?_, ?_, ?_, ?_, fun j hj => ?_⟩
  · rw [hme, Matrix.accBits_claimAcc, Matrix.accBits_withAcc_same _ _ (product_lt s o q _ _), accElem_product s o q _ _ hm hn, hzero]
  · rw [hme]; exact Matrix.owns_claimAcc s.me.matrix c s.curCtx _
  · rw [hme]; rfl
  · rw [hme]; rfl
  · rw [hme]; exact Matrix.accBits_withAcc_other s.me.matrix _ hj

end

end Sys2Proof.Machine
end

section
/-! SUPPORT. Requests about statistics records (R102, R103, R287), and element stores into local memory, one after another (R259). -/

namespace Sys2Proof.Machine

variable {i : Instr} {s t u : State} {n : Nat} {b : Body}

/-! ### A request to a record's home (R136, R287) -/

/-- The transaction of a request about record n. -/
def State.recordTx (s : State) (n : Nat) (b : Body) : Tx :=
  (s.recordPacket s.curCore s.curCtx n b).recordTx s.curCtx s.me.txSeq.toNat none

/-- The packet of a request about record n, with the id of its transaction. -/
def State.recordRequest (s : State) (n : Nat) (b : Body) : Packet :=
  { s.recordPacket s.curCore s.curCtx n b with seq := s.me.txSeq.toNat, first := s.me.txSeq.toNat, xfer := none }

theorem slk_recordPacket (s : State) (n : Nat) (b : Body) :
    (s.recordPacket s.curCore s.curCtx n b).slk = s.slkOf 0 ∧ (s.recordPacket s.curCore s.curCtx n b).slack = slkInit (s.slkOf 0) ∧
    (s.recordPacket s.curCore s.curCtx n b).rallow = slkRallow (s.slkOf 0) := by
  simp [State.recordPacket]

/-- A request that neither the router nor the window holds back is in flight, and its context waits for the answer. -/
theorem sendRecord_eq (hroom : s.heldBack s.curCore (s.recordPacket s.curCore s.curCtx n b).home = none) :
    ∃ f : Ctx → Ctx, (∀ x, f x = { x with wait := .sent (2 * s.me.txSeq.toNat + 1), snap := (f x).snap }) ∧
      s.sendRecord n b = .next (s.sent (s.me.opened s.curCtx (s.recordTx n b) s.me.flowSeq f) (s.recordRequest n b)) := by
  let sends := (s.modMe fun c => (c.modCx s.curCtx fun x => x.count 4).opens (s.recordTx n b)).send (s.recordRequest n b)
  let f : Ctx → Ctx := fun x => { x with wait := .sent (2 * s.me.txSeq.toNat + 1), snap := some sends.atIssue }
  refine ⟨f, fun _ => rfl, ?_⟩
  have hcounted : (s.modCx fun x => x.count 4).me = s.me.modCx s.curCtx fun x => x.count 4 := State.me_modCx s _
  have hblock : s.sendRecord n b = .next (sends.modCx f) := by
    unfold State.sendRecord
    dsimp only
    rw [hroom]
    have hopen : (s.modCx fun x => x.count 4).sendRecordTx (s.recordPacket s.curCore s.curCtx n b) s.curCtx none = sends := by
      show State.send ((s.modCx fun x => x.count 4).modMe fun c => c.opens
        (Packet.recordTx _ s.curCtx ((s.modCx fun x => x.count 4).me).txSeq.toNat none))
        { s.recordPacket s.curCore s.curCtx n b with
          seq := ((s.modCx fun x => x.count 4).me).txSeq.toNat, first := ((s.modCx fun x => x.count 4).me).txSeq.toNat, xfer := none } = _
      rw [hcounted]
      exact congrArg (State.send · (s.recordRequest n b)) (State.modMe_modMe s _ _)
    rw [hopen]
    rfl
  rw [hblock]
  refine congrArg Host.Outcome.next ((State.send_modCx s (fun c => (c.modCx s.curCtx fun x => x.count 4).opens (s.recordTx n b)) _ f).trans
    (congrArg (fun c => s.sent c _) ?_))
  simp only [Core.modCx, Core.opens, Core.opened, Core.cx, SMap.get_put_same, SMap.put_put]
  rfl

/-- A context that sends a request about a record asks the record's home (R287). -/
theorem asksHome_of_sendRecord (h : exec i s = s.sendRecord n b) : AsksHome i s n b := by
  let home := s.homeAtIssue (s.partOf s.curCore) (s.recordVa s.curCore n)
  have hback : s.heldBack s.curCore (s.recordPacket s.curCore s.curCtx n b).home =
      if s.me.choked then some .router else if s.me.windowFull home.key then some (.window home.key) else none := rfl
  unfold AsksHome
  refine ⟨fun hchoked => ?_, fun hfree hfull => ?_, fun hfree hopen => ?_⟩
  · rw [if_pos hchoked] at hback
    rw [State.sendRecord, hback] at h
    exact h
  · rw [if_neg (Bool.not_eq_true _ ▸ hfree), if_pos hfull] at hback
    rw [State.sendRecord, hback] at h
    exact h
  · rw [if_neg (Bool.not_eq_true _ ▸ hfree), if_neg (Bool.not_eq_true _ ▸ hopen)] at hback
    obtain ⟨f, hf, hsend⟩ := sendRecord_eq hback
    obtain ⟨honly, hcx⟩ := onlySent_opened (s := s) (s.recordRequest n b) (s.recordTx n b) s.me.flowSeq (f := f)
      (by rw [hf]; rfl) (fun y => by rw [hf]) (fun y => by rw [hf]) (fun y => by rw [hf]) (fun y => by rw [hf]) fun y => by rw [hf]
    obtain ⟨hslk, hslack, hrallow⟩ := slk_recordPacket s n b
    have hme := State.me_sent s (s.me.opened s.curCtx (s.recordTx n b) s.me.flowSeq f) (s.recordRequest n b)
    refine ⟨_, s.recordTx n b, s.recordRequest n b, h.trans hsend, honly,
      ⟨rfl, rfl, rfl, rfl, rfl, rfl, rfl, ?_, hrallow, rfl, rfl, hslk, rfl, rfl, rfl⟩, ?_, ?_, rfl, rfl, rfl, rfl, rfl, rfl, rfl, ?_, ?_, ?_, ?_⟩
    · refine hslack.trans ?_
      rw [slkInit, fld, pow_zero, Nat.div_one]; rfl
    · rw [hme]; rfl
    · rw [hme]; rfl
    · rw [hcx, hf]
    · rw [hcx, hf]; rfl
    · rw [hcx, hf]; rfl
    · rw [hcx, hf]; rfl

/-- The 64 bytes of a record, from the data of its home's answer. -/
theorem recordOf_eq (data : List Word) : recordOf data = dwordsNum (data.take 8) := by
  have h : ∀ (ws : List Word) (k a : Nat), (ws.zipIdx k).foldl (fun a e => a + e.1.toNat * 2 ^ (64 * e.2)) a = a + 2 ^ (64 * k) * dwordsNum ws := by
    intro ws
    induction ws with
    | nil => intro k a; rfl
    | cons w ws ih =>
      intro k a
      rw [List.zipIdx_cons, List.foldl_cons, ih, Nat.mul_succ, pow_add]
      show _ = a + 2 ^ (64 * k) * (w.toNat + 2 ^ 64 * dwordsNum ws)
      ring
  exact (h (data.take 8) 0 0).trans (by rw [Nat.mul_zero, pow_zero, Nat.zero_add, Nat.one_mul])

/-! ### Accumulator entries (R102, R103) -/

variable {c : Core} {q : Nat}

/-- The core with an entry for record n, filled from the record's bytes q if it had none. -/
def Core.filled (c : Core) (n q : Nat) : Core := if (c.statEntry n).isSome then c else { c with stats := c.stats ++ [entryOf n q] }

theorem recid_of_statEntry {en : StatEntry} (h : c.statEntry n = some en) : en.recid = n := by
  simpa using List.find?_some h

/-- The entry that a core uses for record n is one for record n. -/
theorem recid_getD_entryOf (c : Core) (n q : Nat) : ((c.statEntry n).getD (entryOf n q)).recid = n := by
  cases h : c.statEntry n with
  | none => rfl
  | some en => exact recid_of_statEntry h

theorem statEntry_filled (c : Core) (n q : Nat) : (c.filled n q).statEntry n = some ((c.statEntry n).getD (entryOf n q)) := by
  unfold Core.filled
  cases h : c.statEntry n with
  | none =>
    unfold Core.statEntry at h
    simp [Core.statEntry, List.find?_append, h, entryOf]
  | some en => exact h

/-- What filling an entry and replacing it leave of the core. -/
theorem setEntry_filled_rest (c : Core) (n q : Nat) (en : StatEntry) :
    ((c.filled n q).setEntry en).ctx = c.ctx ∧ ((c.filled n q).setEntry en).matrix = c.matrix ∧ ((c.filled n q).setEntry en).mem = c.mem ∧
      ((c.filled n q).setEntry en).job = c.job := by
  unfold Core.setEntry Core.filled
  split <;> exact ⟨rfl, rfl, rfl, rfl⟩

/-- In a list with an entry for a record, the entry put in its place is the one found. -/
theorem find?_map_replace {en : StatEntry} {l : List StatEntry} (h : (l.find? fun e => e.recid == en.recid).isSome = true) :
    (l.map fun e => if e.recid == en.recid then en else e).find? (fun e => e.recid == en.recid) = some en := by
  induction l with
  | nil => exact absurd h Bool.false_ne_true
  | cons y ys ih =>
    by_cases hy : (y.recid == en.recid) = true
    · rw [List.map_cons, if_pos hy]
      exact List.find?_cons_of_pos (p := fun e : StatEntry => e.recid == en.recid) (beq_self_eq_true _)
    · rw [List.find?_cons_of_neg (p := fun e : StatEntry => e.recid == en.recid) hy] at h
      rw [List.map_cons, if_neg hy, List.find?_cons_of_neg (p := fun e : StatEntry => e.recid == en.recid) hy]
      exact ih h

theorem statEntry_setEntry {en : StatEntry} (h : (c.statEntry en.recid).isSome = true) : (c.setEntry en).statEntry en.recid = some en :=
  find?_map_replace h

/-- Contributions change the sums of an entry, not what it counts as an excess (R102). -/
theorem contributeAll_map (en : StatEntry) (v : Nat → Val) (es : List Nat) :
    en.contributeAll (es.map v) = (es.foldl (fun z k => z.contribute (v k)) en, es.countP fun k => en.excess (v k)) := by
  have h : ∀ (es : List Nat) (z : StatEntry) (k : Nat), z.excess = en.excess →
      (es.map v).foldl (fun (r : StatEntry × Nat) v => (r.1.contribute v, if r.1.excess v then r.2 + 1 else r.2)) (z, k) =
        (es.foldl (fun z k => z.contribute (v k)) z, k + es.countP fun k => en.excess (v k)) := by
    intro es
    induction es with
    | nil => exact fun z k _ => rfl
    | cons j es ih =>
      intro z k hz
      rw [List.map_cons, List.foldl_cons, List.foldl_cons, List.countP_cons, ih _ _ (show (z.contribute (v j)).excess = _ from hz), hz]
      by_cases hv : en.excess (v j) = true
      · rw [if_pos hv, if_pos hv, Nat.add_right_comm, Nat.add_assoc]
      · rw [if_neg hv, if_neg hv, Nat.add_zero]
  exact (h es en 0 rfl).trans (by rw [Nat.zero_add])

theorem recid_contributions (en : StatEntry) (v : Nat → Val) (es : List Nat) :
    (es.foldl (fun z k => z.contribute (v k)) en).recid = en.recid := by
  induction es generalizing en with
  | nil => rfl
  | cons k es ih => rw [List.foldl_cons, ih]; rfl

/-- A core that has an entry for record n, or room for one, needs no victim (R103). -/
theorem victim_eq_none (h : s.me.statEntry n = none → s.me.stats.length < 8) : s.victim s.curCore n = none := by
  unfold State.victim
  refine if_pos ?_
  show ((s.me.statEntry n).isSome || decide (s.me.stats.length < 8)) = true
  cases hen : s.me.statEntry n with
  | none => rw [decide_eq_true (h hen), Bool.or_true]
  | some en => rfl

theorem unlessNoEntry_eq (h : s.me.statEntry n = none → s.me.stats.length < 8) (o : Out) : s.unlessNoEntry n o = o := by
  unfold State.unlessNoEntry State.fillHeld
  rw [victim_eq_none h]
  rfl

theorem fillEntry_modMe (h : s.me.statEntry n = none → s.me.stats.length < 8) (k q : Nat) (g : Core → Core) :
    (s.fillEntry s.curCore k n q).modMe g = s.modMe fun c => g (c.filled n q) := by
  unfold State.fillEntry
  split
  · next hsome => exact State.modMe_congr (congrArg g (if_pos hsome).symm)
  · next hnone =>
    rw [victim_eq_none h]
    refine (State.modMe_modMe s _ g).trans (State.modMe_congr (congrArg g ?_))
    exact (if_neg hnone).symm

theorem me_fillEntry (h : s.me.statEntry n = none → s.me.stats.length < 8) (k q : Nat) : (s.fillEntry s.curCore k n q).me = s.me.filled n q := by
  have hmod := congrArg State.me (fillEntry_modMe h k q id)
  have hcur : (s.fillEntry s.curCore k n q).curCore = s.curCore := by
    unfold State.fillEntry
    split
    · rfl
    · rw [victim_eq_none h]; rfl
  rwa [State.me_modMe, State.me_modMe] at hmod

/-! ### Stores of elements (R259) -/

section

variable (n : Nat) (addr : Nat → Word) (x : Nat → Nat)

/-- The core with n bytes of each number x k stored at addr k, one after another. -/
def Core.putElements (c : Core) (es : List Nat) : Core := es.foldl (fun c k => c.put (addr k).toNat (leBytes n (x k))) c

/-- The same of the issuing core, by the stores of its instruction. -/
def State.storeElements (s : State) (es : List Nat) : State := es.foldl (fun s k => s.store (addr k).toNat n (x k)) s

theorem storeElements_modMe (s : State) (es : List Nat) (g : Core → Core) :
    (s.storeElements n addr x es).modMe g = s.modMe fun c => g (c.putElements n addr x es) := by
  induction es generalizing s with
  | nil => rfl
  | cons k es ih =>
    refine (ih (s.store (addr k).toNat n (x k))).trans ?_
    exact State.modMe_modMe s _ _

/-- The stores of an instruction whose context then goes on. -/
theorem storeElements_modCx (s : State) (es : List Nat) (f : Ctx → Ctx) :
    (s.storeElements n addr x es).modCx f = (s.modMe fun c => c.putElements n addr x es).modCx f := by
  induction es generalizing s with
  | nil => exact (State.modMe_modMe s id fun c => c.modCx s.curCtx f).symm
  | cons k es ih =>
    refine (ih (s.store (addr k).toNat n (x k))).trans (congrArg (State.modCx · f) ?_)
    exact State.modMe_modMe s _ _

theorem curCore_storeElements (s : State) (es : List Nat) : (s.storeElements n addr x es).curCore = s.curCore := by
  induction es generalizing s with
  | nil => rfl
  | cons k es ih => exact ih (s.store (addr k).toNat n (x k))

theorem me_storeElements (s : State) (es : List Nat) : (s.storeElements n addr x es).me = s.me.putElements n addr x es := by
  have h := congrArg State.me (storeElements_modMe n addr x s es id)
  rwa [State.me_modMe, State.me_modMe] at h

theorem storedFrom_putElements (c : Core) (es : List Nat) : (c.putElements n addr x es).storedFrom c := by
  induction es generalizing c with
  | nil => rfl
  | cons k es ih => exact Core.storedFrom_trans (Core.storedFrom_put c _ _) (ih _)

theorem stats_putElements (c : Core) (es : List Nat) : (c.putElements n addr x es).stats = c.stats := by
  have h := storedFrom_putElements n addr x c es
  unfold Core.storedFrom at h
  rw [h]

/-- A byte that no element covers is as before. -/
theorem byte_putElements_outside (c : Core) {es : List Nat} {a : Nat} (h : ∀ k ∈ es, a < (addr k).toNat ∨ (addr k).toNat + n ≤ a) :
    Memory.byte (c.putElements n addr x es).mem a = Memory.byte c.mem a := by
  induction es generalizing c with
  | nil => rfl
  | cons k es ih =>
    have hk := h k List.mem_cons_self
    refine (ih (c.put (addr k).toNat (leBytes n (x k))) fun j hj => h j (List.mem_cons_of_mem _ hj)).trans ?_
    rw [Core.byte_put, length_leBytes, if_neg (by omega)]

/-- Elements stored in ascending order: of those that overlap the last one stands. -/
theorem elementsStored_of_putElements {s t : State} {es : List Nat} (hes : es.Pairwise (· < ·))
    (hmem : t.me.mem = (s.me.putElements n addr x es).mem) : ElementsStored s t es n addr x := by
  refine ⟨fun a h => by rw [hmem, byte_putElements_outside n addr x s.me h], fun k hk a hlo hhi hlast j hj => ?_⟩
  obtain ⟨es₁, es₂, rfl⟩ := List.append_of_mem hk
  have hafter : ∀ m ∈ es₂, k < m := (List.pairwise_cons.mp (List.pairwise_append.mp hes).2.1).1
  have hsplit : s.me.putElements n addr x (es₁ ++ k :: es₂) =
      ((s.me.putElements n addr x es₁).put (addr k).toNat (leBytes n (x k))).putElements n addr x es₂ := by
    rw [Core.putElements, List.foldl_append]; rfl
  rw [hmem, hsplit, byte_putElements_outside n addr x _ fun m hm => hlast m (by simp [hm]) (hafter m hm)]
  obtain ⟨r, rfl⟩ : ∃ r, a = (addr k).toNat + r := ⟨a - (addr k).toNat, by omega⟩
  rw [Nat.add_sub_cancel_left]
  exact Core.getLsbD_put_leBytes _ _ n (x k) (by omega) hj

end

/-! ### Checks that pass -/

theorem check_of_pass {cs : List (Bool × FaultRec)} (h : ∀ k ∈ cs, k.1 = false) (o : Out) : s.check cs o = o := by
  have hnone : cs.find? (fun k => k.1) = none := List.find?_eq_none.mpr fun k hk => by rw [h k hk]; exact Bool.false_ne_true
  rw [State.check, hnone]

/-- The checks of an element store whose elements may all be stored (R249, R261). -/
theorem laneChecks_pass {es : List Nat} {w : Nat} {addr : Nat → Word} (h : ∀ k ∈ es, Writable s (w / 8) (addr k)) :
    ∀ k ∈ s.laneChecks es w addr true, k.1 = false := by
  have hall : ∀ j ∈ es, ∀ k ∈ s.storeChecks (addr j) (w / 8) (w / 8) j, k.1 = false := by
    intro j hj k hk
    obtain ⟨hrange, halign, hprot, hbad⟩ := h j hj
    simp only [State.storeChecks, List.mem_cons, List.not_mem_nil, or_false] at hk
    rcases hk with rfl | rfl | rfl | rfl
    · exact decide_eq_false (Nat.not_lt.mpr hrange)
    · exact bne_eq_false_iff_eq.mpr halign
    · exact hprot
    · exact hbad
  intro k hk
  rcases List.mem_append.mp hk with hk | hk
  · obtain ⟨j, hj, hk⟩ := List.mem_flatMap.mp hk
    exact hall j hj k (List.mem_filter.mp hk).1
  · obtain ⟨j, hj, hk⟩ := List.mem_flatMap.mp hk
    exact hall j hj k (List.mem_filter.mp hk).1

end Sys2Proof.Machine
end

section
/-! SUPPORT. asto (R305): the record it reads, its checks, its stores, its contribution, and the state that it leaves. -/

namespace Sys2Proof.Machine

variable {s t u : State} {st : BitVec 3} {d a b : BitVec 5} {e : BitVec 3} {w : Word} {r : Option Nat} {c : Core} {q : Nat}

/-! ### The parts of asto -/

section

variable (s : State) (st : BitVec 3) (d a b : BitVec 5) (w : Word)

/-- Element k of the accumulator slot that asto stores, as a value. -/
def State.astoValue (k : Nat) : Val := decode 2 (fld (s.me.matrix.accBits (s.readG d).toNat) (32 * k) 32)

/-- The state with the 1,024 elements stored, in format f after the scale sc. -/
def State.astoStored (f sc : Nat) : State :=
  s.storeElements (fmtBits f / 8) (s.astoAddr a b (fmtBits f / 8)) (s.astoCode (s.readG d).toNat f sc) (List.range 1024)

/-- The contribution to a record with bytes q, in a state v that holds the stored elements, and its message (R102, R305). -/
def State.astoContributed (v : State) (q : Nat) : State :=
  let v := v.fillEntry s.curCore s.curCtx (tRecid w) q
  let en := (v.me.statEntry (tRecid w)).getD (entryOf (tRecid w) q)
  let z := en.contributeAll ((List.range 1024).map (s.astoValue d))
  let v := v.modMe fun c => c.setEntry z.1
  if en.rstrap && z.2 != 0 then v.engineFault (tEchan w) (tRecid w) z.2 else v

/-- asto in format f with scale sc, once it has the record that its tensor operand w names (R305). -/
def State.astoWith (r : Option Nat) (f sc : Nat) : Out :=
  s.check ([chk (r.isSome && decide (47 < tEchan w) && !s.isS) 0x42, chk (r.isNone && sc == 255) 0x63,
      chk (!(decide (1 ≤ f) && decide (f ≤ 6))) 0x60, chk (s.srForbidden s.rm) 0x0A] ++
      s.laneChecks (List.range 1024) (fmtBits f) (s.astoAddr a b (fmtBits f / 8)) true ++
      [chk (s.me.matrix.badIn (accKey (s.readG d).toNat) 0 512) 0xA6])
    ((if r.isSome then s.unlessNoEntry (tRecid w) else id)
      ((((match r with
          | none => s.astoStored d a b f sc
          | some q => s.astoContributed d w (s.astoStored d a b f sc) q).advance s.rm).countMem).done st))

end

/-- asto checks its slot, reads its record, and goes on with it. -/
theorem exec_asto (hpow : s.me.matrix.powered = true) (st : BitVec 3) (d a b : BitVec 5) (e : BitVec 3) : exec (.asto st d a b e) s =
    s.check [s.accCheck (s.readG d)]
      (if tRecen (s.readE e) && (s.me.statEntry (tRecid (s.readE e))).isNone && s.staleRecord then
        s.sendRecord (tRecid (s.readE e)) (.recRead (tRecid (s.readE e)))
      else s.withOptRecord (s.readE e) fun r =>
        s.astoWith st d a b (s.readE e) r (s.astoForm (s.readE e) r).1 (s.astoForm (s.readE e) r).2) := by
  refine (if_pos hpow).trans ?_
  dsimp only
  congr 3

section

variable (hpow : s.me.matrix.powered = true)
include hpow

theorem asto_traps_slot (h : ¬((s.readG d).toNat < 16 ∧ s.me.matrix.owns (16 + (s.readG d).toNat) s.curCtx = true)) :
    Traps (.asto st d a b e) s { cause := 0x64 } := by
  refine (exec_asto hpow st d a b e).trans ?_
  rw [State.accCheck, chk, State.check_cons]
  exact if_pos ((accCheck_iff s _).mpr h)

variable (hown : (s.readG d).toNat < 16 ∧ s.me.matrix.owns (16 + (s.readG d).toNat) s.curCtx = true)
include hown

theorem exec_asto_owned (st : BitVec 3) (a b : BitVec 5) (e : BitVec 3) : exec (.asto st d a b e) s =
    if tRecen (s.readE e) && (s.me.statEntry (tRecid (s.readE e))).isNone && s.staleRecord then
      s.sendRecord (tRecid (s.readE e)) (.recRead (tRecid (s.readE e)))
    else s.withOptRecord (s.readE e) fun r =>
      s.astoWith st d a b (s.readE e) r (s.astoForm (s.readE e) r).1 (s.astoForm (s.readE e) r).2 := by
  refine (exec_asto hpow st d a b e).trans ?_
  rw [State.accCheck, chk, State.check_cons, if_neg (fun h => (accCheck_iff s _).mp h hown), State.check_nil]

/-- asto whose record has not been read checks RECID and sends the read. -/
theorem exec_asto_unread (h : Unread s (s.readE e)) : exec (.asto st d a b e) s =
    s.check [(s.badRecid (tRecid (s.readE e)), recidRec (tRecid (s.readE e)))]
      (s.sendRecord (tRecid (s.readE e)) (.recRead (tRecid (s.readE e)))) := by
  obtain ⟨hrec, hwait⟩ := h
  have hstale : s.staleRecord = false := by
    unfold State.staleRecord
    split
    · next hgot => exact absurd hgot (hwait _ _)
    · rfl
  rw [exec_asto_owned hpow hown, hstale, Bool.and_false, if_neg Bool.false_ne_true, State.withOptRecord, if_pos hrec]
  unfold State.withRecord
  split
  · next hgot => exact absurd hgot (hwait _ _)
  · rfl

/-- asto that has its record, or needs none, goes on. -/
theorem exec_asto_recorded (h : RecordFor s (s.readE e) r)
    (hfresh : ∀ q, r = some q → s.me.statEntry (tRecid (s.readE e)) = none → Answered s q s.me.syncs) : exec (.asto st d a b e) s =
    s.astoWith st d a b (s.readE e) r (s.astoForm (s.readE e) r).1 (s.astoForm (s.readE e) r).2 := by
  rw [exec_asto_owned hpow hown]
  obtain ⟨hrec, rfl⟩ | ⟨hrec, q, n, ⟨k, data, hwait, hlen, hq, hsyncs⟩, rfl⟩ := h
  · rw [hrec, Bool.false_and, Bool.false_and, if_neg Bool.false_ne_true, State.withOptRecord, if_neg (by rw [hrec]; exact Bool.false_ne_true)]
  · have hgo : (tRecen (s.readE e) && (s.me.statEntry (tRecid (s.readE e))).isNone && s.staleRecord) = false := by
      cases hen : s.me.statEntry (tRecid (s.readE e)) with
      | some en => rw [Option.isNone_some, Bool.and_false, Bool.false_and]
      | none =>
        obtain ⟨k', data', hwait', -, -, hsyncs'⟩ := hfresh q rfl hen
        have hstale : s.staleRecord = false := by
          unfold State.staleRecord
          rw [hwait']
          exact bne_eq_false_iff_eq.mpr hsyncs'
        rw [hstale, Bool.and_false]
    rw [hgo, if_neg Bool.false_ne_true, State.withOptRecord, if_pos hrec, State.withRecord, hwait]
    dsimp only
    rw [recordOf_eq, ← hq]

end

/-! ### The state that asto leaves -/

/-- The context of an instruction that has stored elements rounded in mode m, and retired. -/
def Ctx.elementsDone (x : Ctx) (m stl : Nat) : Ctx :=
  let y := { x with rndctr := x.rndctr + if stochastic m then 1 else 0 }
  (y.count 3).goto (y.pc + .ofNat 64 4) stl

theorem advance_countMem_done (s : State) (m : Nat) (st : BitVec 3) :
    ((s.advance m).countMem).done st = .next (s.modCx fun x => x.elementsDone m st.toNat) := by
  unfold State.done State.retire State.countMem State.advance Ctx.elementsDone
  split
  · rw [State.modCx_modCx, State.modCx_modCx]; rfl
  · have hzero : ∀ y : Word, y + 0 = y := BitVec.add_zero
    simp only [State.modCx_modCx, hzero]
    rfl

/-- An instruction has left its core as c, with its context's registers as they were, and nothing beyond the core but packets. -/
structure ElementsEnd (s u : State) (c : Core) (m stl : Nat) : Prop where
  me : u.me = c.modCx s.curCtx fun x => x.elementsDone m stl
  curCtx : u.curCtx = s.curCtx
  gmem : u.gmem = s.gmem
  core : ∀ k, k ≠ s.curCore → u.core k = s.core k

theorem elementsEnd_modCx (s : State) (g : Core → Core) (m stl : Nat) :
    ElementsEnd s ((s.modMe g).modCx fun x => x.elementsDone m stl) (g s.me) m stl where
  me := by rw [State.me_modCx, State.me_modMe]; rfl
  curCtx := rfl
  gmem := rfl
  core k hk := (State.core_modMe_other (s.modMe g) _ hk).trans (State.core_modMe_other s g hk)

theorem elementsEnd_send (s : State) (g : Core → Core) (p : Packet) (m stl : Nat) :
    ElementsEnd s (((s.modMe g).send p).modCx fun x => x.elementsDone m stl) (g s.me) m stl where
  me := by rw [State.send_modCx, State.me_sent]
  curCtx := rfl
  gmem := rfl
  core k hk := by
    rw [State.send_modCx]
    exact State.core_modMe_other s (fun _ => (g s.me).modCx s.curCtx fun x => x.elementsDone m stl) hk

/-- What every instruction of that kind leaves. -/
theorem ElementsEnd.spec {m stl : Nat} (h : ElementsEnd s u c m stl) (hctx : c.ctx = s.me.ctx) :
    Retired s u 4 ∧ RegsSameBut s u [] ∧ u.cx.stat = clearPend s.cx.stat ∧ u.cx.rndctr = s.cx.rndctr + (if stochastic m then 1 else 0) := by
  have hcx : u.cx = s.cx.elementsDone m stl := by
    rw [State.cx, h.me, h.curCtx, Core.cx_modCx_same, Core.cx, hctx]; rfl
  refine ⟨by rw [Retired, hcx]; exact ⟨rfl, rfl, rfl⟩, ?_, by rw [hcx]; rfl, by rw [hcx]; rfl⟩
  unfold RegsSameBut State.readG State.readV State.readP State.readE State.readB
  rw [hcx]
  exact ⟨fun _ _ => rfl, fun _ _ => rfl, fun _ _ => rfl, fun _ _ => rfl, fun _ _ => rfl⟩

/-! ### The contribution (R102, R103) -/

/-- The core with the elements of asto stored. -/
def State.astoCore (s : State) (d a b : BitVec 5) (f sc : Nat) : Core :=
  s.me.putElements (fmtBits f / 8) (s.astoAddr a b (fmtBits f / 8)) (s.astoCode (s.readG d).toNat f sc) (List.range 1024)

/-- The entry to which asto contributes, and its sums with the 1,024 elements. -/
def State.astoEntry (s : State) (w : Word) (q : Nat) : StatEntry := (s.me.statEntry (tRecid w)).getD (entryOf (tRecid w) q)
def State.astoSums (s : State) (d : BitVec 5) (w : Word) (q : Nat) : StatEntry :=
  (List.range 1024).foldl (fun z k => z.contribute (s.astoValue d k)) (s.astoEntry w q)
/-- How many elements exceed the frozen limit of the entry. -/
def State.astoPast (s : State) (d : BitVec 5) (w : Word) (q : Nat) : Nat :=
  (List.range 1024).countP fun k => (s.astoEntry w q).excess (s.astoValue d k)

theorem contributeAll_asto (s : State) (d : BitVec 5) (w : Word) (q : Nat) :
    (s.astoEntry w q).contributeAll ((List.range 1024).map (s.astoValue d)) = (s.astoSums d w q, s.astoPast d w q) :=
  contributeAll_map (s.astoEntry w q) (s.astoValue d) (List.range 1024)

theorem recid_astoSums (s : State) (d : BitVec 5) (w : Word) (q : Nat) : (s.astoSums d w q).recid = tRecid w :=
  (recid_contributions _ _ _).trans (recid_getD_entryOf _ _ _)

section

variable (s : State) (d a b : BitVec 5) (f sc : Nat)

theorem rest_astoCore : (s.astoCore d a b f sc).ctx = s.me.ctx ∧ (s.astoCore d a b f sc).matrix = s.me.matrix ∧
    (s.astoCore d a b f sc).job = s.me.job := by
  have hstored : (s.astoCore d a b f sc).storedFrom s.me := storedFrom_putElements _ _ _ _ _
  unfold Core.storedFrom at hstored
  rw [hstored]
  exact ⟨rfl, rfl, rfl⟩

theorem me_astoStored : (s.astoStored d a b f sc).me = s.astoCore d a b f sc := me_storeElements _ _ _ _ _

theorem stats_astoCore : (s.astoCore d a b f sc).stats = s.me.stats := stats_putElements _ _ _ _ _

/-- The core after asto with a record: its elements stored, the record's entry with their sums. -/
def State.astoSummed (w : Word) (q : Nat) : Core :=
  ((s.astoCore d a b f sc).filled (tRecid w) q).setEntry (s.astoSums d w q)

theorem statEntry_astoSummed (w : Word) (q : Nat) : (s.astoSummed d a b f sc w q).statEntry (tRecid w) = some (s.astoSums d w q) := by
  have hrecid := recid_astoSums s d w q
  have hfound : (((s.astoCore d a b f sc).filled (tRecid w) q).statEntry (s.astoSums d w q).recid).isSome = true := by
    rw [hrecid, statEntry_filled]; rfl
  have hset := statEntry_setEntry hfound
  rwa [hrecid] at hset

theorem astoSummed_rest (w : Word) (q : Nat) :
    (s.astoSummed d a b f sc w q).ctx = s.me.ctx ∧ (s.astoSummed d a b f sc w q).matrix = s.me.matrix ∧
      (s.astoSummed d a b f sc w q).mem = (s.astoCore d a b f sc).mem ∧ (s.astoSummed d a b f sc w q).job = s.me.job := by
  obtain ⟨hctx, hmatrix, hmem, hjob⟩ := setEntry_filled_rest (s.astoCore d a b f sc) (tRecid w) q (s.astoSums d w q)
  obtain ⟨hctx', hmatrix', hjob'⟩ := rest_astoCore s d a b f sc
  exact ⟨hctx.trans hctx', hmatrix.trans hmatrix', hmem, hjob.trans hjob'⟩

/-- The message of elements above the frozen limit (R305). -/
def State.excessMsg (w : Word) (past : Nat) : Msg :=
  { chan := tEchan w, tag := 3, bytes := leBytes 8 (tRecid w * 2 ^ 44 + min past 1023 * 2 ^ 22 + s.cx.pc.toNat % 2 ^ 22),
    src := sourceId 2 (s.jobRank s.curCore) s.curCore }

/-- The message of asto, once its core has become c (R305). -/
theorem engineFault_modMe {c : Core} (hctx : c.ctx = s.me.ctx) (hjob : c.job = s.me.job) (w : Word) (past : Nat) :
    ∃ p : Packet, (s.modMe fun _ => c).engineFault (tEchan w) (tRecid w) past = (s.modMe fun _ => c).send p ∧
      p.home = .core s.curCore ∧ p.body = .message (s.excessMsg w past) := by
  have hcx : (s.modMe fun _ => c).cx = s.cx := by
    have hme := State.me_modMe s fun _ => c
    rw [State.cx, hme, Core.cx, hctx]; rfl
  have hrank : (s.modMe fun _ => c).jobRank s.curCore = s.jobRank s.curCore :=
    congrArg (fun l => (l.map fun l : Launch => l.rank).getD 0) (State.launchOf_modCore s s.curCore (f := fun _ => c) hjob)
  refine ⟨_, rfl, rfl, ?_⟩
  rw [hcx]
  exact congrArg (fun k => Body.message { s.excessMsg w past with src := sourceId 2 k s.curCore }) hrank

theorem statEntry_astoCore (n : Nat) : (s.astoCore d a b f sc).statEntry n = s.me.statEntry n := by
  rw [Core.statEntry, stats_astoCore]; rfl

/-- The contribution of asto, in a core that has an entry for the record or room for one. -/
theorem astoContributed_eq (w : Word) (q : Nat) (hroom : s.me.statEntry (tRecid w) = none → s.me.stats.length < 8) :
    s.astoContributed d w (s.astoStored d a b f sc) q =
      if (s.astoEntry w q).rstrap && s.astoPast d w q != 0 then
        (s.modMe fun _ => s.astoSummed d a b f sc w q).engineFault (tEchan w) (tRecid w) (s.astoPast d w q)
      else s.modMe fun _ => s.astoSummed d a b f sc w q := by
  have hcur : (s.astoStored d a b f sc).curCore = s.curCore := curCore_storeElements _ _ _ _ _
  have hme := me_astoStored s d a b f sc
  have hmod : (s.astoStored d a b f sc).modMe (fun c => (c.filled (tRecid w) q).setEntry (s.astoSums d w q)) =
      s.modMe fun _ => s.astoSummed d a b f sc w q :=
    (storeElements_modMe _ _ _ s (List.range 1024) fun c => (c.filled (tRecid w) q).setEntry (s.astoSums d w q)).trans (State.modMe_congr rfl)
  generalize s.astoStored d a b f sc = v at hcur hme hmod ⊢
  have hvroom : v.me.statEntry (tRecid w) = none → v.me.stats.length < 8 := by rw [hme, statEntry_astoCore, stats_astoCore]; exact hroom
  have hentry : ((v.fillEntry s.curCore s.curCtx (tRecid w) q).me.statEntry (tRecid w)).getD (entryOf (tRecid w) q) = s.astoEntry w q := by
    rw [← hcur, me_fillEntry hvroom, hme, statEntry_filled, statEntry_astoCore]; rfl
  have hset : (v.fillEntry s.curCore s.curCtx (tRecid w) q).modMe (fun c => c.setEntry (s.astoSums d w q)) =
      s.modMe fun _ => s.astoSummed d a b f sc w q := by
    rw [← hcur, fillEntry_modMe hvroom, hmod]
  unfold State.astoContributed
  dsimp only
  rw [hentry, contributeAll_asto]
  dsimp only
  generalize s.astoPast d w q = past
  rw [hset]

end

end Sys2Proof.Machine
end

section
/-! SUPPORT. O28: what asto answers behind its record (R305), and the obligation. -/

namespace Sys2Proof.Machine

variable {s : State} {i : Instr} {st : BitVec 3} {d a b : BitVec 5} {w : Word} {r : Option Nat} {f sc : Nat}

/-! ### The checks of asto behind its record -/

theorem echanCheck_eq_false (h : r = none ∨ tEchan w ≤ 47 ∨ s.isS = true) : (r.isSome && decide (47 < tEchan w) && !s.isS) = false := by
  obtain rfl | hlow | hlevel := h
  · rfl
  · rw [decide_eq_false (Nat.not_lt.mpr hlow), Bool.and_false, Bool.false_and]
  · rw [hlevel, Bool.not_true, Bool.and_false]

theorem scaleCheck_eq_false (h : r = none → sc ≠ 255) : (r.isNone && sc == 255) = false := by
  cases r with
  | none => exact beq_false_of_ne (h rfl)
  | some q => rfl

theorem astoFormatCheck_eq (f : Nat) : (!(decide (1 ≤ f) && decide (f ≤ 6))) = decide (f < 1 ∨ 6 < f) := by
  rw [Bool.eq_iff_iff, Bool.not_eq_true', Bool.and_eq_false_iff, decide_eq_false_iff_not, decide_eq_false_iff_not, decide_eq_true_eq]
  omega

theorem astoWith_traps_scale (hexec : exec i s = s.astoWith st d a b w none f 255) : Traps i s { cause := 0x63 } := by
  unfold State.astoWith at hexec
  simp only [chk, List.cons_append, State.check_cons] at hexec
  exact hexec

section

variable (hexec : exec i s = s.astoWith st d a b w r f sc) (hchan : r = none ∨ tEchan w ≤ 47 ∨ s.isS = true) (hscale : r = none → sc ≠ 255)
include hexec hchan hscale

theorem astoWith_traps_format (hf : f < 1 ∨ 6 < f) : Traps i s { cause := 0x60 } := by
  unfold State.astoWith at hexec
  simp only [chk, List.cons_append, State.check_cons, echanCheck_eq_false hchan, scaleCheck_eq_false hscale, astoFormatCheck_eq,
    decide_eq_true hf] at hexec
  exact hexec

variable (hf : 1 ≤ f ∧ f ≤ 6) (hsr : s.srForbidden s.rm = false)
  (hwrite : ∀ k < 1024, Writable s (fmtBits f / 8) (s.astoAddr a b (fmtBits f / 8) k))
  (hgood : s.me.matrix.badIn (16 + (s.readG d).toNat) 0 512 = false)
include hf hsr hwrite hgood

theorem astoWith_passes : exec i s = (if r.isSome then s.unlessNoEntry (tRecid w) else id)
    ((((match r with
        | none => s.astoStored d a b f sc
        | some q => s.astoContributed d w (s.astoStored d a b f sc) q).advance s.rm).countMem).done st) := by
  refine hexec.trans (check_of_pass (fun k hk => ?_) _)
  rcases List.mem_append.mp hk with hk | hk
  · rcases List.mem_append.mp hk with hk | hk
    · simp only [List.mem_cons, List.not_mem_nil, or_false] at hk
      rcases hk with rfl | rfl | rfl | rfl
      · exact echanCheck_eq_false hchan
      · exact scaleCheck_eq_false hscale
      · exact (astoFormatCheck_eq f).trans (decide_eq_false (by omega))
      · exact hsr
    · exact laneChecks_pass (fun j hj => hwrite j (List.mem_range.mp hj)) k hk
  · rw [List.mem_singleton.mp hk]
    exact hgood

end

/-! ### What asto leaves -/

/-- How asto ends (R305): the core it leaves, and the packets in flight. -/
structure AstoEnds (s u : State) (st : BitVec 3) (d a b : BitVec 5) (w : Word) (r : Option Nat) (f sc : Nat) (c : Core) : Prop where
  ends : ElementsEnd s u c s.rm st.toNat
  ctx : c.ctx = s.me.ctx
  matrix : c.matrix = s.me.matrix
  mem : c.mem = (s.astoCore d a b f sc).mem
  plain : r = none → c.stats = s.me.stats ∧ u.net = s.net
  entry : ∀ q, r = some q → c.statEntry (tRecid w) = some (s.astoSums d w q)
  quiet : ∀ q, r = some q → (s.astoEntry w q).rstrap = false ∨ s.astoPast d w q = 0 → u.net = s.net
  reports : ∀ q, r = some q → (s.astoEntry w q).rstrap = true → s.astoPast d w q ≠ 0 → ∃ p : Packet,
    u.net = SMap.put s.net s.nextPkt p ∧ p.home = .core s.curCore ∧ p.body = .message (s.excessMsg w (s.astoPast d w q))

/-- asto without a record stores its elements. -/
theorem astoEnds_none : AstoEnds s ((s.astoStored d a b f sc).modCx fun x => x.elementsDone s.rm st.toNat) st d a b w none f sc
    (s.astoCore d a b f sc) := by
  have hstored : (s.astoStored d a b f sc).modCx (fun x => x.elementsDone s.rm st.toNat) = _ := storeElements_modCx _ _ _ s (List.range 1024) _
  obtain ⟨hctx, hmatrix, -⟩ := rest_astoCore s d a b f sc
  rw [hstored]
  exact ⟨elementsEnd_modCx s _ _ _, hctx, hmatrix, rfl, fun _ => ⟨stats_astoCore s d a b f sc, rfl⟩, fun _ h => (nomatch h), fun _ h => (nomatch h),
    fun _ h => (nomatch h)⟩

/-- asto with a record contributes to its entry, and reports the elements above the frozen limit where RSTRAP asks for it. -/
theorem astoEnds_some {q : Nat} (hroom : s.me.statEntry (tRecid w) = none → s.me.stats.length < 8) :
    AstoEnds s ((s.astoContributed d w (s.astoStored d a b f sc) q).modCx fun x => x.elementsDone s.rm st.toNat) st d a b w (some q) f sc
      (s.astoSummed d a b f sc w q) := by
  obtain ⟨hctx, hmatrix, hmem, hjob⟩ := astoSummed_rest s d a b f sc w q
  have hentry := statEntry_astoSummed s d a b f sc w q
  obtain ⟨p, hfault, hhome, hbody⟩ := engineFault_modMe s hctx hjob w (s.astoPast d w q)
  rw [astoContributed_eq s d a b f sc w q hroom]
  by_cases hmsg : (s.astoEntry w q).rstrap = true ∧ s.astoPast d w q ≠ 0
  · obtain ⟨hrstrap, hpast⟩ := hmsg
    rw [if_pos (Bool.and_eq_true_iff.mpr ⟨hrstrap, bne_iff_ne.mpr hpast⟩), hfault]
    refine ⟨elementsEnd_send s _ _ _ _, hctx, hmatrix, hmem, fun h => (nomatch h),
      fun _ h => Option.some.inj h ▸ hentry, fun _ h hno => ?_, fun _ h _ _ => ?_⟩
    · cases h
      exact hno.elim (fun h => absurd hrstrap (h ▸ Bool.false_ne_true)) fun h => absurd h hpast
    · cases h
      exact ⟨p, rfl, hhome, hbody⟩
  · rw [if_neg (fun h => hmsg ⟨(Bool.and_eq_true_iff.mp h).1, bne_iff_ne.mp (Bool.and_eq_true_iff.mp h).2⟩)]
    refine ⟨elementsEnd_modCx s _ _ _, hctx, hmatrix, hmem, fun h => (nomatch h),
      fun _ h => Option.some.inj h ▸ hentry, fun _ _ _ => rfl, fun _ h hr hp => ?_⟩
    cases h
    exact absurd ⟨hr, hp⟩ hmsg

/-- asto whose checks pass stores its elements, and contributes where it has a record. -/
theorem asto_ends (hexec : exec i s = s.astoWith st d a b w r f sc) (hchan : r = none ∨ tEchan w ≤ 47 ∨ s.isS = true)
    (hscale : r = none → sc ≠ 255) (hroom : ∀ q, r = some q → s.me.statEntry (tRecid w) = none → s.me.stats.length < 8)
    (hf : 1 ≤ f ∧ f ≤ 6) (hsr : s.srForbidden s.rm = false)
    (hwrite : ∀ k < 1024, Writable s (fmtBits f / 8) (s.astoAddr a b (fmtBits f / 8) k))
    (hgood : s.me.matrix.badIn (16 + (s.readG d).toNat) 0 512 = false) : ∃ u c, exec i s = .next u ∧ AstoEnds s u st d a b w r f sc c := by
  have hpass := astoWith_passes hexec hchan hscale hf hsr hwrite hgood
  cases r with
  | none => exact ⟨_, _, hpass.trans (advance_countMem_done _ _ _), astoEnds_none⟩
  | some q =>
    have hroom := hroom q rfl
    rw [if_pos (show (some q).isSome = true from rfl), unlessNoEntry_eq hroom] at hpass
    exact ⟨_, _, hpass.trans (advance_countMem_done _ _ _), astoEnds_some hroom⟩

/-! ### asto by its record -/

variable {e : BitVec 3}

section

variable (hpow : s.me.matrix.powered = true)
  (hown : (s.readG d).toNat < 16 ∧ s.me.matrix.owns (16 + (s.readG d).toNat) s.curCtx = true)
include hpow hown

/-- asto that has not read its record checks RECID and asks the record's home (R287). -/
theorem asto_unread (h : Unread s (s.readE e)) :
    (s.badRecid (tRecid (s.readE e)) = true → Traps (.asto st d a b e) s { cause := 0x62, info2 := tRecid (s.readE e) }) ∧
    (s.badRecid (tRecid (s.readE e)) = false →
      AsksHome (.asto st d a b e) s (tRecid (s.readE e)) (.recRead (tRecid (s.readE e)))) := by
  have hexec := exec_asto_unread (st := st) (a := a) (b := b) hpow hown h
  rw [State.check_cons, State.check_nil] at hexec
  exact ⟨fun hbad => hexec.trans (if_pos hbad), fun hgood => asksHome_of_sendRecord (hexec.trans (if_neg (Bool.eq_false_iff.mp hgood)))⟩

/-- asto without a record whose scale is 255 traps (R305). -/
theorem asto_traps_scale (h : RecordFor s (s.readE e) r) (hnone : r = none) (hscale : (s.astoForm (s.readE e) r).2 = 255) :
    Traps (.asto st d a b e) s { cause := 0x63 } := by
  subst hnone
  have hexec := exec_asto_recorded (st := st) (a := a) (b := b) hpow hown h fun q h => nomatch h
  rw [hscale] at hexec
  exact astoWith_traps_scale hexec

end

/-- The state that asto leaves (R305). -/
theorem AstoEnds.spec {u : State} {w : Word} {f sc : Nat} {c : Core} (h : AstoEnds s u st d a b w r f sc c) :
    Retired s u 4 ∧ RegsSameBut s u [] ∧ u.cx.stat = clearPend s.cx.stat ∧
      u.cx.rndctr = s.cx.rndctr + (if stochastic s.rm then 1 else 0) ∧ u.me.matrix = s.me.matrix ∧ u.gmem = s.gmem ∧
      (∀ cn, cn ≠ s.curCore → u.core cn = s.core cn) ∧
      ElementsStored s u (List.range 1024) (fmtBits f / 8) (s.astoAddr a b (fmtBits f / 8)) (s.astoCode (s.readG d).toNat f sc) ∧
      u.me.stats = c.stats ∧ u.me.statEntry (tRecid w) = c.statEntry (tRecid w) := by
  obtain ⟨hret, hregs, hstat, hrnd⟩ := h.ends.spec h.ctx
  have hme := h.ends.me
  refine ⟨hret, hregs, hstat, hrnd, ?_, h.ends.gmem, h.ends.core, elementsStored_of_putElements _ _ _ List.pairwise_lt_range ?_, ?_, ?_⟩
  · rw [hme]; exact h.matrix
  · rw [hme]; exact h.mem
  · rw [hme]; rfl
  · rw [hme]; rfl

end Sys2Proof.Machine

namespace Sys2Proof

open Machine

/-- Settles O28: the products by their tile steps, one element at a time; asto by the checks behind its record, its stores one after
another, and the sums of its record's entry. -/
theorem matrixProductsAndStore : Obligations.MatrixProductsAndStore := by
  unfold Obligations.MatrixProductsAndStore
  refine ⟨fun st d o q e s => ?_, fun st d a b e s r => ?_⟩
  · intro x sh fa fb steps mr nc formats operands good A B result c both hpow
    have hmma := mmaChecks_spec (exec_mma hpow st d o q e)
    obtain ⟨cs, out, hexecZ⟩ := exec_mmaZ_checks hpow st d o q e
    have hmmaZ := mmaChecks_spec hexecZ
    refine ⟨fun h => ⟨hmma.1 h, hmmaZ.1 h⟩, fun h hlong => ⟨hmma.2.1 h hlong, hmmaZ.2.1 h hlong⟩,
      fun h hshort hno => ⟨(hmma.2.2 h hshort).1 hno, (hmmaZ.2.2 h hshort).1 hno⟩, fun h hshort hown => ⟨fun hno => ?_, fun hc hacc hgood haccGood => ?_,
        fun hnone => ?_, fun hgood j hj hfree hlow => ?_⟩⟩
    · exact mma_traps_slot hpow h hshort hown hno
    · exact mma_gives hpow h hshort hown hc hacc hgood haccGood
    · exact mmaZ_traps_full hpow h hshort hown hnone
    · exact mmaZ_gives hpow h hshort hown hgood hj hfree hlow
  · intro x t m c n sc f w addr v hpow
    have hform : s.astoForm t r = (f, sc) := by cases r <;> rfl
    have hf : (s.astoForm t r).1 = f := congrArg Prod.fst hform
    have hsc : (s.astoForm t r).2 = sc := congrArg Prod.snd hform
    refine ⟨fun hno => asto_traps_slot hpow hno, fun hc hacc hunread => asto_unread hpow ⟨hc, hacc⟩ hunread,
      fun hc hacc hrec hnone hscale => asto_traps_scale hpow ⟨hc, hacc⟩ hrec hnone (hsc.trans hscale),
      fun hc hacc hrec hscale hfresh hchan => ?_⟩
    have hexec := exec_asto_recorded (st := st) (a := a) (b := b) hpow ⟨hc, hacc⟩ hrec fun q hq hen => (hfresh q hq hen).2
    rw [hf, hsc] at hexec
    refine ⟨fun hbad => astoWith_traps_format hexec hchan hscale hbad, fun h1 h6 hsr hwrite hgood => ?_⟩
    obtain ⟨u, c', hu, hends⟩ := asto_ends hexec hchan hscale (fun q hq hen => (hfresh q hq hen).1) ⟨h1, h6⟩ hsr hwrite hgood
    obtain ⟨hret, hregs, hstat, hrnd, hmatrix, hgmem, hcores, hstored, hstats, hentry⟩ := hends.spec
    exact ⟨u, hu, hret, hregs, hstat, hrnd, hmatrix, hgmem, hcores, hstored, fun hr => ⟨hstats.trans (hends.plain hr).1, (hends.plain hr).2⟩,
      fun q hq => ⟨hentry.trans (hends.entry q hq), hends.quiet q hq, hends.reports q hq⟩⟩

end Sys2Proof
end

section
/-! SUPPORT. Flushes of accumulator entries (R104, R136, R138), and what a context leaves that waits. -/

namespace Sys2Proof.Machine

variable {i : Instr} {s t u : State} {cn k n : Nat} {e : StatEntry} {w : Wait}

/-! ### One entry -/

/-- The request as which an entry leaves a core, before it has the id of its transaction. -/
def State.flushPacket (s : State) (cn k : Nat) (e : StatEntry) : Packet :=
  { s.recordPacket cn k e.recid (.flush e.recid e.sum) with slk := 0 }

/-- The transaction of a flush. -/
def State.flushTx (s : State) (cn k : Nat) (e : StatEntry) : Tx := (s.flushPacket cn k e).recordTx 15 (s.core cn).txSeq.toNat none

/-- The request of a flush, with the id of its transaction. -/
def State.flushRequest (s : State) (cn k : Nat) (e : StatEntry) : Packet :=
  { s.flushPacket cn k e with seq := (s.core cn).txSeq.toNat, first := (s.core cn).txSeq.toNat, xfer := none }

/-- The core whose entry e has left it with transaction x. -/
def Core.flushed (c : Core) (x : Tx) (e : StatEntry) : Core :=
  { c.opens x with stats := c.stats.filter fun y => y.recid != e.recid, flushes := c.flushes + 1 }

/-- A flush changes its core, and its request is in flight. -/
theorem flushEntry_eq (s : State) (cn k : Nat) (e : StatEntry) :
    s.flushEntry cn k e = (s.modCore cn fun c => c.flushed (s.flushTx cn k e) e).send (s.flushRequest cn k e) :=
  congrArg (State.send · (s.flushRequest cn k e)) (State.modCore_modCore s cn (fun c => c.opens (s.flushTx cn k e)) fun c =>
    { c with stats := c.stats.filter fun y => y.recid != e.recid, flushes := c.flushes + 1 })

theorem core_flushEntry (s : State) (cn k : Nat) (e : StatEntry) :
    (s.flushEntry cn k e).core cn = (s.core cn).flushed (s.flushTx cn k e) e := by
  rw [flushEntry_eq]
  exact State.core_modCore_same s cn fun c => c.flushed (s.flushTx cn k e) e

theorem memSame_flushEntry (s : State) (cn k : Nat) (e : StatEntry) : MemSame s (s.flushEntry cn k e) := by
  rw [flushEntry_eq]
  exact memSame_modCore s cn (f := fun c => c.flushed (s.flushTx cn k e) e) rfl

/-- An entry that leaves its core (R104, R138), whatever becomes of the contexts of the core. -/
theorem flushed_of_flushEntry (hnet : t.net = (s.flushEntry cn k e).net) (hnext : t.nextPkt = (s.flushEntry cn k e).nextPkt)
    (hcore : t.core cn = { (s.flushEntry cn k e).core cn with ctx := (t.core cn).ctx }) : Flushed s t cn e := by
  rw [core_flushEntry] at hcore
  refine ⟨s.flushTx cn k e, s.flushRequest cn k e, hnet, hnext, rfl, rfl, rfl, rfl, rfl, rfl, rfl, ?_, rfl, rfl, rfl, rfl, ?_, ?_, ?_⟩ <;>
    rw [hcore] <;> rfl

/-! ### What holds a flush back (R136, R310) -/

theorem heldBack_eq_none {h : Home} (hchoked : (s.core cn).choked = false) (hfull : (s.core cn).windowFull h.key = false) :
    s.heldBack cn h = none := by
  rw [State.heldBack, hchoked, hfull]; rfl

/-- A core with fewer transactions than the window holds has room in it (R136). -/
theorem windowFull_eq_false {c : Core} {d : DestKey} (h : c.txs.length < c.window_ d) : c.windowFull d = false :=
  decide_eq_false (Nat.not_le.mpr (Nat.lt_of_le_of_lt (List.length_filter_le _ _) h))

theorem flushHeld_choked (h : (s.core cn).choked = true) (e : StatEntry) : s.flushHeld cn e = some .router := by
  rw [State.flushHeld, State.heldBack, if_pos h]

theorem flushHeld_full (hchoked : (s.core cn).choked = false)
    (hfull : (s.core cn).windowFull (s.homeAtIssue (s.partOf cn) (s.recordVa cn e.recid)).key = true) :
    s.flushHeld cn e = some (.window (s.homeAtIssue (s.partOf cn) (s.recordVa cn e.recid)).key) := by
  rw [State.flushHeld, State.heldBack, hchoked, if_neg Bool.false_ne_true, if_pos hfull]

/-! ### Every entry of the issuing core (R106) -/

/-- Entries es of the issuing core have left it: each has its transaction, and the core's memory and contexts are as before. -/
structure FlushedAll (s t : State) (es : List StatEntry) : Prop where
  curCore : t.curCore = s.curCore
  curCtx : t.curCtx = s.curCtx
  mem : MemSame s t
  me : ∃ xs : List Tx, xs.length = es.length ∧ (∀ e ∈ es, ∃ x ∈ xs, x.body = .flush e.recid e.sum) ∧
    t.me = { s.me with txs := s.me.txs ++ xs, txSeq := t.me.txSeq, noticed := t.me.noticed, closed := t.me.closed,
                       flushes := s.me.flushes + es.length, stats := s.me.stats.filter fun y => es.all fun e => y.recid != e.recid }

theorem FlushedAll.nil (s : State) : FlushedAll s s [] :=
  ⟨rfl, rfl, ⟨fun _ _ => rfl, fun _ => rfl⟩, [], rfl, nofun, by simp⟩

theorem FlushedAll.cons {es : List StatEntry} (hcn : s.curCore = cn) (h : FlushedAll (s.flushEntry cn k e) t es) : FlushedAll s t (e :: es) := by
  subst hcn
  obtain ⟨hcore, hctx, hmem, xs, hlen, hxs, hme⟩ := h
  have hs : (s.flushEntry s.curCore k e).me = s.me.flushed (s.flushTx s.curCore k e) e := core_flushEntry s s.curCore k e
  refine ⟨hcore, hctx, MemSame.trans (memSame_flushEntry _ _ _ _) hmem, s.flushTx s.curCore k e :: xs, by simp [hlen], fun y hy => ?_, ?_⟩
  · rcases List.mem_cons.mp hy with rfl | hy
    · exact ⟨_, List.mem_cons_self, rfl⟩
    · obtain ⟨x, hx, hbody⟩ := hxs y hy
      exact ⟨x, List.mem_cons_of_mem _ hx, hbody⟩
  · have hfilter : (s.me.stats.filter fun y => y.recid != e.recid).filter (fun y => es.all fun e => y.recid != e.recid) =
        s.me.stats.filter fun y => (e :: es).all fun e => y.recid != e.recid := by
      rw [List.filter_filter]
      simp only [List.all_cons, Bool.and_comm]
    rw [hs] at hme
    rw [hme, ← hfilter]
    simp [Core.flushed, Core.opens, Nat.add_assoc, Nat.add_comm 1]

/-- Where neither the router nor a window holds a flush back, every entry leaves. -/
theorem flushedAll_foldl {es : List StatEntry} (hcn : s.curCore = cn) (hchoked : s.me.choked = false)
    (hroom : ∀ d, s.me.txs.length + es.length ≤ s.me.window_ d) :
    FlushedAll s (es.foldl (fun s e => if (s.flushHeld cn e).isSome then s else s.flushEntry cn k e) s) es := by
  induction es generalizing s with
  | nil => exact FlushedAll.nil s
  | cons e es ih =>
    have hlen : ∀ d, s.me.txs.length + (es.length + 1) ≤ s.me.window_ d := hroom
    have hheld : s.flushHeld cn e = none := by
      subst hcn
      exact heldBack_eq_none hchoked (windowFull_eq_false (Nat.lt_of_lt_of_le (Nat.lt_add_of_pos_right (Nat.succ_pos _)) (hlen _)))
    have hs : (s.flushEntry cn k e).me = s.me.flushed (s.flushTx cn k e) e := by subst hcn; exact core_flushEntry s s.curCore k e
    rw [List.foldl_cons, hheld, if_neg (show ¬(none : Option Wait).isSome = true from nofun)]
    refine FlushedAll.cons hcn (ih hcn ?_ fun d => ?_)
    · rw [hs]; exact hchoked
    · rw [hs]
      show (s.me.txs ++ [_]).length + es.length ≤ s.me.window_ d
      rw [List.length_append, List.length_singleton]
      have := hlen d
      omega

theorem flushedAll_flushAll (hchoked : s.me.choked = false) (hroom : ∀ d, s.me.txs.length + s.me.stats.length ≤ s.me.window_ d) :
    FlushedAll s (s.flushAll s.curCore s.curCtx) s.me.stats := flushedAll_foldl rfl hchoked hroom

/-- Where every flush is held back, no entry leaves. -/
theorem flushAll_held (h : ∀ e ∈ (s.core cn).stats, (s.flushHeld cn e).isSome = true) : s.flushAll cn k = s := by
  unfold State.flushAll
  generalize (s.core cn).stats = es at h
  induction es with
  | nil => rfl
  | cons e es ih =>
    rw [List.foldl_cons, if_pos (h e List.mem_cons_self)]
    exact ih fun y hy => h y (List.mem_cons_of_mem _ hy)

/-! ### A context that waits -/

/-- The registers of a context whose register files are as before. -/
theorem regsSameBut_of_files (h : t.cx.g = s.cx.g ∧ t.cx.v = s.cx.v ∧ t.cx.p = s.cx.p ∧ t.cx.e = s.cx.e ∧ t.cx.b = s.cx.b) (keys : List Nat) :
    RegsSameBut s t keys := by
  obtain ⟨hg, hv, hp, he, hb⟩ := h
  unfold RegsSameBut State.readG State.readV State.readP State.readE State.readB Ctx.rg Ctx.rp
  rw [hg, hv, hp, he, hb]
  exact ⟨fun _ _ => rfl, fun _ _ => rfl, fun _ _ => rfl, fun _ _ => rfl, fun _ _ => rfl⟩

theorem regsSameBut_of_cx (h : t.cx = s.cx) : RegsSameBut s t [] := regsSameBut_of_files (by rw [h]; exact ⟨rfl, rfl, rfl, rfl, rfl⟩) []

/-- u is s but for the issuing context, which waits for w at its instruction. -/
structure Blocked (s u : State) (w : Wait) : Prop where
  wait : u.cx.wait = w
  pc : u.cx.pc = s.cx.pc
  mem : MemSame s u
  regs : RegsSameBut s u []
  me : u.me = { s.me with ctx := u.me.ctx }
  net : u.net = s.net
  nextPkt : u.nextPkt = s.nextPkt
  curCore : u.curCore = s.curCore

theorem blocked_block (s : State) (w : Wait) : ∃ u, s.block w = .next u ∧ Blocked s u w := by
  have hcx := State.cx_modCx s fun x => { x with wait := w, snap := some s.atIssue }
  exact ⟨_, rfl, by rw [hcx], by rw [hcx], memSame_modCx s _, regsSameBut_of_files (by rw [hcx]; exact ⟨rfl, rfl, rfl, rfl, rfl⟩) [],
    by rw [State.me_modCx]; rfl, rfl, rfl, rfl⟩

theorem Blocked.core (h : Blocked s u w) : u.core s.curCore = { s.me with ctx := (u.core s.curCore).ctx } := h.curCore ▸ h.me

end Sys2Proof.Machine
end

section
/-! SUPPORT. Instructions about statistics records (R287, R292 to R295): O24. -/

namespace Sys2Proof.Machine

variable {i : Instr} {s t u : State} {st : BitVec 3} {d a : BitVec 5} {e : BitVec 3} {n : Nat} {b : Body} {w : Wait}

/-! ### The record read (R287) -/

/-- Until the record's home has answered, RECID is checked and the read sent. -/
theorem withRecord_unread (h : ∀ st data, s.cx.wait ≠ .got st data) (k : Nat → Out) :
    s.withRecord n k = if s.badRecid n then .next (s.raise (recidRec n)) else s.sendRecord n (.recRead n) := by
  unfold State.withRecord
  split
  · next hgot => exact absurd hgot (h _ _)
  · rw [State.check_cons, State.check_nil]

/-- An instruction goes on with the record's bytes once the home has answered. -/
theorem withRecord_answered {r q : Nat} (h : Answered s r q) (k : Nat → Out) : s.withRecord n k = k r := by
  obtain ⟨st, data, hwait, -, rfl, -⟩ := h
  unfold State.withRecord
  rw [hwait]
  exact congrArg k (recordOf_eq data)

theorem asks_of_withRecord {k : Nat → Out} (hexec : exec i s = s.withRecord n k) (h : ∀ st data, s.cx.wait ≠ .got st data) :
    (s.badRecid n = true → Traps i s { cause := 0x62, info2 := n }) ∧ (s.badRecid n = false → AsksHome i s n (.recRead n)) := by
  rw [withRecord_unread h] at hexec
  exact ⟨fun hbad => hexec.trans (if_pos hbad), fun hgood => asksHome_of_sendRecord (hexec.trans (if_neg (Bool.eq_false_iff.mp hgood)))⟩

theorem exec_strd (st : BitVec 3) (d : BitVec 5) (e : BitVec 3) (s : State) : exec (.strd st d e) s =
    s.withRecord (tRecid (s.readE e)) fun r => (s.writeV d (.ofNat 2048 r) 0).done st := rfl

/-- A vector register written by an instruction that retires. -/
theorem givesV_of_writeV {v : VReg} {l : Nat} (hexec : exec i s = (s.writeV d v l).done st) : GivesV i s 4 d v := by
  refine ⟨_, hexec, ?_, changesRegs_of_writes ((s.cx.writes_v d.toNat v).marked _ _) 4 st.toNat⟩
  show ((s.modCx _).modCx _).readV d = v
  rw [State.modCx_modCx, readV_modCx]
  exact SMap.get_put_same _ _ _ _

theorem floatFmt_eq (h1 : 1 ≤ s.fmt1) (h4 : s.fmt1 ≤ 4) : s.floatFmt = some s.fmt1 := if_pos ⟨h1, h4⟩

theorem exec_qnt_record (hrec : tRecen (s.readE e) = true) (h1 : 1 ≤ s.fmt1) (h4 : s.fmt1 ≤ 4) :
    ∃ k, exec (.qnt st d a e) s = s.withRecord (tRecid (s.readE e)) k := by
  show ∃ k, execQnt st d a e s = _
  unfold execQnt
  dsimp only
  rw [floatFmt_eq h1 h4]
  exact ⟨_, if_pos hrec⟩

theorem exec_qntb_record (hrec : tRecen (s.readE e) = true) (h1 : 1 ≤ s.fmt1) (h4 : s.fmt1 ≤ 4) :
    ∃ k, exec (.qntb st d a e) s = s.withRecord (tRecid (s.readE e)) k := by
  show ∃ k, execQntb st d a e s = _
  unfold execQntb
  dsimp only
  rw [floatFmt_eq h1 h4]
  exact ⟨_, if_pos hrec⟩

theorem exec_dqnt_record (hrec : tRecen (s.readE e) = true) (h1 : 1 ≤ s.cx.f2.getD s.vf) (h4 : s.cx.f2.getD s.vf ≤ 4) :
    ∃ k, exec (.dqnt st d a e) s = s.withRecord (tRecid (s.readE e)) k := by
  show ∃ k, execDqnt st d a e s = _
  unfold execDqnt
  dsimp only
  rw [if_neg (by simp [h1, h4])]
  exact ⟨_, if_pos hrec⟩

/-! ### stclr and stfrz (R293, R294) -/

/-- How a control operation on record n goes on before its flush and its request have been answered. -/
theorem controlRecord_spec (hgot : ∀ k ws, s.cx.wait ≠ .got k ws) (hmerge : ∀ m, s.cx.wait ≠ .merge m) (st : BitVec 3) (b : Body) :
    (s.me.statEntry n = none → s.controlRecord st n b = if s.me.flushing n then s.block (.merge n) else s.sendRecord n b) ∧
    ∀ en, s.me.statEntry n = some en →
      (∀ w, s.flushHeld s.curCore en = some w → s.controlRecord st n b = s.block w) ∧
      (s.flushHeld s.curCore en = none → s.controlRecord st n b = (s.flushEntry s.curCore s.curCtx en).block (.merge n)) := by
  unfold State.controlRecord
  split
  · next h => exact absurd h (hgot _ _)
  · next h => exact absurd h (hmerge _)
  · refine ⟨fun hen => by rw [hen], fun en hen => ⟨fun w hw => ?_, fun hw => ?_⟩⟩ <;> rw [hen] <;> dsimp only <;> rw [hw]

/-- A core that holds an entry of the record flushes it, and its context waits for the merge (R104, R293). -/
theorem admitted_controlRecord {en : StatEntry} (hexec : exec i s = s.controlRecord st n b) (hgot : ∀ k ws, s.cx.wait ≠ .got k ws)
    (hmerge : ∀ m, s.cx.wait ≠ .merge m) (hen : s.me.statEntry n = some en) :
    Admitted i s (s.homeAtIssue (s.partOf s.curCore) (s.recordVa s.curCore en.recid)).key
      (Answers i s fun u => Flushed s u s.curCore en ∧ u.cx.wait = .merge n ∧ u.cx.pc = s.cx.pc ∧ MemSame s u ∧ RegsSameBut s u []) := by
  obtain ⟨hheld, hfree⟩ := (controlRecord_spec hgot hmerge st b).2 en hen
  refine ⟨fun hchoked => hexec.trans (hheld _ (flushHeld_choked hchoked en)), fun hrouter hfull => hexec.trans (hheld _ (flushHeld_full hrouter hfull)),
    fun hrouter hopen => ?_⟩
  obtain ⟨u, hu, h⟩ := blocked_block (s.flushEntry s.curCore s.curCtx en) (.merge n)
  have hcx : (s.flushEntry s.curCore s.curCtx en).cx = s.cx := by
    show ((s.flushEntry s.curCore s.curCtx en).core s.curCore).cx s.curCtx = _
    rw [core_flushEntry]; rfl
  exact ⟨u, hexec.trans ((hfree (heldBack_eq_none hrouter hopen)).trans hu), flushed_of_flushEntry h.net h.nextPkt h.core, h.wait, by rw [h.pc, hcx],
    MemSame.trans (memSame_flushEntry _ _ _ _) h.mem, RegsSameBut.trans (regsSameBut_of_cx hcx) h.regs⟩

/-! ### stsync (R106, R295) -/

/-- The core has executed one STSYNC more. -/
def State.syncing (s : State) : State := s.modMe fun c => { c with syncs := c.syncs + 1 }

/-- stsync in a state whose entries have left where they may: it waits for the first that has not, then for the merges. -/
def State.awaitMerges (s : State) (st : BitVec 3) : Out :=
  match s.flushWait s.curCore with
  | some w => s.block w
  | none => if s.me.flushes = 0 then s.done st else s.block .merges

theorem awaitMerges_held (h : s.flushWait s.curCore = some w) (st : BitVec 3) : s.awaitMerges st = s.block w := by
  rw [State.awaitMerges, h]

theorem flushWait_nil (h : s.me.stats = []) : s.flushWait s.curCore = none := by
  show (s.me.stats.findSome? fun e => s.flushHeld s.curCore e) = none
  rw [h]; rfl

theorem awaitMerges_flushed (h : s.me.stats = []) (st : BitVec 3) :
    s.awaitMerges st = if s.me.flushes = 0 then s.done st else s.block .merges := by
  rw [State.awaitMerges, flushWait_nil h]

section

variable {c : BitVec 3}

theorem stsync_traps (h : 5 < c.toNat) : Traps (.stsync st c) s { cause := 0x02 } := by
  have hscope : scopeLegal c = false := decide_eq_false (Nat.not_lt.mpr h)
  show execStsync st c s = _
  rw [execStsync, hscope]; rfl

theorem exec_stsync (h : c.toNat ≤ 5) : exec (.stsync st c) s =
    if s.cx.wait = .merges then s.done st
    else if s.releasePending s.curCore s.curCtx c.toNat then s.block (.release c.toNat)
    else (s.syncing.flushAll s.curCore s.curCtx).awaitMerges st := by
  have hscope : scopeLegal c = true := decide_eq_true (Nat.lt_succ_of_le h)
  show execStsync st c s = _
  rw [execStsync, hscope]; rfl

end

/-! #### The state in which the entries leave -/

theorem me_syncing (s : State) : s.syncing.me = { s.me with syncs := s.me.syncs + 1 } := State.me_modMe s _

theorem cx_syncing (s : State) : s.syncing.cx = s.cx := by
  rw [State.cx, me_syncing]; rfl

theorem stats_syncing (s : State) : s.syncing.me.stats = s.me.stats := by
  rw [me_syncing]

theorem atIssue_syncing (s : State) : s.syncing.atIssue = s.atIssue := by
  rw [State.atIssue, cx_syncing, me_syncing]; rfl

/-- A flush is held back by the router and the windows, whatever the number of STSYNC instructions. -/
theorem flushHeld_syncing (s : State) (en : StatEntry) : s.syncing.flushHeld s.curCore en = s.flushHeld s.curCore en := by
  have hcore : s.syncing.core s.curCore = { s.core s.curCore with syncs := s.me.syncs + 1 } := me_syncing s
  have hhome : ∀ part va, s.syncing.homeAtIssue part va = s.homeAtIssue part va := by
    intro part va
    unfold State.homeAtIssue
    rw [show s.syncing.walk part va = s.walk part va from walkFrom_cores s s.syncing.cores va _ _]
    rfl
  have hlaunch : s.syncing.launchOf s.curCore = s.launchOf s.curCore := State.launchOf_modCore s s.curCore rfl
  unfold State.flushHeld State.heldBack State.partOf State.recordVa
  rw [hhome, hcore, hlaunch]
  rfl

/-- Where every entry is held back by w, the core waits for it. -/
theorem awaitMerges_of_held (hne : s.me.stats ≠ []) (h : ∀ en ∈ s.me.stats, s.flushHeld s.curCore en = some w) (st : BitVec 3) :
    (s.flushAll s.curCore s.curCtx).awaitMerges st = s.block w := by
  rw [flushAll_held fun en hen => by rw [h en hen]; rfl]
  refine awaitMerges_held ?_ st
  obtain ⟨en, es, hes⟩ := List.exists_cons_of_ne_nil hne
  show (s.me.stats.findSome? fun e => s.flushHeld s.curCore e) = some w
  rw [hes, List.findSome?_cons_of_isSome (by rw [h en (hes ▸ List.mem_cons_self)]; rfl)]
  exact h en (hes ▸ List.mem_cons_self)

/-- Where nothing holds an entry back, all of them have left. -/
theorem flushedAll_syncing (hfree : s.me.stats = [] ∨ s.me.choked = false) (hroom : ∀ d, s.me.txs.length + s.me.stats.length ≤ s.me.window_ d) :
    FlushedAll s.syncing (s.syncing.flushAll s.curCore s.curCtx) s.me.stats := by
  have hme := me_syncing s
  rcases hfree with hnil | hchoked
  · have hstats : (s.syncing.core s.curCore).stats = [] := (stats_syncing s).trans hnil
    rw [flushAll_held fun en hen => (by rw [hstats] at hen; cases hen), hnil]
    exact FlushedAll.nil _
  · have hall := flushedAll_flushAll (s := s.syncing) (by rw [hme]; exact hchoked) (by rw [hme]; exact hroom)
    rw [hme] at hall
    exact hall

/-- stsync with no entry and no merge to await retires. -/
theorem stsync_quiet {c : BitVec 3} (hexec : exec (.stsync st c) s = (s.syncing.flushAll s.curCore s.curCtx).awaitMerges st)
    (hnil : s.me.stats = []) (hflushes : s.me.flushes = 0) : GivesAfter (.stsync st c) s s.syncing 4 := by
  have hstats : (s.syncing.core s.curCore).stats = [] := (stats_syncing s).trans hnil
  rw [flushAll_held fun en hen => (by rw [hstats] at hen; cases hen), awaitMerges_flushed hstats, me_syncing, if_pos hflushes] at hexec
  exact givesAfter_of_done hexec

/-- stsync whose entries are all held back waits for what holds them. -/
theorem stsync_held {c : BitVec 3} (hexec : exec (.stsync st c) s = (s.syncing.flushAll s.curCore s.curCtx).awaitMerges st)
    (hne : s.me.stats ≠ []) (h : ∀ en ∈ s.me.stats, s.flushHeld s.curCore en = some w) :
    exec (.stsync st c) s = .next (s.syncing.modCx fun x => { x with wait := w, snap := some s.atIssue }) := by
  refine hexec.trans ((awaitMerges_of_held (s := s.syncing) (w := w) ?_ (fun en hen => ?_) st).trans ?_)
  · rw [stats_syncing]; exact hne
  · exact (flushHeld_syncing s en).trans (h en (stats_syncing s ▸ hen))
  · rw [State.block, atIssue_syncing]

theorem FlushedAll.stats_nil {es : List StatEntry} (h : FlushedAll s t es) (hes : s.me.stats = es) : t.me.stats = [] := by
  obtain ⟨-, -, -, xs, -, -, hme⟩ := h
  rw [hme]
  refine List.filter_eq_nil_iff.mpr fun y hy hall => ?_
  simpa using List.all_eq_true.mp hall y (hes ▸ hy)

/-- The merges that a stsync waits for once its entries have left (R106, R295). -/
theorem stsync_answers {c : BitVec 3} (hexec : exec (.stsync st c) s = (s.syncing.flushAll s.curCore s.curCtx).awaitMerges st)
    (hsome : s.me.stats ≠ [] ∨ s.me.flushes ≠ 0) (hfree : s.me.stats = [] ∨ s.me.choked = false)
    (hroom : ∀ d, s.me.txs.length + s.me.stats.length ≤ s.me.window_ d) : Answers (.stsync st c) s fun u =>
      u.cx.wait = .merges ∧ u.cx.pc = s.cx.pc ∧ u.me.stats = [] ∧ u.me.flushes = s.me.flushes + s.me.stats.length ∧
      u.me.txs.length = s.me.txs.length + s.me.stats.length ∧ (∀ en ∈ s.me.stats, ∃ x ∈ u.me.txs, x.body = .flush en.recid en.sum) ∧
      u.me.syncs = s.me.syncs + 1 ∧ MemSame s u ∧ RegsSameBut s u [] := by
  have hall := flushedAll_syncing hfree hroom
  generalize s.syncing.flushAll s.curCore s.curCtx = v at hexec hall
  have hstats := hall.stats_nil (stats_syncing s)
  obtain ⟨-, hctx, hmem, xs, hlen, hxs, hme⟩ := hall
  rw [me_syncing] at hme
  have hflushes : v.me.flushes ≠ 0 := by
    rw [hme]
    show s.me.flushes + s.me.stats.length ≠ 0
    have := hsome.imp_left List.length_pos_iff.mpr
    omega
  rw [awaitMerges_flushed hstats, if_neg hflushes] at hexec
  obtain ⟨u, hu, h⟩ := blocked_block v .merges
  have hcx : v.cx = s.cx := by rw [State.cx, hme, hctx]; rfl
  refine ⟨u, hexec.trans hu, h.wait, by rw [h.pc, hcx], by rw [h.me]; exact hstats, by rw [h.me, hme], ?_, fun en hen => ?_, by rw [h.me, hme],
    MemSame.trans (MemSame.trans (memSame_modCore s s.curCore rfl) hmem) h.mem, RegsSameBut.trans (regsSameBut_of_cx hcx) h.regs⟩
  · rw [h.me, hme]
    show (s.me.txs ++ xs).length = _
    rw [List.length_append, hlen]
  · obtain ⟨x, hx, hbody⟩ := hxs en hen
    refine ⟨x, ?_, hbody⟩
    rw [h.me, hme]
    exact List.mem_append_right _ hx

/-! ### What the obligation asks of the checks and of the waits -/

theorem stclrCheck_iff (w : Word) : (!(decide (3 ≤ tTgt w) && decide (tTgt w ≤ 9))) = true ↔ ¬(3 ≤ tTgt w ∧ tTgt w ≤ 9) := by
  rw [Bool.not_eq_true', ← Bool.not_eq_true, Bool.and_eq_true, decide_eq_true_iff, decide_eq_true_iff]

theorem stfrzCheck_iff (w : Word) : (tFmode w == 3 || (tFmode w == 0 && tScale w == 255)) = true ↔
    ¬(tFmode w ≠ 3 ∧ ¬(tFmode w = 0 ∧ tScale w = 255)) := by
  rw [Bool.or_eq_true, Bool.and_eq_true, beq_iff_eq, beq_iff_eq, beq_iff_eq]
  tauto

theorem waiting_merges (h : s.cx.wait = .merges) : s.waiting s.curCore s.curCtx = (s.me.flushes != 0) := by
  have hcx : ((s.core s.curCore).cx s.curCtx).wait = .merges := h
  rw [State.waiting, hcx]; rfl

theorem waiting_merge {m : Nat} (h : s.cx.wait = .merge m) : s.waiting s.curCore s.curCtx = s.me.flushing m := by
  have hcx : ((s.core s.curCore).cx s.curCtx).wait = .merge m := h
  rw [State.waiting, hcx]; rfl

end Sys2Proof.Machine

namespace Sys2Proof

open Machine

/-- Settles O24: the record read by its answer, the control operations by the flush before their request, stsync by what holds its
entries back. -/
theorem recordInstructions : Obligations.RecordInstructions := by
  unfold Obligations.RecordInstructions
  refine ⟨fun st d a e s => ?_, fun st d e c s => ?_⟩
  · intro t n asks
    have asks_of : ∀ {i : Instr}, (∃ k, exec i s = s.withRecord n k) → asks i := fun ⟨_, h⟩ hwait => asks_of_withRecord h hwait
    exact ⟨asks_of ⟨_, exec_strd st d e s⟩, fun hrec h1 h4 => ⟨asks_of (exec_qnt_record hrec h1 h4), asks_of (exec_qntb_record hrec h1 h4)⟩,
      fun hrec h1 h4 => asks_of (exec_dqnt_record hrec h1 h4)⟩
  · intro t n clrOk frzOk control
    have control_of : ∀ {i : Instr} {bad : Bool} {ok : Prop} {b : Body}, (bad = true ↔ ¬ok) →
        exec i s = s.check [chk bad 0x63, (s.badRecid n, recidRec n)] (s.controlRecord st n b) → control i ok b := by
      intro i bad ok b hbad hexec
      rw [chk, State.check_cons, State.check_cons, State.check_nil] at hexec
      refine ⟨fun hno => hexec.trans (if_pos (hbad.mpr hno)), fun hok hrecid => ?_, fun hok hrecid => ?_⟩ <;>
        rw [if_neg (fun h => hbad.mp h hok)] at hexec
      · exact hexec.trans (if_pos hrecid)
      rw [if_neg (Bool.eq_false_iff.mp hrecid)] at hexec
      refine ⟨fun ws hwait => ?_, fun k ws hwait => ?_, fun m hwait => ?_, fun hgot hmerge => ⟨fun hen hflush => ?_, fun hen hflush => ?_, fun en hen => ?_⟩⟩
      · exact givesAfter_of_done (hexec.trans (by rw [State.controlRecord, hwait]; rfl))
      · exact hexec.trans (by rw [State.controlRecord, hwait]; rfl)
      · exact asksHome_of_sendRecord (hexec.trans (by rw [State.controlRecord, hwait]))
      · exact hexec.trans (((controlRecord_spec hgot hmerge st b).1 hen).trans (if_pos hflush))
      · exact asksHome_of_sendRecord (hexec.trans (((controlRecord_spec hgot hmerge st b).1 hen).trans (if_neg (Bool.eq_false_iff.mp hflush))))
      · exact admitted_controlRecord hexec hgot hmerge hen
    refine ⟨fun r k h => givesV_of_writeV ((exec_strd st d e s).trans (withRecord_answered h _)), control_of (stclrCheck_iff _) rfl,
      control_of (stfrzCheck_iff _) rfl, stsync_traps, fun hc hwait => givesAfter_of_done ((exec_stsync hc).trans (if_pos hwait)),
      fun hc hwait hrel => (exec_stsync hc).trans ((if_neg hwait).trans (if_pos hrel)), fun hc hwait hrel => ?_,
      fun hwait => by rw [waiting_merges hwait, bne_iff_ne], fun m => waiting_merge⟩
    have hexec : exec (.stsync st c) s = (s.syncing.flushAll s.curCore s.curCtx).awaitMerges st :=
      (exec_stsync hc).trans ((if_neg hwait).trans (if_neg (Bool.eq_false_iff.mp hrel)))
    refine ⟨stsync_quiet hexec, ⟨fun hne hchoked => stsync_held hexec hne fun en _ => flushHeld_choked hchoked en, fun en hone hfree => ?_⟩,
      stsync_answers hexec⟩
    intro key hfull
    refine stsync_held hexec (by rw [hone]; exact List.cons_ne_nil _ _) fun y hy => ?_
    rw [hone, List.mem_singleton] at hy
    exact hy ▸ flushHeld_full hfree hfull

end Sys2Proof
end

section
/-! SUPPORT. Stat-tracked stores (R102, R103, R108, R296): the record's entry, the checks of the elements, and the stores. -/

namespace Sys2Proof.Machine

variable {i : Instr} {s t u : State} {st : BitVec 3} {d a b : BitVec 5} {e : BitVec 3} {n q : Nat} {en : StatEntry}

/-! ### The record's entry (R103, R108, R296) -/

theorem staleRecord_unread (h : ∀ k data, s.cx.wait ≠ .got k data) : s.staleRecord = false := by
  unfold State.staleRecord
  split
  · next hgot => exact absurd hgot (h _ _)
  · rfl

theorem staleRecord_answered (h : Answered s q s.me.syncs) : s.staleRecord = false := by
  obtain ⟨st, data, hwait, -, -, hsyncs⟩ := h
  unfold State.staleRecord
  rw [hwait]
  exact bne_eq_false_iff_eq.mpr hsyncs

/-- A core without an entry of the record reads the record first. -/
theorem withEntry_unread (hen : s.me.statEntry n = none) (h : ∀ k data, s.cx.wait ≠ .got k data) (k : State → StatEntry → Out) :
    s.withEntry n k = if s.badRecid n then .next (s.raise (recidRec n)) else s.sendRecord n (.recRead n) := by
  rw [State.withEntry, hen, staleRecord_unread h]
  dsimp only
  rw [if_neg Bool.false_ne_true, withRecord_unread h]

/-- The entry of record n is at hand: the core holds it, or has room for it and its bytes (R103, R108). -/
def State.entryAtHand (s : State) (n : Nat) (en : StatEntry) : Prop :=
  s.me.statEntry n = some en ∨ (s.me.statEntry n = none ∧ s.me.stats.length < 8 ∧ ∃ r, Answered s r s.me.syncs ∧ en = entryOf n r)

/-- The instruction goes on with the entry that its core holds, or has filled. -/
theorem withEntry_atHand (h : s.entryAtHand n en) : ∃ q, (s.me.statEntry n = none → s.me.stats.length < 8) ∧
    en = (s.me.statEntry n).getD (entryOf n q) ∧ ∀ k, s.withEntry n k = k (s.fillEntry s.curCore s.curCtx n q) en := by
  rcases h with hen | ⟨hen, hroom, q, hanswer, rfl⟩
  · refine ⟨0, fun hnone => absurd (hen.symm.trans hnone) (Option.some_ne_none en), by rw [hen]; rfl, fun k => ?_⟩
    have hfill : s.fillEntry s.curCore s.curCtx n 0 = s := if_pos (Option.isSome_of_eq_some hen)
    rw [State.withEntry, hen, hfill]
  · have hfits : s.me.statEntry n = none → s.me.stats.length < 8 := fun _ => hroom
    refine ⟨q, hfits, by rw [hen]; rfl, fun k => ?_⟩
    have hentry : (s.fillEntry s.curCore s.curCtx n q).me.statEntry n = some (entryOf n q) := by
      rw [me_fillEntry hfits, statEntry_filled, hen]; rfl
    rw [State.withEntry, hen, staleRecord_answered hanswer]
    dsimp only
    rw [if_neg Bool.false_ne_true, withRecord_answered hanswer, unlessNoEntry_eq hfits, hentry]
    rfl

/-! ### Checks of elements (R261) -/

/-- A check that fails raises the record of one that fails. -/
theorem check_of_fail {cs : List (Bool × FaultRec)} (h : ∃ c ∈ cs, c.1 = true) (o : Out) :
    ∃ c ∈ cs, c.1 = true ∧ s.check cs o = .next (s.raise c.2) := by
  obtain ⟨c, hc⟩ := Option.isSome_iff_exists.mp (List.find?_isSome.mpr h)
  exact ⟨c, List.mem_of_find?_eq_some hc, List.find?_some (p := fun c : Bool × FaultRec => c.1) hc, by rw [State.check, hc]⟩

/-- The checks of some elements are those of each of them. -/
theorem mem_laneChecks {es : List Nat} {w : Nat} {addr : Nat → Word} {c : Bool × FaultRec} :
    c ∈ s.laneChecks es w addr true ↔ ∃ k ∈ es, c ∈ s.storeChecks (addr k) (w / 8) (w / 8) k := by
  by_cases h : c.2.cause = 0xA0 <;> simp [State.laneChecks, h]

theorem cause_accessRec (c : Nat) (a : Word) (n k : Nat) : (accessRec c a n k).cause = c := by
  unfold accessRec; split <;> rfl

/-- An element that may not be stored fails a check of R49 or R50. -/
theorem storeChecks_fail {a : Word} {m k : Nat}
    (h : ¬(a.toNat + m ≤ 0x300000 ∧ a.toNat % m = 0 ∧ s.storeProtected s.curCore s.isS a.toNat m = false)) :
    ∃ c ∈ s.storeChecks a m m k, c.1 = true ∧ c.2.cause ≠ 0xA0 := by
  by_cases hrange : a.toNat + m ≤ 0x300000
  · by_cases halign : a.toNat % m = 0
    · exact ⟨(s.storeProtected s.curCore s.isS a.toNat m, accessRec 0x22 a m k), by simp [State.storeChecks],
        Bool.not_eq_false _ ▸ fun hprot => h ⟨hrange, halign, hprot⟩, by rw [cause_accessRec]; decide⟩
    · exact ⟨(a.toNat % m != 0, accessRec 0x21 a m k), by simp [State.storeChecks], bne_iff_ne.mpr halign, by rw [cause_accessRec]; decide⟩
  · exact ⟨(outOfLocal a.toNat m, accessRec 0x20 a m k), by simp [State.storeChecks], (outOfLocal_iff _ _).mpr (Nat.not_le.mp hrange),
      by rw [cause_accessRec]; decide⟩

/-- A check of R49 or R50 has one of three causes. -/
theorem cause_storeChecks {a : Word} {m k : Nat} {c : Bool × FaultRec} (hc : c ∈ s.storeChecks a m m k) (h : c.2.cause ≠ 0xA0) :
    c.2.cause ∈ [0x20, 0x21, 0x22] := by
  simp only [State.storeChecks, List.mem_cons, List.not_mem_nil, or_false] at hc
  rcases hc with rfl | rfl | rfl | rfl
  · rw [cause_accessRec]; decide
  · rw [cause_accessRec]; decide
  · rw [cause_accessRec]; decide
  · exact absurd (cause_accessRec _ _ _ _) h

/-! ### RESCALE (R102, R351) -/

/-- RESCALE names the first of the elements above the limit. -/
theorem rescaleCheck_of_find {es : List Nat} {test : Nat → Bool} {k : Nat} (h : es.find? test = some k) (n : Nat) :
    rescaleCheck n (es.filter test) = (true, { cause := 0x61, info0 := k, info2 := n }) := by
  rw [← List.head?_filter] at h
  obtain ⟨l, hl⟩ := List.head?_eq_some_iff.mp h
  rw [hl]; rfl

theorem rescaleCheck_of_none {es : List Nat} {test : Nat → Bool} (h : ∀ k ∈ es, test k = false) (n : Nat) :
    rescaleCheck n (es.filter test) = (false, {}) := by
  rw [List.filter_eq_nil_iff.mpr fun k hk => by rw [h k hk]; exact Bool.false_ne_true]; rfl

/-- A trap writes the issuing core: that this core is written as it stands before changes nothing. -/
theorem raise_modMe_id {r : FaultRec} (h : countsUnc r.cause = false) (s : State) : (s.modMe id).raise r = s.raise r := by
  have hmod : ∀ f, (s.modMe id).modCore s.curCore f = s.modCore s.curCore f := fun f => State.modMe_modMe s id f
  have hme : (s.modMe id).core s.curCore = s.core s.curCore := State.me_modMe s id
  have hlocated : (s.modMe id).located r = s.located r := by
    unfold State.located State.lidOf State.cx State.me
    rw [show (s.modMe id).curCore = s.curCore from rfl, hme]; rfl
  have hcause : countsUnc (s.located r).cause = false := h
  have hregister : ∀ u : State, (u.isS && r.cause == 0xA5) = false := fun u => by
    rw [beq_false_of_ne (fun hr => by rw [hr] at h; cases h), Bool.and_false]
  unfold State.raise
  dsimp only
  rw [hlocated, hcause, hregister, hregister, if_neg Bool.false_ne_true, if_neg Bool.false_ne_true, if_neg Bool.false_ne_true,
    if_neg Bool.false_ne_true]
  refine if_congr Iff.rfl ?_ ?_
  · unfold State.doubleTrap
    rw [show (s.modMe id).curCore = s.curCore from rfl, hmod]
  · have hheld : ∀ f, (s.modMe id).modCx f = s.modCx f := fun f => hmod fun c => c.modCx s.curCtx f
    rw [hheld]

/-! ### The parts of a stat-tracked store -/

section

variable (s : State) (d : BitVec 5) (e : BitVec 3) (addr : Nat → Word)

/-- The active elements of a stat-tracked store (R259, R296). -/
def State.trackedElems : List Nat := s.activeLanes (tPg (s.readE e)) (fmtBits s.fmt1)

/-- Element k, as it is stored and as a value. -/
def State.trackedCode (k : Nat) : Nat := lane (fmtBits s.fmt1) (s.readV d).toNat k
def State.trackedValue (k : Nat) : Val := decode s.fmt1 (s.trackedCode d k)

/-- The checks of the elements. -/
def State.trackedChecks : List (Bool × FaultRec) := s.laneChecks (s.trackedElems e) (fmtBits s.fmt1) addr true

/-- The store in state v, with the record's entry. -/
def State.trackedWith (st : BitVec 3) (v : State) (en : StatEntry) : Out :=
  v.check (rescaleCheck (tRecid (s.readE e)) ((s.trackedElems e).filter fun k => en.rstrap && en.excess (s.trackedValue d k)) ::
      (s.trackedChecks e addr).filter fun c => c.2.cause == 0xA0)
    ((((v.storeLanes d (s.trackedElems e) (fmtBits s.fmt1) addr).modMe fun c =>
      c.setEntry (en.contributeAll ((s.trackedElems e).map (s.trackedValue d))).1).countMem).done st)

/-- The core that the store leaves, but for its context: the entry filled from bytes q, the elements stored and contributed. -/
def State.trackedCore (q : Nat) (en : StatEntry) (c : Core) : Core :=
  ((c.filled (tRecid (s.readE e)) q).putElements (fmtBits s.fmt1 / 8) addr (s.trackedCode d) (s.trackedElems e)).setEntry
    ((s.trackedElems e).foldl (fun z k => z.contribute (s.trackedValue d k)) en)

end

theorem pairwise_trackedElems (s : State) (e : BitVec 3) : (s.trackedElems e).Pairwise (· < ·) :=
  List.pairwise_lt_range.sublist List.filter_sublist

theorem memWidth_eq {scatter : Bool} (h1 : 1 ≤ s.fmt1) (h6 : s.fmt1 ≤ 6)
    (hw : scatter = true → fmtBits s.fmt1 = 32 ∨ fmtBits s.fmt1 = 64) : s.memWidth scatter = some (fmtBits s.fmt1) := by
  unfold State.memWidth
  dsimp only
  rw [if_pos (.inl ⟨h1, h6⟩), if_neg]
  cases scatter with
  | false => exact Bool.false_ne_true
  | true => rcases hw rfl with h | h <;> rw [h] <;> decide

theorem memWidth_narrow (h1 : 1 ≤ s.fmt1) (h6 : s.fmt1 ≤ 6) (h32 : fmtBits s.fmt1 ≠ 32) (h64 : fmtBits s.fmt1 ≠ 64) : s.memWidth true = none := by
  unfold State.memWidth
  dsimp only
  rw [if_pos (.inl ⟨h1, h6⟩), if_pos]
  rw [beq_false_of_ne h32, beq_false_of_ne h64]
  rfl

section

variable {scatter : Bool} {addrs : Nat → Nat → Word}

/-- A stat-tracked store in no float format, or a scatter of narrow elements, traps (R259, R296). -/
theorem storeTracked_traps (h : s.fmt1 < 1 ∨ 6 < s.fmt1 ∨ (scatter = true ∧ fmtBits s.fmt1 ≠ 32 ∧ fmtBits s.fmt1 ≠ 64)) :
    s.storeTracked st d e scatter addrs = s.trap 0x60 := by
  unfold State.storeTracked
  dsimp only
  split
  · next w hwidth hformat =>
    exfalso
    obtain ⟨h1, h6⟩ := Bool.and_eq_true_iff.mp hformat
    have h1 := of_decide_eq_true h1
    have h6 := of_decide_eq_true h6
    obtain ⟨rfl, h32, h64⟩ : scatter = true ∧ fmtBits s.fmt1 ≠ 32 ∧ fmtBits s.fmt1 ≠ 64 := by
      rcases h with h | h | h
      · omega
      · omega
      · exact h
    rw [memWidth_narrow h1 h6 h32 h64] at hwidth
    cases hwidth
  · rfl

variable (h1 : 1 ≤ s.fmt1) (h6 : s.fmt1 ≤ 6) (hw : scatter = true → fmtBits s.fmt1 = 32 ∨ fmtBits s.fmt1 = 64)
include h1 h6 hw

/-- Otherwise it checks RECID and its elements, and goes on with the record's entry. -/
theorem storeTracked_eq : s.storeTracked st d e scatter addrs =
    if s.badRecid (tRecid (s.readE e)) then .next (s.raise (recidRec (tRecid (s.readE e))))
    else s.check ((s.trackedChecks e (addrs (fmtBits s.fmt1))).filter fun c => c.2.cause != 0xA0)
      (s.withEntry (tRecid (s.readE e)) (s.trackedWith d e (addrs (fmtBits s.fmt1)) st)) := by
  have hformat : (decide (1 ≤ s.fmt1) && decide (s.fmt1 ≤ 6)) = true := by rw [decide_eq_true h1, decide_eq_true h6]; rfl
  unfold State.storeTracked
  dsimp only
  rw [memWidth_eq h1 h6 hw, hformat]
  exact State.check_cons _ _ _ _ _

end

/-! ### The store with its entry -/

section

variable {addr : Nat → Word}

/-- An element that fails a check of R49 or R50 raises one of their causes. -/
theorem trackedChecks_fail (h : ∃ k ∈ s.trackedElems e, ¬((addr k).toNat + fmtBits s.fmt1 / 8 ≤ 0x300000 ∧ (addr k).toNat % (fmtBits s.fmt1 / 8) = 0 ∧
      s.storeProtected s.curCore s.isS (addr k).toNat (fmtBits s.fmt1 / 8) = false)) (o : Out) :
    ∃ r, s.check ((s.trackedChecks e addr).filter fun c => c.2.cause != 0xA0) o = .next (s.raise r) ∧ r.cause ∈ [0x20, 0x21, 0x22] := by
  obtain ⟨k, hk, hbad⟩ := h
  obtain ⟨c, hc, hfail, hcause⟩ := storeChecks_fail (k := k) hbad
  obtain ⟨c', hc', -, hcheck⟩ := check_of_fail (s := s) (cs := (s.trackedChecks e addr).filter fun c => c.2.cause != 0xA0)
    ⟨c, List.mem_filter.mpr ⟨mem_laneChecks.mpr ⟨k, hk, hc⟩, bne_iff_ne.mpr hcause⟩, hfail⟩ o
  obtain ⟨hmem, hcause'⟩ := List.mem_filter.mp hc'
  obtain ⟨j, -, hj⟩ := mem_laneChecks.mp hmem
  exact ⟨c'.2, hcheck, cause_storeChecks hj (bne_iff_ne.mp hcause')⟩

theorem trackedChecks_pass (h : ∀ k ∈ s.trackedElems e, Writable s (fmtBits s.fmt1 / 8) (addr k)) (test : Bool × FaultRec → Bool) :
    ∀ c ∈ (s.trackedChecks e addr).filter test, c.1 = false := fun c hc => laneChecks_pass h c (List.mem_filter.mp hc).1

theorem filled_eq (c : Core) (n q : Nat) : c.filled n q = { c with stats := (c.filled n q).stats } := by
  unfold Core.filled
  split <;> rfl

theorem putElements_withStats (c : Core) (m : Nat) (x : Nat → Nat) (es : List Nat) (z : List StatEntry) :
    ({ c with stats := z } : Core).putElements m addr x es = { c.putElements m addr x es with stats := z } := by
  induction es generalizing c with
  | nil => rfl
  | cons k es ih => exact ih (c.put (addr k).toNat (leBytes m (x k)))

/-- Filling an entry changes no byte that is stored. -/
theorem putElements_filled (c : Core) (m : Nat) (x : Nat → Nat) (es : List Nat) (n q : Nat) :
    (c.filled n q).putElements m addr x es = { c.putElements m addr x es with stats := (c.filled n q).stats } := by
  rw [filled_eq, putElements_withStats]

/-- What the store leaves of its core beside the context. -/
theorem trackedCore_eq (c : Core) (q : Nat) (en : StatEntry) :
    s.trackedCore d e addr q en c = { c.putElements (fmtBits s.fmt1 / 8) addr (s.trackedCode d) (s.trackedElems e) with
      stats := (s.trackedCore d e addr q en c).stats } := by
  unfold State.trackedCore Core.setEntry
  rw [putElements_filled]

theorem statEntry_trackedCore {q : Nat} (hen : en = (s.me.statEntry (tRecid (s.readE e))).getD (entryOf (tRecid (s.readE e)) q)) :
    (s.trackedCore d e addr q en s.me).statEntry (tRecid (s.readE e)) =
      some ((s.trackedElems e).foldl (fun z k => z.contribute (s.trackedValue d k)) en) := by
  have hrecid : ((s.trackedElems e).foldl (fun z k => z.contribute (s.trackedValue d k)) en).recid = tRecid (s.readE e) :=
    (recid_contributions _ _ _).trans (hen ▸ recid_getD_entryOf _ _ _)
  unfold State.trackedCore
  rw [putElements_filled]
  generalize (s.trackedElems e).foldl (fun z k => z.contribute (s.trackedValue d k)) en = z at hrecid
  rw [← hrecid]
  refine statEntry_setEntry ?_
  have hfilled := statEntry_filled s.me (tRecid (s.readE e)) q
  rw [hrecid]
  exact Option.isSome_of_eq_some hfilled

/-- RESCALE at the lowest element above the frozen limit: the entry is filled, and nothing is stored (R102, R351). -/
theorem trackedWith_rescale {q k : Nat} (hroom : s.me.statEntry (tRecid (s.readE e)) = none → s.me.stats.length < 8)
    (hen : en = (s.me.statEntry (tRecid (s.readE e))).getD (entryOf (tRecid (s.readE e)) q)) (hk : k ∈ s.trackedElems e)
    (hrst : en.rstrap = true) (hex : en.excess (s.trackedValue d k) = true)
    (hlow : ∀ j ∈ s.trackedElems e, j < k → en.excess (s.trackedValue d j) = false) : ∃ u,
      s.trackedWith d e addr st (s.fillEntry s.curCore s.curCtx (tRecid (s.readE e)) q) en =
        .next (u.raise { cause := 0x61, info0 := k, info2 := tRecid (s.readE e) }) ∧
      u = (s.modMe fun c => { c with stats := u.me.stats }) ∧ u.me.statEntry (tRecid (s.readE e)) = some en := by
  have hmod := fillEntry_modMe hroom s.curCtx q id
  have hfirst : (s.trackedElems e).find? (fun k => en.rstrap && en.excess (s.trackedValue d k)) = some k := by
    refine find?_of_first (pairwise_trackedElems s e) hk (by rw [hrst, hex]; rfl) fun j hj hlt => ?_
    rw [hlow j hj hlt, Bool.and_false]
    exact Bool.false_ne_true
  refine ⟨s.modMe fun c => c.filled (tRecid (s.readE e)) q, ?_, ?_, ?_⟩
  · have hraise := raise_modMe_id (r := { cause := 0x61, info0 := k, info2 := tRecid (s.readE e) }) rfl
      (s.fillEntry s.curCore s.curCtx (tRecid (s.readE e)) q)
    unfold State.trackedWith
    rw [rescaleCheck_of_find hfirst, State.check_cons, if_pos rfl, ← hraise, hmod]
    rfl
  · rw [State.me_modMe]
    exact State.modMe_congr (filled_eq _ _ _)
  · rw [State.me_modMe, statEntry_filled, hen]

/-- Filling an entry changes no context. -/
theorem cx_fillEntry {k q : Nat} (hroom : s.me.statEntry n = none → s.me.stats.length < 8) : (s.fillEntry s.curCore k n q).cx = s.cx := by
  have hsame : ∀ v : State, (v.modMe id).cx = v.cx := fun v => congrArg (fun c : Core => c.cx v.curCtx) (State.me_modMe v id)
  rw [← hsame, fillEntry_modMe hroom, State.cx, State.me_modMe, id, filled_eq]
  rfl

/-- With no element above the limit the elements are stored and contributed (R102, R296). -/
theorem trackedWith_stores {q : Nat} (hroom : s.me.statEntry (tRecid (s.readE e)) = none → s.me.stats.length < 8)
    (hwrite : ∀ k ∈ s.trackedElems e, Writable s (fmtBits s.fmt1 / 8) (addr k))
    (hquiet : en.rstrap = true → ∀ k ∈ s.trackedElems e, en.excess (s.trackedValue d k) = false) :
    s.trackedWith d e addr st (s.fillEntry s.curCore s.curCtx (tRecid (s.readE e)) q) en =
      .next (s.stored (s.trackedCore d e addr q en) 4 st.toNat) := by
  have hnone : ∀ k ∈ s.trackedElems e, (en.rstrap && en.excess (s.trackedValue d k)) = false := by
    intro k hk
    cases hr : en.rstrap with
    | false => rfl
    | true => rw [hquiet hr k hk]; rfl
  have hmod := fillEntry_modMe hroom s.curCtx q fun c =>
    (c.putElements (fmtBits s.fmt1 / 8) addr (s.trackedCode d) (s.trackedElems e)).setEntry
      ((s.trackedElems e).foldl (fun z k => z.contribute (s.trackedValue d k)) en)
  have hread : (s.fillEntry s.curCore s.curCtx (tRecid (s.readE e)) q).readV d = s.readV d := by
    rw [State.readV, cx_fillEntry hroom]; rfl
  generalize s.fillEntry s.curCore s.curCtx (tRecid (s.readE e)) q = v at hmod hread
  have hlanes : v.storeLanes d (s.trackedElems e) (fmtBits s.fmt1) addr =
      v.storeElements (fmtBits s.fmt1 / 8) addr (s.trackedCode d) (s.trackedElems e) := by
    unfold State.storeLanes
    rw [hread]; rfl
  unfold State.trackedWith
  rw [rescaleCheck_of_none hnone, State.check_cons, if_neg Bool.false_ne_true, check_of_pass (trackedChecks_pass hwrite _), hlanes,
    storeElements_modMe, contributeAll_map, hmod]
  rfl

/-- What the store leaves. -/
theorem stored_trackedCore_spec (s : State) (d : BitVec 5) (e : BitVec 3) (addr : Nat → Word) (q : Nat) (en : StatEntry) (stl : Nat) :
    let u := s.stored (s.trackedCore d e addr q en) 4 stl
    Retired s u 4 ∧ FlagsSame s u ∧ RegsSameBut s u [] ∧ CtxRest s.cx u.cx ∧
      ElementsStored s u (s.trackedElems e) (fmtBits s.fmt1 / 8) addr (s.trackedCode d) ∧
      u.me.statEntry (tRecid (s.readE e)) = (s.trackedCore d e addr q en s.me).statEntry (tRecid (s.readE e)) ∧
      u = (s.modMe fun _ => u.me) ∧
      u.me = { s.me with ctx := u.me.ctx, mem := u.me.mem, bad := u.me.bad, image := u.me.image, stats := u.me.stats } := by
  intro u
  have hcore := trackedCore_eq (s := s) (d := d) (e := e) (addr := addr) s.me q en
  have hstored := storedFrom_putElements (fmtBits s.fmt1 / 8) addr (s.trackedCode d) s.me (s.trackedElems e)
  have hme : u.me = (s.trackedCore d e addr q en s.me).modCx s.curCtx fun x => x.accessed 4 stl := State.me_stored s _ 4 stl
  generalize s.trackedCore d e addr q en s.me = c at hcore hme
  unfold Core.storedFrom at hstored
  have hcx : u.cx = s.cx.accessed 4 stl := by
    rw [State.cx, hme, show u.curCtx = s.curCtx from rfl, Core.cx_modCx_same, hcore, hstored]; rfl
  refine ⟨by rw [Retired, hcx]; exact ⟨rfl, rfl, rfl⟩, by rw [FlagsSame, hcx]; exact ⟨rfl, rfl⟩,
    regsSameBut_of_files (by rw [hcx]; exact ⟨rfl, rfl, rfl, rfl, rfl⟩) [], by rw [hcx]; rfl,
    elementsStored_of_putElements _ _ _ (pairwise_trackedElems s e) (by rw [hme, hcore]; rfl), by rw [hme]; rfl, ?_, ?_⟩
  · rw [State.me_stored]
    exact (State.stored_eq s _ 4 stl).trans (State.modMe_congr rfl)
  · rw [hme, hcore, hstored]; rfl

end

end Sys2Proof.Machine
namespace Sys2Proof

open Machine

/-- Settles O26: the checks in their order, the record's entry where it is at hand, then RESCALE or the stores with their contributions. -/
theorem trackedStores : Obligations.TrackedStores := by
  unfold Obligations.TrackedStores
  intro st d a b e s en t n f w es x atHand tracked
  have tracked_of : ∀ {i : Instr} {scatter : Bool} {addrs : Nat → Nat → Word}, exec i s = s.storeTracked st d e scatter addrs →
      tracked i scatter (addrs w) := by
    intro i scatter addrs hexec
    refine ⟨fun h => hexec.trans (storeTracked_traps h), fun h1 h6 hw => ?_⟩
    rw [storeTracked_eq h1 h6 hw] at hexec
    refine ⟨fun hbad => hexec.trans (if_pos hbad), fun hgood hfail => ?_, fun hgood hwrite hen hwait => ?_, fun hgood hhand hwrite => ?_⟩ <;>
      rw [if_neg (Bool.eq_false_iff.mp hgood)] at hexec
    · obtain ⟨r, hr, hcause⟩ := trackedChecks_fail hfail _
      exact ⟨r, hexec.trans hr, hcause⟩
    · rw [check_of_pass (trackedChecks_pass hwrite _), withEntry_unread hen hwait, if_neg (Bool.eq_false_iff.mp hgood)] at hexec
      exact asksHome_of_sendRecord hexec
    · obtain ⟨q, hroom, hq, hentry⟩ := withEntry_atHand hhand
      rw [check_of_pass (trackedChecks_pass hwrite _), hentry] at hexec
      refine ⟨fun k hk hrst hex hlow => ?_, fun hquiet => ?_⟩
      · obtain ⟨u, hu, hstate, hfound⟩ := trackedWith_rescale (st := st) (addr := addrs w) hroom hq hk hrst hex hlow
        exact ⟨u, hexec.trans hu, hstate, hfound⟩
      · obtain ⟨hret, hflags, hregs, hrest, hstored, hfound, hstate, hme⟩ := stored_trackedCore_spec s d e (addrs w) q en st.toNat
        exact ⟨_, hexec.trans (trackedWith_stores hroom hwrite hquiet), hret, hflags, hregs, hrest, hstored,
          hfound.trans (statEntry_trackedCore hq), hstate, hme⟩
  exact ⟨tracked_of (addrs := s.unitAddr a) rfl, tracked_of (addrs := s.strideAddr a b) rfl, tracked_of (addrs := s.offsetAddr a b) rfl⟩

end Sys2Proof
end

section
/-! SUPPORT. A record as the sum of its fields (R96, R97), and what a merge, a clear and a freeze write (R105). -/

namespace Sys2Proof.Machine

variable {r k : Nat}

/-! ### Fields of numbers (R7) -/

/-- Neighbouring fields are one field. -/
theorem fld_add (x lo m n : Nat) : fld x lo (m + n) = fld x lo m + 2 ^ m * fld x (lo + m) n := by
  rw [fld, fld, fld, pow_add, pow_add, Nat.mod_mul, Nat.div_div_eq_div_mul]

/-- Neighbouring fields of b bits are one field. -/
theorem sum_fields (x lo b n : Nat) :
    (List.range n).foldl (fun a k => a + fld x (lo + b * k) b % 2 ^ b * 2 ^ (lo + b * k)) 0 = fld x lo (b * n) * 2 ^ lo := by
  induction n with
  | zero => simp [fld, Nat.mod_one]
  | succ n ih =>
    rw [List.range_succ, List.foldl_append, List.foldl_cons, List.foldl_nil, ih, Nat.mod_eq_of_lt (fld_lt _ _ _), Nat.mul_succ, fld_add, pow_add]
    ring

/-- A sum of fields of b bits that begins at bit lo. -/
theorem sum_fields_from (lo b n : Nat) (f : Nat → Nat) :
    (List.range n).foldl (fun a k => a + f k % 2 ^ b * 2 ^ (lo + b * k)) 0 =
      2 ^ lo * (List.range n).foldl (fun a k => a + f k % 2 ^ b * 2 ^ (b * k)) 0 := by
  induction n with
  | zero => rfl
  | succ n ih =>
    rw [List.range_succ, List.foldl_append, List.foldl_append, ih]
    show _ + f n % 2 ^ b * 2 ^ (lo + b * n) = 2 ^ lo * (_ + f n % 2 ^ b * 2 ^ (b * n))
    rw [pow_add]
    ring

/-- A field of a number in memory is the number of its bytes. -/
theorem fld_num (m : Memory) (a : Nat) {n k l : Nat} (h : k + l ≤ n) : fld (Memory.num m a n) (8 * k) (8 * l) = Memory.num m (a + k) l := by
  refine Nat.eq_of_testBit_eq fun j => ?_
  rw [fld, Nat.testBit_mod_two_pow, Nat.testBit_div_two_pow, Memory.testBit_num, Memory.testBit_num,
    show a + (j + 8 * k) / 8 = a + k + j / 8 by omega, show (j + 8 * k) % 8 = j % 8 by omega]
  by_cases hj : j < 8 * l
  · rw [decide_eq_true hj, decide_eq_true (by omega : j + 8 * k < 8 * n), Bool.true_and, Bool.true_and]
  · rw [decide_eq_false hj, Bool.false_and, Bool.false_and]

/-! ### A record's fields -/

section
variable (amax nan inf scale anchor tgt flags updates : Nat) (hist : Nat → Nat)

/-- The bins of a record as one number. -/
def histSum (hist : Nat → Nat) : Nat := (List.range 24).foldl (fun a k => a + hist k % 2 ^ 16 * 2 ^ (16 * k)) 0

theorem packRecord_eq : packRecord amax nan inf scale anchor tgt flags updates hist =
    amax % 2 ^ 32 + nan % 2 ^ 16 * 2 ^ 32 + inf % 2 ^ 16 * 2 ^ 48 + scale % 256 * 2 ^ 64 + anchor % 256 * 2 ^ 72 + tgt % 256 * 2 ^ 80
      + flags % 256 * 2 ^ 88 + updates % 2 ^ 32 * 2 ^ 96 + 2 ^ 128 * histSum hist := by
  rw [packRecord, sum_fields_from]; rfl

theorem histSum_lt : histSum hist < 2 ^ (16 * 24) := (fld_sum_fields 16 hist 24).1

theorem packRecord_lt : packRecord amax nan inf scale anchor tgt flags updates hist < 2 ^ 512 := by
  have := histSum_lt hist
  rw [packRecord_eq]
  omega

/-- The fields of a record are those that it is made of (R97). -/
theorem fld_packRecord (hr : r = packRecord amax nan inf scale anchor tgt flags updates hist) :
    fld r 0 32 = amax % 2 ^ 32 ∧ fld r 32 16 = nan % 2 ^ 16 ∧ fld r 48 16 = inf % 2 ^ 16 ∧ fld r 64 8 = scale % 256 ∧
    fld r 72 8 = anchor % 256 ∧ fld r 80 8 = tgt % 256 ∧ fld r 88 8 = flags % 256 ∧ fld r 96 32 = updates % 2 ^ 32 ∧
    ∀ k < 24, fld r (128 + 16 * k) 16 = hist k % 2 ^ 16 := by
  rw [packRecord_eq] at hr
  refine ⟨?_, ?_, ?_, ?_, ?_, ?_, ?_, ?_, fun k hk => ?_⟩
  on_goal 9 =>
    have hhigh : r / 2 ^ 128 = histSum hist := by omega
    rw [fld, pow_add, ← Nat.div_div_eq_div_mul, hhigh]
    exact (fld_sum_fields 16 hist 24).2 k hk
  all_goals unfold fld; omega

end

/-- A record of its own fields, with another scale and other flags of its freeze, differs in these alone. -/
theorem packRecord_fields (hr : r < 2 ^ 512) (scale : Nat) {fl : Nat} (hfl : fl < 4) :
    packRecord (recAmax r) (fld r 32 16) (fld r 48 16) scale (recAnchor r) (recTgt r) (fld r 88 8 / 4 * 4 + fl) (fld r 96 32)
        (fun k => fld r (128 + 16 * k) 16) =
      r % 2 ^ 64 + scale % 256 * 2 ^ 64 + r / 2 ^ 72 % 2 ^ 16 * 2 ^ 72 + fl * 2 ^ 88 + r / 2 ^ 90 * 2 ^ 90 := by
  rw [packRecord, sum_fields r 128 16 24]
  unfold recAmax recAnchor recTgt fld
  omega

/-- The fields of a record that has another scale and other flags of its freeze. -/
theorem fld_rescaled {r' sc fl : Nat} (hsc : sc < 256) (hfl : fl < 4)
    (h : r' = r % 2 ^ 64 + sc * 2 ^ 64 + r / 2 ^ 72 % 2 ^ 16 * 2 ^ 72 + fl * 2 ^ 88 + r / 2 ^ 90 * 2 ^ 90) :
    fld r' 0 64 = fld r 0 64 ∧ fld r' 64 8 = sc ∧ fld r' 72 16 = fld r 72 16 ∧ fld r' 88 2 = fl ∧ fld r' 90 422 = fld r 90 422 := by
  have hhigh : r' / 2 ^ 90 = r / 2 ^ 90 := by omega
  refine ⟨?_, ?_, ?_, ?_, congrArg (· % 2 ^ 422) hhigh⟩ <;> unfold fld <;> omega

theorem satAdd_mod (w a b : Nat) : satAdd w a b % 2 ^ w = satAdd w a b := by
  have h : 0 < 2 ^ w := by positivity
  exact Nat.mod_eq_of_lt (by rw [satAdd]; omega)

/-- The merge of a delta, field by field (R102, R105). -/
theorem mergeRecord_spec {r' : Nat} {d : StatSum} (h : r' = mergeRecord r d) :
    fld r' 0 32 = max (fld r 0 32) d.amax % 2 ^ 32 ∧ fld r' 32 16 = min (fld r 32 16 + d.nan) (2 ^ 16 - 1) ∧
    fld r' 48 16 = min (fld r 48 16 + d.inf) (2 ^ 16 - 1) ∧ fld r' 64 24 = fld r 64 24 ∧
    fld r' 88 8 = fld r 88 8 ||| (if d.ovf then 4 else 0) ∧ fld r' 96 32 = min (fld r 96 32 + d.updates) (2 ^ 32 - 1) ∧
    ∀ k < 24, fld r' (128 + 16 * k) 16 = min (fld r (128 + 16 * k) 16 + d.hist.getD k 0) (2 ^ 16 - 1) := by
  obtain ⟨hamax, hnan, hinf, hscale, hanchor, htgt, hflags, hupdates, hhist⟩ := fld_packRecord _ _ _ _ _ _ _ _ _ h
  rw [satAdd_mod] at hnan hinf hupdates
  have hbits : fld r 88 8 ||| (if d.ovf then 4 else 0) < 2 ^ 8 := Nat.or_lt_two_pow (fld_lt _ _ _) (by split <;> decide)
  have hcontrol : ∀ x, fld x 64 24 = fld x 64 8 + 2 ^ 8 * (fld x 72 8 + 2 ^ 8 * fld x 80 8) := fun x => by
    rw [fld_add x 64 8 16, fld_add x 72 8 8]
  refine ⟨hamax, hnan, hinf, ?_, hflags.trans (Nat.mod_eq_of_lt hbits), hupdates, fun k hk => (hhist k hk).trans (satAdd_mod 16 _ _)⟩
  rw [hcontrol, hcontrol, hscale, hanchor, htgt]
  exact congrArg₂ (· + 2 ^ 8 * ·) (Nat.mod_eq_of_lt (fld_lt _ _ _))
    (congrArg₂ (· + 2 ^ 8 * ·) (Nat.mod_eq_of_lt (fld_lt _ _ _)) (Nat.mod_eq_of_lt (fld_lt _ _ _)))

theorem mergeRecord_lt (r : Nat) (d : StatSum) : mergeRecord r d < 2 ^ 512 := packRecord_lt _ _ _ _ _ _ _ _ _

/-- A cleared record (R105). -/
theorem clearRecord_eq (anchor tgt : Nat) : clearRecord anchor tgt = 127 * 2 ^ 64 + anchor % 256 * 2 ^ 72 + tgt % 256 * 2 ^ 80 := by
  simp [clearRecord, packRecord]

theorem clearRecord_lt (anchor tgt : Nat) : clearRecord anchor tgt < 2 ^ 512 := packRecord_lt _ _ _ _ _ _ _ _ _

/-- A record that is frozen with a scale (R105, R294). -/
theorem freezeRecord_zero (hr : r < 2 ^ 512) {rst : Nat} (hrst : rst < 2) (scale : Nat) :
    ∃ r', freezeRecord r 0 rst scale = some r' ∧ r' < 2 ^ 512 ∧ fld r' 0 64 = fld r 0 64 ∧ fld r' 64 8 = scale % 256 ∧
      fld r' 72 16 = fld r 72 16 ∧ fld r' 88 2 = 1 + 2 * rst ∧ fld r' 90 422 = fld r 90 422 :=
  ⟨_, rfl, packRecord_lt _ _ _ _ _ _ _ _ _, fld_rescaled (Nat.mod_lt _ (by decide)) (by omega) (packRecord_fields hr scale (by omega))⟩

/-- A record that is thawed (R105, R294). -/
theorem freezeRecord_two (hr : r < 2 ^ 512) (rst scale : Nat) :
    ∃ r', freezeRecord r 2 rst scale = some r' ∧ r' < 2 ^ 512 ∧ fld r' 0 88 = fld r 0 88 ∧ fld r' 88 2 = 0 ∧ fld r' 90 422 = fld r 90 422 := by
  refine ⟨_, rfl, packRecord_lt _ _ _ _ _ _ _ _ _, ?_⟩
  obtain ⟨hlow, hscale, hcontrol, hflags, hhigh⟩ := fld_rescaled (Nat.mod_lt _ (by decide)) (by decide)
    (packRecord_fields hr (recScale r) (fl := 0) (by decide))
  refine ⟨?_, hflags, hhigh⟩
  have hsplit : ∀ x, fld x 0 88 = fld x 0 64 + 2 ^ 64 * (fld x 64 8 + 2 ^ 8 * fld x 72 16) := fun x => by
    rw [fld_add x 0 64 24, Nat.zero_add, fld_add x 64 8 16]
  rw [hsplit, hsplit, hlow, hscale, hcontrol, Nat.mod_eq_of_lt (show recScale r < 256 from fld_lt r 64 8)]
  rfl

/-- A record of a format without a largest value is not frozen with a derived scale (R294). -/
theorem freezeRecord_one (h : maxOf (recTgt r) = none) (rst scale : Nat) : freezeRecord r 1 rst scale = none := by
  rw [freezeRecord, h]; rfl

end Sys2Proof.Machine
end

section
/-! SUPPORT. What happens at the home of a record, and what the answers of copies' reads and flushes change (R102 to R105, R136, R393). -/

namespace Sys2Proof.Machine

variable {s t u : State} {i k n m q : Nat} {p : Packet} {x : Tx} {cn : CoreNo} {e : StatEntry}

/-! ### A record that is written -/

/-- The 64 bytes at pa are the record r', and no other byte has changed. -/
structure RecordWritten (s t : State) (pa r' : Nat) : Prop where
  num : Memory.num t.gmem pa 64 = r'
  outside : SameOutside s.gmem t.gmem pa 64
  mem : ∀ j, (t.core j).mem = (s.core j).mem

theorem core_putBytes (s : State) (pa : Nat) (bs : List Byte) (j : Nat) : (s.putBytes pa bs).core j = s.core j := rfl
theorem nextPkt_putBytes (s : State) (pa : Nat) (bs : List Byte) : (s.putBytes pa bs).nextPkt = s.nextPkt := rfl
theorem core_send (s : State) (q : Packet) (j : Nat) : (s.send q).core j = s.core j := rfl

/-- A record is written whole, behind its translation. -/
theorem recordWritten_putBytes {pa r' : Nat} (hu : OnlyCaches s u) (hopen : ∀ k < 64, s.sequencerField (pa + k) = false) (hr : r' < 2 ^ 512) :
    RecordWritten s (u.putBytes pa (leBytes 64 r')) pa r' := by
  have hlen : (leBytes 64 r').length = 64 := length_leBytes 64 r'
  have hfield : ∀ k < (leBytes 64 r').length, u.sequencerField (pa + k) = false := by
    rw [hlen, hu.rest]
    exact hopen
  have hgmem : (u.putBytes pa (leBytes 64 r')).gmem = Memory.write s.gmem pa (leBytes 64 r') := by
    rw [gmem_putBytes hfield, hu.rest]
  refine ⟨?_, fun b hb => ?_, fun j => ?_⟩
  · rw [hgmem, Memory.num_write_same]
    exact Nat.mod_eq_of_lt (by omega)
  · rw [hgmem]
    exact Memory.byte_write_outside _ _ _ _ (by rwa [hlen])
  · rw [core_putBytes, hu.cores j]

theorem RecordWritten.of_fields {v : State} {pa r' : Nat} (h : RecordWritten s v pa r') (hg : t.gmem = v.gmem)
    (hmem : ∀ j, (t.core j).mem = (v.core j).mem) : RecordWritten s t pa r' :=
  ⟨hg ▸ h.num, hg ▸ h.outside, fun j => (hmem j).trans (h.mem j)⟩

theorem num_lt (m : Memory) (a n : Nat) : Memory.num m a n < 2 ^ (8 * n) :=
  Nat.lt_pow_two_of_testBit _ fun j hj => by rw [Memory.testBit_num, decide_eq_false (by omega), Bool.false_and]

theorem recordNum_lt (m : Memory) (pa : Nat) : Memory.num m pa 64 < 2 ^ 512 := by
  have := num_lt m pa 64
  omega

/-! ### A record operation that is suspended (R393) -/

theorem net_report (s : State) (cn : Nat) (r : FaultRec) : (s.report cn r).net = s.net := by
  unfold State.report
  dsimp only
  split
  · split <;> rfl
  · rfl

theorem net_async (s : State) (cn : Nat) (r : FaultRec) : (s.async cn r).net = s.net := by
  unfold State.async
  split <;> exact net_report _ _ _

/-- A record operation at va is suspended at its core, whose CT learns of it (R350, R393). -/
structure RecordSuspended (s t : State) (cn i va : Nat) (write : Bool) : Prop where
  mem : MemSame s t
  susp : (t.core cn).susp = (s.core cn).susp ++ [⟨2, i % 65536, i⟩]
  net : t.net = s.net
  record : ((s.core cn).trap.queue.filter fun q => !keptCause q.cause).length < 12 → ∃ r : FaultRec,
    (t.core cn).trap.queue = (s.core cn).trap.queue ++ [r] ∧ r.cause = 0x86 ∧ r.eng = true ∧ r.addr = .ofNat 64 va ∧
    r.info1 = (if write then 1 else 0) ∧ r.opkind = 2 ∧ r.opid = i % 65536

theorem recordSuspended_suspendRecord (hu : OnlyCaches s u) (i : Nat) (p : Packet) (va : Nat) (write : Bool) :
    RecordSuspended s (u.suspendRecord i p va write) p.cn i va write := by
  have hcore := hu.cores p.cn
  have hsettle := Settles.async (u.modCore p.cn fun c => { c with susp := c.susp ++ [⟨2, i % 65536, i⟩] }) p.cn
    { p.report with cause := 0x86, eng := true, addr := .ofNat 64 va, info1 := if write then 1 else 0, opkind := 2, opid := i % 65536 }
  refine ⟨MemSame.trans hu.memSame (MemSame.trans (memSame_modCore u p.cn rfl) hsettle.memSame), ?_, ?_, fun hroom => ?_⟩
  · rw [State.suspendRecord, hsettle.core p.cn, State.core_modCore_same, hcore]
  · rw [State.suspendRecord, net_async, hu.rest]; rfl
  · have htrap : ((u.modCore p.cn fun c => { c with susp := c.susp ++ [⟨2, i % 65536, i⟩] }).core p.cn).trap = (s.core p.cn).trap := by
      rw [State.core_modCore_same, hcore]
    rw [State.suspendRecord, queue_async _ _ _ rfl rfl (by rw [htrap]; exact hroom), htrap]
    exact ⟨_, rfl, rfl, rfl, rfl, rfl, rfl, rfl⟩

/-! ### Flushes at the home (R102, R105) -/

/-- A completed transaction opens its window by one (R136). -/
theorem Core.window_completeTx {c : Core} (h : c.txs.find? (fun y => y.seq == q) = some x) :
    (c.completeTx q).window_ x.key = min 32 (c.window_ x.key + 1) := by
  have hset : ∀ (c : Core) (d : DestKey) (n : Nat), (c.setWindow d n).window_ d = n := by
    intro c d n
    by_cases hn : n = 32
    · subst hn
      have hnone : (c.windows.filter fun e => e.1 != d).find? (fun e => e.1 == d) = none :=
        List.find?_eq_none.mpr fun e he => by simpa using (List.mem_filter.mp he).2
      show (((c.windows.filter fun e => e.1 != d).find? fun e => e.1 == d).map (·.2)).getD 32 = 32
      rw [hnone]; rfl
    · simp [Core.window_, Core.setWindow, hn]
  have hsettle : ∀ (c : Core) (d : DestKey), c.settle.window_ d = c.window_ d := fun c d => by
    rw [Core.window_, (Core.settle_spec c).1]; rfl
  unfold Core.completeTx
  rw [h]
  exact (hsettle _ _).trans (hset _ _ _)

/-- The core whose flush with id q is merged. -/
def Core.flushMerged (c : Core) (q : Nat) : Core := { c.completeTx q with flushes := c.flushes - 1 }

theorem mem_flushMerged (c : Core) (q : Nat) : (c.flushMerged q).mem = c.mem := by
  show (c.completeTx q).mem = _
  rw [(c.completeTx_spec q).1]

/-- The state in which packet i, a merge or an operation that has written the record at pa, is taken. -/
def State.recordStored (u : State) (i pa r' : Nat) : State := { u.putBytes pa (leBytes 64 r') with net := SMap.del u.net i }

theorem gmem_recordStored (u : State) (i pa r' : Nat) : (u.recordStored i pa r').gmem = (u.putBytes pa (leBytes 64 r')).gmem := rfl
theorem core_recordStored (u : State) (i pa r' j : Nat) : (u.recordStored i pa r').core j = u.core j := core_putBytes u pa (leBytes 64 r') j
theorem net_recordStored (u : State) (i pa r' : Nat) : (u.recordStored i pa r').net = SMap.del u.net i := rfl

theorem recordWritten_recordStored {pa r' : Nat} (hu : OnlyCaches s u) (i : Nat) (hopen : ∀ k < 64, s.sequencerField (pa + k) = false)
    (hr : r' < 2 ^ 512) : RecordWritten s (u.recordStored i pa r') pa r' :=
  (recordWritten_putBytes hu hopen hr).of_fields (gmem_recordStored u i pa r') fun j => by rw [core_recordStored, core_putBytes]

/-- A flush is merged: the record holds the delta, and the request is complete (R102, R105, R132). -/
theorem exec_flushMerge {l pa : Nat} {d : StatSum} (hp : s.packet i = some p) (hsusp : (s.core p.cn).suspended i = false)
    (hm : p.marked = false) (hbody : p.body = .flush l d)
    (htr : s.translate (if p.ctx = 12 then none else some p.cn) p.part p.addr .read = (.ok pa, u)) :
    exec (.flushMerge i) s =
      let v := u.recordStored i pa (mergeRecord (Memory.num u.gmem pa 64) d)
      .next (if p.ctx = 12 then v else v.modCore p.cn fun c => c.flushMerged p.seq) := by
  show execFlushMerge i s = _
  unfold execFlushMerge
  rw [hp]
  dsimp only
  rw [hbody]
  dsimp only
  rw [hsusp, if_neg Bool.false_ne_true, htr]
  dsimp only
  rw [takePacket_unmarked _ i hm]
  split <;> rfl

/-- A flush whose record does not translate is suspended (R393). -/
theorem exec_flushMerge_fails {l : Nat} {d : StatSum} {o : Xlated} (hp : s.packet i = some p) (hsusp : (s.core p.cn).suspended i = false)
    (hbody : p.body = .flush l d)
    (htr : s.translate (if p.ctx = 12 then none else some p.cn) p.part p.addr .read = (o, u)) (hfails : ∀ pa, o ≠ .ok pa) :
    exec (.flushMerge i) s = .next (u.suspendRecord i p p.addr true) := by
  show execFlushMerge i s = _
  unfold execFlushMerge
  rw [hp]
  dsimp only
  rw [hbody]
  dsimp only
  rw [hsusp, if_neg Bool.false_ne_true, htr]
  cases o
  case ok pa => exact absurd rfl (hfails pa)
  all_goals rfl

/-- A flush is merged field by field (R102, R105), and its request is complete (R132, R136). -/
theorem flushMerge_merges {l pa : Nat} {d : StatSum} (hp : s.packet i = some p) (hsusp : (s.core p.cn).suspended i = false)
    (hm : p.marked = false) (hbody : p.body = .flush l d)
    (htr : s.translate (if p.ctx = 12 then none else some p.cn) p.part p.addr .read = (.ok pa, u))
    (hopen : ∀ k < 64, s.sequencerField (pa + k) = false) :
    Answers (.flushMerge i) s fun t => RecordWritten s t pa (mergeRecord (Memory.num s.gmem pa 64) d) ∧ t.net = SMap.del s.net i ∧
      (p.ctx ≠ 12 → ∃ c : Core, c = { s.core p.cn with xcache := c.xcache } ∧ t.core p.cn = c.flushMerged p.seq) := by
  have hu : OnlyCaches s u := by simpa only [htr] using onlyCaches_translate s (if p.ctx = 12 then none else some p.cn) p.part p.addr .read
  have hexec := exec_flushMerge hp hsusp hm hbody htr
  have hgmem : u.gmem = s.gmem := by rw [hu.rest]
  have hstored := recordWritten_recordStored hu i hopen (mergeRecord_lt (Memory.num s.gmem pa 64) d)
  rw [hgmem] at hexec
  generalize hv : u.recordStored i pa (mergeRecord (Memory.num s.gmem pa 64) d) = v at hexec hstored
  have hnet : v.net = SMap.del s.net i := by rw [← hv, net_recordStored, hu.rest]
  have hcore : v.core p.cn = u.core p.cn := by rw [← hv, core_recordStored]
  dsimp only at hexec
  by_cases hctx : p.ctx = 12
  · rw [if_pos hctx] at hexec
    exact ⟨_, hexec, hstored, hnet, fun h => absurd hctx h⟩
  · rw [if_neg hctx] at hexec
    refine ⟨_, hexec, hstored.of_fields rfl fun j => ?_, hnet, fun _ => ⟨u.core p.cn, hu.cores p.cn, ?_⟩⟩
    · by_cases hj : j = p.cn
      · subst hj; rw [State.core_modCore_same, mem_flushMerged]
      · rw [State.core_modCore_other _ _ hj]
    · rw [State.core_modCore_same, hcore]

/-! ### Reads, clears and freezes at the home (R105, R287) -/

/-- Whether a packet carries a record operation does not depend on the record. -/
theorem isNone_recordOp (b : Body) (r n : Nat) : (recordOp b 0 0).isNone = (recordOp b r n).isNone := by
  cases b
  case recFreeze => unfold recordOp; dsimp only; split <;> split <;> rfl
  all_goals rfl

/-- A record operation that is not a read. -/
def Body.writesRecord : Body → Bool
  | .recRead _ => false
  | _ => true

theorem recordDone_eq (v : State) (i st : Nat) (data : List Word) (hm : p.marked = false) :
    v.recordDone i p st data = ({ v with net := SMap.del v.net i } : State).send (p.answer st data) := by
  rw [State.recordDone, takePacket_unmarked v i hm]; rfl

/-- The answer of a read: the record's doublewords, and the count of STSYNC instructions (R108, R287). -/
theorem recordOp_read (m : Memory) (pa l n : Nat) :
    recordOp (.recRead l) (Memory.num m pa 64) n = some (none, 0, recordDws m pa ++ [.ofNat 64 n]) := by
  have hdws : (List.range 8).map (fun j => BitVec.ofNat 64 (fld (Memory.num m pa 64) (64 * j) 64)) = recordDws m pa := by
    refine List.map_congr_left fun j hj => ?_
    have hj8 : 8 * j + 8 ≤ 64 := by have := List.mem_range.mp hj; omega
    rw [Memory.dword, ← fld_num m pa hj8, ← Nat.mul_assoc]
  rw [recordOp, hdws]

section
variable {pa st : Nat} {data : List Word} {w : Option Nat} (hp : s.packet i = some p) (hsusp : (s.core p.cn).suspended i = false)
include hp hsusp

/-- An operation is performed and answered. -/
theorem exec_recordHomeOperation (htr : s.translate (some p.cn) p.part p.addr .read = (.ok pa, u))
    (hop : recordOp p.body (Memory.num s.gmem pa 64) (s.core p.cn).syncs = some (w, st, data)) :
    exec (.recordHomeOperation i) s = .next ((w.elim u fun r => u.putBytes pa (leBytes 64 r)).recordDone i p st data) ∧ OnlyCaches s u := by
  have hu : OnlyCaches s u := by simpa only [htr] using onlyCaches_translate s (some p.cn) p.part p.addr .read
  have hop' : recordOp p.body (Memory.num u.gmem pa 64) (u.core p.cn).syncs = some (w, st, data) := by
    rw [hu.cores, hu.rest]; exact hop
  have hop0 : (recordOp p.body 0 0).isNone = false := by rw [isNone_recordOp, hop]; rfl
  refine ⟨?_, hu⟩
  show execRecordHomeOperation i s = _
  unfold execRecordHomeOperation
  rw [hp]
  dsimp only
  rw [hsusp, hop0, if_neg (show ¬(false || false) = true by decide), htr]
  dsimp only
  rw [hop']
  cases w <;> rfl

/-- An operation whose record does not translate is suspended (R393). -/
theorem exec_recordHomeOperation_fails {o : Xlated} (htr : s.translate (some p.cn) p.part p.addr .read = (o, u)) (hfails : ∀ pa, o ≠ .ok pa)
    (hop : (recordOp p.body 0 0).isNone = false) :
    exec (.recordHomeOperation i) s = .next (u.suspendRecord i p p.addr p.body.writesRecord) := by
  show execRecordHomeOperation i s = _
  unfold execRecordHomeOperation
  rw [hp]
  dsimp only
  rw [hsusp, hop, if_neg (show ¬(false || false) = true by decide), htr]
  cases o
  case ok pa => exact absurd rfl (hfails pa)
  all_goals rfl

variable (hm : p.marked = false) (htr : s.translate (some p.cn) p.part p.addr .read = (.ok pa, u))
include hm htr

/-- An operation that writes nothing is answered. -/
theorem recordHomeOperation_unwritten (hop : recordOp p.body (Memory.num s.gmem pa 64) (s.core p.cn).syncs = some (none, st, data)) :
    Answers (.recordHomeOperation i) s fun t => MemSame s t ∧ Replied s t p st data := by
  obtain ⟨hexec, hu⟩ := exec_recordHomeOperation hp hsusp htr hop
  rw [recordDone_eq _ _ _ _ hm] at hexec
  exact ⟨_, hexec, MemSame.trans hu.memSame (memSame_of_fields rfl rfl), replied_send (Nat.le_of_eq (by rw [hu.rest]; rfl))⟩

/-- An operation that writes the record is answered. -/
theorem recordHomeOperation_written {r' : Nat} (hopen : ∀ k < 64, s.sequencerField (pa + k) = false) (hr : r' < 2 ^ 512)
    (hop : recordOp p.body (Memory.num s.gmem pa 64) (s.core p.cn).syncs = some (some r', st, data)) :
    Answers (.recordHomeOperation i) s fun t => RecordWritten s t pa r' ∧ Replied s t p st data := by
  obtain ⟨hexec, hu⟩ := exec_recordHomeOperation hp hsusp htr hop
  rw [recordDone_eq _ _ _ _ hm] at hexec
  have hwritten := recordWritten_putBytes hu hopen hr
  have hnext : s.nextPkt = (u.putBytes pa (leBytes 64 r')).nextPkt := by rw [nextPkt_putBytes, hu.rest]
  dsimp only [Option.elim] at hexec
  generalize u.putBytes pa (leBytes 64 r') = v at hexec hwritten hnext
  exact ⟨_, hexec, hwritten.of_fields rfl fun _ => rfl, replied_send (Nat.le_of_eq hnext)⟩

end

/-! ### The answer of a read for a copy (R103, R108) -/

/-- A core with room for an entry needs no victim (R103). -/
theorem victim_of_room {cn : Nat} (hroom : (s.core cn).stats.length < 8) (n : Nat) : s.victim cn n = none := by
  unfold State.victim
  dsimp only
  rw [decide_eq_true hroom, Bool.or_true, if_pos rfl]

/-- A core with room for an entry fills it from the record's bytes (R103). -/
theorem fillEntry_eq {cn : Nat} (h : (s.core cn).statEntry n = none) (hroom : (s.core cn).stats.length < 8) (k r : Nat) :
    s.fillEntry cn k n r = s.modCore cn fun c => { c with stats := c.stats ++ [entryOf n r] } := by
  rw [State.fillEntry, h, if_neg (show ¬(none : Option StatEntry).isSome = true from nofun), victim_of_room hroom]

/-- An entry with a place keeps no answer waiting (R136). -/
theorem fillWaits_of_room {cn : Nat} (hroom : (s.core cn).stats.length < 8) (x : Tx) : s.fillWaits cn x = false := by
  unfold State.fillWaits State.fillHeld
  split
  · rw [victim_of_room hroom]; rfl
  · rfl

/-- A read for a copy is wanted where a copy still contributes to the record and no STSYNC has come in between (R108). -/
def Core.wantsRead (c : Core) (n : Nat) (data : List Word) : Bool :=
  c.copies.any (fun o => o.recen && o.recid == n) && data.getD 8 0 == .ofNat 64 c.syncs

theorem wantsRead_iff {c : Core} {data : List Word} :
    c.wantsRead n data = true ↔ (∃ o ∈ c.copies, o.recen = true ∧ o.recid = n) ∧ data.getD 8 0 = .ofNat 64 c.syncs := by
  simp [Core.wantsRead]

/-- The completion of a transaction leaves the entries of its core as they are. -/
theorem stats_completeTx (c : Core) (q : Nat) : (c.completeTx q).stats = c.stats := by rw [(c.completeTx_spec q).1]

theorem statEntry_completeTx (c : Core) (q n : Nat) : (c.completeTx q).statEntry n = c.statEntry n := by
  rw [Core.statEntry, stats_completeTx]; rfl

/-- The entry that a core without one has filled. -/
theorem statEntry_append {c : Core} (h : c.statEntry n = none) (r : Nat) :
    ({ c with stats := c.stats ++ [entryOf n r] } : Core).statEntry n = some (entryOf n r) := by
  have hfilled := statEntry_filled c n r
  rwa [Core.filled, h] at hfilled

/-- The answer of a read for a copy completes its transaction and fills an entry where it is wanted. -/
theorem exec_completionRead {h : Nat} {data : List Word} (hp : s.packet i = some p) (htx : s.txOf p = some x) (hm : p.marked = false)
    (hhome : p.home = .core h) (hbody : p.body = .reply 0 data) (hfetch : x.fetch = false) (hticket : x.ticketed = false) (hctx : x.ctx = 13)
    (hread : x.body = .recRead n) (hwaits : s.fillWaits p.cn x = false) :
    exec (.transactionCompletion i) s =
      let v := ({ s with net := SMap.del s.net i } : State).modCore p.cn fun c => c.completeTx x.seq
      .next (if (s.core p.cn).wantsRead n data then v.fillEntry p.cn 15 n (recordOf data) else v) := by
  have htake : s.takeReply i p = { s with net := SMap.del s.net i } := by
    unfold State.takeReply
    rw [hm]; rfl
  have hfinish : ∀ v : State, v.finishTx p.cn 0 x data =
      if (v.core p.cn).wantsRead n data then v.fillEntry p.cn 15 n (recordOf data) else v := fun v => by
    rw [State.finishTx, hticket, if_neg Bool.false_ne_true, if_pos hctx, State.fillRead, hread]; rfl
  have hwants : ∀ c : Core, (c.completeTx x.seq).wantsRead n data = c.wantsRead n data := fun c => by
    rw [(c.completeTx_spec x.seq).1]; rfl
  show execTransactionCompletion i s = _
  unfold execTransactionCompletion
  rw [hp]
  dsimp only
  rw [hhome, hbody, htx]
  dsimp only
  rw [hfetch, hwaits, htake, hfinish, State.core_modCore_same, hwants]
  rfl

section
variable {h : Nat} {data : List Word} (hp : s.packet i = some p) (htx : s.txOf p = some x) (hm : p.marked = false) (hhome : p.home = .core h)
  (hbody : p.body = .reply 0 data) (hfetch : x.fetch = false) (hticket : x.ticketed = false) (hctx : x.ctx = 13) (hread : x.body = .recRead n)
include hp htx hm hhome hbody hfetch hticket hctx hread

/-- The answer of a read that is wanted fills the accumulator (R103). -/
theorem transactionCompletion_fills (hwants : (s.core p.cn).wantsRead n data = true) (hnone : (s.core p.cn).statEntry n = none)
    (hroom : (s.core p.cn).stats.length < 8) : Answers (.transactionCompletion i) s fun t =>
      MemSame s t ∧ t.net = SMap.del s.net i ∧ (t.core p.cn).statEntry n = some (entryOf n (recordOf data)) := by
  have hexec := exec_completionRead hp htx hm hhome hbody hfetch hticket hctx hread (fillWaits_of_room hroom x)
  let w : State := { s with net := SMap.del s.net i }
  have hv : (w.modCore p.cn fun c => c.completeTx x.seq).core p.cn = (s.core p.cn).completeTx x.seq := State.core_modCore_same w _ _
  have hnone' : ((w.modCore p.cn fun c => c.completeTx x.seq).core p.cn).statEntry n = none := by rw [hv, statEntry_completeTx, hnone]
  have hroom' : ((w.modCore p.cn fun c => c.completeTx x.seq).core p.cn).stats.length < 8 := by rwa [hv, stats_completeTx]
  dsimp only at hexec
  rw [if_pos hwants, fillEntry_eq hnone' hroom'] at hexec
  refine ⟨_, hexec, MemSame.trans (Settles.completeTx w p.cn x.seq).memSame (memSame_modCore _ _ rfl), rfl, ?_⟩
  rw [State.core_modCore_same]
  exact statEntry_append hnone' _

/-- The answer of a read that is not wanted any more leaves the accumulator as it is (R108). -/
theorem transactionCompletion_unwanted (hwants : ¬(s.core p.cn).wantsRead n data = true) (hwaits : s.fillWaits p.cn x = false) :
    Answers (.transactionCompletion i) s fun t =>
      MemSame s t ∧ t.net = SMap.del s.net i ∧ (t.core p.cn).stats = (s.core p.cn).stats := by
  have hexec := exec_completionRead hp htx hm hhome hbody hfetch hticket hctx hread hwaits
  let w : State := { s with net := SMap.del s.net i }
  dsimp only at hexec
  rw [if_neg hwants] at hexec
  refine ⟨_, hexec, (Settles.completeTx w p.cn x.seq).memSame, rfl, ?_⟩
  rw [State.core_modCore_same]
  exact stats_completeTx _ _

end

/-! ### Entries that leave (R104, R136) -/

/-- An entry leaves its core at the implementation's choice, as a flush (R104). -/
theorem accumulatorFlush_core (he : (s.core cn.toNat).stats[n]? = some e) (hheld : s.flushHeld cn.toNat e = none) :
    Answers (.accumulatorFlush (some cn) n) s fun t =>
      MemSame s t ∧ Flushed s t cn.toNat e ∧ OnlyCore s { t with net := s.net, nextPkt := s.nextPkt } cn.toNat := by
  have hexec : exec (.accumulatorFlush (some cn) n) s = .next (s.flushEntry cn.toNat 15 e) := by
    show execAccumulatorFlush (some cn) n s = _
    unfold execAccumulatorFlush
    dsimp only
    rw [he]
    dsimp only
    rw [hheld]
    rfl
  refine ⟨_, hexec, memSame_flushEntry _ _ _ _, flushed_of_flushEntry rfl rfl rfl, ?_⟩
  rw [flushEntry_eq]
  exact onlyCore_modCore s cn.toNat fun c => c.flushed (s.flushTx cn.toNat 15 e) e

/-- An entry of the Shawm's accumulator leaves as a flush under the next id of the core that stands for the Shawm (R138, R358). -/
theorem flushShawm_eq {l : Launch} (h : s.launch? (e.recid / 2 ^ 52) (e.recid / 2 ^ 20 % 2 ^ 32) = some l) :
    ∃ q : Packet, s.flushShawm none e = (({ s with shawmStats := s.shawmStats.erase e } : State).modCore (s.shawmCore l (e.recid % 2 ^ 20))
        fun c => { c with txSeq := c.txSeq + 1 }).send q ∧
      q.body = .flush (e.recid % 2 ^ 20) e.sum ∧ q.cn = s.shawmCore l (e.recid % 2 ^ 20) ∧ q.ctx = 12 ∧
      q.seq = (s.core (s.shawmCore l (e.recid % 2 ^ 20))).txSeq.toNat := by
  have hl : ({ s with shawmStats := s.shawmStats.erase e } : State).launch? (e.recid / 2 ^ 52) (e.recid / 2 ^ 20 % 2 ^ 32) = some l := h
  unfold State.flushShawm
  dsimp only
  rw [hl]
  exact ⟨_, rfl, rfl, rfl, rfl, rfl⟩

/-- An entry of a launch that is gone is dropped. -/
theorem flushShawm_dropped (h : s.launch? (e.recid / 2 ^ 52) (e.recid / 2 ^ 20 % 2 ^ 32) = none) :
    s.flushShawm none e = { s with shawmStats := s.shawmStats.erase e } := by
  have hl : ({ s with shawmStats := s.shawmStats.erase e } : State).launch? (e.recid / 2 ^ 52) (e.recid / 2 ^ 20 % 2 ^ 32) = none := h
  unfold State.flushShawm
  dsimp only
  rw [hl]

/-- An entry leaves the Shawm's accumulator at the implementation's choice (R104). -/
theorem accumulatorFlush_shawm (he : s.shawmStats[n]? = some e) :
    Answers (.accumulatorFlush none n) s fun t =>
      t.shawmStats = s.shawmStats.erase e ∧ MemSame s t ∧ ∀ l m, s.launch? (e.recid / 2 ^ 52) (e.recid / 2 ^ 20 % 2 ^ 32) = some l →
        m = s.shawmCore l (e.recid % 2 ^ 20) → ∃ q, t.net = SMap.put s.net s.nextPkt q ∧ q.body = .flush (e.recid % 2 ^ 20) e.sum ∧
          q.cn = m ∧ q.ctx = 12 ∧ q.seq = (s.core m).txSeq.toNat ∧ (t.core m).txSeq = (s.core m).txSeq + 1 := by
  have hexec : exec (.accumulatorFlush none n) s = .next (s.flushShawm none e) := by
    show execAccumulatorFlush none n s = _
    unfold execAccumulatorFlush
    dsimp only
    rw [he]
  refine ⟨_, hexec, ?_⟩
  cases hl : s.launch? (e.recid / 2 ^ 52) (e.recid / 2 ^ 20 % 2 ^ 32) with
  | none =>
    rw [flushShawm_dropped hl]
    exact ⟨rfl, memSame_of_fields rfl rfl, fun _ _ h => absurd h.symm (Option.some_ne_none _)⟩
  | some l =>
    obtain ⟨q, hflush, hbody, hcn, hctx, hseq⟩ := flushShawm_eq hl
    let v : State := { s with shawmStats := s.shawmStats.erase e }
    have hmem : MemSame v (v.modCore (s.shawmCore l (e.recid % 2 ^ 20)) fun c => { c with txSeq := c.txSeq + 1 }) := memSame_modCore v _ rfl
    rw [hflush]
    refine ⟨rfl, MemSame.trans (memSame_of_fields rfl rfl) hmem, fun l' m hl' hm => ?_⟩
    cases hl'
    subst hm
    refine ⟨q, rfl, hbody, hcn, hctx, hseq, ?_⟩
    rw [core_send, State.core_modCore_same]
    rfl

end Sys2Proof.Machine

namespace Sys2Proof

open Machine

/-- Settles O48: the merge and the operations at the home, their suspensions, the answers of reads for copies, and the entries that
leave, event by event. -/
theorem recordEvents : Obligations.RecordEvents := by
  unfold Obligations.RecordEvents
  intro i n p x cn s c suspends home open_ read
  have hsuspends : ∀ {t : State} {write : Bool}, RecordSuspended s t p.cn i p.addr write → suspends t write :=
    fun h => ⟨h.mem, h.susp, h.net, h.record⟩
  have hhome : ∀ {t : State} {pa r' : Nat}, RecordWritten s t pa r' → home (Memory.num s.gmem pa 64) r' t pa :=
    fun h => ⟨h.num.symm, rfl, h.outside, h.mem⟩
  refine ⟨fun hp hsusp hm => ⟨fun m dl hbody => ⟨fun pa u htr hopen => ?_, fun o u htr hfails => ?_⟩, fun m pa u htr hopen => ?_,
    fun m o u htr hfails => ?_⟩, ?_, fun e he => ⟨accumulatorFlush_core he, heldBack_eq_none⟩, fun e he => accumulatorFlush_shawm he⟩
  · obtain ⟨t, hexec, hwritten, hnet, hcore⟩ := flushMerge_merges hp hsusp hm hbody htr hopen
    obtain ⟨hamax, hnan, hinf, hcontrol, hflags, hupdates, hhist⟩ := mergeRecord_spec (r := Memory.num s.gmem pa 64) (d := dl) rfl
    refine ⟨t, hexec, _, _, hhome hwritten, hamax, hnan, hinf, hcontrol, hflags, hupdates, hhist, fun hctx => ?_, hnet⟩
    obtain ⟨c', hc', ht⟩ := hcore hctx
    have htxs : c'.txs = c.txs := by rw [hc']
    have hwindow : ∀ d, c'.window_ d = c.window_ d := fun d => by rw [hc']; rfl
    refine ⟨by rw [ht, hc']; rfl, fun y => ?_, fun y hy => ?_⟩
    · rw [ht, ← htxs, show (c'.flushMerged p.seq).txs = _ from c'.txs_completeTx p.seq, List.mem_filter, bne_iff_ne]
    · rw [ht, ← hwindow]
      exact Core.window_completeTx (htxs ▸ hy)
  · have hu : OnlyCaches s u := by simpa only [htr] using onlyCaches_translate s (if p.ctx = 12 then none else some p.cn) p.part p.addr .read
    exact ⟨_, exec_flushMerge_fails hp hsusp hbody htr hfails, hsuspends (recordSuspended_suspendRecord hu i p p.addr true)⟩
  · have hr : Memory.num s.gmem pa 64 < 2 ^ 512 := recordNum_lt s.gmem pa
    refine ⟨fun hbody => ?_, fun anchor tgt hbody => ?_, fun rst scale hbody hrst => ?_, fun rst scale hbody hmax => ?_,
      fun rst scale hbody => ?_⟩
    · exact recordHomeOperation_unwritten hp hsusp hm htr (by rw [hbody]; exact recordOp_read _ _ _ _)
    · obtain ⟨t, hexec, hwritten, hreply⟩ := recordHomeOperation_written hp hsusp hm htr hopen (clearRecord_lt anchor tgt)
        (by rw [hbody]; rfl)
      exact ⟨t, hexec, _, _, hhome hwritten, clearRecord_eq anchor tgt, hreply⟩
    · obtain ⟨r', hfreeze, hr', hfields⟩ := freezeRecord_zero hr hrst scale
      obtain ⟨t, hexec, hwritten, hreply⟩ := recordHomeOperation_written hp hsusp hm htr hopen hr'
        (by rw [hbody, recordOp, hfreeze])
      obtain ⟨hlow, hscale, hcontrol, hflags, hhigh⟩ := hfields
      exact ⟨t, hexec, _, _, hhome hwritten, hlow, hscale, hcontrol, hflags, hhigh, hreply⟩
    · exact recordHomeOperation_unwritten hp hsusp hm htr (by rw [hbody, recordOp, freezeRecord_one hmax])
    · obtain ⟨r', hfreeze, hr', hlow, hflags, hhigh⟩ := freezeRecord_two hr rst scale
      obtain ⟨t, hexec, hwritten, hreply⟩ := recordHomeOperation_written hp hsusp hm htr hopen hr'
        (by rw [hbody, recordOp, hfreeze])
      exact ⟨t, hexec, _, _, hhome hwritten, hlow, hflags, hhigh, hreply⟩
  · have hu : OnlyCaches s u := by simpa only [htr] using onlyCaches_translate s (some p.cn) p.part p.addr .read
    have hsuspended : ∀ b, p.body = b → (recordOp b 0 0).isNone = false →
        Answers (.recordHomeOperation i) s fun t => suspends t b.writesRecord := by
      rintro b rfl hop
      exact ⟨_, exec_recordHomeOperation_fails hp hsusp htr hfails hop, hsuspends (recordSuspended_suspendRecord hu i p p.addr _)⟩
    refine ⟨fun hbody => hsuspended _ hbody rfl, fun k l hbody => hsuspended _ hbody rfl, fun k r l hbody => hsuspended _ hbody ?_⟩
    unfold recordOp
    dsimp only
    split <;> rfl
  · intro h m data hp htx hm hh hbody hfetch hticket hctx hread wanted
    have hwanted : wanted ↔ c.wantsRead m data = true := wantsRead_iff.symm
    rw [hwanted, ← recordOf_eq]
    exact ⟨transactionCompletion_fills hp htx hm hh hbody hfetch hticket hctx hread,
      transactionCompletion_unwanted hp htx hm hh hbody hfetch hticket hctx hread⟩

end Sys2Proof
end
